-- ==== Sys2Proof/Word.lean ====
section
/-! DEFINITION. The word types of the Bozal (bytes, slot words, scalar words) and the sparse table in which the
model keeps every numbered array of words. -/

namespace Sys2Proof

/-- A byte of any storage. -/
abbrev Byte := BitVec 8

/-- A slot word, or one lane of a vector register. -/
abbrev Word32 := BitVec 32

/-- A scalar register or a control register. -/
abbrev Word64 := BitVec 64

/-- A numbered array of `w`-bit words held as (index, word) pairs, indexes strictly rising, with no entry
equal to the word an unlisted index reads as. -/
abbrev Cells (w : Nat) := List (Nat × BitVec w)

end Sys2Proof
end

