-- ==== Sys2Proof/Machine/Cells.lean ====
section
/-! DEFINITION. The operations on sparse tables: read, write, clear a range, copy a range; little-endian bytes
(R4). -/

namespace Sys2Proof

/-- The word at an index; `d` where the table lists none. -/
def Cells.get {w : Nat} (d : BitVec w) (m : Cells w) (i : Nat) : BitVec w :=
  match m with
  | [] => d
  | (k, v) :: t => if k = i then v else Cells.get d t i

/-- The entries of other indexes. -/
def Cells.erase {w : Nat} (m : Cells w) (i : Nat) : Cells w :=
  match m with
  | [] => []
  | (k, v) :: t => if k = i then Cells.erase t i else (k, v) :: Cells.erase t i

/-- An entry put in its place among rising indexes. -/
def Cells.insert {w : Nat} (m : Cells w) (i : Nat) (v : BitVec w) : Cells w :=
  match m with
  | [] => [(i, v)]
  | (k, u) :: t => if i < k then (i, v) :: (k, u) :: t else (k, u) :: Cells.insert t i v

/-- The table with a word written; the word `d` is not listed. -/
def Cells.put {w : Nat} (d : BitVec w) (m : Cells w) (i : Nat) (v : BitVec w) : Cells w :=
  if v = d then Cells.erase m i else Cells.insert (Cells.erase m i) i v

/-- The table with indexes `lo` to `lo + n − 1` back at the unlisted word. -/
def Cells.clear {w : Nat} (m : Cells w) (lo n : Nat) : Cells w :=
  m.filter fun c => decide (c.1 < lo) || decide (lo + n ≤ c.1)

/-- Consecutive words from index `i`. -/
def Cells.getN {w : Nat} (d : BitVec w) (m : Cells w) (i : Nat) : Nat → List (BitVec w)
  | 0 => []
  | n + 1 => Cells.get d m i :: Cells.getN d m (i + 1) n

/-- Consecutive words written from index `i`. -/
def Cells.putN {w : Nat} (d : BitVec w) (m : Cells w) (i : Nat) (vs : List (BitVec w)) : Cells w :=
  match vs with
  | [] => m
  | v :: t => Cells.putN d (Cells.put d m i v) (i + 1) t

/-- Some listed entries written one by one. -/
def Cells.putAll {w : Nat} (d : BitVec w) (m : Cells w) (cs : List (Nat × BitVec w)) : Cells w :=
  cs.foldl (fun t c => Cells.put d t c.1 c.2) m

/-- The `n` words at `src` copied over those at `dst` (all read before any is written). -/
def Cells.copy {w : Nat} (d : BitVec w) (m : Cells w) (src dst n : Nat) : Cells w :=
  let part := (m.filter fun c => decide (src ≤ c.1) && decide (c.1 < src + n)).map fun c => (c.1 - src + dst, c.2)
  Cells.putAll d (Cells.clear m dst n) part

/-- The canonical form: indexes strictly rising, no entry equal to the unlisted word. -/
def Cells.wf {w : Nat} (d : BitVec w) : Cells w → Bool
  | [] => true
  | [(_, v)] => v != d
  | (k, v) :: (j, u) :: t => v != d && decide (k < j) && Cells.wf d ((j, u) :: t)

/-- The canonical form of the device's byte storage. -/
def Memory.wf (m : Cells 8) : Bool := Cells.wf 0#8 m

/-- R4: the number whose bytes these are, lowest first. -/
def leNat : List Byte → Nat
  | [] => 0
  | b :: t => b.toNat + 256 * leNat t

/-- R4: the `n` bytes of a number, lowest first. -/
def leBytes : Nat → Nat → List Byte
  | 0, _ => []
  | n + 1, v => BitVec.ofNat 8 v :: leBytes n (v / 256)

end Sys2Proof
end

