-- ==== Sys2Proof/Config.lean ====
section
/-! DEFINITION. What one device fixes for itself, and the free values: constants without a body, applied to the
counter State.tick (log entry 3), so that nothing can be proved about a value the spec leaves open. -/

namespace Sys2Proof.Config

/-- A free choice among alternatives, drawn with the counter (R1). -/
opaque freeNat : Nat → Nat

/-- A free yes or no, drawn with the counter (R1). -/
opaque freeBool : Nat → Bool

/-- A free byte: the counter, and which byte. -/
opaque freeByte : Nat → Nat → Byte

/-- A free yes or no for one of many places: the counter, and which place. -/
opaque freeChoice : Nat → Nat → Bool

/-- A free 64-bit value drawn with the counter. -/
opaque freeWord : Nat → Word64

/-- R105: the ε of dot_window, of which the spec says only that it lies between 0 and one unit of the window, from the sum
and the exponent of its unit (log entry 42). -/
opaque dotEpsilon : Int → Int → Nat

/-- Fuses (R460, R461): the cores and slices harvested at manufacture. -/
opaque coreFused : Nat → Bool
opaque sliceFused : Nat → Bool

/-- R455: SHA-512 of some bytes. -/
opaque sha512 : List Byte → BitVec 512

/-- R455, R456: Ed25519: the public key that a 32-byte seed gives, the signature of a message under a seed, and the verification of
(public key, message, signature). -/
opaque edPublic : BitVec 256 → BitVec 256
opaque edSign : BitVec 256 → List Byte → BitVec 512
opaque edVerify : BitVec 256 → List Byte → BitVec 512 → Bool

/-- R455: the fused digests of the key slots. -/
opaque keySlot : Nat → BitVec 512

/-- R455, R456: the fuses that revoke a key slot, the rollback counters by image kind, the serial number and the seed of the device
identity key. -/
opaque slotRevoked : Nat → Bool
opaque svnFuse : Nat → Nat
opaque serial : Word64
opaque deviceSeed : BitVec 256

/-- R119, R136: the memory controller of a line, of which no rule says which it is (log entry 15). -/
opaque controllerOf : Nat → Nat

end Sys2Proof.Config
end

