-- ==== Sys2Proof/Machine/Flags.lean ====
section
/-! DEFINITION. The seven floating-point flags of R113, in the bit order of FPEN (R90), and the overflow results of
R99. -/

namespace Sys2Proof.Machine

/-- A set of the flags of R113: [0] invalid, [1] divide-by-zero, [2] overflow, [3] underflow, [4] inexact,
[5] FADED, [6] non-positive square root. -/
abbrev Flags := BitVec 7

def Flags.none : Flags := 0#7
def Flags.invalid : Flags := 0x01#7
def Flags.divZero : Flags := 0x02#7
def Flags.overflow : Flags := 0x04#7
def Flags.underflow : Flags := 0x08#7
def Flags.inexact : Flags := 0x10#7
def Flags.faded : Flags := 0x20#7
def Flags.nonPosSqrt : Flags := 0x40#7

/-- The flag when the condition holds. -/
def Flags.when (c : Bool) (f : Flags) : Flags := if c then f else 0#7

/-- A result of a format's width with the flags its rounding sets. -/
structure FRes where
  bits : Nat
  flags : Flags
  deriving DecidableEq, Repr

/-- The same result with more flags. -/
def FRes.also (r : FRes) (f : Flags) : FRes := { r with flags := r.flags ||| f }

/-- R114: the flags of a result that FPEN enables. -/
def Flags.enabled (fpen : Word64) (f : Flags) : Flags := f &&& fpen.setWidth 7

end Sys2Proof.Machine
end

