-- ==== Sys2Proof/Machine/Numbers.lean ====
section
/-! DEFINITION. Number formats and arithmetic (R92 to R114, R121): values of the floating formats as exact dyadic
numbers, the five rounding modes, sums and products, the Cup, dot products, compensated pairs, the fade rule, and
CRC-32C. -/

namespace Sys2Proof.Machine

/-- A value of a floating format, or an exact dyadic result: (−1)^neg × m × 2^e; `m = 0` is a signed zero. -/
inductive FVal where
  | nan
  | inf (neg : Bool)
  | fin (neg : Bool) (m : Nat) (e : Int)
  deriving DecidableEq, Repr

/-- A floating format of R92: fraction bits, exponent bits, bias, and whether it has infinities. -/
structure Fmt where
  fb : Nat
  eb : Nat
  bias : Int
  hasInf : Bool
  deriving DecidableEq, Repr

def fp32 : Fmt := ⟨23, 8, 127, true⟩
def fp16 : Fmt := ⟨10, 5, 15, true⟩
def bf16 : Fmt := ⟨7, 8, 127, true⟩
def e4m3 : Fmt := ⟨3, 4, 7, false⟩
def e5m2 : Fmt := ⟨2, 5, 15, true⟩

def Fmt.width (F : Fmt) : Nat := 1 + F.eb + F.fb
/-- The smallest normal exponent. -/
def Fmt.emin (F : Fmt) : Int := 1 - F.bias
/-- The bits of the largest finite value, sign clear. -/
def Fmt.maxFin (F : Fmt) : Nat := if F.hasInf then (2 ^ F.eb - 1) * 2 ^ F.fb - 1 else 2 ^ (F.eb + F.fb) - 2
/-- R93: the canonical NaN. -/
def Fmt.nan (F : Fmt) : Nat := if F.hasInf then (2 ^ F.eb - 1) * 2 ^ F.fb + 2 ^ (F.fb - 1) else 2 ^ (F.eb + F.fb) - 1
def Fmt.inf (F : Fmt) : Nat := (2 ^ F.eb - 1) * 2 ^ F.fb
def Fmt.sign (F : Fmt) (neg : Bool) : Nat := if neg then 2 ^ (F.eb + F.fb) else 0

/-- R92: the value of a pattern. -/
def Fmt.decode (F : Fmt) (b : Nat) : FVal :=
  let neg := b / 2 ^ (F.eb + F.fb) % 2 == 1
  let E := b / 2 ^ F.fb % 2 ^ F.eb
  let f := b % 2 ^ F.fb
  if E == 2 ^ F.eb - 1 && F.hasInf then (if f == 0 then .inf neg else .nan)
  else if E == 2 ^ F.eb - 1 && f == 2 ^ F.fb - 1 then .nan
  else if E == 0 then .fin neg f (F.emin - F.fb)
  else .fin neg (2 ^ F.fb + f) (E - F.bias - F.fb)

/-- R93: a NaN of a format with infinities whose top fraction bit is 0. -/
def Fmt.signalling (F : Fmt) (b : Nat) : Bool :=
  F.hasInf && b / 2 ^ F.fb % 2 ^ F.eb == 2 ^ F.eb - 1 && b % 2 ^ F.fb != 0 && b / 2 ^ (F.fb - 1) % 2 == 0

/-- R93: the invalid flag when any of the patterns is a signalling NaN. -/
def Fmt.snan (F : Fmt) (bs : List Nat) : Flags := Flags.when (bs.any F.signalling) .invalid

/-- The smaller of two integers. -/
def imin (a b : Int) : Int := if a ≤ b then a else b
/-- The larger of two integers. -/
def imax (a b : Int) : Int := if a ≤ b then b else a

/-- `m × 2^k` for an integer `k ≥ 0`; the bits below 2^0 are dropped for `k < 0`. -/
def scale (m : Nat) (k : Int) : Nat := if k ≥ 0 then m * 2 ^ k.toNat else m / 2 ^ (-k).toNat

/-- R98: whether the magnitude n + fr, fr = rem / 2^sh, rounds up. -/
def roundsUp (mode : Nat) (neg : Bool) (n rem sh : Nat) (w16 : Nat) : Bool :=
  match mode with
  | 0 => decide (2 * rem > 2 ^ sh) || (2 * rem == 2 ^ sh && rem != 0 && n % 2 == 1)
  | 1 => false
  | 2 => rem != 0 && !neg
  | 3 => rem != 0 && neg
  | _ => decide (rem * 2 ^ 16 / 2 ^ sh + w16 ≥ 2 ^ 16)

/-- R99: the result of an overflow. -/
def Fmt.overflow (F : Fmt) (mode : Nat) (neg sat : Bool) : FRes :=
  let toInf := match mode with | 1 => false | 2 => !neg | 3 => neg | _ => true
  let b := if !toInf then F.maxFin + F.sign neg
    else if F.hasInf then F.inf + F.sign neg
    else if sat then F.maxFin + F.sign neg
    else F.nan
  ⟨b, Flags.overflow ||| Flags.inexact⟩

/-- R99: an exact infinity put into a format. -/
def Fmt.ofInf (F : Fmt) (neg sat : Bool) : FRes :=
  if F.hasInf then ⟨F.inf + F.sign neg, 0⟩
  else if sat then ⟨F.maxFin + F.sign neg, .inexact⟩
  else ⟨F.nan, .invalid⟩

/-- R98 for a finite non-zero magnitude m × 2^e. -/
def Fmt.roundFin (F : Fmt) (mode : Nat) (w16 : Nat) (sat neg : Bool) (m : Nat) (e : Int) : FRes :=
  let lg : Int := Nat.log2 m + e
  let ex := imax lg F.emin
  let qe := ex - F.fb
  let sh := (qe - e).toNat
  let n := if e ≥ qe then m * 2 ^ (e - qe).toNat else m / 2 ^ sh
  let rem := if e ≥ qe then 0 else m % 2 ^ sh
  let n' := if roundsUp mode neg n rem sh w16 then n + 1 else n
  let code := (ex - F.emin).toNat * 2 ^ F.fb + n'
  if code > F.maxFin then F.overflow mode neg sat
  else ⟨code + F.sign neg,
    Flags.when (rem != 0) .inexact ||| Flags.when (rem != 0 && decide (lg < F.emin)) .underflow⟩

/-- R98 and R99: the bits of round(x, F, mode, w16). -/
def Fmt.round (F : Fmt) (mode : Nat) (w16 : Nat) (sat : Bool) (x : FVal) : FRes :=
  match x with
  | .nan => ⟨F.nan, 0⟩
  | .inf neg => F.ofInf neg sat
  | .fin neg m e => if m == 0 then ⟨F.sign neg, 0⟩ else F.roundFin mode w16 sat neg m e

/-- Rounding to nearest even (mode 0) without saturation. -/
def Fmt.rne (F : Fmt) (x : FVal) : FRes := F.round 0 0 false x

def FVal.isNan : FVal → Bool | .nan => true | _ => false
def FVal.isInf : FVal → Bool | .inf _ => true | _ => false
def FVal.isZero : FVal → Bool | .fin _ m _ => m == 0 | _ => false
def FVal.isNeg : FVal → Bool | .nan => false | .inf n => n | .fin n _ _ => n
def FVal.neg : FVal → FVal | .nan => .nan | .inf n => .inf (!n) | .fin n m e => .fin (!n) m e

/-- The signed integer (−1)^neg × m. -/
def sgn (neg : Bool) (m : Nat) : Int := if neg then -(m : Int) else m

/-- An exact finite value from a signed integer, with the sign of an exact zero given. -/
def ofInt (zneg : Bool) (t : Int) (e : Int) : FVal := if t = 0 then .fin zneg 0 0 else .fin (decide (t < 0)) t.natAbs e

/-- The exact sum, its zero sign by R229 under the mode, and the invalid flag of ∞ − ∞. -/
def fadd (mode : Nat) (a b : FVal) : FVal × Flags :=
  match a, b with
  | .nan, _ | _, .nan => (.nan, 0)
  | .inf n, .inf k => if n == k then (.inf n, 0) else (.nan, .invalid)
  | .inf n, _ => (.inf n, 0)
  | _, .inf k => (.inf k, 0)
  | .fin n m e, .fin k p f =>
    let g := imin e f
    let zneg := if m == 0 && p == 0 && n == k then n else mode == 3
    (ofInt zneg (sgn n (m * 2 ^ (e - g).toNat) + sgn k (p * 2 ^ (f - g).toNat)) g, 0)

/-- The exact product, and the invalid flag of 0 × ∞. -/
def fmul (a b : FVal) : FVal × Flags :=
  match a, b with
  | .nan, _ | _, .nan => (.nan, 0)
  | .inf n, .inf k => (.inf (n != k), 0)
  | .inf n, .fin k p _ => if p == 0 then (.nan, .invalid) else (.inf (n != k), 0)
  | .fin n m _, .inf k => if m == 0 then (.nan, .invalid) else (.inf (n != k), 0)
  | .fin n m e, .fin k p f => (.fin (n != k) (m * p) (e + f), 0)

/-- The quotient, to 64 bits and a sticky bit below them, with the flags of 0/0, ∞/∞ and a zero divisor (R113). -/
def fdiv (a b : FVal) : FVal × Flags :=
  match a, b with
  | .nan, _ | _, .nan => (.nan, 0)
  | .inf _, .inf _ => (.nan, .invalid)
  | .inf n, .fin k _ _ => (.inf (n != k), 0)
  | .fin n _ _, .inf k => (.fin (n != k) 0 0, 0)
  | .fin n m e, .fin k p f =>
    if p == 0 then (if m == 0 then (.nan, .invalid) else (.inf (n != k), .divZero))
    else if m == 0 then (.fin (n != k) 0 0, 0)
    else
      let s := 64 + Nat.log2 p
      let q := m * 2 ^ s / p
      let st := if m * 2 ^ s % p == 0 then 0 else 1
      (.fin (n != k) (2 * q + st) (e - f - s - 1), 0)

/-- The integer square root, bit by bit from bit `i − 1` down. -/
def isqrtFrom (n : Nat) : Nat → Nat → Nat
  | 0, r => r
  | i + 1, r => if (r + 2 ^ i) * (r + 2 ^ i) ≤ n then isqrtFrom n i (r + 2 ^ i) else isqrtFrom n i r

/-- The integer square root of a number below 2^(2·bits). -/
def isqrt (n : Nat) : Nat := isqrtFrom n (Nat.log2 n / 2 + 1) 0

/-- The square root with a sticky bit (R232); a value below zero gives NaN with invalid and the flag of R113. -/
def fsqrt (a : FVal) : FVal × Flags :=
  match a with
  | .nan => (.nan, 0)
  | .inf n => if n then (.nan, Flags.invalid ||| Flags.nonPosSqrt) else (.inf false, 0)
  | .fin n m e =>
    if m == 0 then (.fin n 0 0, 0)
    else if n then (.nan, Flags.invalid ||| Flags.nonPosSqrt)
    else
      let m' := if e % 2 == 0 then m else 2 * m
      let e' := if e % 2 == 0 then e else e - 1
      let r := isqrt (m' * 2 ^ 128)
      (.fin false (2 * r + (if r * r == m' * 2 ^ 128 then 0 else 1)) (e' / 2 - 64 - 1), 0)

/-- One over the square root with a sticky bit. -/
def frsqrt (a : FVal) : FVal × Flags :=
  match a with
  | .nan => (.nan, 0)
  | .inf n => if n then (.nan, Flags.invalid ||| Flags.nonPosSqrt) else (.fin false 0 0, 0)
  | .fin n m e =>
    if m == 0 then (.inf n, .divZero)
    else if n then (.nan, Flags.invalid ||| Flags.nonPosSqrt)
    else
      let m' := if e % 2 == 0 then m else 2 * m
      let e' := if e % 2 == 0 then e else e - 1
      let k := 80 + Nat.log2 m'
      let r := isqrt (2 ^ (2 * k) / m')
      (.fin false (2 * r + (if r * r * m' == 2 ^ (2 * k) then 0 else 1)) (-(e' / 2) - k - 1), 0)

/-- The comparison of two values that are not NaN: −1, 0 or 1; −0 equals +0. -/
def fcmp (a b : FVal) : Int :=
  match a, b with
  | .inf n, .inf k => if n == k then 0 else if n then -1 else 1
  | .inf n, _ => if n then -1 else 1
  | _, .inf k => if k then 1 else -1
  | .fin n m e, .fin k p f =>
    let g := imin e f
    let d := sgn n (m * 2 ^ (e - g).toNat) - sgn k (p * 2 ^ (f - g).toNat)
    if d < 0 then -1 else if d = 0 then 0 else 1
  | _, _ => 0

/-- R230: VMIN and VMAX on FP32 patterns: NaN if either is, −0 below +0. -/
def fminmax (max : Bool) (a b : Nat) : Nat :=
  let x := fp32.decode a
  let y := fp32.decode b
  if x.isNan || y.isNan then fp32.nan
  else
    let c := fcmp x y
    let aLess := decide (c < 0) || (c == 0 && x.isNeg && !y.isNeg)
    if aLess == max then b else a

/-- R94: the low `w` bits of an integer. -/
def wrap (w : Nat) (t : Int) : Nat := (t % (2 ^ w : Nat)).toNat

/-- R100. -/
def satInt (v lo hi : Int) : Int := imin (imax v lo) hi

/-- R100: the low `n` bits of `v` as a signed integer. -/
def sext (v n : Nat) : Int := let u := v % 2 ^ n; if u < 2 ^ (n - 1) then (u : Int) else (u : Int) - (2 ^ n : Nat)

/-- R100: the low `n` bits of `v`. -/
def zext (v n : Nat) : Nat := v % 2 ^ n

/-- The range of an integer type of width `w`. -/
def intLo (signed : Bool) (w : Nat) : Int := if signed then -((2 ^ (w - 1) : Nat) : Int) else 0
def intHi (signed : Bool) (w : Nat) : Int := if signed then ((2 ^ (w - 1) : Nat) : Int) - 1 else ((2 ^ w : Nat) : Int) - 1

/-- R94: an integer result put into `w` bits, saturated or wrapped. -/
def intResult (sat signed : Bool) (w : Nat) (t : Int) : Nat :=
  wrap w (if sat then satInt t (intLo signed w) (intHi signed w) else t)

/-- The `n`-bit pattern read as an integer of the type. -/
def intOf (signed : Bool) (w v : Nat) : Int := if signed then sext v w else (zext v w : Int)

/-- R98 with q = 1: an exact value rounded to an integer, and whether it was changed. -/
def roundInt (mode w16 : Nat) (neg : Bool) (m : Nat) (e : Int) : Int × Bool :=
  if e ≥ 0 then (sgn neg (m * 2 ^ e.toNat), false)
  else
    let sh := (-e).toNat
    let n := m / 2 ^ sh
    let rem := m % 2 ^ sh
    (sgn neg (if roundsUp mode neg n rem sh w16 then n + 1 else n), rem != 0)

/-- R100: a floating value converted to an integer type, always saturating. A value that saturates differs from
the exact result, so it sets inexact beside invalid (R113). -/
def toInt (mode w16 : Nat) (signed : Bool) (w : Nat) (x : FVal) : FRes :=
  match x with
  | .nan => ⟨0, .invalid⟩
  | .inf neg => ⟨wrap w (if neg then intLo signed w else intHi signed w), Flags.invalid ||| Flags.inexact⟩
  | .fin neg m e =>
    let (t, ch) := roundInt mode w16 neg m e
    let s := satInt t (intLo signed w) (intHi signed w)
    ⟨wrap w s, Flags.when (s != t) .invalid ||| Flags.when (ch || s != t) .inexact⟩

/-- R97: the value of an SE9 scale; none when e = 255 (a NaN). -/
def se9 (b : Nat) : FVal :=
  let e := b % 256
  let h := b / 256 % 2
  if e == 255 then .nan else if e == 0 && h == 0 then .fin false 0 0 else .fin false (2 + h) ((e : Int) - 127 - 1)

/-- R104: 32-bit rotation to the right. -/
def rotr32 (w n : Nat) : Nat := (w / 2 ^ (n % 32) + w * 2 ^ (32 - n % 32)) % 2 ^ 32

/-- R104. -/
def laneBits (w i j : Nat) : Nat := (rotr32 w i % 2 ^ 16 + 0x9E37 * i + 0x3C6F * j) % 2 ^ 16

/-- R101: the state of the Cup. -/
structure Cup where
  a : Word32
  b : Word32
  c : Word32
  d : Word32
  deriving DecidableEq, Repr

/-- R101: one step; the word returned is the new `d`. -/
def Cup.next (u : Cup) : Cup :=
  let k := u.a ^^^ (u.a <<< 11)
  ⟨u.b, u.c, u.d, u.d ^^^ (u.d >>> 19) ^^^ k ^^^ (k >>> 8)⟩

/-- `n` steps. -/
def Cup.steps (u : Cup) : Nat → Cup
  | 0 => u
  | n + 1 => u.next.steps n

/-- R102: cup_seed(v, k). -/
def Cup.seed (v : Word64) (k : Nat) : Cup :=
  Cup.steps ⟨v.setWidth 32 ^^^ 0x6A09E667#32, (v >>> 32).setWidth 32 ^^^ 0xBB67AE85#32,
    BitVec.ofNat 32 k ^^^ 0x3C6EF372#32, 0xA54FF53A#32⟩ 16

/-- R108: an FP32 sum of two patterns rounded to nearest even; the flags are those of the one operation. -/
def addNe (a b : Nat) : FRes :=
  let r := fadd 0 (fp32.decode a) (fp32.decode b)
  ((fp32.rne r.1).also r.2).also (fp32.snan [a, b])

/-- The pattern with the sign turned. -/
def negPat (b : Nat) : Nat := (b + 2 ^ 31) % 2 ^ 32

def subNe (a b : Nat) : FRes :=
  let r := fadd 0 (fp32.decode a) (fp32.decode b).neg
  ((fp32.rne r.1).also r.2).also (fp32.snan [a, b])

/-- Whether a pattern is an FP32 infinity or NaN. -/
def nonFinite32 (b : Nat) : Bool := (fp32.decode b).isNan || (fp32.decode b).isInf

/-- R245: the flags that a compensated sum keeps of the additions it contains. -/
def Flags.ofSum (f : Flags) : Flags := f &&& (Flags.invalid ||| Flags.overflow)

/-- R108: two_sum; the flags are those of the sum, and what R245 keeps of the error's additions. Where the sum is not
finite, the error is +0 and none is made. -/
def twoSum (a b : Nat) : FRes × Nat :=
  let s := addNe a b
  if nonFinite32 s.bits then (s, 0)
  else
    let v := subNe s.bits a
    let u := subNe s.bits v.bits
    let x := subNe a u.bits
    let y := subNe b v.bits
    let e := addNe x.bits y.bits
    (s.also (v.flags ||| u.flags ||| x.flags ||| y.flags ||| e.flags).ofSum, e.bits)

/-- R108: fast_two_sum, with the same flags. -/
def fastTwoSum (a b : Nat) : FRes × Nat :=
  let s := addNe a b
  if nonFinite32 s.bits then (s, 0)
  else
    let v := subNe s.bits a
    let e := subNe b v.bits
    (s.also (v.flags ||| e.flags).ofSum, e.bits)

/-- A compensated pair of FP32 patterns. -/
structure Pair where
  hi : Nat
  lo : Nat
  deriving DecidableEq, Repr

/-- The exact value of a finite pair. -/
def Pair.value (p : Pair) : FVal := (fadd 0 (fp32.decode p.hi) (fp32.decode p.lo)).1

/-- Whether two exact finite values are one number. -/
def sameValue (a b : FVal) : Bool :=
  match a, b with
  | .fin .., .fin .. => fcmp a b == 0
  | .inf n, .inf k => n == k
  | _, _ => false

/-- R109: cacc. -/
def cacc (p : Pair) (x : Nat) : Pair × Flags :=
  let (s, e) := twoSum p.hi x
  let l := addNe p.lo e
  let (h, lo) := fastTwoSum s.bits l.bits
  (⟨h.bits, lo⟩, (s.flags ||| l.flags ||| h.flags).ofSum)

/-- The magnitude of a non-zero value is below 2^−126 (R111, R112). -/
def belowNormal (x : FVal) : Bool :=
  match x with
  | .fin _ m e => m != 0 && decide ((Nat.log2 m : Int) + e < -126)
  | _ => false

/-- R110: whether a value is a fade factor. -/
def fadeOk (f : FVal) : Bool :=
  match f with
  | .fin neg m e => !neg && (m == 0 || decide (fcmp (.fin false m e) (.fin false 1 0) ≤ 0))
  | _ => false

/-- R110 and R111: fade_mul on FP32 patterns. -/
def fadeMul (fb xb : Nat) : FRes :=
  let f := fp32.decode fb
  let x := fp32.decode xb
  if !fadeOk f || x.isNan || (x.isInf && f.isZero) then ⟨fp32.nan, .invalid⟩
  else
    let p := (fmul f x).1
    if !x.isZero && (belowNormal p || f.isZero) then ⟨fp32.sign p.isNeg, .faded⟩
    else fp32.rne p

/-- R111: a pattern whose value is non-zero and below 2^−126 replaced by zero of its sign. -/
def flush (b : Nat) : Nat := if belowNormal (fp32.decode b) then fp32.sign (fp32.decode b).isNeg else b

/-- R111: the same of a value. -/
def flushVal (x : FVal) : FVal := if belowNormal x then .fin x.isNeg 0 0 else x

/-- R111: fade_pair, step by step. Its flags are FADED of the test on hi, invalid of what makes a NaN, overflow of the two
roundings that can (R99), and inexact where the pair differs from the exact product; a NaN is invalid and not inexact
(log entry 19). -/
def fadePair (fb : Nat) (p : Pair) : Pair × Flags :=
  let h := fadeMul fb p.hi
  if h.flags &&& (Flags.invalid ||| Flags.faded) != 0 then (⟨h.bits, 0⟩, h.flags)
  else
    let f := fp32.decode fb
    let pe := fp32.rne (fadd 0 (fmul f (fp32.decode p.hi)).1 (fp32.decode h.bits).neg).1
    let ql := flushVal (fmul f (fp32.decode p.lo)).1
    let m := fp32.rne (fadd 0 (flushVal (fp32.decode pe.bits)) ql).1
    let (s, e) := fastTwoSum h.bits (flush m.bits)
    let r : Pair := ⟨s.bits, flush e⟩
    let nan := (fp32.decode r.hi).isNan
    (r, (m.flags ||| s.flags).ofSum ||| Flags.when nan .invalid
      ||| Flags.when (!nan && !sameValue (fmul f p.value).1 r.value) .inexact)

/-- The largest exponent floor(log2 |p|) of the non-zero products, if any. -/
def maxLog : List FVal → Option Int
  | [] => none
  | .fin _ m e :: t =>
    if m == 0 then maxLog t
    else
      let g : Int := Nat.log2 m + e
      match maxLog t with | none => some g | some k => some (imax g k)
  | _ :: t => maxLog t

/-- R105: the sum of the products cut below 2^(E−63), in units of 2^(E−63), and whether any bits were lost. -/
def windowSum (lim : Int) : List FVal → Int × Bool
  | [] => (0, false)
  | .fin n m e :: t =>
    let (s, st) := windowSum lim t
    if e ≥ lim then (s + sgn n (m * 2 ^ (e - lim).toNat), st)
    else
      let k := (lim - e).toNat
      (s + sgn n (m / 2 ^ k), st || m % 2 ^ k != 0)
  | _ :: t => windowSum lim t

/-- R105: the last rounding, of S + sign(S) × ε with S in units of 2^lim, and the flags of R113 against the exact sum `x`. A
sum of 2^24 units or more rounds alike for every ε; below that the result depends on it, and ε is a free value. -/
def roundSticky (s lim : Int) (x : FVal) : FRes :=
  let eps := if s.natAbs < 2 ^ 24 then 1 + Config.dotEpsilon s lim % (2 ^ 32 - 1) else 2 ^ 31
  let r := fp32.rne (.fin (decide (s < 0)) (s.natAbs * 2 ^ 32 + eps) (lim - 32))
  let off := !sameValue x (fp32.decode r.bits)
  ⟨r.bits, r.flags &&& Flags.overflow ||| Flags.when off .inexact ||| Flags.when (off && belowNormal x) .underflow⟩

/-- R105: dot_window on the exact products; `bad` when an input is NaN or a product is ∞ × 0. -/
def dotWindow (bad : Bool) (ps : List FVal) : FRes :=
  if bad || ps.any FVal.isNan then ⟨fp32.nan, .invalid⟩
  else if ps.any (· == .inf true) && ps.any (· == .inf false) then ⟨fp32.nan, .invalid⟩
  else if ps.any (· == .inf true) then ⟨fp32.inf + fp32.sign true, 0⟩
  else if ps.any (· == .inf false) then ⟨fp32.inf, 0⟩
  else
    match maxLog ps with
    | none => ⟨0, 0⟩
    | some E =>
      let (s, st) := windowSum (E - 63) ps
      if s = 0 then ⟨0, Flags.when st .inexact⟩
      else if st then roundSticky s (E - 63) (ps.foldl (fun a p => (fadd 0 a p).1) (.fin false 0 0))
      else fp32.rne (.fin (decide (s < 0)) s.natAbs (E - 63))

/-- R105 for a list of factor pairs. -/
def dotProducts (ps : List (FVal × FVal)) : FRes :=
  dotWindow (ps.any fun p => p.1.isNan || p.2.isNan) (ps.map fun p => (fmul p.1 p.2).1)

/-- R177: the CRC-32C state after one byte, processed bit-reflected. -/
def crcBits : Nat → BitVec 32 → BitVec 32
  | 0, c => c
  | n + 1, c => crcBits n (if c &&& 1#32 == 1#32 then (c >>> 1) ^^^ 0x82F63B78#32 else c >>> 1)

def crcByte (c : BitVec 32) (b : BitVec 8) : BitVec 32 := crcBits 8 (c ^^^ b.setWidth 32)

/-- R177: the state after some bytes. -/
def crcBytes (c : BitVec 32) (bs : List Byte) : BitVec 32 := bs.foldl crcByte c

/-- The CRC-32C of some bytes. -/
def crc32c (bs : List Byte) : BitVec 32 := crcBytes 0xFFFFFFFF#32 bs ^^^ 0xFFFFFFFF#32

end Sys2Proof.Machine
end

