-- ==== Sys2Proof/Syntax.lean ====
section
/-! DEFINITION. The instructions of the Bozal: one constructor for each row of spec/opcode_table.json. The slot
instructions carry their operand fields with the lent bits of the header (R37) already joined to them; the events
(the table's rows without bits) carry what comes from outside the device. -/

namespace Sys2Proof

/-- The five opcode maps of R56 to R60 (V0 and V1 share one, C0 and C1 share one). -/
inductive SlotClass where
  | s | v | m | n | c
  deriving DecidableEq, Repr

/-- Format SA of R51 with three scalar fields. `g` is G.NEG : G.IDX of R48. -/
structure OpSA where
  g : BitVec 4
  d : BitVec 6
  a : BitVec 6
  b : BitVec 6
  deriving DecidableEq, Repr

/-- Format SA with two scalar fields (CLZ, CTZ, POPC, BSWAP). -/
structure OpSU where
  g : BitVec 4
  d : BitVec 6
  a : BitVec 6
  deriving DecidableEq, Repr

/-- CMP (R207): guard `k`, condition `c`. -/
structure OpCmp where
  g : BitVec 4
  k : BitVec 3
  a : BitVec 6
  b : BitVec 6
  c : BitVec 4
  deriving DecidableEq, Repr

/-- CMPI (R208): guard `k`, condition `c`, the immediate extended under R201. -/
structure OpCmpi where
  g : BitVec 4
  k : BitVec 3
  c : BitVec 3
  a : BitVec 6
  imm : BitVec 19
  deriving DecidableEq, Repr

/-- Guard logic (R209). -/
structure OpGuard where
  g : BitVec 4
  d : BitVec 3
  a : BitVec 3
  b : BitVec 3
  deriving DecidableEq, Repr

/-- GSET (R209). -/
structure OpGset where
  g : BitVec 4
  d : BitVec 3
  a : BitVec 6
  deriving DecidableEq, Repr

/-- GGET (R209). -/
structure OpGget where
  g : BitVec 4
  d : BitVec 6
  a : BitVec 3
  deriving DecidableEq, Repr

/-- SEL (R210). -/
structure OpSel where
  g : BitVec 4
  d : BitVec 6
  a : BitVec 6
  b : BitVec 6
  neg : Bool
  k : BitVec 3
  deriving DecidableEq, Repr

/-- Format SI with a source register; the immediate is the 19-bit one of R37 and R201 (MOVH: R206). -/
structure OpSI where
  g : BitVec 4
  d : BitVec 6
  a : BitVec 6
  imm : BitVec 19
  deriving DecidableEq, Repr

/-- SHLI, SHRI, SARI (R205). -/
structure OpShift where
  g : BitVec 4
  d : BitVec 6
  a : BitVec 6
  k : BitVec 6
  deriving DecidableEq, Repr

/-- MOVI (R206). -/
structure OpMovi where
  g : BitVec 4
  d : BitVec 6
  imm : BitVec 19
  deriving DecidableEq, Repr

/-- Format SL (R211): `r` is the destination of a load or the source of a store, `ty` the code of R52, `off` the
unscaled offset extended to 16 bits. -/
structure OpSL where
  g : BitVec 4
  r : BitVec 6
  base : BitVec 6
  ty : BitVec 3
  off : BitVec 16
  deriving DecidableEq, Repr

/-- ATOM of either width (R376); `f` is the operation of R56. -/
structure OpAtom where
  g : BitVec 4
  d : BitVec 6
  a : BitVec 6
  b : BitVec 6
  f : BitVec 4
  deriving DecidableEq, Repr

/-- ATOMN (R377): operation `o`, nibble `n`. -/
structure OpAtomn where
  g : BitVec 4
  d : BitVec 6
  a : BitVec 6
  b : BitVec 6
  o : BitVec 3
  n : Bool
  deriving DecidableEq, Repr

/-- Format SQ with two scalar fields (queue, window, launch and link instructions). -/
structure OpSQ where
  g : BitVec 4
  p : BitVec 6
  q : BitVec 6
  deriving DecidableEq, Repr

/-- ENQN and DEQN (R368): status guard `k`. -/
structure OpSQK where
  g : BitVec 4
  p : BitVec 6
  q : BitVec 6
  k : BitVec 3
  deriving DecidableEq, Repr

/-- One scalar operand. -/
structure OpS1 where
  g : BitVec 4
  p : BitVec 6
  deriving DecidableEq, Repr

/-- Only a guard. -/
structure OpG where
  g : BitVec 4
  deriving DecidableEq, Repr

/-- FENCE (R214). -/
structure OpFence where
  g : BitVec 4
  p : BitVec 6
  scope : BitVec 3
  deriving DecidableEq, Repr

/-- DRAIN (R214). -/
structure OpDrain where
  g : BitVec 4
  scope : BitVec 3
  deriving DecidableEq, Repr

/-- JOIN (R175): mask bits M, N, C0, C1, frame operations. -/
structure OpJoin where
  g : BitVec 4
  m : BitVec 5
  deriving DecidableEq, Repr

/-- XSET (R215). -/
structure OpXset where
  g : BitVec 4
  k : BitVec 4
  a : BitVec 6
  deriving DecidableEq, Repr

/-- XADD (R215). -/
structure OpXadd where
  g : BitVec 4
  k : BitVec 4
  imm : BitVec 19
  deriving DecidableEq, Repr

/-- VIEW (R216). -/
structure OpView where
  g : BitVec 4
  p : BitVec 6
  n : BitVec 3
  deriving DecidableEq, Repr

/-- SHW (R218): slot, shape register, field code. -/
structure OpShw where
  g : BitVec 4
  p : BitVec 6
  slot : BitVec 3
  h : BitVec 2
  f : BitVec 5
  deriving DecidableEq, Repr

/-- SLK (R219). -/
structure OpSlk where
  g : BitVec 4
  e : BitVec 4
  v : BitVec 10
  deriving DecidableEq, Repr

/-- MFC (R197). -/
structure OpMfc where
  g : BitVec 4
  d : BitVec 6
  c : BitVec 19
  deriving DecidableEq, Repr

/-- MTC (R197). -/
structure OpMtc where
  g : BitVec 4
  a : BitVec 6
  c : BitVec 19
  deriving DecidableEq, Repr

/-- Format SJ (R51): the offset in bundles, extended to 31 bits. -/
structure OpSJ where
  g : BitVec 4
  off : BitVec 31
  deriving DecidableEq, Repr

/-- LOOP and RPT (R166): `l` is L − 1. -/
structure OpLoop where
  l : BitVec 6
  a : BitVec 6
  n : BitVec 19
  deriving DecidableEq, Repr

/-- LNSET.bound (R169). -/
structure OpLnBound where
  g : BitVec 4
  p : BitVec 6
  lv : BitVec 3
  deriving DecidableEq, Repr

/-- LNSET.bind (R169). -/
structure OpLnBind where
  g : BitVec 4
  p : BitVec 6
  lv : BitVec 3
  k : BitVec 4
  j : Bool
  deriving DecidableEq, Repr

/-- LNSET.clear (R169). -/
structure OpLnClear where
  g : BitVec 4
  lv : BitVec 3
  deriving DecidableEq, Repr

/-- LOOPN (R170). -/
structure OpLoopn where
  lv : BitVec 3
  off : BitVec 19
  deriving DecidableEq, Repr

/-- MARGIN (R158). -/
structure OpMargin where
  c : BitVec 19
  deriving DecidableEq, Repr

/-- SEG.open and SEG.close (R176). -/
structure OpSeg where
  i : BitVec 9
  deriving DecidableEq, Repr

/-- TRAP (R192). -/
structure OpTrap where
  g : BitVec 4
  c : BitVec 19
  deriving DecidableEq, Repr

/-- WAITEV (R195). -/
structure OpWaitev where
  g : BitVec 4
  d : BitVec 6
  m : BitVec 4
  deriving DecidableEq, Repr

/-- GATE (R196). -/
structure OpGate where
  g : BitVec 4
  m : BitVec 6
  deriving DecidableEq, Repr

/-- BWAIT (R277). -/
structure OpBwait where
  g : BitVec 4
  d : BitVec 6
  who : BitVec 3
  b : BitVec 8
  deriving DecidableEq, Repr

/-- WMWAIT (R273). -/
structure OpWmwait where
  g : BitVec 4
  a : BitVec 6
  c : BitVec 5
  deriving DecidableEq, Repr

/-- WMWAIT.all (R273). -/
structure OpWmwaitAll where
  g : BitVec 4
  c : BitVec 5
  deriving DecidableEq, Repr

/-- Format VA (R53, R227) with three vector registers. -/
structure OpVA where
  g : BitVec 4
  d : BitVec 9
  a : BitVec 9
  b : BitVec 9
  sh : BitVec 2
  swap : Bool
  deriving DecidableEq, Repr

/-- Format VA with two vector registers. -/
structure OpVU where
  g : BitVec 4
  d : BitVec 9
  a : BitVec 9
  sh : BitVec 2
  swap : Bool
  deriving DecidableEq, Repr

/-- VCMP (R236). -/
structure OpVcmp where
  g : BitVec 4
  c : BitVec 3
  k : BitVec 3
  a : BitVec 9
  b : BitVec 9
  sh : BitVec 2
  swap : Bool
  deriving DecidableEq, Repr

/-- VUNPK (R241). -/
structure OpVunpk where
  g : BitVec 4
  d : BitVec 9
  a : BitVec 9
  part : BitVec 2
  sh : BitVec 2
  swap : Bool
  deriving DecidableEq, Repr

/-- VBCST from a lane (R242). -/
structure OpVbcstLane where
  g : BitVec 4
  d : BitVec 9
  a : BitVec 9
  lane : BitVec 5
  sh : BitVec 2
  swap : Bool
  deriving DecidableEq, Repr

/-- VBCST from a scalar (R242). -/
structure OpVbcstScalar where
  g : BitVec 4
  d : BitVec 9
  a : BitVec 6
  sh : BitVec 2
  swap : Bool
  deriving DecidableEq, Repr

/-- VRED (R244): input guard `m`, operation `o`. -/
structure OpVred where
  g : BitVec 4
  d : BitVec 9
  a : BitVec 9
  m : BitVec 3
  o : BitVec 3
  sh : BitVec 2
  swap : Bool
  deriving DecidableEq, Repr

/-- CUPSTAT (R253). -/
structure OpCupstat where
  g : BitVec 4
  d : BitVec 9
  deriving DecidableEq, Repr

/-- VLD and VST (R248, R249): the offset extended to 12 bits, in units of 128 bytes. -/
structure OpVM where
  g : BitVec 4
  d : BitVec 9
  base : BitVec 6
  off : BitVec 12
  sh : BitVec 2
  swap : Bool
  mode : Bool
  deriving DecidableEq, Repr

/-- VGTH and VSCT (R250). -/
structure OpVX where
  g : BitVec 4
  d : BitVec 9
  base : BitVec 6
  i : BitVec 9
  sh : BitVec 2
  swap : Bool
  mode : Bool
  deriving DecidableEq, Repr

/-- VATOM (R378). -/
structure OpVatom where
  g : BitVec 4
  d : BitVec 9
  base : BitVec 6
  i : BitVec 9
  op : BitVec 3
  sh : BitVec 2
  swap : Bool
  ret : Bool
  deriving DecidableEq, Repr

/-- MBLD (R296). -/
structure OpMbld where
  g : BitVec 4
  xd : BitVec 4
  sh : BitVec 2
  swap : Bool
  pi : Bool
  deriving DecidableEq, Repr

/-- MMA and MMAZ (R298, R300), and MOUT (R305). -/
structure OpMma where
  g : BitVec 4
  acc : BitVec 3
  xa : BitVec 4
  sh : BitVec 2
  swap : Bool
  pi : Bool
  r0 : BitVec 5
  deriving DecidableEq, Repr

/-- MSCL (R302). -/
structure OpMscl where
  g : BitVec 4
  acc : BitVec 3
  sh : BitVec 2
  swap : Bool
  r0 : BitVec 5
  grp : BitVec 2
  deriving DecidableEq, Repr

/-- MACC (R304). -/
structure OpMacc where
  g : BitVec 4
  acc : BitVec 3
  src : BitVec 3
  sh : BitVec 2
  swap : Bool
  r0 : BitVec 5
  ss : Bool
  deriving DecidableEq, Repr

/-- MZERO (R303). -/
structure OpMzero where
  g : BitVec 4
  acc : BitVec 3
  sh : BitVec 2
  swap : Bool
  r0 : BitVec 5
  deriving DecidableEq, Repr

/-- MTAP (R301). -/
structure OpMtap where
  g : BitVec 4
  acc : BitVec 3
  xa : BitVec 4
  xd : BitVec 4
  sh : BitVec 2
  swap : Bool
  pi : Bool
  imm : BitVec 16
  deriving DecidableEq, Repr

/-- LCFG.set (R318). -/
structure OpLcfgSet where
  g : BitVec 4
  sh : BitVec 2
  swap : Bool
  cc : BitVec 3
  lanes : BitVec 5
  out : BitVec 2
  deriving DecidableEq, Repr

/-- LCFG.load and LCFG.save (R318): `x` is the address register of the op. -/
structure OpLcfgX where
  g : BitVec 4
  k : BitVec 3
  x : BitVec 4
  sh : BitVec 2
  swap : Bool
  pi : Bool
  deriving DecidableEq, Repr

/-- LCFG.clear (R318). -/
structure OpLcfgClear where
  g : BitVec 4
  k : BitVec 3
  sh : BitVec 2
  swap : Bool
  deriving DecidableEq, Repr

/-- LSCAN and LSCANC (R321). -/
structure OpScan where
  g : BitVec 4
  k : BitVec 3
  xa : BitVec 4
  xb : BitVec 4
  sh : BitVec 2
  swap : Bool
  pi : Bool
  z : Bool
  deriving DecidableEq, Repr

/-- LGATE (R323). -/
structure OpLgate where
  g : BitVec 4
  xa : BitVec 4
  xb : BitVec 4
  sh : BitVec 2
  swap : Bool
  pi : Bool
  deriving DecidableEq, Repr

/-- LMAT (R324). -/
structure OpLmat where
  g : BitVec 4
  acc : BitVec 3
  xa : BitVec 4
  xb : BitVec 4
  sh : BitVec 2
  swap : Bool
  pi : Bool
  r0 : BitVec 5
  deriving DecidableEq, Repr

/-- CPY and CPYG (R264, R268). `cnt` is the barrier that counts the arriving bytes when B = 1 (R258). -/
structure OpCpy where
  g : BitVec 4
  ch : BitVec 5
  xs : BitVec 4
  xd : BitVec 4
  sh : BitVec 2
  swap : Bool
  ssp : BitVec 2
  dsp : BitVec 2
  cnt : Option (BitVec 8)
  w : Bool
  deriving DecidableEq, Repr

/-- CPYH (R265). -/
structure OpCpyh where
  g : BitVec 4
  edge : BitVec 4
  xs : BitVec 4
  xd : BitVec 4
  sh : BitVec 2
  swap : Bool
  ssp : BitVec 2
  dsp : BitVec 2
  cnt : Option (BitVec 8)
  deriving DecidableEq, Repr

/-- CPYM and CPYD (R266, R269), whose destination space the table fixes. -/
structure OpCpym where
  g : BitVec 4
  ch : BitVec 5
  xs : BitVec 4
  xd : BitVec 4
  sh : BitVec 2
  swap : Bool
  ssp : BitVec 2
  cnt : Option (BitVec 8)
  deriving DecidableEq, Repr

/-- CPYR (R267). -/
structure OpCpyr where
  g : BitVec 4
  op : BitVec 3
  xs : BitVec 4
  xd : BitVec 4
  sh : BitVec 2
  swap : Bool
  ssp : BitVec 2
  cnt : Option (BitVec 8)
  deriving DecidableEq, Repr

/-- WMARK (R270). -/
structure OpWmark where
  g : BitVec 4
  ch : BitVec 5
  xs : BitVec 4
  xd : BitVec 4
  dsp : BitVec 2
  deriving DecidableEq, Repr

/-- BINIT and BADD (R276). -/
structure OpBar where
  g : BitVec 4
  b : BitVec 8
  who : BitVec 3
  k : BitVec 4
  deriving DecidableEq, Repr

/-- ARRIVE (R276). -/
structure OpArrive where
  g : BitVec 4
  b : BitVec 8
  who : BitVec 3
  deriving DecidableEq, Repr

/-- FRLD (R344). -/
structure OpFrld where
  g : BitVec 4
  xf : BitVec 4
  c : Bool
  deriving DecidableEq, Repr

/-- FRST (R346). -/
structure OpFrst where
  g : BitVec 4
  all : Bool
  deriving DecidableEq, Repr

/-- FRSW (R345). -/
structure OpFrsw where
  g : BitVec 4
  xf : BitVec 4
  xo : BitVec 4
  c : Bool
  deriving DecidableEq, Repr

/-- SNAP, FORK, HPAPP and FRSTAT (R348, R353, R355). -/
structure OpFr2 where
  g : BitVec 4
  xf : BitVec 4
  xo : BitVec 4
  deriving DecidableEq, Repr

/-- RBACK (R349). -/
structure OpRback where
  g : BitVec 4
  xf : BitVec 4
  xo : BitVec 4
  free : Bool
  deriving DecidableEq, Repr

/-- FREL (R350). -/
structure OpFrel where
  g : BitVec 4
  xf : BitVec 4
  deriving DecidableEq, Repr

/-- HPMAP (R354): `n` is the token count less one. -/
structure OpHpmap where
  g : BitVec 4
  n : BitVec 5
  xf : BitVec 4
  xo : BitVec 4
  cnt : Option (BitVec 8)
  deriving DecidableEq, Repr

/-- What a peer chip's access asks for (R412): a read of some bytes, a write, or an atomic (for CAS the data are the new value
and then the one compared with). -/
inductive RemoteKind where
  | read (n : Nat) | write | add | swap | cas
  deriving DecidableEq, Repr

/-- A boot image as the ROM reads it (R455); the body is its bytes from 0x80 on. -/
structure BootImage where
  header : List Byte
  body : List Byte
  deriving DecidableEq, Repr

/-- The instructions: the 207 slot instructions of R56 to R60 and the 80 events of the table. -/
inductive Instr where
  -- S slot
  | nop
  | add (o : OpSA) | sub (o : OpSA) | mul (o : OpSA) | mulh (o : OpSA) | mulhu (o : OpSA)
  | div (o : OpSA) | divu (o : OpSA) | rem (o : OpSA) | remu (o : OpSA)
  | and (o : OpSA) | or (o : OpSA) | xor (o : OpSA)
  | shl (o : OpSA) | shr (o : OpSA) | sar (o : OpSA) | rotr (o : OpSA)
  | addS32 (o : OpSA) | subS32 (o : OpSA) | mulS32 (o : OpSA) | mulhS32 (o : OpSA) | mulhuS32 (o : OpSA)
  | divS32 (o : OpSA) | divuS32 (o : OpSA) | remS32 (o : OpSA) | remuS32 (o : OpSA)
  | andS32 (o : OpSA) | orS32 (o : OpSA) | xorS32 (o : OpSA)
  | shlS32 (o : OpSA) | shrS32 (o : OpSA) | sarS32 (o : OpSA) | rotrS32 (o : OpSA)
  | min (o : OpSA) | minu (o : OpSA) | max (o : OpSA) | maxu (o : OpSA)
  | clz (o : OpSU) | ctz (o : OpSU) | popc (o : OpSU) | bswap (o : OpSU)
  | andn (o : OpSA) | orn (o : OpSA)
  | cmp (o : OpCmp) | cmpi (o : OpCmpi)
  | gand (o : OpGuard) | gor (o : OpGuard) | gxor (o : OpGuard) | gandn (o : OpGuard)
  | gset (o : OpGset) | gget (o : OpGget) | sel (o : OpSel)
  | addi (o : OpSI) | andi (o : OpSI) | ori (o : OpSI) | xori (o : OpSI)
  | shli (o : OpShift) | shri (o : OpShift) | sari (o : OpShift) | muli (o : OpSI)
  | movi (o : OpMovi) | movh (o : OpSI)
  | ld (o : OpSL) | st (o : OpSL) | ldacq (o : OpSL) | strel (o : OpSL)
  | atom64 (o : OpAtom) | atom32 (o : OpAtom) | atomn (o : OpAtomn)
  | qinit (o : OpSQ) | enq (o : OpSQ) | deq (o : OpSQ) | enqn (o : OpSQK) | deqn (o : OpSQK)
  | qpeek (o : OpSQ) | qstat (o : OpSQ) | qclose (o : OpS1) | rwopen (o : OpSQ) | rwclose (o : OpSQ)
  | fence (o : OpFence) | fwait (o : OpS1) | drain (o : OpDrain) | join (o : OpJoin)
  | xset (o : OpXset) | xadd (o : OpXadd) | view (o : OpView) | shw (o : OpShw) | slk (o : OpSlk)
  | mfc (o : OpMfc) | mtc (o : OpMtc)
  | br (o : OpSJ) | jmp (o : OpSJ) | jmpi (o : OpS1) | call (o : OpSJ) | ret (o : OpG)
  | loop (o : OpLoop) | lnsetBound (o : OpLnBound) | lnsetBind (o : OpLnBind) | lnsetClear (o : OpLnClear)
  | loopn (o : OpLoopn) | rpt (o : OpLoop) | margin (o : OpMargin)
  | segOpen (o : OpSeg) | segClose (o : OpSeg) | cont (o : OpSJ) | endcont (o : OpG)
  | trap (o : OpTrap) | tret (o : OpG) | halt (o : OpG) | yield (o : OpG)
  | waitev (o : OpWaitev) | gate (o : OpGate) | ctxsv (o : OpS1) | ctxld (o : OpS1)
  | bwait (o : OpBwait) | wmwait (o : OpWmwait) | wmwaitAll (o : OpWmwaitAll)
  | launch (o : OpSQ) | chwait (o : OpS1) | preempt (o : OpSQ) | resume (o : OpSQ) | emrd (o : OpSQ)
  | digest (o : OpSQ) | sleep (o : OpS1)
  | linkst (o : OpSQ) | lnkcfg (o : OpSQ) | talign (o : OpSQ)
  -- V slots
  | vadd (o : OpVA) | vsub (o : OpVA) | vmul (o : OpVA) | vfma (o : OpVA) | vmin (o : OpVA) | vmax (o : OpVA)
  | vabs (o : OpVU) | vneg (o : OpVU) | vdiv (o : OpVA) | vsqrt (o : OpVU) | vrcp (o : OpVU) | vrsq (o : OpVU)
  | vexp2 (o : OpVU) | vlog2 (o : OpVU) | vcmp (o : OpVcmp) | vsel (o : OpVA)
  | vand (o : OpVA) | vor (o : OpVA) | vxor (o : OpVA) | vnot (o : OpVU)
  | vshl (o : OpVA) | vshr (o : OpVA) | vsar (o : OpVA)
  | vcvt (o : OpVU) | vpack (o : OpVA) | vunpk (o : OpVunpk) | vperm (o : OpVA)
  | vbcstLane (o : OpVbcstLane) | vbcstScalar (o : OpVbcstScalar) | vred (o : OpVred)
  | vcadd (o : OpVA) | vcacc (o : OpVU) | vfade (o : OpVA) | vqdeq (o : OpVA)
  | xmov (o : OpVU) | vmov (o : OpVU) | cupseed (o : OpS1) | cupstat (o : OpCupstat)
  | vld (o : OpVM) | vst (o : OpVM) | vgth (o : OpVX) | vsct (o : OpVX) | vatom (o : OpVatom)
  -- M slot
  | mbld (o : OpMbld) | mbsw (o : OpG) | mma (o : OpMma) | mmaz (o : OpMma) | mscl (o : OpMscl)
  | macc (o : OpMacc) | mzero (o : OpMzero) | mout (o : OpMma) | mtap (o : OpMtap)
  -- N slot
  | lcfgSet (o : OpLcfgSet) | lcfgLoad (o : OpLcfgX) | lcfgSave (o : OpLcfgX) | lcfgClear (o : OpLcfgClear)
  | lscan (o : OpScan) | lscanc (o : OpScan) | lgate (o : OpLgate) | lmat (o : OpLmat)
  -- C slots
  | cpy (o : OpCpy) | cpyh (o : OpCpyh) | cpym (o : OpCpym) | cpyr (o : OpCpyr) | cpyg (o : OpCpy) | cpyd (o : OpCpym)
  | wmark (o : OpWmark) | binit (o : OpBar) | arrive (o : OpArrive) | badd (o : OpBar)
  | frld (o : OpFrld) | frst (o : OpFrst) | frsw (o : OpFrsw) | snap (o : OpFr2) | fork (o : OpFr2)
  | rback (o : OpRback) | frel (o : OpFrel) | hpapp (o : OpFr2) | hpmap (o : OpHpmap) | frstat (o : OpFr2)
  -- events that the default schedule names
  | engineWakeDone (engine : BitVec 3) | copyCompletion (unit : Bool) (index : Nat) | missFill (line : Nat)
  | tileDecodeDone (region : BitVec 4) (tile : Nat) | windowOpenAtSlice (slice : BitVec 6)
  | windowCloseAtSlice (slice : BitVec 6) | packetOverdue (id : Nat) | pipRevolution (channel : Nat)
  | packetArrival (id : Nat) | endToEndAck (id : Nat) | resetNoticeArrival (cluster : BitVec 5) (site : BitVec 5)
  | linkTrained (inward : Bool) (link : BitVec 8) | restripeDone (inward : Bool) (link : BitVec 8)
  | placementDecision (die : Bool) | launchRecordDequeued (die : Bool) | preemption (core : BitVec 7)
  | launchComplete (die : Bool) (lid : BitVec 16) | sleepStateEntry (die : Bool) | wake (die : Bool)
  -- events of the host, the links and the slices that come from outside
  | hostMemoryAccess (bar : BitVec 3) (write : Bool) (offset : Nat) (data : List Byte)
  | hostWindowCompletion (id : Nat) (data : List Byte) (failed : Bool)
  | remoteAckReturn (id : Nat) (data : List Byte) (poisoned : Bool)
  | remoteAccessArrival (link : BitVec 8) (kind : RemoteKind) (slack : BitVec 10) (offset : Nat) (data : List Byte)
  | lightLost (inward : Bool) (link : BitVec 8) (waves : BitVec 16)
  | lightRestored (inward : Bool) (link : BitVec 8) (waves : BitVec 16)
  | registerWrite (number : BitVec 19) (value : Word64) | doorbellWrite (value : Word64)
  | queueWindowCommit (slot : BitVec 8) | queueWindowDeqn (slot : BitVec 8)
  | queueWindowStagingWrite (slot : BitVec 8) (offset : Nat) (data : List Byte) | lineEviction (line : Nat)
  | backgroundHeadRead (die : Bool) (queue : BitVec 6) | bootImageLoad (image : BootImage)
  | flitReceived (link : BitVec 8) (seq : Nat) (crcOk : Bool) | linkAckReceived (link : BitVec 8) (seq : Nat)
  | linkReplay (link : BitVec 8) | timestampExchange (link : BitVec 8) (t1 t2 t3 t4 : Nat)
  | resendTimeout (id : Nat) | remoteWaitTimeout (id : Nat)
  | quadDarkTimeout (inward : Bool) (link : BitVec 8) (quad : BitVec 2) | hrstWrite (value : Word64)
  | formatRegionWrite (number : BitVec 19) (value : Word64) | tbinvWrite (value : Word64)
  | frameRegisterWrite (number : BitVec 19) (value : Word64) | sliceRegisterWrite (number : BitVec 19) (value : Word64)
  | controllerRegisterWrite (number : BitVec 19) (value : Word64) | vectorStatusAccess (number : BitVec 19) (value : Word64)
  | matrixStatusAccess (number : BitVec 19) (value : Word64) | ladderStatusAccess (number : BitVec 19) (value : Word64)
  | evpendClear (value : Word64) | frlqWrite (value : Word64) | correctedError (reader : Option (BitVec 7))
  | fatalError (cause : BitVec 8) | bootFlashTimeout (image : BootImage) | attestationCommand (nonce : List Byte)
  | coreOrSliceRetired (slice : Bool) (number : BitVec 7)
  -- events without operands
  | bundleDispatch | fetchMissFill | trapEntry | wholeCoreStall | watchdogExpiry | timerEvent | loadReplyArrival
  | cupGenerate | mOperationDone | nOperationDone | frameOperationDone | lookaheadPeek | lookaheadLoadDone | queueRequest
  | withdrawalNotice | sliceReadRequest | sliceWriteRequest | sliceAtomicRequest | heldUpdateArrival | launchStart
  | meterUpdate | deviceReset | functionLevelReset | releasedRequestReturn
  deriving DecidableEq, Repr

end Sys2Proof
end

