-- ==== Sys2Proof/Machine/State.lean ====
section
/-! DEFINITION. The state of the device: the core whose turn it is, the other cores, every byte of storage, the
slices, fabric, links, controllers and host attachment, and the schedule; and the state after reset. -/

namespace Sys2Proof.Machine

/-- What a core is doing: idle (no program), running a program, ended by HALT (R193), or stopped by a double trap
(R190). -/
inductive RunMode where
  | idle | running | halted | dead
  deriving DecidableEq, Repr

/-- One LOOP or RPT level (R166, R174): for RPT, the repeated slot once its head has been dispatched (0 before), and
whether the repeated entry has been put into its queue. -/
structure LoopLevel where
  start : BitVec 48
  last : BitVec 48
  left : Nat
  rpt : Bool
  eng : Nat
  issued : Bool
  deriving DecidableEq, Repr

/-- One binding of a loop-nest level (R169). -/
structure Binding where
  k : BitVec 4
  on : Bool
  stride : Word32
  deriving DecidableEq, Repr

/-- One loop-nest level (R169). -/
structure NestLevel where
  bound : Word32
  count : Word32
  b0 : Binding
  b1 : Binding
  deriving DecidableEq, Repr

/-- One containment region (R180). -/
structure ContLevel where
  handler : BitVec 48
  depth : Nat
  deriving DecidableEq, Repr

/-- What trap entry moves aside (R188), the TPC it wrote, the replay masks of the bundles after that one (R427), and the
elements that have performed of its other slots and of the slots of those bundles (R133, R156), and the slacks that the bundle
at TPC and those after it were dispatched with (R219). -/
structure TrapShadow where
  tpc : Word64
  stalled : Bool
  loops : List LoopLevel
  segst : Word64
  segcrc : Word64
  segexp : Word64
  mrem : Word64
  mlim : Word64
  replays : List (BitVec 8)
  redos : List (List (Nat × Word64))
  slacks : List (BitVec 10)
  deriving DecidableEq, Repr

/-- An item named within the group so far (R39, R40): a range of the name numbering of Machine/Names.lean, who
named it, whether it was written, and whether the exception of R40 for one slot's own reads, post-increments and
swaps covers the naming. -/
structure NameItem where
  lo : Nat
  hi : Nat
  slot : Nat
  pc : BitVec 48
  write : Bool
  soft : Bool
  deriving DecidableEq, Repr

/-- R38: the bundles of the group so far and what they named. -/
structure Group where
  count : Nat
  items : List NameItem
  deriving DecidableEq, Repr

/-- The leaf a walk ends at (R129); for a partition of a peer's scratchpad that a cluster's verdict has granted, its tagged
addresses and its locations (R125). -/
structure Page where
  va : Nat
  pa : Nat
  size : Nat
  w : Bool
  x : Bool
  k : Bool
  gl : Bool
  deriving DecidableEq, Repr

/-- An entry of a slot queue (R43): slot 1 to 7, repetition count, whether its check has passed (R156), whether
it was found held and nothing has happened since (R159), and the pages and partitions that its check has found (R125, R132). -/
structure Entry where
  slot : Nat
  instr : Instr
  rep : Nat
  checked : Bool
  waiting : Bool
  pass : List Page
  deriving DecidableEq, Repr

/-- Bytes as they stood before a write, by location; the first that covers a byte counts. -/
abbrev OldBytes := List (Nat × List Byte)

/-- A dispatched bundle with entries not yet issued: its SYNC bit (R44), the slack its packets start with (R35, R219), the
entries that have issued or that its replay mask marks (R462), what its own entries have overwritten (R40 and R139: its
reads see the values from before the bundle), what trap entry restores (R179, R188; `nest` when the bundle holds LOOPN),
the elements of a slot that have performed (R133), the slot it repeats (0 none), whether its V0 entry used the Cup (R58),
the replay mask it was dispatched under (R462), and the margin before its dispatch (R427). -/
structure Bundle where
  seq : Nat
  pc : BitVec 48
  next : BitVec 48
  sync : Bool
  slack : BitVec 10
  done : BitVec 8
  entries : List Entry
  old : Cells 64
  oldMem : OldBytes
  loops : List LoopLevel
  nest : Option (List NestLevel)
  segst : Word64
  segcrc : Word64
  segexp : Word64
  redo : List (Nat × Word64)
  rp : Nat
  cup0 : Bool
  mask : BitVec 8
  mrem : Word64
  mlim : Word64
  deriving DecidableEq, Repr

/-- The entry being issued, what its bundle's record says, and the pages and partitions that its check has found (R132). -/
structure Issue where
  seq : Nat
  pc : BitVec 48
  next : BitVec 48
  slot : Nat
  slack : BitVec 10
  rep : Nat
  old : Cells 64
  oldMem : OldBytes
  redo : Word64
  cup0 : Bool
  pass : List Page
  deriving DecidableEq, Repr

/-- The record of a trap to be taken (R187). -/
structure Trap where
  cause : BitVec 8
  tpc : BitVec 48
  tinfo0 : Word64
  tinfo1 : Word64
  tinfo2 : Word64
  tinfo3 : Word64
  deriving DecidableEq, Repr

/-- A run of bytes an operation moves, both ends already translated; `zero` writes zeros (R265). `sva` and `dva` are the
addresses as the instruction formed them, `row` the row they belong to, `tag` the number of the run's first element under
CPYR (R384), and `sent` is u + 1 while request u of a remote end is on its way. `more` are the further destinations of
the same source bytes (R266), and `got` the bytes once they have been read, with the offsets of the poisoned ones. -/
structure Seg where
  src : Nat
  dst : Nat
  n : Nat
  zero : Bool
  sva : Nat
  dva : Nat
  row : Nat
  tag : Nat
  sent : Nat
  more : List Nat
  got : Option (List Byte × List Nat)
  deriving DecidableEq, Repr

/-- An operation in an engine queue: engine 0 M, 1 N, 2 C0, 3 C1, 4 frame. `addrs` are the values of its address
registers at issue, `regs` the byte addresses of the registers it names, `locks` and `busy` its source and
destination byte ranges of the store (start, length; R85), `segs` the bytes a copy moves, `old` what entries of its
own bundle have overwritten since it issued (R139), `writes` what a frame operation writes when it performs. -/
structure EngineOp where
  uid : Nat
  seq : Nat
  eng : Nat
  pc : BitVec 48
  slack : BitVec 10
  instr : Instr
  rep : Nat
  shape : BitVec 128
  addrs : List Nat
  regs : List Nat
  locks : List (Nat × Nat)
  busy : List (Nat × Nat)
  segs : List Seg
  extra : List Nat
  old : OldBytes
  writes : List (Nat × List Byte)
  deriving DecidableEq, Repr

/-- A stationary buffer of the matrix array (R288): its bytes in deck order by column, its TYPE and GROUP codes,
and the deck offset it came from; empty when `full` is false. -/
structure StatBuf where
  full : Bool
  ty : Nat
  group : Nat
  off : Nat
  bytes : Cells 8
  deriving DecidableEq, Repr

/-- A bank descriptor of a gang's lead core (R338); `stored` when an FRST of its frame has performed since it was bound
(R23), `left` when FRSW has left it for the other bank (R345), `peeked` the inbound queue and its HEAD count when the
lookahead saw the record that names its frame (R22). -/
structure BankDesc where
  frame : Word32
  state : Nat
  storing : Bool
  comp : Bool
  npg : Nat
  la : Bool
  dirty : BitVec 12
  stored : Bool
  left : Bool
  peeked : Option (Nat × Nat)
  deriving DecidableEq, Repr

/-- What the core's launch tells it: lead core and size of the gang, whether its L1s are fused, the logical number
(R16, R17), and the tenant of the core's last launch plus one, 0 before any (R89). -/
structure GangFacts where
  lead : BitVec 7
  size : Nat
  fused : Bool
  k : Nat
  tenant : Nat
  deriving DecidableEq, Repr

/-- A fence record: the token's number, its scope, and the number of the bundle that held the FENCE, whose earlier accesses
it covers (R147). -/
structure FenceRec where
  num : Word32
  scope : Nat
  seq : Nat
  deriving DecidableEq, Repr

/-- Bytes of a remote window that an entry, or a fetch (slot 8), has read (R137): the request that brings them until they are
there. -/
structure FarRead where
  seq : Nat
  slot : Nat
  loc : Nat
  n : Nat
  got : Option (List Byte × Bool)
  uid : Nat
  deriving DecidableEq, Repr

/-- One core (R10, R21). `bundles` are the dispatched bundles with entries not yet issued, oldest first, `past` the bundles
after the oldest of them that have none left, `replay` and `replays` the masks of the bundles to be dispatched next, `redo`
and `redos` the elements of their slots that have performed, `slacks` the slacks they were dispatched with; `fired` what has happened in the present cycle
(R157, R160): bit 0 a dispatch, bit k an issue of slot k, `drain` while its engines drain (R281). -/
structure CoreState where
  id : BitVec 7
  mode : RunMode
  pc : BitVec 48
  s : Cells 64
  x : Cells 32
  g : Cells 32
  cr : Cells 64
  shapes : Cells 128
  shadows : Cells 128
  slack : Cells 10
  gen : Cup
  drawn : Cup
  cupQ : List Word32
  loops : List LoopLevel
  nest : List NestLevel
  cont : List ContLevel
  shadow : Option TrapShadow
  fseq : Word32
  fences : List FenceRec
  segExp : Word64
  marks : Cells 1
  barExp : Cells 32
  barCnt : Cells 31
  barOvr : Cells 1
  mbuf0 : StatBuf
  mbuf1 : StatBuf
  carries : Cells 64
  ops : List EngineOp
  bank0 : BankDesc
  bank1 : BankDesc
  gang : GangFacts
  icache : List (Nat × List Byte)
  group : Group
  bundles : List Bundle
  past : List Bundle
  cur : Issue
  held : Bool
  trapReq : Option Trap
  replay : BitVec 8
  replays : List (BitVec 8)
  redo : List (Nat × Word64)
  redos : List (List (Nat × Word64))
  slacks : List (BitVec 10)
  stalled : Bool
  fired : BitVec 8
  drain : Bool
  yielded : Bool
  wdCount : Nat
  wake : Nat
  nextSeq : Nat
  farReads : List FarRead
  deriving DecidableEq, Repr

/-- Who issued a request (R138); `gone` for a core whose cluster was reset or whose launch was cancelled since. -/
inductive Agent where
  | core (k : BitVec 7)
  | host
  | peer (link : BitVec 8)
  | controller (die : Bool)
  | gone (cl : BitVec 5)
  deriving DecidableEq, Repr

/-- The fields of R389: the slack at injection, the slack at the cycle its present wait began, the cycle of injection,
whether it is overdue and since when; `mute` when its becoming overdue counts nothing (R394). -/
structure Tag where
  first : Nat
  slack : Nat
  since : Nat
  its : Nat
  ovd : Bool
  ovdt : Nat
  mute : Bool
  deriving DecidableEq, Repr

/-- One element of a request: its location, the address as the instruction formed it, width in bytes, lane, and the
bytes a store carries. -/
structure Part where
  loc : Nat
  va : Word64
  n : Nat
  lane : Nat
  data : List Byte
  deriving DecidableEq, Repr

/-- What an atomic element computes: the operation (0 to 6 as VATOM counts them, 7 CAS, CPYR's op + 8, ATOMN's
2 × op + n + 16), the type code of a spill entry (R385), its sign bit for 64 bits, SAT and ROUND. -/
structure ElemOp where
  op : Nat
  ty : Nat
  sgn64 : Bool
  sat : Bool
  round : Nat
  deriving DecidableEq, Repr

/-- A no-return update (R383 to R385): what it computes, its sequence number, the issuer's logical number and its
launch. -/
structure UpdInfo where
  what : ElemOp
  seqNo : Word32
  k : Nat
  launch : Nat
  deriving DecidableEq, Repr

/-- The queue operations of R368. -/
inductive QOp where
  | qinit | enq | deq | enqn | deqn | qpeek | qstat | qclose
  deriving DecidableEq, Repr

/-- What becomes of a queue request's answer: the S entry of a core (destination register, status guard, buffer),
the host queue-window slot, or nothing (a record the device enqueues; `event` counts EVLOST when it is dropped). -/
inductive QDest where
  | entry (seq : Nat) (q : BitVec 6) (k : BitVec 3) (buf : List Nat)
  | launchRec (seq : Nat)
  | hostSlot (slot : BitVec 8)
  | record (event : Bool)
  deriving DecidableEq, Repr

/-- A queue request (R366 to R373): its handle, the block's physical address (0 where the slice finds it), the
translation root and level it carries (R369), the element, its slack when it was sent; once parked, the cycle it
parked in and the address of its data area; the cycle it was injected in (R393). -/
structure QReq where
  uid : Nat
  agent : Agent
  op : QOp
  handle : Word64
  qpa : Nat
  root : Word64
  sup : Bool
  elem : List Byte
  dest : QDest
  slack : Nat
  pc : BitVec 48
  since : Nat
  data : Nat
  its : Nat
  deriving DecidableEq, Repr

/-- What a queue request gets: a performed operation with its element (`bad` when it carries an error), the failure of ENQN
or DEQN, the word of QSTAT, a place among the parked, or a trap with TINFO0 to TINFO3. -/
inductive QAnswer where
  | elem (bs : List Byte) (bad : Bool)
  | refused (closed : Bool)
  | status (v : Word64)
  | parked
  | fault (cause : BitVec 8) (t0 : Nat) (t1 t2 t3 : Word64)
  deriving DecidableEq, Repr

/-- Where a value goes that comes back: a scalar register under a type code of R52 (`acq` for LDACQ, whose S entry waits for
the value), lanes of the vector register at a store address, the end of a copy's segment or the entry that reads a window
(`outside`, R137), or the entry of a queue request. -/
inductive LoadDest where
  | sreg (d : BitVec 6) (ty : BitVec 3)
  | acq (d : BitVec 6) (ty : BitVec 3)
  | lanes (addr : Nat)
  | outside
  | queue (q : QReq) (a : QAnswer)
  deriving DecidableEq, Repr

/-- What a request asks of its serialisation point. -/
inductive ReqKind where
  | load (dest : LoadDest)
  | store
  | atom (what : ElemOp) (cmp : Word64) (dest : LoadDest)
  | update (u : UpdInfo)
  | queue (q : QReq)
  deriving DecidableEq, Repr

/-- A request of an agent to a slice or window: `seq` and `slot` issued it; a `release` performs only when R150
allows. -/
structure Req where
  uid : Nat
  agent : Agent
  pc : BitVec 48
  seq : Nat
  slot : Nat
  kind : ReqKind
  parts : List Part
  release : Bool
  tag : Tag
  deriving DecidableEq, Repr

/-- A packet of the fabric that carries a request (R389, R397, R402, R403), kept at site `src` until it is acknowledged: its channel
(slices 0 to 63, 64 + c the return channel of cluster c), its end-to-end sequence number, whether it is still in its core's
outbound queue (R400), whether it has been granted the channel, whether its requester waits for an answer; the payload is gone
once the destination has accepted it. -/
structure Packet where
  uid : Nat
  agent : Agent
  src : Nat
  chan : Nat
  tag : Tag
  resends : Nat
  esn : BitVec 16
  out : Bool
  granted : Bool
  asks : Bool
  payload : Option Req
  deriving DecidableEq, Repr

/-- A value on its way back to a core (R213, R393, R464): its packet's source site, end-to-end number, the cycle it was injected in,
and whether it has been granted its return channel. -/
structure Reply where
  uid : Nat
  core : BitVec 7
  dest : LoadDest
  parts : List Part
  poisoned : Bool
  pc : BitVec 48
  seq : Nat
  slot : Nat
  src : Nat
  tag : Tag
  resends : Nat
  site : Nat
  esn : BitVec 16
  sent : Nat
  granted : Bool
  deriving DecidableEq, Repr

/-- What else moves on the channels (R397): remote access `uid` to its port, its answer from there to its slice, answer `uid` for a
peer chip to its port, a miss's request to its memory controller and the fill it brings. -/
inductive Moved where
  | out (uid : Nat)
  | back (uid : Nat) (data : List Byte) (bad : Bool)
  | peer (uid : Nat)
  | ask (line : Nat)
  | fill (line : Nat)
  deriving DecidableEq, Repr

/-- A packet that carries such a thing: its source site, its channel, when it was injected, its end-to-end number. -/
structure Transit where
  uid : Nat
  src : Nat
  chan : Nat
  tag : Tag
  resends : Nat
  esn : BitVec 16
  sent : Nat
  granted : Bool
  what : Moved
  deriving DecidableEq, Repr

/-- An L1 sector: the array it is in (a core id), its number PA / 64, the bytes filled, and the offsets of those that carry an
error (R134, R181). -/
structure L1Sector where
  owner : BitVec 7
  sec : Nat
  data : List Byte
  bad : List Nat
  deriving DecidableEq, Repr

/-- An entry of the translation buffer of a cluster (R130), or, 32 + g, of the translation cache of slice group g (R361). -/
structure TlbEntry where
  cluster : Nat
  asid : BitVec 12
  gl : Bool
  va : Nat
  size : Nat
  pa : Nat
  w : Bool
  x : Bool
  k : Bool
  deriving DecidableEq, Repr

/-- A line present in its home slice (R136): the fill bits of its sectors, its bytes with the mask bit set, and the launch whose
write last masked one (R440). The current value of every byte is in State.mem. -/
structure Line where
  line : Nat
  fill : BitVec 4
  mask : Cells 1
  writer : Option Nat
  deriving DecidableEq, Repr

/-- A decoded line in the cache (R119, R120): its raw region and tile, its bytes, and which groups are poisoned. -/
structure DecLine where
  line : Nat
  region : Nat
  tile : Nat
  data : List Byte
  bad : Bool
  deriving DecidableEq, Repr

/-- What a packet of the reserved class carries (R362, R363, R405): a line's masked bytes on their way back to memory, a decoded
line for its slice, one for the requests alone that merged before a write of R120, a reset notice of a cluster. -/
inductive Reserved where
  | writeBack (line : Nat)
  | delivery (d : DecLine)
  | answer (d : DecLine) (uids : List Nat)
  | notice (cl : BitVec 5)
  deriving DecidableEq, Repr

/-- A packet of the reserved class (R399, R403): its source site, its channel, its injection time, its end-to-end number, how often it
was resent, whether it has been granted the channel. -/
structure ReservedPacket where
  uid : Nat
  src : Nat
  chan : Nat
  its : Nat
  esn : BitVec 16
  resends : Nat
  granted : Bool
  load : Reserved
  deriving DecidableEq, Repr

/-- A decode of a tile in flight (R363); `stale` when a write of R120 met it, with the lines as the decode gives them and the
requests that merged with it before the write. -/
structure Decode where
  region : Nat
  tile : Nat
  stale : Bool
  owed : List (DecLine × List Nat)
  deriving DecidableEq, Repr

/-- A reduction window (R382, R385): its launch and id, its range, the slices that have opened, broken and closed
it, what it has applied and spilled so far, and the logical number of the core whose RWOPEN or RWCLOSE waits. -/
structure Window where
  launch : Nat
  id : BitVec 3
  lo : Nat
  n : Nat
  opened : BitVec 64
  broken : BitVec 64
  closed : BitVec 64
  closing : Bool
  applied : Nat
  spilled : Nat
  waits : Option Nat
  deriving DecidableEq, Repr

/-- A held update in a slice's Rack, or at a place of its spill area (R384, R385), in arrival order. -/
structure HeldUpd where
  slice : BitVec 6
  spot : Option Nat
  launch : Nat
  win : BitVec 3
  pa : Nat
  n : Nat
  i : Nat
  what : ElemOp
  seqNo : Word32
  value : Nat
  deriving DecidableEq, Repr

/-- One direction of a link (R406 to R408, R414): `up` 0 down, 1 training, 2 up, 3 failed; the active set; when the losses
of light were detected that it restripes after; flits numbered so far and those acknowledged; the next flit expected
and whether it waits for a replay; since when each comb quad is dark, and which have been reported (R460). -/
structure Link where
  inward : Bool
  n : BitVec 8
  ctl : Word64
  win : Word64
  lit : BitVec 16
  active : BitVec 16
  up : BitVec 2
  replay : Word32
  lost : List Word64
  sent : Nat
  acked : Nat
  next : Nat
  awaiting : Bool
  darkAt : Cells 64
  dark : BitVec 4
  deriving DecidableEq, Repr

/-- Where a remote access or an answer for a peer stands: at its slice for want of a link, on the way to a port, in the port's
transmit queue, out on the link, or, for an access, with its answer on the way from the port to the slice. -/
inductive PortStage where
  | slice | fabric | port | sent | answered
  deriving DecidableEq, Repr

/-- A remote access that a slice forwards: a peer's number and, once one is up, the out link (R410), with the numbers of its flits once
they are sent (R407), or 16 for the host attachment (R450); `since` when it began to wait for a link; how often and when it was sent
(R411). -/
structure Remote where
  uid : Nat
  req : Req
  peer : Nat
  link : Option (BitVec 8)
  since : Nat
  flit : Nat
  flits : Nat
  stage : PortStage
  resends : Nat
  sent : Nat
  deriving DecidableEq, Repr

/-- An answer for a peer chip (R393, R465): the in link its request came by, the address that chooses its out link, the site it is
formed at (none at the ingress port itself), its bytes, its packet's fields and flits. -/
structure PeerAnswer where
  uid : Nat
  inlink : BitVec 8
  off : Nat
  site : Option Nat
  data : List Byte
  bad : Bool
  tag : Tag
  link : Option (BitVec 8)
  stage : PortStage
  deriving DecidableEq, Repr

/-- R450: a read or an AtomicOp that has left for the host: what it asks for, at which offset, its width and operands. -/
structure HostRead where
  what : RemoteKind
  off : Nat
  data : List Byte
  deriving DecidableEq, Repr

/-- R451, R452: an operation of a host slot that the attachment holds: its number in the host's order, its slot, what it asks, the
slot's configuration and the element that a commit takes. -/
structure HostOp where
  uid : Nat
  slot : BitVec 8
  op : QOp
  cfg : Word64
  elem : List Byte
  deriving DecidableEq, Repr

/-- What a pre-empted core keeps besides its save area (R21, R188, R338, R133): the trap registers and DRIFT by number, the
trap shadows, the bank descriptors of a lead core, and, of the bundles to be dispatched again, the elements that have performed
of their slots and the slacks they were dispatched with. -/
structure KeptCore where
  crs : List (Nat × Word64)
  shadow : Option TrapShadow
  bank0 : BankDesc
  bank1 : BankDesc
  redos : List (List (Nat × Word64))
  slacks : List (BitVec 10)
  deriving DecidableEq, Repr

/-- One gang of a launch (R420): its cores (those it runs on now), its logical numbers' base, its partition and
banks, whether it is placed, the save slot it is in, the cores that have ended, the cycle its drain began (R426), the
cycle up to which its time is charged (R440), the queue blocks its requests were parked on (R445), and what its cores keep while
it is in a save slot. -/
structure Gang where
  home : BitVec 7
  cores : List (BitVec 7)
  k0 : Nat
  fuse : Bool
  pbase : Nat
  psize : Nat
  banks : BitVec 16
  frlq : Word64
  placed : Bool
  saved : Option Nat
  halted : List (BitVec 7)
  since : Nat
  billed : Nat
  parkedOn : List Nat
  kept : List KeptCore
  deriving DecidableEq, Repr

/-- Where a launch stands: placed and to be started, started, retired (R430). A complete launch is gone. -/
inductive Phase where
  | starting | running | retired
  deriving DecidableEq, Repr

/-- A launch (R417 to R436): its record, its image, its gangs; the children outstanding and completed; the record in
its tail slot and whether that child is placed and complete; what its completion record will say. -/
structure Launch where
  die : Bool
  lid : BitVec 16
  queue : BitVec 6
  prio : BitVec 3
  meter : BitVec 8
  record : List Byte
  image : List Byte
  gangs : List Gang
  phase : Phase
  children : Nat
  childrenDone : Nat
  childWorst : BitVec 2
  tail : Option (List Byte)
  tailStarted : Bool
  tailDone : Bool
  verdict : BitVec 2
  cause : BitVec 8
  started : Option Word64
  picojoule : Nat
  preempts : Nat
  stopped : Bool
  overrun : Bool
  digestFull : Bool
  digest : Word64
  drn : Nat
  since : Nat
  deriving DecidableEq, Repr

/-- A record that waits to be placed: its LID once it has one, the cycle from which its slack counts, whether a DEP word
holds it (R436), RESUME released that hold, PREEMPT stopped it (R444), and for a tail child its parent's priority
(R430). -/
structure QueuedRecord where
  record : List Byte
  lid : Option (BitVec 16)
  since : Nat
  waiting : Bool
  freed : Bool
  stopped : Bool
  tailPrio : Option (BitVec 3)
  deriving DecidableEq, Repr

/-- What a controller holds of one launch queue: the records in place of the head (R418, R430), the record seen at the
head with its HEAD count, the launch whose DEQ is on its way, whether the queue is failing (R417). -/
structure LaunchQueue where
  die : Bool
  n : BitVec 6
  held : List QueuedRecord
  head : Option (Nat × QueuedRecord)
  deciding : Option Launch
  failing : Bool
  deriving DecidableEq, Repr

/-- One die's stream controller (R424, R434, R445): the queue last placed, the next LID, the sleep asked for and
the state it is in (0 awake, 1 to 3 the states of R457), whether it has stopped (R459), the resources reserved
(R424), each with the queue whose candidate reserved it; the processor that runs its firmware (R62, log entry 38), and whether a
PREEMPT of it waits for its saves (R444). -/
structure Controller where
  lastQ : BitVec 6
  nextLid : BitVec 16
  asked : Option (BitVec 2 × BitVec 3)
  asleep : Nat
  waking : Bool
  wakePrio : BitVec 3
  stopped : Bool
  reserved : List (Nat × BitVec 6)
  cpu : CoreState
  begun : Bool
  deriving DecidableEq, Repr

/-- A TALIGN that waits for its timestamps (R416): its link, its result register, its core and bundle. -/
structure Stamp where
  link : BitVec 8
  q : BitVec 6
  core : BitVec 7
  seq : Nat
  deriving DecidableEq, Repr

/-- Why the machine stops: the spec gives an effect to everything it can be asked to do, so no reason is left. -/
inductive Fault where
  deriving DecidableEq, Repr

/-- Why a step is refused. -/
inductive Refusal where
  /-- Raised by an arm of exec whose instruction has no meaning yet: safe. -/
  | notModelled (mnemonic : String)
  deriving DecidableEq, Repr

/-- The device. `core` is the core whose turn it is and `parked` the others; `mem` holds every byte of storage at
the locations of Machine/Ops.lean; `peekBad` are the queue blocks that failed a background read, with its root (R367), `podBack` the
pages on their way back to the Pod (R357); `clock` is the time since reset in ns and `slowing` what TIME
has still to lose (R416), in halves of a ns; `esns` the next end-to-end numbers (R403) and `resetPermits` the permits of reset clusters that no notice
has restored (R405); `hostOps` and `heldWrites` are operations of host slots and register writes that wait in the attachment (R336,
R452), `aer` its advanced error records, a write or a read at an offset of BAR4 (R449), and `imageCame` tells that the host has
offered a boot image (R455); `agenda` is the schedule (log entry 2), `turn` counts the steps of the default
schedule, `picks` the events it chose, and `tick` draws the free values (log entry 3). -/
structure State where
  core : CoreState
  parked : List CoreState
  mem : Cells 8
  poison : Cells 1
  l1 : List L1Sector
  tlb : List TlbEntry
  dev : Cells 64
  time : Word64
  clock : Nat
  slowing : Nat
  packets : List Packet
  reserved : List ReservedPacket
  reqs : List Req
  replies : List Reply
  lines : List Line
  misses : List Nat
  missing : List Nat
  notices : List (BitVec 5 × BitVec 5)
  decoded : List DecLine
  decodes : List Decode
  waiters : List QReq
  released : List QReq
  withdrawals : List Nat
  peekBad : List (Nat × Word64)
  podBack : List Nat
  windows : List Window
  heldUpds : List HeldUpd
  links : List Link
  remotes : List Remote
  transits : List Transit
  peerOut : List PeerAnswer
  esns : Cells 16
  resetPermits : List (BitVec 7 × Nat)
  peerAnswers : List (BitVec 8 × List Byte × Bool)
  launches : List Launch
  launchQueues : List LaunchQueue
  east : Controller
  west : Controller
  charged : Cells 96
  meters : Cells 64
  qwCfg : Cells 64
  qwStage : Cells 8
  qwStatus : Cells 8
  msixTable : Cells 64
  msixPending : Cells 1
  msixSent : List (BitVec 6)
  hostWrites : List (Nat × List Byte)
  hostReads : List HostRead
  answers : List (Nat × List Byte)
  hostOps : List HostOp
  heldWrites : List (BitVec 19 × Word64)
  aer : List (Bool × Nat)
  mailbox : Cells 8
  bootNext : Nat
  imageCame : Bool
  retiredCores : List (BitVec 7)
  retiredSlices : List (BitVec 6)
  stamps : List Stamp
  agenda : List Instr
  turn : Nat
  picks : Nat
  tick : Nat
  uid : Nat
  deriving DecidableEq, Repr

/-- R80: a shape register after reset: LANES 32, every other field 0. -/
def Shape.reset : BitVec 128 := 0x2000#128

/-- R73, R90, R154, R225, R290, R313: the value a core's control register has after reset. -/
def Cr.reset (n : Nat) : Word64 :=
  if n = 0x000 then 1#64
  else if n = 0x010 then 0x8000#64
  else if 0x011 ≤ n ∧ n ≤ 0x013 then BitVec.ofNat 64 ((n - 0x010) * 2 ^ 27)
  else if 0x014 ≤ n ∧ n ≤ 0x017 then 0x20000000#64
  else if n = 0x01F then 0xF8#64
  else if n = 0x040 ∨ n = 0x041 then 0x7FFFF#64
  else 0#64

/-- R446, R461: the value a register of the device has after reset. -/
def Dev.reset (n : Nat) : Word64 := if n = 0x107 then 0x3FF#64 else 0#64

/-- R414: CTL after reset: MASK all ones. -/
def Link.ctlReset : Word64 := 0x1FFFE0#64

/-- A link direction after reset: no light has been seen, nothing has been sent. -/
def Link.reset (inward : Bool) (n : BitVec 8) : Link :=
  ⟨inward, n, Link.ctlReset, 0#64, 0#16, 0#16, 0#2, 0#32, [], 0, 0, 0, false, [], 0#4⟩

def Binding.none : Binding := ⟨0#4, false, 0#32⟩
def NestLevel.clear : NestLevel := ⟨0#32, 0#32, .none, .none⟩
def StatBuf.empty : StatBuf := ⟨false, 0, 0, 0, []⟩
def BankDesc.empty : BankDesc := ⟨0#32, 0, false, false, 0, false, 0#12, false, false, none⟩
def Group.start : Group := ⟨0, []⟩
def Issue.none : Issue := ⟨0, 0#48, 0#48, 1, 0#10, 1, [], [], 0#64, false, []⟩
def GangFacts.alone (id : BitVec 7) : GangFacts := ⟨id, 1, false, 0, 0⟩
/-- A core after reset. Registers the spec gives no reset value are zero (log entry 5); the Cup stands as
cup_seed(0, id). -/
def CoreState.reset (id : BitVec 7) : CoreState :=
  { id := id, mode := .idle, pc := 0#48, s := [], x := [], g := [], cr := [], shapes := [], shadows := [], slack := []
    gen := Cup.seed 0#64 id.toNat, drawn := Cup.seed 0#64 id.toNat, cupQ := [], loops := []
    nest := List.replicate 6 .clear, cont := [], shadow := none, fseq := 0#32, fences := [], segExp := 0#64, marks := []
    barExp := [], barCnt := [], barOvr := [], mbuf0 := .empty, mbuf1 := .empty, carries := [], ops := []
    bank0 := .empty, bank1 := .empty, gang := .alone id, icache := [], group := .start, bundles := [], past := [], cur := .none
    held := false, trapReq := none, replay := 0#8, replays := [], redo := [], redos := [], slacks := [], stalled := false, fired := 0#8, drain := false, yielded := false, wdCount := 0, wake := 0
    nextSeq := 1, farReads := [] }

/-- A controller after reset; its processor runs nothing until an image is loaded (R455). -/
def Controller.reset (die : Bool) : Controller :=
  ⟨63#6, 0#16, .none, 0, false, 0#3, false, [], CoreState.reset (if die then 64#7 else 0#7), false⟩

/-- R10: the other 127 cores. -/
def othersReset : List CoreState := (List.range 127).map fun i => CoreState.reset (BitVec.ofNat 7 (i + 1))

/-- The machine after device reset (R5): no program is loaded, every core is idle, core 0 has the turn. -/
def State.reset : State :=
  { core := CoreState.reset 0#7, parked := othersReset, mem := [], poison := [], l1 := [], tlb := [], dev := []
    time := 0#64, clock := 0, slowing := 0, packets := [], reserved := [], reqs := [], replies := [], lines := [], misses := [], missing := [], notices := [], decoded := []
    decodes := [], waiters := [], released := [], withdrawals := [], peekBad := [], podBack := [], windows := [], heldUpds := [], links := []
    remotes := [], transits := [], peerOut := [], esns := [], resetPermits := [], peerAnswers := [], launches := [], launchQueues := [], east := .reset false, west := .reset true, charged := [], meters := [], qwCfg := []
    qwStage := [], qwStatus := [], msixTable := [], msixPending := [], msixSent := [], hostWrites := [], hostReads := [], answers := [], hostOps := [], heldWrites := [], aer := [], mailbox := []
    bootNext := 1, imageCame := false, retiredCores := [], retiredSlices := [], stamps := [], agenda := [], turn := 0, picks := 0, tick := 0, uid := 0 }

end Sys2Proof.Machine
end

