-- ==== Sys2Proof/Machine/Ops.lean ====
section
/-! DEFINITION. The named operations over registers, storage and the core: where each byte lives, register and
control-register access, guards, holds, taking a trap and returning from one, consuming an error and delivering it
to a containment region. -/

namespace Sys2Proof.Machine

/-- What executing an instruction gives. -/
abbrev Out := Host.Outcome State Fault Refusal

/-! ### Where bytes live (R122, R124, R71, R284) -/

/-- A scratchpad byte: cluster and local address. Physical addresses are their own locations, below 2^46. -/
def Loc.spad (cl a : Nat) : Nat := 2 ^ 46 + cl * 2 ^ 22 + a
/-- A register-store byte of a core. -/
def Loc.store (core a : Nat) : Nat := 2 ^ 47 + core * 2 ^ 20 + a
/-- A deck byte of a core. -/
def Loc.deck (core a : Nat) : Nat := 2 ^ 48 + core * 2 ^ 24 + a

/-- R10: the cluster of a core, 0 to 31. -/
def cluster (id : BitVec 7) : Nat := id.toNat / 4
/-- R10: the die of a core. -/
def dieOf (id : BitVec 7) : Bool := id.toNat / 64 == 1

/-- R11: the home slice of a physical address. -/
def homeSlice (pa : Nat) : Nat :=
  (pa / 2 ^ 8 % 64) ^^^ (pa / 2 ^ 14 % 64) ^^^ (pa / 2 ^ 20 % 64) ^^^ (pa / 2 ^ 26 % 64)

/-- R124: raw LPDDR-6, the host window, a peer-chip window, the decoded view. -/
def isRaw (pa : Nat) : Bool := decide (pa < 0xC000000000)
def isHostWin (pa : Nat) : Bool := decide (0x10000000000 ≤ pa) && decide (pa < 0x20000000000)
def isPeerWin (pa : Nat) : Bool := decide (0x100000000000 ≤ pa) && decide (pa < 0x200000000000)
def isDecoded (pa : Nat) : Bool := decide (0x200000000000 ≤ pa) && decide (pa < 0x20C000000000)
/-- R138: remote targets. -/
def isRemote (pa : Nat) : Bool := isHostWin pa || isPeerWin pa
/-- Whether a location is physical memory. -/
def isPhys (loc : Nat) : Bool := decide (loc < 2 ^ 46)

/-! ### Fields of 64-bit registers -/

/-- Bits lo to lo + n − 1 of a word as a number. -/
def bitsOf {w : Nat} (v : BitVec w) (lo n : Nat) : Nat := v.toNat / 2 ^ lo % 2 ^ n

/-- The word with bits lo to lo + n − 1 replaced. -/
def setBits (v : Word64) (lo n x : Nat) : Word64 :=
  BitVec.ofNat 64 (v.toNat - bitsOf v lo n * 2 ^ lo + x % 2 ^ n * 2 ^ lo)

/-! ### Registers of the core (R40: an entry of a bundle reads the values from before its bundle) -/

/-- The numbering of registers in Bundle.old: s n at n, x n at 64 + n, g n at 80 + n. -/
def CoreState.before (c : CoreState) (key : Nat) : Option Word64 := c.cur.old.lookup key

/-- Keeps the value a register held before the bundle, once. -/
def CoreState.remember (c : CoreState) (key : Nat) (v : Word64) : CoreState :=
  match c.before key with
  | some _ => c
  | none => { c with cur := { c.cur with old := (key, v) :: c.cur.old } }

/-- s[n] as the current entry reads it. -/
def CoreState.sVal (c : CoreState) (n : BitVec 6) : Word64 := (c.before n.toNat).getD (Cells.get 0#64 c.s n.toNat)

/-- x[n] as the current entry reads it. -/
def CoreState.xVal (c : CoreState) (n : BitVec 4) : Word32 :=
  match c.before (64 + n.toNat) with
  | some v => v.setWidth 32
  | none => Cells.get 0#32 c.x n.toNat

/-- R79: g[n] as the current entry reads it; g0 is all ones. -/
def CoreState.gVal (c : CoreState) (n : BitVec 3) : Word32 :=
  if n = 0#3 then 0xFFFFFFFF#32
  else match c.before (80 + n.toNat) with
    | some v => v.setWidth 32
    | none => Cells.get 0#32 c.g n.toNat

/-- s[n] := v. -/
def CoreState.setS (c : CoreState) (n : BitVec 6) (v : Word64) : CoreState :=
  let c := c.remember n.toNat (Cells.get 0#64 c.s n.toNat)
  { c with s := Cells.put 0#64 c.s n.toNat v }

/-- x[n] := v. -/
def CoreState.setX (c : CoreState) (n : BitVec 4) (v : Word32) : CoreState :=
  let c := c.remember (64 + n.toNat) ((Cells.get 0#32 c.x n.toNat).setWidth 64)
  { c with x := Cells.put 0#32 c.x n.toNat v }

/-- R78: a post-increment, of the register's present value. -/
def CoreState.bumpX (c : CoreState) (n : BitVec 4) (by' : Word32) : CoreState :=
  c.setX n (Cells.get 0#32 c.x n.toNat + by')

/-- R79: g[n] := v; g0 keeps its value. -/
def CoreState.setG (c : CoreState) (n : BitVec 3) (v : Word32) : CoreState :=
  if n = 0#3 then c
  else
    let c := c.remember (80 + n.toNat) ((Cells.get 0#32 c.g n.toNat).setWidth 64)
    { c with g := Cells.put 0#32 c.g n.toNat v }

/-- R48: the guard value of an instruction. -/
def CoreState.guard (c : CoreState) (g : BitVec 4) : Word32 :=
  c.gVal (g.setWidth 3) ^^^ (if g.getMsbD 0 then 0xFFFFFFFF#32 else 0#32)

/-- R49: an instruction of the S, M, N and C slots is on. -/
def CoreState.on (c : CoreState) (g : BitVec 4) : Bool := (c.guard g).getLsbD 0

/-! ### Control registers -/

/-- A control register of the core as it is stored. -/
def CoreState.crGet (c : CoreState) (n : Nat) : Word64 := Cells.get (Cr.reset n) c.cr n

def CoreState.crPut (c : CoreState) (n : Nat) (v : Word64) : CoreState :=
  { c with cr := Cells.put (Cr.reset n) c.cr n v }

/-- Several registers written in turn. -/
def CoreState.crPuts (c : CoreState) (l : List (Nat × Word64)) : CoreState := l.foldl (fun c p => c.crPut p.1 p.2) c

/-- A register of the device. -/
def State.devGet (s : State) (n : Nat) : Word64 := Cells.get (Dev.reset n) s.dev n
def State.devPut (s : State) (n : Nat) (v : Word64) : State := { s with dev := Cells.put (Dev.reset n) s.dev n v }

/-- R91: fields of STATUS. -/
def CoreState.status (c : CoreState) : Word64 := c.crGet 0
def CoreState.sup (c : CoreState) : Bool := c.status.getLsbD 0
def CoreState.inTrap (c : CoreState) : Bool := c.status.getLsbD 1
def CoreState.cdepth (c : CoreState) : Nat := bitsOf c.status 4 3
def CoreState.taint (c : CoreState) : CoreState := c.crPut 0 (c.status ||| 8#64)

/-- Shape register n of slot index i (0 V0, 1 V1, 2 M, 3 N, 4 C0, 5 C1), and its shadow (R80). -/
def CoreState.shapeAt (c : CoreState) (i n : Nat) : BitVec 128 := Cells.get Shape.reset c.shapes (4 * i + n)
def CoreState.shadowAt (c : CoreState) (i n : Nat) : BitVec 128 := Cells.get Shape.reset c.shadows (4 * i + n)

/-- R82: the exchange of a shape register with its shadow. -/
def CoreState.swapShape (c : CoreState) (i n : Nat) : CoreState :=
  { c with
    shapes := Cells.put Shape.reset c.shapes (4 * i + n) (c.shadowAt i n)
    shadows := Cells.put Shape.reset c.shadows (4 * i + n) (c.shapeAt i n) }

/-- The shape index of the slot being issued: slots 2 to 7 own indexes 0 to 5. -/
def CoreState.shapeSlot (c : CoreState) : Nat := c.cur.slot - 2

/-- The shape an instruction runs under, after its swap bit (R82). -/
def CoreState.activeShape (c : CoreState) (sh : BitVec 2) (swap : Bool) : BitVec 128 :=
  if swap then c.shadowAt c.shapeSlot sh.toNat else c.shapeAt c.shapeSlot sh.toNat

/-- The core after an instruction's swap bit. -/
def CoreState.swapped (c : CoreState) (sh : BitVec 2) (swap : Bool) : CoreState :=
  if swap then c.swapShape c.shapeSlot sh.toNat else c

/-- R80: the fields of a shape. -/
def shType (v : BitVec 128) : Nat := bitsOf v 0 4
def shRound (v : BitVec 128) : Nat := bitsOf v 4 3
def shSat (v : BitVec 128) : Bool := v.getLsbD 7
def shLanes (v : BitVec 128) : Nat := bitsOf v 8 6
def shOtype (v : BitVec 128) : Nat := bitsOf v 14 4
def shGroup (v : BitVec 128) : Nat := bitsOf v 18 2
def shStride0 (v : BitVec 128) : Word32 := BitVec.ofNat 32 (bitsOf v 32 32)
def shStride1 (v : BitVec 128) : Word32 := BitVec.ofNat 32 (bitsOf v 64 32)
def shRows (v : BitVec 128) : Nat := bitsOf v 96 16
def shCols (v : BitVec 128) : Nat := bitsOf v 112 16

/-- R83: none of the reserved values. -/
def shapeClean (v : BitVec 128) : Bool :=
  decide (shRound v ≤ 4) && shGroup v != 3 && bitsOf v 20 12 == 0 && decide (1 ≤ shLanes v) && decide (shLanes v ≤ 32)

/-! ### Storage -/

/-- The byte at a location. -/
def State.byte (s : State) (loc : Nat) : Byte := Cells.get 0#8 s.mem loc

/-- `n` bytes from a location. -/
def State.bytes (s : State) (loc n : Nat) : List Byte := Cells.getN 0#8 s.mem loc n

/-- R4: the little-endian number in `n` bytes. -/
def State.num (s : State) (loc n : Nat) : Nat := leNat (s.bytes loc n)

/-- Bytes written at a location; a good write ends any poison there. -/
def State.write (s : State) (loc : Nat) (bs : List Byte) : State :=
  { s with mem := Cells.putN 0#8 s.mem loc bs, poison := Cells.clear s.poison loc bs.length }

/-- A number written in `n` bytes. -/
def State.writeNum (s : State) (loc n v : Nat) : State := s.write loc (leBytes n v)

/-- R119, R181: whether any of `n` bytes from a location is poisoned. -/
def State.poisoned (s : State) (loc n : Nat) : Bool :=
  s.poison.any fun c => decide (loc ≤ c.1) && decide (c.1 < loc + n)

/-- Bytes marked poisoned. -/
def State.setPoison (s : State) (loc n : Nat) : State :=
  { s with poison := (List.range n).foldl (fun p i => Cells.put 0#1 p (loc + i) 1#1) s.poison }

/-- `n` bytes copied with their poison (R260). -/
def State.copyBytes (s : State) (src dst n : Nat) : State :=
  { s with mem := Cells.copy 0#8 s.mem src dst n, poison := Cells.copy 0#1 s.poison src dst n }

/-- `n` bytes back to zero (R88). -/
def State.zeroBytes (s : State) (loc n : Nat) : State :=
  { s with mem := Cells.clear s.mem loc n, poison := Cells.clear s.poison loc n }

/-- The location of byte `a` of the current core's store. -/
def State.st (s : State) (a : Nat) : Nat := Loc.store s.core.id.toNat a

/-- Lane i of the vector register at store address `a`. -/
def State.lane (s : State) (a i : Nat) : Nat := s.num (s.st (a + 4 * i)) 4

/-- Lane i written. -/
def State.setLane (s : State) (a i v : Nat) : State := s.writeNum (s.st (a + 4 * i)) 4 v

/-! ### The core whose turn it is, and the others -/

/-- An update of the current core. -/
def State.upd (s : State) (f : CoreState → CoreState) : State := { s with core := f s.core }

/-- Any core by number. -/
def State.coreAt (s : State) (id : BitVec 7) : CoreState :=
  if s.core.id = id then s.core else (s.parked.find? (·.id == id)).getD (CoreState.reset id)

/-- An update of any core. -/
def State.updCore (s : State) (id : BitVec 7) (f : CoreState → CoreState) : State :=
  if s.core.id = id then s.upd f
  else { s with parked := s.parked.map fun c => if c.id == id then f c else c }

/-- The turn given to another core. -/
def State.focus (s : State) (id : BitVec 7) : State :=
  if s.core.id = id then s
  else match s.parked.find? (·.id == id) with
    | some c => { s with core := c, parked := s.core :: s.parked.filter (·.id != id) }
    | none => s

/-- A function of the state of one core, run as that core, the turn then given back. -/
def State.asCore (s : State) (id : BitVec 7) (f : State → State) : State := (f (s.focus id)).focus s.core.id

/-- A fresh number for a request. -/
def State.fresh (s : State) : Nat × State := (s.uid, { s with uid := s.uid + 1 })

/-- R391, R398: the package's one clock, in cycles of 2/3 ns. -/
def State.cycle (s : State) : Nat := s.clock * 3 / 2

/-- R389: the fields of a packet injected now; an urgent one is overdue and counts nothing. -/
def State.tag (s : State) (slack : Nat) : Tag :=
  ⟨slack, slack, s.cycle, s.cycle, slack == 0, if slack = 0 then s.cycle else 0, false⟩

/-- R390: the slack after the present wait; `since` is the cycle of its beginning with the point's pass-through time added. -/
def Tag.left (t : Tag) (now : Nat) : Nat := t.slack - (now - t.since) / 16

/-- R390, R394: the present wait ends, and another may begin. -/
def Tag.settle (t : Tag) (now : Nat) : Tag :=
  if t.ovd then { t with since := now }
  else if t.left now = 0 then { t with slack := 0, ovd := true, ovdt := t.since + 16 * t.slack, since := now }
  else { t with slack := t.left now, since := now }

/-- R390: the fields at a point entered now, after `pass` cycles of passing through it. -/
def Tag.enter (t : Tag) (now pass : Nat) : Tag := { t.settle now with since := now + pass }

/-- R390, R393: the fields of a packet formed now from a request that holds these, entering a site's queue. -/
def Tag.formed (t : Tag) (now : Nat) : Tag := let q := t.enter now 2; { q with first := q.slack }

/-- R391: the fields a key is compared by, the last the port or stop number. -/
def Tag.key (t : Tag) (now port : Nat) : List Nat :=
  let t := t.settle now
  [if t.ovd then 0 else 1, if t.ovd then t.ovdt else t.slack, t.its, port]

/-- R391: one key is less than another. -/
def keyLess : List Nat → List Nat → Bool
  | a :: s, b :: t => decide (a < b) || (a == b && keyLess s t)
  | _, _ => false

/-- R392: what waits, in the order it came, with the keys it is granted by: one takes the lesser key of a later one that may not
pass it. -/
def heirs {α : Type} (key : α → List Nat) (bound : α → α → Bool) : List α → List (List Nat × α)
  | [] => []
  | p :: t => (t.foldl (fun k q => if bound p q && keyLess (key q) k then key q else k) (key p), p) :: heirs key bound t

/-- One put behind those whose keys are no greater. -/
def insertKey {α : Type} (x : List Nat × α) : List (List Nat × α) → List (List Nat × α)
  | [] => [x]
  | y :: t => if keyLess x.1 y.1 then x :: y :: t else y :: insertKey x t

/-- R391, R392: what waits, in the order in which it is granted. -/
def granting {α : Type} (key : α → List Nat) (bound : α → α → Bool) (l : List α) : List (List Nat × α) :=
  (heirs key bound l).foldl (fun q x => insertKey x q) []

/-- R391: the number of the port an agent's requests come in by, where they bring none of their own. -/
def Agent.port : Agent → Nat
  | .core k => cluster k
  | .gone cl => cl.toNat
  | .host => 32
  | .controller die => if die then 34 else 33
  | .peer n => 64 + n.toNat

/-- The 256-byte lines some parts touch. -/
def partLines (ps : List Part) : List Nat := ps.map fun p => p.loc / 256
def Req.lines (r : Req) : List Nat := partLines r.parts

/-- R137, R392: two requests to a common line. -/
def Req.sameLine (r q : Req) : Bool := r.lines.any q.lines.contains

/-- The counter for free values, advanced. -/
def State.ticked (s : State) : State := { s with tick := s.tick + 1 }

/-- The entries of one bundle changed. -/
def CoreState.updBundle (c : CoreState) (seq : Nat) (f : Bundle → Bundle) : CoreState :=
  { c with bundles := c.bundles.map fun b => if b.seq = seq then f b else b }

/-- R159: the entry does not issue now, and its check has not passed. -/
def State.holdUnchecked (s : State) : Out := .next (s.upd fun c => { c with held := true })

/-- R125, R132, R156: the entry being issued passes its check, with the pages and partitions it has found. -/
def CoreState.passCheck (c : CoreState) : CoreState :=
  c.updBundle c.cur.seq fun b => { b with
    entries := b.entries.map fun e => if e.slot = c.cur.slot then { e with checked := true, pass := c.cur.pass } else e }

/-- R156, R159: the entry has passed its check and does not issue now. -/
def State.hold (s : State) : Out := .next (s.upd fun c => { c.passCheck with held := true })

/-- R156: an entry of several elements does not issue now; its check has passed unless an element fails. -/
def State.await (s : State) (fails : Bool) : Out := if fails then s.holdUnchecked else s.hold

/-- The byte at a location before the writes noted in `o`, if one of them covers it. -/
def oldByte (o : OldBytes) (loc : Nat) : Option Byte :=
  match o with
  | [] => none
  | (a, bs) :: t => if a ≤ loc then (match bs[loc - a]? with | some b => some b | none => oldByte t loc) else oldByte t loc

/-- R139: `n` bytes as they stood before the writes noted in `o`. -/
def State.bytesOver (s : State) (o : OldBytes) (loc n : Nat) : List Byte :=
  match o with
  | [] => s.bytes loc n
  | _ => (List.range n).map fun i => (oldByte o (loc + i)).getD (s.byte (loc + i))

/-- R139: before a bundle of a core writes `n` bytes, its unissued entries and the unperformed operations it issued
keep what stands there. -/
def State.note (s : State) (id : BitVec 7) (seq loc n : Nat) : State :=
  let was := s.bytes loc n
  s.updCore id fun c => { c with
    bundles := c.bundles.map fun b => if b.seq = seq then { b with oldMem := b.oldMem ++ [(loc, was)] } else b
    ops := c.ops.map fun o => if o.seq = seq then { o with old := o.old ++ [(loc, was)] } else o }

/-! ### Launches and event records -/

/-- The launch of a core: die and LID of its LID register, if such a launch stands. -/
def State.launchOf (s : State) (c : CoreState) : Option Launch :=
  s.launches.find? fun l => l.die == (c.crGet 0x0C0).getLsbD 22 && l.lid.toNat == bitsOf (c.crGet 0x0C0) 0 16
    && l.phase == .running && l.gangs.any fun g => g.cores.contains c.id

/-- The launch's identity as held updates and windows carry it: die × 2^16 + LID. -/
def Launch.key (l : Launch) : Nat := (if l.die then 2 ^ 16 else 0) + l.lid.toNat
def CoreState.launchKey (c : CoreState) : Nat := bitsOf (c.crGet 0x0C0) 22 1 * 2 ^ 16 + bitsOf (c.crGet 0x0C0) 0 16

/-- An update of the launch with a key. -/
def State.updLaunch (s : State) (key : Nat) (f : Launch → Launch) : State :=
  { s with launches := s.launches.map fun l => if l.key == key then f l else l }

/-- R435: the launch becomes tainted with a cause, unless it already is. -/
def State.taintLaunch (s : State) (key : Nat) (cause : BitVec 8) : State :=
  s.updLaunch key fun l => if l.verdict == 2#2 then l else { l with verdict := 2#2, cause := cause }

/-- The stream controller of a die. -/
def State.ctl (s : State) (die : Bool) : Controller := if die then s.west else s.east
def State.updCtl (s : State) (die : Bool) (f : Controller → Controller) : State :=
  if die then { s with west := f s.west } else { s with east := f s.east }

/-- R435: the launch is corrected at least. -/
def State.correctLaunch (s : State) (key : Nat) : State :=
  s.updLaunch key fun l => if l.verdict == 0#2 then { l with verdict := 1#2 } else l

/-- R441: `pj` picojoules are added to a meter; 128 and up charge none. -/
def State.chargeMeter (s : State) (m pj : Nat) : State :=
  if pj = 0 ∨ 128 ≤ m then s
  else { s with
    charged := Cells.put 0#96 s.charged m
      (BitVec.ofNat 96 (((Cells.get 0#96 s.charged m).toNat + pj) % (1000 * 2 ^ 64))) }

/-- R440: the charge for `n` events of a kind, in pJ. -/
def State.eventCharge (s : State) (kind n : Nat) : Nat := n * bitsOf (s.devGet (0x0D0 + kind)) 0 32

/-- R441: `n` events of a kind caused by a launch are charged to it and to its queue's meter. -/
def State.charge (s : State) (key kind n : Nat) : State :=
  let pj := s.eventCharge kind n
  match s.launches.find? fun l => l.key == key with
  | none => s
  | some l => (s.updLaunch key fun l => { l with picojoule := l.picojoule + pj }).chargeMeter l.meter.toNat pj

/-- A register of a 64-bit record as bytes. -/
def word (v : Word64) : List Byte := leBytes 8 v.toNat

/-- R369, R443: a record that could not be enqueued. -/
def State.lostRecord (s : State) : State :=
  s.devPut 0x0C6 (BitVec.ofNat 64 (((s.devGet 0x0C6).toNat + 1) % 2 ^ 32))

/-- R443: an event record on its way to a queue: the common header, and the body filled to 64 bytes. A queue whose handle
does not name 64-byte elements cannot take it. -/
def State.sendRecord (s : State) (handle root : Word64) (sl cls lid core : Nat) (die : Bool) (body : List Byte) : State :=
  if bitsOf handle 0 4 ≠ 3 then s.lostRecord
  else
    let head := leBytes 8 (cls + lid % 2 ^ 16 * 2 ^ 16 + core % 2 ^ 7 * 2 ^ 32 + (if die then 2 ^ 39 else 0))
    let rec' := (head ++ word s.time ++ body ++ List.replicate 48 0#8).take 64
    let (u, s) := s.fresh
    let q : QReq := ⟨u, .controller die, .enqn, handle, 0, root, true, rec', .record true, sl, 0#48, 0, 0, s.cycle⟩
    { s with reqs := s.reqs ++ [⟨u, .controller die, 0#48, 0, 0, .queue q, [], false, s.tag sl⟩] }

/-- R389: entry 0 of the slack table in the image of the launch that launch logic serves. -/
def imageSlack (image : List Byte) : Nat := leNat ((image.drop 0x20).take 2) % 2 ^ 10

/-- R419, R443: a record to a launch's event queue; 0 names none. -/
def State.sendLaunch (s : State) (evq root : Word64) (sl cls lid core : Nat) (die : Bool) (body : List Byte) : State :=
  if evq = 0#64 then s else s.sendRecord evq root sl cls lid core die body

/-- R369, R419: the translation root of a core's launch, as its record gives it. -/
def State.rootOf (s : State) (c : CoreState) : Word64 :=
  match s.launchOf c with
  | some l => BitVec.ofNat 64 (leNat ((l.record.drop 8).take 8))
  | none => c.crGet 0x018

/-- R389: the slack of what launch logic sends for the launch of a core. -/
def State.coreSlack (s : State) (c : CoreState) : Nat := match s.launchOf c with | some l => imageSlack l.image | none => 0

/-- R155, R369, R443: a class-1 record of a core's events to its launch's queue. -/
def State.sendCoreEvent (s : State) (c : CoreState) (bits : Nat) : State :=
  s.sendLaunch (c.crGet 0x0C2) (s.rootOf c) (s.coreSlack c) 1 (bitsOf (c.crGet 0x0C0) 0 16) c.id.toNat (dieOf c.id)
    (leBytes 8 bits ++ word (c.crGet 0x009) ++ word (c.crGet 0x00A))

/-- R443: a record of another class to the host event queue. -/
def State.sendHost (s : State) (cls core : Nat) (die : Bool) (body : List Byte) : State :=
  s.sendRecord (s.devGet 0x0CB) (s.devGet 0x122) 0 cls 0 core die body

/-- R155: an event bit of a core sets; going from 0 to 1 it sends a record when EVREC asks for one. -/
def State.setEvent (s : State) (id : BitVec 7) (bit : Nat) : State :=
  let c := s.coreAt id
  let was := (c.crGet 0x042).getLsbD bit
  let s := s.updCore id fun c => c.crPut 0x042 (c.crGet 0x042 ||| BitVec.ofNat 64 (2 ^ bit))
  if !was && (c.crGet 0x044).getLsbD bit then s.sendCoreEvent (s.coreAt id) (2 ^ bit) else s

/-- R394: a packet of a core that becomes overdue counts in SLKEV. -/
def State.countOverdue (s : State) (a : Agent) (old new : Tag) : State :=
  match a with
  | .core k =>
    if new.ovd && !old.ovd && !old.mute then
      (s.updCore k fun c => c.crPut 0x00A (c.crGet 0x00A + 1#64)).setEvent k 1
    else s
  | _ => s

/-- R460: a core or slice is harvested at manufacture or retired since. -/
def State.coreGone (s : State) (k : BitVec 7) : Bool := Config.coreFused k.toNat || s.retiredCores.contains k
def State.sliceGone (s : State) (k : BitVec 6) : Bool := Config.sliceFused k.toNat || s.retiredSlices.contains k

/-- R460: the slice that serves a home slice: itself, or its partner when it is harvested. -/
def State.serving (s : State) (h : Nat) : BitVec 6 :=
  if s.sliceGone (BitVec.ofNat 6 h) then BitVec.ofNat 6 (h ^^^ 1) else BitVec.ofNat 6 h

/-- R11, R460: the number of the slice that serves a physical address. -/
def State.sliceAt (s : State) (pa : Nat) : Nat := (s.serving (homeSlice pa)).toNat

/-- A site's channel queues (R396, R397): the channel of a location's owner. -/
def State.chanOf (s : State) (loc : Nat) : Nat := if loc < 2 ^ 46 then s.sliceAt loc else 64 + (loc - 2 ^ 46) / 2 ^ 22 % 32

/-- Requests whose sender waits for an answer. -/
def Req.asks (r : Req) : Bool := match r.kind with | .load _ | .atom .. | .queue _ => true | _ => false

/-- R397: the site that owns a channel. -/
def chanSite (ch : Nat) : Nat := if ch < 64 then ch / 2 else ch - 64

/-- R403: the next end-to-end number of a source site, the site of a channel and a class (1 the reserved class). -/
def State.nextEsn (s : State) (src ch cls : Nat) : BitVec 16 × State :=
  let k := (src * 32 + chanSite ch) * 2 + cls
  let v := Cells.get 0#16 s.esns k
  (v, { s with esns := Cells.put 0#16 s.esns k (v + 1#16) })

/-- R191: the watchdog's count has reached its limit. -/
def CoreState.watchdogDue (c : CoreState) : Bool :=
  c.mode == .running && !c.inTrap && !c.drain && c.crGet 0x04A != 0#64 && decide ((c.crGet 0x04A).toNat ≤ c.wdCount)

/-! ### Retired bundles -/

/-- A bundle without entries retires; those after the oldest that still has one are kept as they ended. -/
def CoreState.sweep (c : CoreState) : CoreState :=
  let live := c.bundles.filter fun b => !b.entries.isEmpty
  let gone := (c.bundles.filter (·.entries.isEmpty)).map fun b => { b with old := [], oldMem := [] }
  { c with bundles := live, past := match live with | [] => [] | b :: _ => (c.past ++ gone).filter fun p => decide (b.seq < p.seq) }

/-- Something that holds of each bundle dispatched from number `lo` on, in dispatch order; `d` for one of which nothing is
kept. -/
def CoreState.sinceSeq {α : Type} (c : CoreState) (lo : Nat) (d : α) (f : Bundle → α) : List α :=
  (List.range (c.nextSeq - lo)).map fun i => (((c.bundles ++ c.past).find? (·.seq == lo + i)).map f).getD d

/-- Replay masks, without those at the end that mark nothing. -/
def trimMasks (ms : List (BitVec 8)) : List (BitVec 8) := (ms.reverse.dropWhile (· == 0#8)).reverse

/-- R462: the replay masks that the bundles from number `lo` on were dispatched under, and those still to come. -/
def CoreState.masksAfter (c : CoreState) (lo : Nat) : List (BitVec 8) :=
  trimMasks (c.sinceSeq lo 0#8 (·.mask) ++ c.replay :: c.replays)

/-- R133: the elements that have performed of the bundles from number `lo` on, and of those still to come. -/
def CoreState.redosAfter (c : CoreState) (lo : Nat) : List (List (Nat × Word64)) :=
  c.sinceSeq lo [] (·.redo) ++ c.redo :: c.redos

/-- R219: the slacks that the bundles from number `lo` on were dispatched with, and those still to come. A bundle of which nothing
is kept has no entry left to carry one. -/
def CoreState.slacksAfter (c : CoreState) (lo : Nat) : List (BitVec 10) := c.sinceSeq lo 0#10 (·.slack) ++ c.slacks

/-- R157: the slots in which no entry of a bundle before number `seq` waits; there a NOP of that bundle has retired. -/
def CoreState.clearSlots (c : CoreState) (seq : Nat) : BitVec 8 :=
  BitVec.ofNat 8 (([1, 2, 3, 4, 5, 6, 7].filter fun k =>
    !c.bundles.any fun b => decide (b.seq < seq) && b.entries.any (·.slot == k)).map fun k => 2 ^ (k - 1)).sum

/-- R462: what has issued or retired of bundle `seq`; of one of which nothing is kept every entry has issued. -/
def CoreState.doneMask (c : CoreState) (seq : Nat) : BitVec 8 :=
  match (c.bundles ++ c.past).find? (·.seq == seq) with
  | none => c.clearSlots seq
  | some b =>
    let waits : BitVec 8 := BitVec.ofNat 8 (b.entries.map fun e => 2 ^ (e.slot - 1)).sum
    b.done ||| (c.clearSlots seq &&& ~~~waits)

/-- R188: TDONE for bundle `seq`: zero when no entry of it has issued. -/
def CoreState.tdone (c : CoreState) (seq : Nat) : BitVec 8 :=
  match c.bundles.find? (·.seq == seq) with
  | some b => if b.done = 0#8 then 0#8 else c.doneMask seq
  | none => if c.nextSeq ≤ seq then 0#8 else c.doneMask seq

/-- The nest with the counts of an earlier one. -/
def withCounts (now was : List NestLevel) : List NestLevel := now.zipIdx.map fun p => { p.1 with count := ((was[p.2]?).getD p.1).count }

/-- R170, R462: the nest with the counts it had before the oldest bundle from number `lo` on that holds LOOPN: its LOOPN is
resolved again (log entry 12). -/
def CoreState.nestBefore (c : CoreState) (lo : Nat) : List NestLevel :=
  match (c.sinceSeq lo none (·.nest)).findSome? fun n => n with
  | some n => withCounts c.nest n
  | none => c.nest

/-- R170, R182: the nest with the counts it had before the oldest bundle from number `lo` on whose LOOPN has not issued: what has
issued stands. -/
def CoreState.nestOwed (c : CoreState) (lo : Nat) : List NestLevel :=
  match (c.bundles.filter fun b => decide (lo ≤ b.seq) && b.entries.any (·.slot == 1)).findSome? (·.nest) with
  | some n => withCounts c.nest n
  | none => c.nest

/-! ### Traps -/

/-- The bundle record of the entry being issued. -/
def CoreState.curBundle (c : CoreState) : Option Bundle := c.bundles.find? (·.seq == c.cur.seq)

/-- R174, R188: the levels as they stood before a bundle was dispatched, the note of a repeat as it stands now. -/
def Bundle.loopsNow (b : Bundle) : List LoopLevel :=
  b.loops.map fun l =>
    if l.rpt && l.start == b.pc && b.rp != 0 && b.done.getLsbD (b.rp - 1) then { l with eng := b.rp, issued := true } else l

/-- R188: the trap registers, the shadows, the raised level and the transfer to TVB. `done` is TDONE; `b` is the
oldest discarded bundle, whose record says how loops and segment stood before it; without one they stand as they are. `rs` are
the replay masks after the bundle at TPC, `es` the elements that have performed of that bundle's other slots and of later
bundles, `sl` the slacks of that bundle and of later ones. The shadowed segment stays readable and is suspended. -/
def CoreState.enterTrap (c : CoreState) (t : Trap) (done : BitVec 8) (b : Option Bundle) (rs : List (BitVec 8))
    (es : List (List (Nat × Word64))) (sl : List (BitVec 10)) : CoreState :=
  let loops := match b with | some b => b.loopsNow | none => c.loops
  let segst := match b with | some b => b.segst | none => c.crGet 0x047
  let segcrc := match b with | some b => b.segcrc | none => c.crGet 0x048
  let segexp := match b with | some b => b.segexp | none => c.segExp
  let sh : TrapShadow := ⟨t.tpc.setWidth 64, c.stalled, loops, segst, segcrc, segexp, c.crGet 0x040, c.crGet 0x041, rs, es, sl⟩
  let c := c.crPuts [(0x04B, c.status), (0x002, t.cause.setWidth 64), (0x003, t.tpc.setWidth 64), (0x004, t.tinfo0),
    (0x005, t.tinfo1), (0x006, t.tinfo2), (0x007, t.tinfo3), (0x04C, done.setWidth 64), (0x000, c.status ||| 3#64),
    (0x047, segst), (0x048, segcrc), (0x040, 0x7FFFF#64), (0x041, 0x7FFFF#64)]
  { c with
    shadow := some sh, loops := [], segExp := segexp, stalled := false, group := .start, replay := 0#8, replays := [], redo := [], redos := [], slacks := []
    held := false, trapReq := none, pc := (c.crGet 0x001).setWidth 48 &&& 0xFFFFFFFFFFE0#48 }

/-- R190: a second trap stops the core; its trap registers keep the first trap's record. -/
def State.doubleTrap (s : State) (cause : BitVec 8) : State :=
  let c := s.core
  let s := s.upd fun c => { c with mode := .dead, bundles := [], held := false, trapReq := none }
  let s := s.taintLaunch c.launchKey cause
  s.sendLaunch (c.crGet 0x0C2) (s.rootOf c) (s.coreSlack c) 2 (bitsOf (c.crGet 0x0C0) 0 16) c.id.toNat (dieOf c.id)
    (word (c.crGet 0x002) ++ word (c.crGet 0x003) ++ word (c.crGet 0x04B))

/-- R188: taking a trap raised by the entry being issued, or by its bundle at dispatch. Entries of its own bundle
that have not issued and everything later are discarded; entries of earlier bundles stay. -/
def State.takeTrap (s : State) (t : Trap) : State :=
  let c := s.core
  if c.inTrap then s.doubleTrap t.cause
  else
    let own := if t.cause == 0x38#8 then none else c.curBundle
    let c' := { c with
      bundles := c.bundles.filter (fun b => decide (b.seq < c.cur.seq)), past := c.past.filter fun b => decide (b.seq < c.cur.seq) }
    s.upd fun _ =>
      match own with
      | some b => { c' with nest := c.nestBefore b.seq }.enterTrap t (c.tdone b.seq) (some b) (c.masksAfter (b.seq + 1))
          (b.redo.filter (·.1 != c.cur.slot) :: c.redosAfter (b.seq + 1)) (c.slacksAfter b.seq)
      | none => c'.enterTrap t c.replay none (trimMasks c.replays) (c.redo :: c.redos) c.slacks

/-- A trap of the entry being issued, its TPC the entry's bundle. -/
def State.trap (s : State) (cause : BitVec 8) (t0 t1 t2 t3 : Word64) : Out :=
  .next (s.takeTrap ⟨cause, s.core.cur.pc, t0, t1, t2, t3⟩)

/-- The slot number of the entry being issued, as TINFO0[3:0] holds it. -/
def State.slotInfo (s : State) : Word64 := BitVec.ofNat 64 s.core.cur.slot

/-- Trap 0x0B of a check that forms no address (R75, R78, R83): the slot alone is recorded. -/
def State.trap0B (s : State) : Out := s.trap 0x0B#8 s.slotInfo 0#64 0#64 0#64

/-- Trap 0x02 decided by the check (R156). -/
def State.trap02 (s : State) : Out := s.trap 0x02#8 s.slotInfo 0#64 0#64 0#64

/-- R187: the causes that TRET cannot continue. -/
def resumable (cause : Nat) : Bool := cause != 0x29 && cause != 0x31 && cause != 0x39

/-- R189: the return from a trap whose cause is resumable. The done-mask of TINFO2 guards the replay (R133); the elements
of other entries are guarded while TPC names the same bundle. -/
def CoreState.returnTrap (c : CoreState) : CoreState :=
  let cause := bitsOf (c.crGet 0x002) 0 8
  let sh := c.shadow.getD ⟨c.crGet 0x003, false, [], 0#64, 0#64, 0#64, 0x7FFFF#64, 0x7FFFF#64, [], [], []⟩
  let mask := if (0x08 ≤ cause ∧ cause ≤ 0x0B) ∨ cause = 0x20 then (if c.crGet 0x003 = sh.tpc then c.crGet 0x006 else 0#64) else 0#64
  let tpc := c.crGet 0x003
  let es := if tpc = sh.tpc then sh.redos else []
  let redo := (if mask = 0#64 then [] else [(bitsOf (c.crGet 0x004) 0 4, mask)]) ++ es.headD []
  let done := (c.crGet 0x04C).setWidth 8
  let c := c.crPuts [(0x000, c.crGet 0x04B &&& 0xFFFFFFFFFFFFFFFD#64), (0x047, sh.segst), (0x048, sh.segcrc),
    (0x040, sh.mrem), (0x041, sh.mlim), (0x04C, 0#64)]
  { c with
    shadow := none, loops := sh.loops, segExp := sh.segexp, group := .start, replay := done, redo := redo
    replays := if tpc = sh.tpc then sh.replays else [], redos := es.drop 1
    slacks := if tpc = sh.tpc then sh.slacks else []
    stalled := sh.stalled, pc := tpc.setWidth 48 &&& 0xFFFFFFFFFFE0#48 }

end Sys2Proof.Machine
end

