-- ==== Sys2Proof/Machine/Access.lean ====
section
/-! DEFINITION. Reaching memory: format regions and the physical map, page-table walks and translation buffers, the
checks of R131, the L1 caches, the holds of channels and frame banks, and the requests a core sends to the slices. -/

namespace Sys2Proof.Machine

/-! ### The physical map (R115, R116, R124) -/

/-- R115: a format region is enabled. -/
def State.fmtOn (s : State) (n : Nat) : Bool := (s.devGet (0x140 + 4 * n)).getLsbD 63
def State.fmtBase (s : State) (n : Nat) : Nat := bitsOf (s.devGet (0x140 + 4 * n)) 0 45
def State.fmtLimit (s : State) (n : Nat) : Nat := bitsOf (s.devGet (0x141 + 4 * n)) 0 45
def State.fmtKind (s : State) (n : Nat) : Nat := bitsOf (s.devGet (0x140 + 4 * n)) 52 4
def State.fmtGroup (s : State) (n : Nat) : Nat := bitsOf (s.devGet (0x140 + 4 * n)) 56 2
def State.fmtRecs (s : State) (n : Nat) : Nat := bitsOf (s.devGet (0x142 + 4 * n)) 0 45
def State.fmtMap (s : State) (n : Nat) : Nat := bitsOf (s.devGet (0x143 + 4 * n)) 0 45

/-- R116: the bytes of a tile: 16 KiB for Q4G, 32 KiB otherwise. -/
def tileBytes (fmt : Nat) : Nat := if fmt = 13 then 16384 else 32768

/-- The enabled region whose raw range holds an address; the first, where writes of FMTn.B have made two overlap (log entry 44). -/
def State.regionOf (s : State) (raw : Nat) : Option Nat :=
  (List.range 16).find? fun n => s.fmtOn n && decide (s.fmtBase n ≤ raw) && decide (raw < s.fmtLimit n)

/-- R124: whether a physical address is mapped. -/
def State.mapped (s : State) (pa : Nat) : Bool :=
  isRaw pa || isHostWin pa || isPeerWin pa || (isDecoded pa && (s.regionOf (pa - 2 ^ 45)).isSome)

/-! ### Translation (R128 to R130) -/

/-- Why a walk failed: TINFO3 of R132. -/
structure WalkErr where
  level : Nat
  malformed : Bool
  unmapped : Bool
  deriving DecidableEq, Repr

/-- R129: the lowest index bit and the index width of a level. -/
def walkShift (lv : Nat) : Nat × Nat :=
  match lv with | 0 => (39, 9) | 1 => (30, 9) | 2 => (21, 9) | _ => (16, 5)

/-- R129: the walk from level `lv` with the table at `t`; `fuel` levels are left. -/
def State.walkFrom (s : State) (va : Nat) (fuel lv t : Nat) : Except WalkErr Page :=
  match fuel with
  | 0 => .error ⟨lv, true, false⟩
  | fuel + 1 =>
    let bytes := if lv = 3 then 256 else 4096
    if !(isRaw t && isRaw (t + bytes - 1)) then .error ⟨lv, true, false⟩
    else
      let (sh, n) := walkShift lv
      let e := s.num (t + 8 * (va / 2 ^ sh % 2 ^ n)) 8
      let addr := e / 2 ^ 8 % 2 ^ 38 * 256
      if e % 2 = 0 then .error ⟨lv, false, false⟩
      else if e / 2 ^ 6 % 4 ≠ 0 ∨ e / 2 ^ 46 ≠ 0 then .error ⟨lv, true, false⟩
      else if e / 2 % 2 = 1 then
        if lv = 0 then .error ⟨lv, true, false⟩
        else
          let size := 2 ^ sh
          if addr % size ≠ 0 then .error ⟨lv, true, false⟩
          else if !s.mapped (addr + va % size) then .error ⟨lv, false, true⟩
          else .ok ⟨va / size * size, addr, size, e / 4 % 2 == 1, e / 8 % 2 == 1, e / 16 % 2 == 1, e / 32 % 2 == 1⟩
      else if lv = 3 ∨ e / 4 % 16 ≠ 0 then .error ⟨lv, true, false⟩
      else if lv ≤ 1 ∧ addr % 4096 ≠ 0 then .error ⟨lv, true, false⟩
      else s.walkFrom va fuel (lv + 1) addr

/-- R129: the walk under a translation root (the layout of PTBR). -/
def State.walk (s : State) (root : Word64) (va : Nat) : Except WalkErr Page :=
  s.walkFrom va 4 0 (bitsOf root 12 34 * 4096)

/-- R130: the entry of a cluster's translation buffer that maps an address. -/
def State.tlbHit (s : State) (cl : Nat) (root : Word64) (va : Nat) : Option TlbEntry :=
  s.tlb.find? fun e => e.cluster == cl && (e.gl || e.asid == root.setWidth 12) && decide (e.va ≤ va)
    && decide (va < e.va + e.size)

def TlbEntry.page (e : TlbEntry) : Page := ⟨e.va, e.pa, e.size, e.w, e.x, e.k, e.gl⟩

/-- R124, R129, R130: translation through the buffer; where the table has changed since, either entry may be used, an old
one where its target is mapped. -/
def State.translate (s : State) (cl : Nat) (root : Word64) (va : Nat) : Except WalkErr Page :=
  match s.tlbHit cl root va, s.walk root va with
  | none, r => r
  | some e, r =>
    let old : Except WalkErr Page := if Config.freeChoice s.tick va && s.mapped (e.pa + (va - e.va)) then .ok e.page else r
    match r with
    | .ok p => if e.page = p then .ok p else old
    | .error _ => old

/-- The buffer after a translation. -/
def State.fillTlb (s : State) (cl : Nat) (root : Word64) (p : Page) : State :=
  match s.tlbHit cl root p.va with
  | some _ => s
  | none => { s with
      tlb := ⟨cl, root.setWidth 12, p.gl, p.va, p.size, p.pa, p.w, p.x, p.k⟩ :: s.tlb }

/-! ### The checks of R131 on one element -/

/-- What an access is, for its permission and its trap record (R132). -/
structure AccKind where
  write : Bool
  fetch : Bool
  atomic : Bool
  deriving DecidableEq, Repr

def AccKind.rd : AccKind := ⟨false, false, false⟩
def AccKind.wr : AccKind := ⟨true, false, false⟩
def AccKind.at : AccKind := ⟨true, false, true⟩
def AccKind.fe : AccKind := ⟨false, true, false⟩

/-- A failed check: the cause and TINFO3. -/
structure AccFault where
  cause : BitVec 8
  info : Word64
  deriving DecidableEq, Repr

def WalkErr.fault (e : WalkErr) : AccFault :=
  ⟨0x08#8, BitVec.ofNat 64 (e.level + (if e.malformed then 4 else 0) + (if e.unmapped then 8 else 0))⟩

/-- R132: a failed permission, at the level of its leaf. -/
def Page.denied (p : Page) : AccFault :=
  ⟨0x09#8, if p.size = 2 ^ 30 then 1#64 else if p.size = 2 ^ 21 then 2#64 else 3#64⟩

/-- Where an element lies: its location, and the page that maps it. -/
structure Place where
  loc : Nat
  page : Option Page
  deriving DecidableEq, Repr

/-- R127: the scratchpad partition a SPART value describes holds a range. -/
def inPartition (base size a n : Nat) : Bool :=
  decide (base * 65536 ≤ a) && decide (a + n ≤ (base + size) * 65536)

/-- R125: the range lies in the issuing core's partition. -/
def CoreState.ownsSpad (c : CoreState) (a n : Nat) : Bool :=
  inPartition (bitsOf (c.crGet 0x01A) 0 6) (bitsOf (c.crGet 0x01A) 6 7) a n

/-- R419: the TENANT of a launch record. -/
def Launch.tenant (l : Launch) : Nat := leNat (l.record.drop 24) % 2 ^ 16

/-- The launches that hold resources: those placed, and those whose DEQ is on its way. -/
def State.standing (s : State) : List Launch :=
  s.launches.filter (·.phase != .retired) ++ s.launchQueues.filterMap (·.deciding)

/-- R125: the gangs that own a partition of a cluster: from the decision that places them until their cores have halted. -/
def Launch.gangsOn (l : Launch) (cl : Nat) : List Gang :=
  l.gangs.filter fun g => g.placed && !(g.cores.all g.halted.contains) && g.cores.head?.any fun k => cluster k == cl

/-- R125: the gang of the same tenant on the named cluster whose partition holds a range. -/
def State.peerGang (s : State) (c : CoreState) (cl a n : Nat) : Option Gang :=
  ((s.standing.filter fun l => l.tenant == bitsOf (c.crGet 0x0C1) 0 16).flatMap (·.gangsOn cl)).find? fun g => inPartition g.pbase g.psize a n

/-- R132, R156: what the check of the entry being issued has found of a range of addresses. -/
def CoreState.passed (c : CoreState) (a n : Nat) : Option Page :=
  c.cur.pass.find? fun p => decide (p.va ≤ a) && decide (a + n ≤ p.va + p.size)

/-- R122, R125: a partition of a peer's scratchpad as a range of tagged addresses. -/
def Gang.peerPage (g : Gang) (cl : Nat) : Page :=
  ⟨2 ^ 61 + cl * 2 ^ 22 + g.pbase * 65536, Loc.spad cl (g.pbase * 65536), g.psize * 65536, true, false, true, false⟩

/-- The partition that such a page stands for, as SPART gives one. -/
def Page.partition (p : Page) : Nat × Nat := (p.va % 2 ^ 22 / 65536, p.size / 65536)

/-- R125: the verdict of the named cluster on a range of its scratchpad: that of the entry's check, where it has passed. -/
def State.peerSpad (s : State) (c : CoreState) (cl a n : Nat) : Option Page :=
  match c.passed (2 ^ 61 + cl * 2 ^ 22 + a) n with
  | some p => some p
  | none => (s.peerGang c cl a n).map (·.peerPage cl)

/-- R131 items 3 and 4: the walk and the permission of a device virtual address; an entry whose check has passed keeps the page
it found. -/
def State.placeVA (s : State) (cl : Nat) (root : Word64) (sup : Bool) (va : Nat) (k : AccKind) :
    Except AccFault Place :=
  let found := if root = s.core.crGet 0x018 then s.core.passed va 1 else none
  match found.elim (s.translate cl root va) Except.ok with
  | .error e => .error e.fault
  | .ok p =>
    let pa := p.pa + (va - p.va)
    if (k.write && !p.w) || (k.fetch && !p.x) || (!sup && !p.k) || (k.write && isDecoded pa)
    then .error p.denied
    else .ok ⟨pa, some p⟩

/-- R122, R125, R126, R131: the checks of one element of an S-slot or V-slot access. -/
def State.place (s : State) (addr : Word64) (n align : Nat) (k : AccKind) : Except AccFault Place :=
  let c := s.core
  let a := addr.toNat
  let local' := a % 2 ^ 22
  if a % align ≠ 0 then .error ⟨0x0A#8, 0#64⟩
  else match a / 2 ^ 60 with
  | 0 =>
    if a / 2 ^ 48 ≠ 0 then .error ⟨0x0B#8, 0#64⟩
    else s.placeVA (cluster c.id) (c.crGet 0x018) c.sup a k
  | 1 =>
    if a / 2 ^ 22 % 2 ^ 38 ≠ 0 ∨ c.ownsSpad local' n = false then .error ⟨0x0B#8, 0#64⟩
    else .ok ⟨Loc.spad (cluster c.id) local', none⟩
  | 2 =>
    let cl := a / 2 ^ 22 % 32
    if a / 2 ^ 27 % 2 ^ 33 ≠ 0 then .error ⟨0x0B#8, 0#64⟩
    else if cl = cluster c.id then
      (if c.ownsSpad local' n then .ok ⟨Loc.spad cl local', none⟩ else .error ⟨0x0B#8, 0#64⟩)
    else match s.peerSpad c cl local' n with
      | some p => .ok ⟨Loc.spad cl local', some p⟩
      | none => .error ⟨0x0B#8, 0#64⟩
  | 4 =>
    if a / 2 ^ 24 % 2 ^ 36 ≠ 0 ∨ k.write = true ∨ 2 ^ 24 < a % 2 ^ 24 + n then .error ⟨0x0B#8, 0#64⟩
    else .ok ⟨Loc.deck c.id.toNat (a % 2 ^ 24), none⟩
  | _ => .error ⟨0x0B#8, 0#64⟩

/-- R132: the trap of a failed access check of element `e`. -/
def State.accTrap (s : State) (f : AccFault) (k : AccKind) (e : Nat) (addr done : Word64) : Out :=
  s.trap f.cause
    (BitVec.ofNat 64 (s.core.cur.slot + (if k.write then 16 else 0) + (if k.fetch then 32 else 0)
      + (if k.atomic then 64 else 0) + e % 256 * 256))
    addr done f.info

/-- What a check of the entry being issued has found is kept with it (R156), a page of memory also in the translation buffer of
the core's cluster. -/
def State.usePage (s : State) (p : Page) : State :=
  let s := if p.va < 2 ^ 48 then s.fillTlb (cluster s.core.id) (s.core.crGet 0x018) p else s
  if s.core.cur.pass.contains p then s else s.upd fun c => { c with cur := { c.cur with pass := p :: c.cur.pass } }

/-- The same of a checked element. -/
def State.notePage (s : State) (p : Place) : State :=
  match p.page with
  | some g => s.usePage g
  | none => s

/-! ### Register-store ranges (R72, R78, R84 to R86) -/

/-- R73: fields of view register n. -/
def CoreState.viewReg (c : CoreState) (n : Nat) : Word64 := c.crGet (0x010 + n)
def vwBase (v : Word64) : Nat := bitsOf v 0 13 * 128
def vwSize (v : Word64) : Nat := bitsOf v 13 14 * 128
def vwKind (v : Word64) : Nat := bitsOf v 27 3
def vwSplit (v : Word64) : Bool := v.getLsbD 30
def vwRows (v : Word64) : Nat := bitsOf v 32 12
def vwRowb (v : Word64) : Nat := bitsOf v 44 8

/-- R75, R78: the windows of store bytes a view opens, as (start, length). -/
def viewWindows (v : Word64) : List (Nat × Nat) :=
  if vwSplit v then [(vwBase v, vwSize v), (vwBase v + 0x80000, vwSize v)] else [(vwBase v, vwSize v)]

/-- R78: every byte of a range lies in the union of views 1 to 7: the part from `a` on, taken window by window. -/
def inWindows (ws : List (Nat × Nat)) (fuel a hi : Nat) : Bool :=
  match fuel with
  | 0 => decide (hi ≤ a)
  | fuel + 1 =>
    if hi ≤ a then true
    else match ws.find? fun w => decide (w.1 ≤ a) && decide (a < w.1 + w.2) with
      | some w => inWindows ws fuel (w.1 + w.2) hi
      | none => false

/-- R78: a range of store bytes reached through an address register may be accessed. -/
def CoreState.storeOk (c : CoreState) (a n : Nat) : Bool :=
  decide (512 ≤ a) && decide (a + n ≤ 2 ^ 20)
    && inWindows ((List.range 7).flatMap fun i => viewWindows (c.viewReg (i + 1))) 15 a (a + n)

/-- R75: the store address of register n of a view whose registers hold E bytes; none when it does not exist. -/
def regAddr (v : Word64) (E n : Nat) : Option Nat :=
  let off := if vwSplit v then E * (n / 2) else E * n
  let a := vwBase v + off + (if vwSplit v then 0x80000 * (n % 2) else 0)
  if off + E ≤ vwSize v ∧ E ≠ 0 then some a else none

/-- The store address of v[n]. -/
def CoreState.vAddr (c : CoreState) (n : BitVec 9) : Option Nat := regAddr (c.viewReg 1) 128 n.toNat
/-- The store address of a[n]. -/
def CoreState.aAddr (c : CoreState) (n : BitVec 3) : Option Nat := regAddr (c.viewReg 3) 32768 n.toNat

/-- Two byte ranges touch a common 1 KiB granule (R84). -/
def sameGranule (a b : Nat × Nat) : Bool :=
  a.2 != 0 && b.2 != 0 && decide (a.1 / 1024 ≤ (b.1 + b.2 - 1) / 1024) && decide (b.1 / 1024 ≤ (a.1 + a.2 - 1) / 1024)

/-! ### Holds of channels and frame banks (R272, R339) -/

/-- R255: fields of CHCFG and CHX. -/
def chBase (v : Word64) : Nat := bitsOf v 0 42 * 64
def chSpace (v : Word64) : Nat := bitsOf v 42 2
def chLen (v : Word64) : Nat := bitsOf v 44 20 * 64
def chFill (v : Word64) : Nat := bitsOf v 0 20 * 64

/-- R122, R271, R272: an address of a space, own-cluster scratchpad addresses as cluster ones. -/
def CoreState.canon (c : CoreState) (space a : Nat) : Nat × Nat :=
  if space = 1 then (2, cluster c.id * 2 ^ 22 + a) else (space, a)

/-- R255: where a channel's window begins. -/
def CoreState.window (c : CoreState) (cfg : Word64) : Nat × Nat := c.canon (chSpace cfg) (chBase cfg)

/-- R272: a range of a space lies at or above some enabled channel's watermark. -/
def CoreState.wmWait (c : CoreState) (space a n : Nat) : Bool :=
  (List.range 32).any fun ch =>
    let g := c.crGet (0x080 + ch)
    let f := chFill (c.crGet (0x0A0 + ch))
    let w := c.window g
    let (space, a) := c.canon space a
    chLen g != 0 && w.1 == space && decide (a < w.2 + chLen g) && decide (w.2 + f < a + n) && decide (f < chLen g)

/-- R86, R272: a store instruction of the entry being issued waits: it reads a busy granule, or writes a busy or locked
one, or an access of the S slot or a V slot meets a watermark in the store. Operations of its own engine queue do not
count, and for its reads none of its own bundle, before whose writes they take their values (R86, R139). -/
def CoreState.bitWait (c : CoreState) (eng : Option Nat) (reads writes : List (Nat × Nat)) : Bool :=
  (c.ops.any fun o => eng != some o.eng
    && (o.busy.any (fun r => (decide (o.seq < c.cur.seq) && reads.any (sameGranule r)) || writes.any (sameGranule r))
      || o.locks.any fun r => writes.any (sameGranule r)))
    || (decide (c.cur.slot ≤ 3) && (reads ++ writes).any fun r => r.2 != 0 && c.wmWait 3 r.1 r.2)

/-- R272: the space and address a tagged address names. -/
def wmTag (addr : Word64) : Nat × Nat :=
  let a := addr.toNat
  match a / 2 ^ 60 with
  | 0 => (0, a % 2 ^ 48)
  | 1 => (1, a % 2 ^ 22)
  | 2 => (2, a % 2 ^ 27)
  | _ => (4, 0)

/-- R338: the local address of page p of bank b, and the bank size in pages. -/
def bankBase (frbnk : Word64) (b : Bool) : Nat := bitsOf frbnk (if b then 6 else 0) 6 * 65536
def bankPages (frbnk : Word64) : Nat := bitsOf frbnk 12 4
def CoreState.bank (c : CoreState) (b : Bool) : BankDesc := if b then c.bank1 else c.bank0
def CoreState.setBank (c : CoreState) (b : Bool) (d : BankDesc) : CoreState :=
  if b then { c with bank1 := d } else { c with bank0 := d }

/-- R346: the pages that the FRST operations of a lead core have still to read, of a bank. -/
def CoreState.storingPages (c : CoreState) (b : Bool) : List Nat :=
  c.ops.flatMap fun o =>
    match o.instr, o.extra with
    | .frst _, w :: ps => if w == (if b then 1 else 0) then ps else []
    | _, _ => []

/-- R339: an access of the gang to own-cluster scratchpad bytes waits for a bank. -/
def State.bankWait (s : State) (loc n : Nat) (write : Bool) : Bool :=
  let lead := s.coreAt s.core.gang.lead
  let lo := Loc.spad (cluster s.core.id) 0
  let one (b : Bool) : Bool :=
    let base := lo + bankBase (lead.crGet 0x00E) b
    let len := bankPages (lead.crGet 0x00E) * 65536
    decide (loc < base + len) && decide (base < loc + n)
      && ((lead.bank b).state == 1
        || (write && (lead.storingPages b).any fun p =>
            decide (loc < base + (p + 1) * 65536) && decide (base + p * 65536 < loc + n)))
  decide (lo ≤ loc) && decide (loc < lo + 2 ^ 22) && (one false || one true)

/-- R338: a write that performs at the scratchpad sets the dirty bits of the ready banks it touches. -/
def CoreState.dirtyBank (c : CoreState) (b : Bool) (loc n : Nat) : CoreState :=
  let d := c.bank b
  let base := Loc.spad (cluster c.id) (bankBase (c.crGet 0x00E) b)
  if d.state != 2 then c
  else
    let hit := (List.range 12).filter fun p => decide (p < d.npg) && decide (loc < base + (p + 1) * 65536)
      && decide (base + p * 65536 < loc + n)
    c.setBank b { d with dirty := hit.foldl (fun m p => m ||| BitVec.ofNat 12 (2 ^ p)) d.dirty }

/-- R338: the dirty bits after scratchpad bytes are written, in every core's descriptors of that cluster. -/
def State.noteSpad (s : State) (loc n : Nat) : State :=
  if loc < 2 ^ 46 ∨ 2 ^ 47 ≤ loc then s
  else
    let f := fun (c : CoreState) =>
      if Loc.spad (cluster c.id) 0 ≤ loc ∧ loc < Loc.spad (cluster c.id + 1) 0
        ∧ (c.bank0.state = 2 ∨ c.bank1.state = 2) then (c.dirtyBank false loc n).dirtyBank true loc n else c
    { s with core := f s.core, parked := s.parked.map f }

/-- Bytes written anywhere but physical memory, with the dirty bits they set. -/
def State.writeLocal (s : State) (loc : Nat) (bs : List Byte) : State := (s.write loc bs).noteSpad loc bs.length

/-- A write by the entry being issued to bytes of the core's own storage. -/
def State.writeSync (s : State) (loc : Nat) (bs : List Byte) : State :=
  (s.note s.core.id s.core.cur.seq loc bs.length).writeLocal loc bs

/-- R139: a read by the entry being issued. -/
def State.readSync (s : State) (loc n : Nat) : List Byte := s.bytesOver s.core.cur.oldMem loc n

/-- Lane i of the vector register at store address `a`, as the entry being issued reads it. -/
def State.laneSync (s : State) (a i : Nat) : Nat := leNat (s.readSync (s.st (a + 4 * i)) 4)

/-! ### L1 (R134, R135, R142) -/

/-- R135: the array that holds a line for a core. -/
def CoreState.l1Owner (c : CoreState) (pa : Nat) : BitVec 7 :=
  if c.gang.fused then BitVec.ofNat 7 (c.gang.lead.toNat / 4 * 4 + pa / 2 ^ 8 % 4) else c.id

/-- R134: targets that L1 serves. -/
def usesL1 (pa : Nat) : Bool := isRaw pa || isDecoded pa

def State.l1Sector (s : State) (c : CoreState) (pa : Nat) : Option L1Sector :=
  s.l1.find? fun e => e.owner == c.l1Owner pa && e.sec == pa / 64

/-- The bytes a home slice returns now; for the decoded view those of the decoded line, if it is there (R119). -/
def State.sliceBytes (s : State) (pa n : Nat) : Option (List Byte) :=
  if isDecoded pa then
    (s.decoded.find? fun d => d.line == pa / 256).map fun d => (d.data.drop (pa % 256)).take n
  else some (s.bytes pa n)

/-- R142: the bytes an L1 hit returns: those filled; where memory has changed since, the sector may also have left
the cache, and the read misses. -/
def State.l1Read (s : State) (pa n : Nat) : Option (List Byte) :=
  match s.l1Sector s.core pa with
  | none => none
  | some e =>
    let got := (e.data.drop (pa % 64)).take n
    if s.sliceBytes pa n = some got ∨ Config.freeChoice s.tick pa = true then some got else none

/-- R181: a hit returns bytes with an error. -/
def State.l1Bad (s : State) (pa n : Nat) : Bool :=
  (s.l1Sector s.core pa).any fun e => e.bad.any fun i => decide (pa % 64 ≤ i) && decide (i < pa % 64 + n)

/-- A list with part of it replaced. -/
def splice (l : List Byte) (at' : Nat) (bs : List Byte) : List Byte :=
  l.take at' ++ bs ++ l.drop (at' + bs.length)

/-- R140, R142: the sector of an address leaves the L1 of a core: its reads miss from now on. -/
def State.l1Drop (s : State) (id : BitVec 7) (pa : Nat) : State :=
  let own := (s.coreAt id).l1Owner pa
  { s with l1 := s.l1.filter fun e => !(e.owner == own && e.sec == pa / 64) }

/-- R134: a store updates the bytes of a present sector. -/
def State.l1Store (s : State) (pa : Nat) (bs : List Byte) : State :=
  let own := s.core.l1Owner pa
  { s with
    l1 := s.l1.map fun e =>
      if e.owner == own && e.sec == pa / 64 then
        { e with data := splice e.data (pa % 64) bs, bad := e.bad.filter fun i => decide (i < pa % 64) || decide (pa % 64 + bs.length ≤ i) }
      else e }

/-- R134, R135: the cores whose arrays an invalidation by a core clears. -/
def CoreState.l1Cores (c : CoreState) : List (BitVec 7) :=
  if c.gang.fused then (List.range 4).map fun i => BitVec.ofNat 7 (c.gang.lead.toNat / 4 * 4 + i) else [c.id]

/-- The invalidation of L1 (the fused L1 in a fused gang). -/
def State.l1Clear (s : State) : State :=
  let cs := s.core.l1Cores
  { s with l1 := s.l1.filter fun e => !cs.contains e.owner }

/-! ### Requests on their way (R138, R141, R150, R213, R400) -/

/-- Every request not yet performed: in a packet, or at a slice or window. -/
def State.pending (s : State) : List Req := s.packets.filterMap (·.payload) ++ s.reqs ++ s.remotes.map (·.req)

/-- The pending accesses of a core. -/
def State.pendingOf (s : State) (id : BitVec 7) : List Req := s.pending.filter fun r => r.agent == .core id

/-- R46: lanes of earlier bundles' loads that have not reached the store yet, among some ranges of the core's store. -/
def State.lanesDue (s : State) (rs : List (Nat × Nat)) : Bool :=
  let hit (seq : Nat) (d : LoadDest) : Bool :=
    match d with | .lanes a => seq != s.core.cur.seq && rs.any fun r => decide (r.1 < a + 128) && decide (a < r.1 + r.2) | _ => false
  (s.pendingOf s.core.id).any (fun r => match r.kind with | .load d => hit r.seq d | .atom _ _ d => hit r.seq d | _ => false)
    || s.replies.any fun r => r.core == s.core.id && hit r.seq r.dest

/-- R46, R86, R272: a store instruction waits for the store's bits, a watermark, or a load. -/
def State.storeWait (s : State) (eng : Option Nat) (reads writes : List (Nat × Nat)) : Bool :=
  s.core.bitWait eng reads writes || s.lanesDue (reads ++ writes)

def Part.overlaps (p : Part) (loc n : Nat) : Bool := decide (p.loc < loc + n) && decide (loc < p.loc + p.n)
def Req.touches (r : Req) (loc n : Nat) : Bool := r.parts.any (·.overlaps loc n)
def Req.isWrite (r : Req) : Bool := match r.kind with | .load _ => false | .queue _ => false | _ => true
def Req.isLoad (r : Req) : Bool := match r.kind with | .load _ => true | .atom .. => true | _ => false
def Req.remote (r : Req) : Bool := r.parts.any fun p => isRemote p.loc

/-- R140: an access of the core to bytes that an earlier pending access of its own touches waits. -/
def State.ownWait (s : State) (loc n : Nat) : Bool := (s.pendingOf s.core.id).any fun r => r.touches loc n

/-- A value of a load, and no answer of a queue. -/
def LoadDest.isValue : LoadDest → Bool
  | .queue .. => false
  | _ => true

/-- R213, R251: instructions of a slot with loads sent or replies on their way, and with stores to perform. -/
def State.loadsOut (s : State) (slot : Nat) : Nat :=
  (((s.pendingOf s.core.id).filter fun r => r.isLoad && r.slot == slot).map (·.seq)
    ++ (s.replies.filter fun r => r.core == s.core.id && r.slot == slot && r.dest.isValue).map (·.seq)).eraseDups.length
def State.storesOut (s : State) (slot : Nat) : Nat :=
  (((s.pendingOf s.core.id).filter fun r => r.isWrite && !r.isLoad && r.slot == slot).map (·.seq)).eraseDups.length

/-- R400, R401, R405: the permits that a core has out at a slice: of requests that have left its outbound queue and have not
performed, left for a port, or had their reply leave; of parked ones; and those a reset notice has still to restore. -/
def State.permitsUsed (s : State) (id : BitVec 7) (slice : Nat) : Nat :=
  let here (p : Part) : Bool := isPhys p.loc && s.sliceAt p.loc == slice
  let mine (r : Req) : Bool := r.agent == .core id && r.parts.any here
  (((s.packets.filter fun p => !p.out).filterMap (·.payload) ++ s.reqs ++ (s.remotes.filter (·.stage == .slice)).map (·.req)).filter mine).length
    + (s.waiters.filter fun w => w.agent == .core id && s.sliceAt w.qpa == slice).length
    + (s.replies.filter fun r => !r.granted && r.core == id && r.parts.any fun p => here p && !isRemote p.loc).length
    + s.resetPermits.count (id, slice)

/-- R400: a request has its permits. -/
def State.permitted (s : State) (r : Req) : Bool :=
  match r.agent with
  | .core k => r.parts.all fun p => !isPhys p.loc || decide (s.permitsUsed k (s.sliceAt p.loc) < 4)
  | _ => true

/-- R389, R390, R396, R400: a request put into a packet at a site: into its core's outbound queue while it has no permit or an
earlier request of its core to its lines waits there, else into the site's queue. -/
def State.inject (s : State) (src : Nat) (r : Req) : State :=
  let ch := s.chanOf ((r.parts.head?.map (·.loc)).getD 0)
  let after := s.packets.any fun p => p.out && p.agent == r.agent && (match p.payload with | some q => q.sameLine r | none => false)
  let out := after || !s.permitted r
  let pass := if out then 1 else match r.agent with | .core _ => 3 | _ => 2
  let (e, s) := s.nextEsn src ch 0
  { s with packets := s.packets ++ [⟨r.uid, r.agent, src, ch, { r.tag with since := s.cycle + pass }, 0, e, out, false, r.asks, some r⟩] }

def Part.value (p : Part) : Nat := leNat p.data
def Req.loc (r : Req) : Nat := (r.parts.head?.map (·.loc)).getD 0

/-- R393: a reply of `r`'s serialisation point at a site starts back to core `k`, with the slack its request holds now. -/
def State.replyTo (s : State) (r : Req) (k : BitVec 7) (dest : LoadDest) (parts : List Part) (bad : Bool) (src site : Nat) : State :=
  let (e, s) := s.nextEsn site (64 + cluster k) 0
  { s with replies := s.replies ++ [⟨r.uid, k, dest, parts, bad, r.pc, r.seq, r.slot, src, r.tag.formed s.cycle, 0, site, e, s.cycle, false⟩] }

/-- R390, R400: a packet that can have its permits leaves its core's outbound queue. -/
def State.takePermit (s : State) (p : Packet) : State :=
  match p.payload with
  | none => s
  | some r =>
    let before := s.packets.takeWhile fun q => q.uid != p.uid
    if !s.permitted r || before.any (fun q => q.out && q.agent == p.agent && (match q.payload with | some x => x.sameLine r | none => false)) then s
    else
      State.countOverdue { s with packets := s.packets.map fun q => if q.uid = p.uid ∧ q.out = true then { q with out := false, tag := q.tag.enter s.cycle 2 } else q }
        p.agent p.tag (p.tag.settle s.cycle)

/-- R391, R400: the packets in outbound queues, in the order of their keys, as far as there are permits. -/
def State.takePermits (s : State) : State :=
  ((granting (fun p : Packet => p.tag.key s.cycle p.agent.port) (fun p q => p.agent == q.agent && (match p.payload, q.payload with
    | some a, some b => a.sameLine b
    | _, _ => false)) (s.packets.filter (·.out))).map (·.2)).foldl State.takePermit s

/-- R35: the slack of the entry being issued. -/
def CoreState.slackNow (c : CoreState) : BitVec 10 := c.cur.slack

/-- R396: the site of a location's owner. -/
def siteOf (loc : Nat) : Nat :=
  if loc < 2 ^ 46 then homeSlice loc / 2 else (loc - 2 ^ 46) / 2 ^ 22 % 32

/-- R389: a request of the core into a packet at its cluster's site. -/
def State.send (s : State) (r : Req) : State := s.inject (cluster s.core.id) r

/-- R35, R389: the fields of a packet of the entry being issued. -/
def State.entryTag (s : State) : Tag := s.tag s.core.slackNow.toNat

/-- Whether a location is the core's own storage: its cluster's scratchpad, its store or its deck. -/
def State.ownStorage (s : State) (loc : Nat) : Bool :=
  decide (2 ^ 47 ≤ loc) || (decide (2 ^ 46 ≤ loc) && (loc - 2 ^ 46) / 2 ^ 22 == cluster s.core.id)

/-- R272, R339: an access that has passed its checks is held at a watermark or by a frame bank. -/
def State.accessHeld (s : State) (addr : Word64) (loc n : Nat) (write : Bool) : Bool :=
  let t := wmTag addr
  s.core.wmWait t.1 t.2 n || s.bankWait loc n write

/-- A load sent to its home slices or window. -/
def State.sendLoad (s : State) (dest : LoadDest) (parts : List Part) : State :=
  let (u, s) := s.fresh
  s.send ⟨u, .core s.core.id, s.core.cur.pc, s.core.cur.seq, s.core.cur.slot, .load dest, parts, false, s.entryTag⟩

/-- A store sent. -/
def State.sendStore (s : State) (parts : List Part) (release : Bool) : State :=
  let (u, s) := s.fresh
  s.send ⟨u, .core s.core.id, s.core.cur.pc, s.core.cur.seq, s.core.cur.slot, .store, parts, release, s.entryTag⟩

/-- R146: whether a fence scope covers a location, for a core. -/
def covers (id : BitVec 7) (scope loc : Nat) : Bool :=
  if loc < 2 ^ 46 then
    decide (4 ≤ scope) || (decide (3 ≤ scope) && !isRemote loc) || (decide (2 ≤ scope) && (homeSlice loc / 32 == 1) == dieOf id)
  else if loc < 2 ^ 47 then
    (let cl := (loc - 2 ^ 46) / 2 ^ 22
     decide (3 ≤ scope) || (scope == 2 && (cl / 16 == 1) == dieOf id) || (decide (1 ≤ scope) && cl == cluster id))
  else true

/-- R146 to R148: an access of a bundle before number `seq` that a scope covers has not performed: it is on its way, or an
operation in an engine queue (covered when any of its bytes is, or when it names none), or its entry has not issued. The
entries of the S slot issue in order. -/
def State.coveredLeft (s : State) (seq scope : Nat) : Bool :=
  let id := s.core.id
  (s.pendingOf id).any (fun r => decide (r.seq < seq) && r.parts.any fun p => covers id scope p.loc)
    || s.core.ops.any (fun o => decide (o.seq < seq)
        && (o.segs.isEmpty || o.segs.any fun g => covers id scope g.src || covers id scope g.dst || g.more.any (covers id scope)))
    || s.core.bundles.any fun b => decide (b.seq < seq) && b.entries.any (·.slot != 1)

/-- R276, R279: an earlier bundle's BINIT that picks a barrier, issued or not, has not performed. A release and a
BWAIT of that barrier wait for it, so that a receiver that sends "ready" after its BINIT loses no count and waits for the
new total, as the worked example requires. -/
def CoreState.initDue (c : CoreState) (seq : Nat) (f : OpBar → Bool) : Bool :=
  let on : Instr → Bool := fun i => match i with | .binit o => f o | _ => false
  c.bundles.any (fun b => decide (b.seq < seq) && b.entries.any fun e => on e.instr)
    || c.ops.any fun o => decide (o.seq < seq) && on o.instr

/-- R145: an entry that waits with its check passed and reaches nothing but remote targets. -/
def Entry.remoteOnly (e : Entry) : Bool :=
  e.checked && !e.pass.isEmpty && e.pass.all fun p => decide (p.va < 2 ^ 48) && isRemote p.pa

/-- R150: a release of some scope by bundle `seq` of a core may perform: every synchronous access of earlier bundles
that the scope covers has performed. A remote access is covered by no release (R145). -/
def State.releaseReady (s : State) (id : BitVec 7) (seq scope : Nat) : Bool :=
  !(s.coreAt id).initDue seq (fun _ => true)
    && (s.coreAt id).bundles.all (fun b => decide (seq ≤ b.seq) || b.entries.all fun e => decide (4 ≤ e.slot) || e.remoteOnly)
    && (s.pendingOf id).all fun r =>
      decide (seq ≤ r.seq) || decide (4 ≤ r.slot) || r.remote || !(r.parts.any fun p => covers id scope p.loc)

end Sys2Proof.Machine
end

