-- ==== Sys2Proof/Machine/Registers.lean ====
section
/-! DEFINITION. The map of control registers: numbers, access codes and writable fields (R5, R6, R90, R127, R154,
R225, R255, R290, R313, R336, R337, R364, R446, R461), and what a read of each returns. -/

namespace Sys2Proof.Machine

/-- R5. -/
inductive CrAccess where
  | rw | ro | w1c | wo | rs
  deriving DecidableEq, Repr

/-- The access code of a register number; none when no chapter assigns it (R90). STATUS is read only field by field,
MSTAT and NSTAT clear flags on writing ones. -/
def crAccess (n : Nat) : Option CrAccess :=
  if n = 0x000 then some .ro
  else if n ≤ 0x007 then some .rs
  else if n = 0x008 then some .ro
  else if n ≤ 0x00A then some .rw
  else if n ≤ 0x00C then some .ro
  else if n = 0x00D then some .rw
  else if n = 0x00E then some .ro
  else if n = 0x00F then some .rw
  else if n ≤ 0x017 then some .ro
  else if n = 0x018 then some .rs
  else if n = 0x019 then some .wo
  else if n = 0x01A then some .ro
  else if n = 0x01B then some .w1c
  else if n ≤ 0x01D then some .ro
  else if n = 0x01E then some .w1c
  else if n = 0x01F then some .ro
  else if n ≤ 0x028 then some .w1c
  else if n = 0x029 then none
  else if n ≤ 0x030 then some .w1c
  else if n = 0x031 then some .ro
  else if n < 0x040 then none
  else if n ≤ 0x041 then some .ro
  else if n = 0x042 then some .w1c
  else if n ≤ 0x044 then some .rw
  else if n ≤ 0x049 then some .ro
  else if n ≤ 0x04C then some .rs
  else if n < 0x050 then none
  else if n ≤ 0x053 then some .ro
  else if n < 0x058 then none
  else if n ≤ 0x05C then some .ro
  else if n < 0x080 then none
  else if n ≤ 0x09F then some .ro
  else if n ≤ 0x0BF then some .rw
  else if n ≤ 0x0C4 then some .ro
  else if n ≤ 0x0C6 then some .rs
  else if n = 0x0C7 then none
  else if n ≤ 0x0CC then some .rs
  else if n < 0x0D0 then none
  else if n ≤ 0x0DF then some .rs
  else if n < 0x100 then none
  else if n ≤ 0x103 then some .ro
  else if n ≤ 0x105 then some .wo
  else if n ≤ 0x109 then some .rs
  else if n = 0x10A then some .w1c
  else if n = 0x10B then some .rs
  else if n = 0x10C then some .ro
  else if n < 0x110 then none
  else if n ≤ 0x117 then some .ro
  else if n ≤ 0x11F then some .rs
  else if n ≤ 0x124 then some .rs
  else if n ≤ 0x126 then some .rs
  else if n = 0x127 then some .ro
  else if n < 0x140 then none
  else if n ≤ 0x17F then some .rs
  else none

/-- R5, R127, R461: a write at kernel level traps 0x05. -/
def crNeedsSup (n : Nat) : Bool := crAccess n == some .rs || n == 0x019 || n == 0x104

/-- The bits lo to hi. -/
def field (lo hi : Nat) : Word64 := BitVec.ofNat 64 (2 ^ (hi + 1) - 2 ^ lo)

/-- R6: the bits of a register that a write reaches; reserved bits keep reading zero. -/
def crWritable (n : Nat) : Word64 :=
  if n = 0x001 then field 0 63
  else if n = 0x002 then field 0 7
  else if n = 0x00D then field 0 6
  else if n = 0x00F then field 6 53 ||| field 63 63
  else if n = 0x018 then field 0 45
  else if n = 0x044 then field 0 3
  else if n = 0x04B then field 0 6
  else if n = 0x04C then field 0 7
  else if 0x0A0 ≤ n ∧ n ≤ 0x0BF then field 32 63
  else if n = 0x0C5 then field 0 7
  else if n = 0x0C6 then field 0 31
  else if n = 0x0C8 ∨ n = 0x0C9 then field 12 45
  else if n = 0x0CA then field 24 45 ||| field 48 55
  else if n = 0x0CC then field 20 45 ||| field 48 51
  else if 0x0D0 ≤ n ∧ n ≤ 0x0DF then field 0 31
  else if n = 0x106 then field 20 45
  else if n = 0x107 ∨ n = 0x108 then field 0 9
  else if n = 0x109 then field 0 35
  else if n = 0x10B then field 0 31
  else if n = 0x120 then field 0 0 ||| field 16 45
  else if n = 0x121 then field 16 45
  else if n = 0x122 then field 0 45
  else if n = 0x123 then field 6 47
  else if n = 0x124 then field 0 31
  else if n = 0x125 then field 0 0 ||| field 16 45 ||| field 48 51
  else if n = 0x126 then field 12 45
  else if 0x140 ≤ n ∧ n % 4 = 0 then field 16 44 ||| field 52 57 ||| field 63 63
  else if 0x140 ≤ n ∧ n % 4 = 1 then field 16 44
  else if 0x140 ≤ n then field 8 44
  else field 0 63

/-- Registers that hold one value for the whole device (R90, R115, R336, R364, R446, R461). -/
def crOfDevice (n : Nat) : Bool := decide (0x0C6 ≤ n) && n != 0x127

/-- R225: VSF of unit u: bit f is set when any bit of VLMu.f is. -/
def CoreState.vsf (c : CoreState) (u : Nat) : Word64 :=
  BitVec.ofNat 64 <| (List.range 7).foldl
    (fun a f => a + (if c.crGet (0x022 + 8 * u + f) = 0#64 then 0 else 2 ^ f)) 0

/-- R154: LSTAT. -/
def CoreState.lstat (c : CoreState) : Word64 :=
  BitVec.ofNat 64 (c.loops.length + (if c.loops.any (·.rpt) then 8 else 0))

/-- R290: MSTAT: ACT and the flags as kept, FULL from the buffers. -/
def CoreState.mstat (c : CoreState) : Word64 :=
  setBits (setBits (c.crGet 0x01B) 1 1 (if c.mbuf0.full then 1 else 0)) 2 1 (if c.mbuf1.full then 1 else 0)

/-- R337: FRBNK: bases, size and ACT as kept, the states of the lead core's banks. -/
def State.frbnk (s : State) : Word64 :=
  let c := s.core
  let lead := s.coreAt c.gang.lead
  let v := c.crGet 0x00E
  let v := setBits v 16 1 (bitsOf (lead.crGet 0x00E) 16 1)
  let v := setBits (setBits v 17 2 lead.bank0.state) 19 1 (if lead.bank0.storing then 1 else 0)
  setBits (setBits v 20 2 lead.bank1.state) 22 1 (if lead.bank1.storing then 1 else 0)

/-- R461: 64 fuses as a register. -/
def fuseWord (f : Nat → Bool) : Word64 :=
  BitVec.ofNat 64 ((List.range 64).map fun i => if f i then 2 ^ i else 0).sum

/-- R407, R414: the wavelengths a link uses, and whether fewer than it could. -/
def Link.enabled (l : Link) : Bool := l.ctl.getLsbD 0
def Link.width (l : Link) : Nat := (List.range 16).countP fun i => l.active.getLsbD i

/-- R460: the device runs with less than its full complement. -/
def State.degraded (s : State) : Bool :=
  (List.range 128).any (fun k => s.coreGone (BitVec.ofNat 7 k)) || (List.range 64).any (fun k => s.sliceGone (BitVec.ofNat 6 k))
    || s.links.any fun l => l.enabled && (l.up == 3#2 || (l.up == 2#2 && decide (l.width < 16)))

/-- R433: LCHLD from the launch of a core. -/
def State.lchld (s : State) (c : CoreState) : Word64 :=
  match s.launchOf c with
  | some l => BitVec.ofNat 64 (l.children % 2 ^ 32 + l.childrenDone % 2 ^ 32 * 2 ^ 32)
  | none => c.crGet 0x0C3

/-- R446, R461: the value of a register that holds one value for the device. TEMP is measured: a free value (log
entry 3). -/
def State.readDev (s : State) (n : Nat) : Word64 :=
  if n = 0x100 then
    setBits (setBits (setBits (s.devGet n) 3 1 (if s.degraded then 1 else 0)) 8 2 s.east.asleep) 10 2 s.west.asleep
  else if n = 0x101 then fuseWord Config.coreFused
  else if n = 0x102 then fuseWord fun i => Config.coreFused (64 + i)
  else if n = 0x103 then fuseWord Config.sliceFused
  else if n = 0x10C then Config.freeWord s.tick &&& 0xFFFFFFFF#64
  else s.devGet n

/-- R90, R197: the value a read of a register returns to the core whose turn it is; a WO register reads as zero. -/
def State.readCr (s : State) (n : Nat) : Word64 :=
  let c := s.core
  if n = 0x008 then s.time
  else if n = 0x00C then c.id.setWidth 64
  else if n = 0x00E then s.frbnk
  else if n = 0x01B then c.mstat
  else if n = 0x020 then c.vsf 0
  else if n = 0x021 then c.vsf 1
  else if n = 0x045 then c.lstat
  else if crAccess n == some .wo then 0#64
  else if n = 0x0C3 then s.lchld c
  else if crOfDevice n then s.readDev n
  else c.crGet n

end Sys2Proof.Machine
end

