-- ==== Sys2Proof/Machine/Operands.lean ====
section
/-! DEFINITION. The operand forms shared by the instructions: guarded execution, results into registers, conditions,
element types (R52, R80, R222). -/

namespace Sys2Proof.Machine

/-- R49, R50: an S, M, N or C instruction acts when it is on, and otherwise leaves everything as it is. -/
def State.whenOn (s : State) (g : BitVec 4) (k : Out) : Out := if s.core.on g then k else .next s

/-- The same state with s[d] := v. -/
def State.putS (s : State) (d : BitVec 6) (v : Word64) : State := s.upd fun c => c.setS d v

/-- R202: a 64-bit operation. -/
def State.alu (s : State) (o : OpSA) (f : Word64 → Word64 → Word64) : Out :=
  s.whenOn o.g (.next (s.putS o.d (f (s.core.sVal o.a) (s.core.sVal o.b))))

/-- R202: a 32-bit operation, its result sign-extended. -/
def State.alu32 (s : State) (o : OpSA) (f : Word32 → Word32 → Word32) : Out :=
  s.alu o fun a b => (f (a.setWidth 32) (b.setWidth 32)).signExtend 64

/-- R203: a division; a zero divisor traps 0x30. -/
def State.aluDiv (s : State) (o : OpSA) (zero : Word64 → Bool) (f : Word64 → Word64 → Word64) : Out :=
  s.whenOn o.g
    (if zero (s.core.sVal o.b) then s.trap 0x30#8 s.slotInfo 0#64 0#64 0#64
    else .next (s.putS o.d (f (s.core.sVal o.a) (s.core.sVal o.b))))

/-- R203: a 64-bit and a 32-bit division. -/
def State.div64 (s : State) (o : OpSA) (f : Word64 → Word64 → Word64) : Out := s.aluDiv o (· == 0#64) f
def State.div32 (s : State) (o : OpSA) (f : Word32 → Word32 → Word32) : Out :=
  s.aluDiv o (fun b => b.setWidth 32 == 0#32) fun a b => (f (a.setWidth 32) (b.setWidth 32)).signExtend 64

/-- R204: an operation of one source. -/
def State.aluUn (s : State) (o : OpSU) (f : Word64 → Word64) : Out :=
  s.whenOn o.g (.next (s.putS o.d (f (s.core.sVal o.a))))

/-- R205: an operation with an immediate, extended to 64 bits. -/
def State.aluImm (s : State) (o : OpSI) (f : Word64 → Word64 → Word64) : Out :=
  s.whenOn o.g (.next (s.putS o.d (f (s.core.sVal o.a) (o.imm.signExtend 64))))

def State.aluShift (s : State) (o : OpShift) (f : Word64 → Nat → Word64) : Out :=
  s.whenOn o.g (.next (s.putS o.d (f (s.core.sVal o.a) o.k.toNat)))

/-- R209: guard logic. -/
def State.guardOp (s : State) (o : OpGuard) (f : Word32 → Word32 → Word32) : Out :=
  s.whenOn o.g (.next (s.upd fun c => c.setG o.d (f (c.gVal o.a) (c.gVal o.b))))

/-- The shift amount of a W-bit operation (R202). -/
def amount64 (b : Word64) : Nat := b.toNat % 64
def amount32 (b : Word32) : Nat := b.toNat % 32

/-- MULH and MULHU at either width. -/
def mulHigh {w : Nat} (a b : BitVec w) : BitVec w := BitVec.ofInt w (a.toInt * b.toInt / (2 ^ w : Nat))
def mulHighU {w : Nat} (a b : BitVec w) : BitVec w := BitVec.ofNat w (a.toNat * b.toNat / 2 ^ w)

/-- R204: leading and trailing zero bits, one bits, bytes reversed. -/
def clz64 (a : Word64) : Word64 := if a = 0#64 then 64#64 else BitVec.ofNat 64 (63 - Nat.log2 a.toNat)
def ctz64 (a : Word64) : Word64 := BitVec.ofNat 64 (((List.range 64).find? fun i => a.getLsbD i).getD 64)
def popc64 (a : Word64) : Word64 := BitVec.ofNat 64 ((List.range 64).countP fun i => a.getLsbD i)
def bswap64 (a : Word64) : Word64 := BitVec.ofNat 64 (leNat (leBytes 8 a.toNat).reverse)

/-- R56, R207: the conditions of CMP by their fn. -/
def cond64 (c : Nat) (a b : Word64) : Bool :=
  match c with
  | 0 => a == b
  | 1 => a != b
  | 2 => a.slt b
  | 3 => a.sle b
  | 4 => b.slt a
  | 5 => b.sle a
  | 6 => a.ult b
  | 7 => a.ule b
  | 8 => b.ult a
  | _ => b.ule a

/-- R208: the conditions of CMPI, as those of CMP. -/
def condImm (c : BitVec 3) : Nat := if c = 7#3 then 9 else c.toNat

/-- A guard value of all lanes. -/
def allLanes (b : Bool) : Word32 := if b then 0xFFFFFFFF#32 else 0#32

/-- R52: the width in bytes of a type code of format SL. -/
def slWidth (ty : BitVec 3) : Nat := 2 ^ (ty.toNat / 2)

/-- R211: the value a load of a type gives. -/
def slValue (ty : BitVec 3) (v : Nat) : Word64 :=
  match ty.toNat with
  | 0 => (BitVec.ofNat 8 v).signExtend 64
  | 1 => (BitVec.ofNat 8 v).setWidth 64
  | 2 => (BitVec.ofNat 16 v).signExtend 64
  | 3 => (BitVec.ofNat 16 v).setWidth 64
  | 4 => (BitVec.ofNat 32 v).signExtend 64
  | 5 => (BitVec.ofNat 32 v).setWidth 64
  | _ => BitVec.ofNat 64 v

/-- R211: the address of format SL. -/
def slAddr (c : CoreState) (o : OpSL) : Word64 :=
  c.sVal o.base + o.off.signExtend 64 * BitVec.ofNat 64 (slWidth o.ty)

/-! ### Element types (R80, R92, R94, R259) -/

/-- The codes of R80. -/
def tyF32 : Nat := 0
def tyS32 : Nat := 9
def tyZ32 : Nat := 10
def tyQ4g : Nat := 13
def tyQ8g : Nat := 14
def tyF8b : Nat := 15

/-- The floating format of a type code. -/
def tyFmt : Nat → Option Fmt
  | 0 => some fp32 | 1 => some fp16 | 2 => some bf16 | 3 => some e4m3 | 4 => some e5m2
  | _ => none

/-- Signedness and width of an integer type code. -/
def tyInt : Nat → Option (Bool × Nat)
  | 5 => some (true, 8) | 6 => some (false, 8) | 7 => some (true, 16) | 8 => some (false, 16)
  | 9 => some (true, 32) | 10 => some (false, 32) | 11 => some (true, 64) | 12 => some (false, 64)
  | _ => none

/-- R259: the width of a type in half-bytes. -/
def tyNibbles : Nat → Nat
  | 0 => 8 | 1 => 4 | 2 => 4 | 3 => 2 | 4 => 2 | 5 => 2 | 6 => 2 | 7 => 4 | 8 => 4 | 9 => 8 | 10 => 8 | 11 => 16
  | 12 => 16 | 13 => 1 | _ => 2

end Sys2Proof.Machine
end

