-- ==== Sys2Proof/Machine/Slice.lean ====
section
/-! DEFINITION. What happens at a home slice (R119, R120, R136, R142, R437, R438): a write performs, a read performs,
a tile is decoded, digest entries are kept; and accesses that perform as their instruction issues. -/

namespace Sys2Proof.Machine

/-! ### Decoded tiles (R115 to R120) -/

/-- R117: the group size of a region: 32 for F8B. -/
def State.fmtG (s : State) (r : Nat) : Nat := if s.fmtKind r = 15 then 32 else 32 * 2 ^ s.fmtGroup r

/-- R117: the bytes of a tile's group records. -/
def State.recBytes (s : State) (r : Nat) : Nat := 8 * 256 * (128 / s.fmtG r)

def rangesMeet (a n b m : Nat) : Bool := decide (a < b + m) && decide (b < a + n)

/-- R120: a write of `n` bytes reaches tile `t` of region `r`: its element bytes, its length map or its records. -/
def State.tileTouched (s : State) (r t loc n : Nat) : Bool :=
  let tb := tileBytes (s.fmtKind r)
  rangesMeet loc n (s.fmtBase r + t * tb) tb
    || rangesMeet loc n (s.fmtMap r + t * (tb / 1024)) (tb / 1024)
    || rangesMeet loc n (s.fmtRecs r + t * s.recBytes r) (s.recBytes r)

/-- A packet that delivers a decoded line of some sort. -/
def ReservedPacket.delivers (p : ReservedPacket) (f : DecLine → Bool) : Bool := match p.load with | .delivery d => f d | _ => false

/-- R362, R403: packets of the reserved class enter the fabric: their source sites, channels and loads. -/
def State.injectReserved (s : State) (ls : List (Nat × Nat × Reserved)) : State :=
  ls.foldl (fun s p =>
    let (e, s) := s.nextEsn p.1 p.2.1 1
    { s with reserved := s.reserved ++ [⟨s.uid, p.1, p.2.1, s.cycle, e, 0, false, p.2.2⟩], uid := s.uid + 1 }) s

/-- R389, R397: what is no request enters the queue of a site for a channel, after `pass` cycles of passing through. -/
def State.dispatch (s : State) (src ch pass : Nat) (t : Tag) (what : Moved) : State :=
  let (e, s) := s.nextEsn src ch 0
  let (u, s) := s.fresh
  { s with transits := s.transits ++ [⟨u, src, ch, { t.enter s.cycle pass with first := (t.settle s.cycle).slack }, 0, e, s.cycle, false, what⟩] }

/-- R396: the memory controller of a line, and its site. -/
def controllerNo (line : Nat) : Nat := Config.controllerOf line % 48
def controllerSite (line : Nat) : Nat := 2 * controllerNo line / 3

/-- R118: the token stream of some sectors, expanded; none when it is corrupt. -/
def expandTokens (fuel : Nat) (bs : List Byte) (out : List Byte) : Option (List Byte) :=
  if out.length = 256 then some out
  else match fuel, bs with
    | fuel + 1, b :: t =>
      if b.toNat < 0x80 then
        let k := b.toNat + 1
        if t.length < k ∨ 256 < out.length + k then none else expandTokens fuel (t.drop k) (out ++ t.take k)
      else match t with
        | v :: t' =>
          let k := b.toNat - 0x7D
          if 256 < out.length + k then none else expandTokens fuel t' (out ++ List.replicate k v)
        | [] => none
    | _, _ => none

/-- R118: raw line `i` of a region, and whether its stream is good. -/
def State.rawLine (s : State) (r i : Nat) : List Byte × Bool :=
  let code := (s.byte (s.fmtMap r + i / 4)).toNat / 4 ^ (i % 4) % 4
  let slot := s.fmtBase r + 256 * i
  if code = 3 then (s.bytes slot 256, true)
  else match expandTokens 256 (s.bytes slot (64 * (code + 1))) [] with
    | some l => (l, true)
    | none => (List.replicate 256 0#8, false)

/-- R116: the raw bytes of a tile, line after line, and whether every line is good. -/
def State.rawTile (s : State) (r t : Nat) : List Byte × Bool :=
  let k := tileBytes (s.fmtKind r) / 256
  let ls := (List.range k).map fun i => s.rawLine r (t * k + i)
  (ls.flatMap (·.1), ls.all (·.2))

/-- R95, R116: the decoded bytes of column n of a tile. -/
def decodedColumn (fmt : Nat) (raw : List Byte) (n : Nat) : List Byte :=
  let at' (e : Nat) : Nat :=
    if fmt = 13 then ((raw[e / 2]?.getD 0#8).toNat / 16 ^ (e % 2)) % 16 else (raw[e]?.getD 0#8).toNat
  if fmt = 13 then
    (List.range 64).map fun j => BitVec.ofNat 8 (at' (256 * (2 * j) + n) + 16 * at' (256 * (2 * j + 1) + n))
  else (List.range 128).map fun k => BitVec.ofNat 8 (at' (256 * k + n))

/-- R117, R119: some group of a column has a bad record or CRC. -/
def State.badColumn (s : State) (r t n : Nat) (col : List Byte) : Bool :=
  let g := s.fmtG r
  let fmt := s.fmtKind r
  let gb := if fmt = 13 then g / 2 else g
  (List.range (128 / g)).any fun j =>
    let rec' := s.num (s.fmtRecs r + 8 * ((256 * t + n) * (128 / g) + j)) 8
    let crc := crc32c ((col.drop (j * gb)).take gb)
    (if fmt = 15 then rec' / 2 ^ 9 % 2 ^ 23 != 0 || rec' % 256 == 255
      else rec' / 2 ^ 24 % 256 != 0 || (fmt == 13 && rec' / 2 ^ 20 % 16 != 0)) || rec' / 2 ^ 32 != crc.toNat

/-- R119: the decoded lines of a tile. A line is bad when a group in it is bad; a corrupt raw line has elements in a
group of every column. -/
def State.decodeTile (s : State) (r t : Nat) : List DecLine :=
  let fmt := s.fmtKind r
  let (raw, good) := s.rawTile r t
  let tb := tileBytes fmt
  let per := 256 / (tb / 256)
  let cols := (List.range 256).map fun n =>
    let col := decodedColumn fmt raw n
    (col, !good || s.badColumn r t n col)
  (List.range (tb / 256)).map fun i =>
    let mine := (cols.drop (i * per)).take per
    ⟨(2 ^ 45 + s.fmtBase r + t * tb) / 256 + i, r, t, mine.flatMap (·.1), mine.any (·.2)⟩

/-- R363: the requests that wait in the miss table for a line. -/
def State.merged (s : State) (line : Nat) : List Nat :=
  (s.reqs.filter fun r => s.missing.contains r.uid && r.lines.contains line).map (·.uid)

/-- R363: a decode met by a write goes on, for the requests that merged before alone. -/
def State.staled (s : State) (d : Decode) : Decode :=
  if d.stale then d
  else { d with
    stale := true
    owed := ((s.decodeTile d.region d.tile).map fun l => (l, s.merged l.line)).filter fun p => !p.2.isEmpty }

/-- R363: a decoded line met by a write on its way goes to the requests that merged before alone. -/
def State.answered (s : State) (f : DecLine → Bool) (p : ReservedPacket) : ReservedPacket :=
  match p.load with
  | .delivery d => if f d then { p with load := .answer d (s.merged d.line) } else p
  | _ => p

/-- R115, R120, R363: the decoded lines of which `f` holds leave the slices, those on their way and the decodes of which `g` holds
are for nobody but the requests that merged before. -/
def State.invalidate (s : State) (f : DecLine → Bool) (g : Decode → Bool) : State :=
  { s with
    decoded := s.decoded.filter fun d => !f d
    reserved := s.reserved.map (s.answered f)
    decodes := s.decodes.map fun d => if g d then s.staled d else d }

/-- R120, R363: a write reaches the decoded lines of its tiles. -/
def State.dropDecoded (s : State) (loc n : Nat) : State :=
  s.invalidate (fun d => s.tileTouched d.region d.tile loc n) fun d => s.tileTouched d.region d.tile loc n

/-- The region and tile of a decoded address. -/
def State.tileOf (s : State) (pa : Nat) : Option (Nat × Nat) :=
  (s.regionOf (pa - 2 ^ 45)).map fun r => (r, (pa - 2 ^ 45 - s.fmtBase r) / tileBytes (s.fmtKind r))

/-! ### The lines a slice holds (R136) -/

/-- R136: the mask bits of bytes of one line written for a launch, or for none. -/
def State.markLine (s : State) (key : Option Nat) (line lo n : Nat) : State :=
  let mark (m : Cells 1) : Cells 1 := (List.range n).foldl (fun m i => Cells.put 0#1 m (lo + i) 1#1) m
  if s.lines.any (·.line == line) then
    { s with lines := s.lines.map fun l => if l.line = line then { l with mask := mark l.mask, writer := key.or l.writer } else l }
  else { s with lines := ⟨line, 0#4, mark [], key⟩ :: s.lines }

/-- R136: the mask bits of `n` bytes written from an address. -/
def State.markBytes (s : State) (key : Option Nat) (pa n : Nat) : State :=
  (List.range ((pa % 256 + n + 255) / 256)).foldl (fun s i =>
    let lo := if i = 0 then pa % 256 else 0
    let hi := if 256 < pa % 256 + n - 256 * i then 256 else pa % 256 + n - 256 * i
    s.markLine key (pa / 256 + i) lo (hi - lo)) s

/-- R136: the sector of an address is filled. -/
def State.filled (s : State) (pa : Nat) : Bool :=
  s.lines.any fun l => l.line == pa / 256 && l.fill.getLsbD (pa % 256 / 64)

/-- R440: the 64-byte units that a read of raw memory fetches: the sectors that its slices do not hold. -/
def State.fetchUnits (s : State) (loc n : Nat) : Nat :=
  if isRaw loc then ((List.range ((loc % 64 + n + 63) / 64)).filter fun i => !s.filled (loc + 64 * i)).length else 0

/-! ### Digests (R437, R438) -/

/-- R419: the DG flag of a launch. -/
def Launch.dg (l : Launch) : Bool := leNat (l.record.take 8) / 2 ^ 52 % 2 == 1

/-- R438: part `i` of the digest area: its address and its number of entries. -/
def State.digestPart (s : State) (i : Nat) : Nat × Nat :=
  let v := s.devGet 0x0CC
  let z := 2 ^ 14 * 2 ^ bitsOf v 48 4
  (bitsOf v 20 26 * 2 ^ 20 + i * z, z / 8)

/-- R438: a launch that keeps a digest is placed or awaits completion. -/
def State.digesting (s : State) : Bool := s.launches.any (·.dg)

/-- R2, R438: what a launch writes over the digest area while digests are kept there leaves the area as it stood (log entry
45). -/
def State.guardDigest (s t : State) (loc n : Nat) : State :=
  let v := s.devGet 0x0CC
  let base := bitsOf v 20 26 * 2 ^ 20
  let top := base + 2 ^ 20 * 2 ^ bitsOf v 48 4
  let lo := if loc < base then base else loc
  let hi := if loc + n < top then loc + n else top
  if s.digesting && decide (lo < hi) then t.write lo (s.bytes lo (hi - lo)) else t

/-- R438: the bits of an entry that name a line and a launch. -/
def digestTag (line key : Nat) : Nat := line % 2 ^ 38 + key % 2 ^ 17 * 2 ^ 38

/-- R438: where a probe ends. -/
inductive Probe where
  | found | place (i : Nat) | full
  deriving DecidableEq, Repr

/-- R438: the probe of a table, with the first freed entry passed so far. -/
def State.digestProbe (s : State) (base n tag : Nat) : Nat → Nat → Option Nat → Probe
  | 0, _, free => match free with | some f => .place f | none => .full
  | fuel + 1, i, free =>
    let e := s.num (base + 8 * i) 8
    let next := (i + 1) % n
    if e / 2 ^ 55 % 2 = 1 then
      (if e % 2 ^ 55 = tag then .found else s.digestProbe base n tag fuel next free)
    else if e / 2 ^ 56 % 2 = 1 then s.digestProbe base n tag fuel next (match free with | some f => some f | none => some i)
    else .place (free.getD i)

/-- R438: the hash start of a line for a launch. -/
def digestStart (line key n : Nat) : Nat := ((line * 0x9E3779B97F4A7C15 % 2 ^ 64) ^^^ key) % n

/-- R436, R438: a raw line written by a launch that keeps a digest is recorded. -/
def State.digestLine (s : State) (key line : Nat) : State :=
  let (base, n) := s.digestPart (homeSlice (line * 256))
  match s.digestProbe base n (digestTag line key) n (digestStart line key n) none with
  | .found => s
  | .full => s.updLaunch key fun l => { l with digestFull := true }
  | .place i =>
    (((s.dropDecoded (base + 8 * i) 8).writeNum (base + 8 * i) 8 (digestTag line key + 2 ^ 55))).markBytes none (base + 8 * i) 8

/-- R437: the lines of a write by a launch. -/
def State.digestNote (s : State) (key pa n : Nat) : State :=
  if s.launches.any (fun l => l.key == key && l.dg) && isRaw pa then
    (List.range ((pa % 256 + n + 255) / 256)).foldl (fun s i => s.digestLine key (pa / 256 + i)) s
  else s

/-! ### Reads and writes that perform -/

/-- R119, R120, R136, R142, R437: a write performs at its home slice or owning scratchpad, for a launch or for none; one to the
decoded view is dropped. -/
def State.performWrite (s : State) (key : Option Nat) (loc : Nat) (bs : List Byte) : State :=
  if isPhys loc && isDecoded loc then s
  else if isPhys loc then
    let was := s
    let s := ((s.dropDecoded loc bs.length).write loc bs).markBytes key loc bs.length
    match key with
    | some k => (was.guardDigest s loc bs.length).digestNote k loc bs.length
    | none => s
  else s.writeLocal loc bs

/-- R361, R368: the translation cache of the slice group that serves a block, numbered after those of the clusters. -/
def groupOf (pa : Nat) : Nat := 32 + homeSlice pa / 4

/-- R137: an access to the line of a remote window has reached its slice and has not left the device. -/
def State.lineBusy (s : State) (loc : Nat) : Bool :=
  (s.reqs ++ s.remotes.map (·.req)).any fun r => r.parts.any fun p => p.loc / 256 == loc / 256

/-- R396: the line by which the memory controller of a line is found: for a decoded one, the first of its raw tile. -/
def State.missLine (s : State) (line : Nat) : Nat :=
  if isDecoded (line * 256) then
    match s.tileOf (line * 256) with
    | some (r, k) => (s.fmtBase r + k * tileBytes (s.fmtKind r)) / 256
    | none => line
  else line

def State.missSite (s : State) (line : Nat) : Nat := controllerSite (s.missLine line)

/-- R362, R397: a miss on a line takes an entry of its slice's miss table, which has 64, unless it has one, and asks the memory
controller: its sectors fill, or its tile is decoded, in a later event. -/
def State.missed (s : State) (line : Nat) : State :=
  if s.misses.contains line || decide (64 ≤ s.misses.countP fun l => s.sliceAt (256 * l) == s.sliceAt (256 * line)) then s
  else State.dispatch { s with misses := s.misses ++ [line] } (homeSlice (256 * line) / 2) (64 + s.missSite line) 2
    { s.tag 1023 with mute := true } (.ask line)

/-- R397: a packet that asks for a line, or brings it. -/
def Moved.fetches (m : Moved) (line : Nat) : Bool := match m with | .ask l => l == line | .fill l => l == line | _ => false

/-- R397: the request for a line, or its fill, is on its way. -/
def State.filling (s : State) (line : Nat) : Bool := s.transits.any fun t => t.what.fetches line

/-- R364: the same by the core whose turn it is, keeping what its bundle still reads (R139). -/
def State.performOwn (s : State) (loc : Nat) (bs : List Byte) : State :=
  (s.note s.core.id s.core.cur.seq loc bs.length).performWrite (some s.core.launchKey) loc bs

end Sys2Proof.Machine
end

