-- ==== Sys2Proof/Machine/Answers.lean ====
section
/-! DEFINITION. What returns to a core (R40, R213, R370, R374): registers and lanes written late, and the effects of a queue
request's answer. -/

namespace Sys2Proof.Machine

/-- An entry leaves its bundle as issued; a bundle without entries retires. -/
def CoreState.retireEntry (c : CoreState) (seq slot : Nat) : CoreState :=
  let c := c.updBundle seq fun b => { b with
    entries := b.entries.filter (·.slot != slot), done := b.done ||| BitVec.ofNat 8 (2 ^ (slot - 1)) }
  c.sweep

/-- R40: bundle `seq` keeps the value a register holds before a late write. -/
def CoreState.lateOld (c : CoreState) (seq key : Nat) (v : Word64) : CoreState :=
  c.updBundle seq fun b => match b.old.lookup key with | some _ => b | none => { b with old := (key, v) :: b.old }

/-- A scalar register written by a value that returns. -/
def CoreState.lateS (c : CoreState) (seq : Nat) (d : BitVec 6) (v : Word64) : CoreState :=
  let c := c.lateOld seq d.toNat (Cells.get 0#64 c.s d.toNat)
  { c with s := Cells.put 0#64 c.s d.toNat v }

/-- Lanes of a vector register written by a value that returns. -/
def State.lateLanes (s : State) (seq a : Nat) (parts : List Part) : State :=
  parts.foldl (fun s p =>
    let loc := s.st (a + 4 * p.lane)
    (s.note s.core.id seq loc p.data.length).writeLocal loc p.data) s

/-! ### Queue answers (R370) -/

/-- A guard register written by an answer. -/
def CoreState.lateG (c : CoreState) (seq : Nat) (k : BitVec 3) (v : Word32) : CoreState :=
  if k = 0#3 then c
  else
    let c := c.lateOld seq (80 + k.toNat) ((Cells.get 0#32 c.g k.toNat).setWidth 64)
    { c with g := Cells.put 0#32 c.g k.toNat v }

/-- R370: an element into its buffer, 8 bytes at each location; bytes of a remote window go out as a store. -/
def State.fillBuffer (s : State) (seq : Nat) (pc : BitVec 48) (slack : Nat) : List Nat → List Byte → State
  | [], _ => s
  | loc :: t, bs =>
    let d := bs.take 8
    let s :=
      if isPhys loc && isRemote loc then
        let (u, s) := s.fresh
        s.send ⟨u, .core s.core.id, pc, seq, 1, .store, [⟨loc, 0#64, 8, 0, d⟩], false, s.tag slack⟩
      else
        let s := s.note s.core.id seq loc 8
        if isPhys loc then (s.l1Drop s.core.id loc).performWrite (some s.core.launchKey) loc d else s.writeLocal loc d
    s.fillBuffer seq pc slack t (bs.drop 8)

/-- R151: what an acquire that performs at a slice does. -/
def QOp.acquires (o : QOp) : Bool := match o with | .deq | .deqn => true | _ => false
def QOp.returns (o : QOp) : Bool := match o with | .deq | .deqn | .qpeek => true | _ => false

/-- R151, R368, R370: what the answer of a performed, or turned away, queue request writes: registers, the buffer. -/
def State.answerGood (s : State) (r : QReq) (seq : Nat) (q : BitVec 6) (k : BitVec 3) (buf : List Nat) (a : QAnswer) : State :=
  match a with
  | .elem bs bad =>
    let s := if r.op.acquires then s.l1Clear else s
    let s :=
      if !r.op.returns || bad then s
      else match buf with
        | [] => s.upd (·.lateS seq q (BitVec.ofNat 64 (leNat bs)))
        | _ => s.fillBuffer seq r.pc r.slack buf bs
    let s := if bad then s else s.upd (·.lateG seq k 0xFFFFFFFF#32)
    s.upd (·.retireEntry seq 1)
  | .refused _ => s.upd fun c => (c.lateG seq k 0#32).retireEntry seq 1
  | .status v => s.upd fun c => (c.lateS seq q v).retireEntry seq 1
  | .parked => s.upd fun c => c.updBundle seq fun b =>
      { b with entries := b.entries.map fun e => if e.slot = 1 then { e with checked := true } else e }
  | .fault .. => s

/-- R432: a LAUNCH whose record is in its queue has a child more. -/
def State.countChildOf (s : State) (id : BitVec 7) (a : QAnswer) : State :=
  match a with
  | .elem _ false => s.updLaunch (s.coreAt id).launchKey fun l => { l with children := l.children + 1 }
  | _ => s

/-- R374: the answers on their way to a core complete their instructions, before its handler runs or it is saved. -/
def State.takeAnswers (s : State) (id : BitVec 7) : State :=
  let one (s : State) (x : Reply) : State :=
    match x.dest with
    | .queue r a => (match r.dest with
      | .entry seq q k buf => s.asCore id fun s => s.answerGood r seq q k buf a
      | .launchRec seq => (s.asCore id fun s => s.answerGood r seq 0#6 0#3 [] a).countChildOf id a
      | _ => s)
    | _ => s
  let mine (x : Reply) : Bool := x.core == id && match x.dest with | .queue .. => true | _ => false
  (s.replies.filter mine).foldl one { s with replies := s.replies.filter (!mine ·) }

end Sys2Proof.Machine
end

