-- ==== Sys2Proof/Machine/Blocks.lean ====
section
/-! DEFINITION. Queue control blocks (R365, R366): their fields, their tests, their change in one step, and the
parked requests of a block (R373, R374). -/

namespace Sys2Proof.Machine

/-- R365: the fields of a control block. -/
structure Qcb where
  code : Nat
  cap : Nat
  head : Nat
  tail : Nat
  free : Nat
  prio : Nat
  closed : Bool
  poison : Bool
  hdie : Bool
  meter : Nat
  waitp : Nat
  waitc : Nat
  base : Nat
  deriving DecidableEq, Repr

/-- The fields of 64 bytes. -/
def Qcb.ofBytes (bs : List Byte) : Qcb :=
  let n (at' k : Nat) : Nat := leNat ((bs.drop at').take k)
  let f := n 16 4
  { code := n 2 1 % 16, cap := n 3 1 % 32, head := n 4 4, tail := n 8 4, free := n 12 4, prio := f % 8
    closed := f / 8 % 2 == 1, poison := f / 16 % 2 == 1, hdie := f / 32 % 2 == 1, meter := f / 256 % 256
    waitp := n 20 2, waitc := n 22 2, base := n 24 8 % 2 ^ 48 }

/-- Bytes 0 to 59 with their CRC (R365). -/
def withCrc (bs : List Byte) : List Byte := bs.take 60 ++ leBytes 4 (crc32c (bs.take 60)).toNat

/-- R365: the block's 64 bytes. -/
def Qcb.bytes (q : Qcb) : List Byte :=
  let bit (b : Bool) (n : Nat) : Nat := if b then 2 ^ n else 0
  withCrc (leBytes 2 0x9E51 ++ leBytes 1 q.code ++ leBytes 1 q.cap ++ leBytes 4 q.head ++ leBytes 4 q.tail
    ++ leBytes 4 q.free ++ leBytes 4 (q.prio + bit q.closed 3 + bit q.poison 4 + bit q.hdie 5 + q.meter * 256)
    ++ leBytes 2 q.waitp ++ leBytes 2 q.waitc ++ leBytes 8 q.base ++ List.replicate 28 0#8)

def Qcb.esize (q : Qcb) : Nat := 8 * 2 ^ q.code
def Qcb.capacity (q : Qcb) : Nat := 2 ^ q.cap
/-- R365: the address of element i. -/
def Qcb.place (q : Qcb) (i : Nat) : Nat := q.base + q.esize * (i % q.capacity)

/-- A producer, or a consumer (R365). -/
def QOp.producer (o : QOp) : Bool := match o with | .enq | .enqn => true | _ => false

/-- The parked producers and consumers of a block (R366 reason 6). -/
def State.parkedAt (s : State) (pa : Nat) (producer : Bool) : Nat :=
  (s.waiters.filter fun w => w.qpa == pa && w.op.producer == producer).length

/-- R366: the reason of the first test that fails, 0 when all pass. -/
def State.qcbReason (s : State) (pa : Nat) : Nat :=
  let bs := s.bytes pa 64
  let n (at' k : Nat) : Nat := leNat ((bs.drop at').take k)
  let q := Qcb.ofBytes bs
  let f := n 16 4
  if q.poison then 1
  else if n 0 2 ≠ 0x9E51 then 2
  else if n 60 4 ≠ (crc32c (bs.take 60)).toNat then 3
  else if n 2 1 / 16 ≠ 0 ∨ n 3 1 / 32 ≠ 0 ∨ f / 64 % 4 ≠ 0 ∨ f / 65536 ≠ 0 ∨ n 24 8 / 2 ^ 48 ≠ 0 ∨ n 32 28 ≠ 0
    ∨ q.base % 65536 ≠ 0 ∨ 9 < q.code ∨ 20 < q.cap ∨ 2 ^ 30 < q.esize * q.capacity then 4
  else if q.capacity < (q.tail + 2 ^ 32 - q.head) % 2 ^ 32 ∨ (q.tail + 2 ^ 32 - q.head) % 2 ^ 32 + q.free ≠ q.capacity then 5
  else if q.waitp ≠ s.parkedAt pa true ∨ q.waitc ≠ s.parkedAt pa false then 6
  else if q.hdie ≠ (homeSlice pa / 32 == 1) then 7
  else 0

/-- The block at an address. -/
def State.qcb (s : State) (pa : Nat) : Qcb := Qcb.ofBytes (s.bytes pa 64)

/-- R2, R438: the bytes of a block written for a request, which leave a digest area as it stood (log entry 45). -/
def State.writeBlock (s : State) (pa : Nat) (bs : List Byte) : State := s.guardDigest (s.performWrite none pa bs) pa bs.length

/-- R372: a block changed in one step, its CRC rewritten. -/
def State.setQcb (s : State) (pa : Nat) (f : Qcb → Qcb) : State := s.writeBlock pa (f (s.qcb pa)).bytes

/-- R417: the control block of a launch queue. -/
def State.queuePa (s : State) (die : Bool) (n : Nat) : Nat :=
  bitsOf (s.devGet (if die then 0x0C9 else 0x0C8)) 12 34 * 4096 + 64 * n

/-- R366: the block poisoned as found, its CRC rewritten. -/
def State.poisonBlock (s : State) (pa : Nat) : State :=
  let bs := s.bytes pa 64
  s.writeBlock pa (withCrc (bs.set 16 ((bs[16]?.getD 0#8) ||| 0x10#8)))

/-- R374: a parked request leaves the list without performing; its count falls, every other byte stays. -/
def State.unpark (s : State) (w : QReq) : State :=
  let s := { s with waiters := s.waiters.filter fun x => x.uid != w.uid }
  let bs := s.bytes w.qpa 64
  let at' := if w.op.producer then 20 else 22
  let n := leNat ((bs.drop at').take 2)
  s.writeBlock w.qpa (withCrc (splice bs at' (leBytes 2 (n - 1))))

end Sys2Proof.Machine
end

