-- ==== Sys2Proof/Machine/Units.lean ====
section
/-! DEFINITION. What the units share: the conversion of one element (R239), and what an operation reads and writes when it
performs. -/

namespace Sys2Proof.Machine

/-- The width of an element type in bits, for the types of VCVT. -/
def tyBits (t : Nat) : Nat := 4 * tyNibbles t

/-- R239: one element converted between two types, its pattern in the width of the result. -/
def convert (ty oty mode w16 : Nat) (sat : Bool) (v : Nat) : FRes :=
  let v := v % 2 ^ tyBits ty
  match tyFmt ty, tyFmt oty with
  | some F, some G => (G.round mode w16 sat (F.decode v)).also (F.snan [v])
  | some F, none =>
    (match tyInt oty with
    | some (sg, n) => toInt mode w16 sg n (F.decode v)
    | none => ⟨0, 0#7⟩)
  | none, some G =>
    (match tyInt ty with
    | some (sg, n) => G.round mode w16 sat (ofInt false (intOf sg n v) 0)
    | none => ⟨0, 0#7⟩)
  | none, none =>
    match tyInt ty, tyInt oty with
    | some (sg, n), some (sg', n') => ⟨intResult sat sg' n' (intOf sg n v), 0#7⟩
    | _, _ => ⟨0, 0#7⟩

/-- Bytes an operation reads, `pre` being the state before it began: where its own writes have reached them, old or new
(R1). -/
def State.opRead (s pre : State) (o : EngineOp) (loc n : Nat) : List Byte :=
  let was := pre.bytesOver o.old loc n
  let is := s.bytes loc n
  if pre.bytes loc n = is then was
  else (List.range n).map fun i =>
    if pre.byte (loc + i) = s.byte (loc + i) ∨ Config.freeChoice pre.tick (loc + i) = true then was[i]?.getD 0#8 else is[i]?.getD 0#8

/-- Bytes an operation writes to the core's own storage or scratchpads. -/
def State.opWrite (s : State) (o : EngineOp) (loc : Nat) (bs : List Byte) : State :=
  (s.note s.core.id o.seq loc bs.length).writeLocal loc bs

end Sys2Proof.Machine
end

