-- ==== Sys2Proof/Machine/CopyUnit.lean ====
section
/-! DEFINITION. What a copy moves (R259 to R268): the bytes of its segments, and the elements of CPYR. -/

namespace Sys2Proof.Machine

/-- R267, R377, R378: the new value of an element of `n` bytes from its old value, the operand and the value that
CAS compares. -/
def ElemOp.result (e : ElemOp) (n m v cmp : Nat) : Nat :=
  let w := 8 * n
  let signed := e.ty == 1 || (e.ty == 3 && e.sgn64)
  let least (max : Bool) : Nat :=
    if e.ty = 0 then fminmax max m v
    else if decide (intOf signed w m < intOf signed w v) == max then v else m
  if 16 ≤ e.op then
    let hi := e.op % 2
    let x := m / 16 ^ hi % 16
    let y := v % 16
    let z := match (e.op - 16) / 2 with
      | 0 => y
      | 1 => (x + y) % 16
      | 2 => if y < x then y else x
      | _ => if x < y then y else x
    m - x * 16 ^ hi + z * 16 ^ hi
  else match e.op % 8 with
    | 0 =>
      if e.ty = 0 then (fp32.round e.round 0 false (fadd e.round (fp32.decode m) (fp32.decode v)).1).bits
      else intResult e.sat signed w (intOf signed w m + intOf signed w v)
    | 1 => least false
    | 2 => least true
    | 3 => m &&& v
    | 4 => m ||| v
    | 5 => m ^^^ v
    | 6 => v % 2 ^ w
    | _ => if m = cmp % 2 ^ w then v % 2 ^ w else m

/-- The source bytes a segment has still to read. -/
def Seg.from? (g : Seg) : Option (Nat × Nat) := if g.zero || g.got.isSome then none else some (g.src, g.n)

/-- Part of a segment. -/
def Seg.part (g : Seg) (skip n w : Nat) : Seg :=
  { g with
    src := g.src + skip, dst := g.dst + skip, n := n, sva := g.sva + skip, dva := g.dva + skip, tag := g.tag + skip / w
    more := g.more.map (· + skip)
    got := g.got.map fun b => ((b.1.drop skip).take n, (b.2.filter fun i => decide (skip ≤ i) && decide (i < skip + n)).map (· - skip)) }

/-- The pairs of a flat list. -/
def flatPairs : List Nat → List (Nat × Nat)
  | a :: b :: t => (a, b) :: flatPairs t
  | _ => []

def rowAlign (sh : BitVec 128) : Nat := if tyNibbles (shType sh) = 1 then 1 else tyNibbles (shType sh) / 2

/-- R259: element width in half-bytes is tyNibbles; the bytes of a row, and the alignment of rows. -/
def rowBytes (sh : BitVec 128) : Nat := shCols sh * tyNibbles (shType sh) / 2

/-- Whether two runs of locations share a byte. -/
def runsMeet (a n b m : Nat) : Bool := decide (a < b + m) && decide (b < a + n)

/-- R267: what CPYR does to an element. -/
def cpyrOp (op : Nat) (sh : BitVec 128) : ElemOp :=
  let ty := shType sh
  ⟨8 + op, if ty = 0 then 0 else if ty = 9 then 1 else if ty = 10 then 2 else 3, ty == 11, shSat sh, if ty = 0 then shRound sh else 0⟩

/-- R266: every destination of a segment. -/
def Seg.dsts (g : Seg) : List Nat := g.dst :: g.more

/-- The bytes a segment brings and which of them are poisoned (R260): those it has read, zeros (R265), those of a decoded line
(R119), those of a remote window as free bytes, or those that lie at its source (R139). -/
def State.segSource (s : State) (o : EngineOp) (g : Seg) : List Byte × (Nat → Bool) :=
  match g.got with
  | some (bs, bad) => (bs, bad.contains)
  | none =>
    if g.zero then (List.replicate g.n 0#8, fun _ => false)
    else if isPhys g.src && isRemote g.src then ((List.range g.n).map (Config.freeByte s.tick), fun _ => false)
    else if isPhys g.src && isDecoded g.src then
      match (s.tileOf g.src).bind fun rt => (s.decodeTile rt.1 rt.2).find? fun d => d.line == g.src / 256 with
      | some d => ((d.data.drop (g.src % 256)).take g.n, fun _ => d.bad)
      | none => (List.replicate g.n 0#8, fun _ => true)
    else (s.bytesOver o.old g.src g.n, fun i => Cells.get 0#1 s.poison (g.src + i) == 1#1)

/-- Bytes put at a location with their poison, nothing else following. -/
def State.putBytes (s : State) (loc : Nat) (bs : List Byte) (bad : Nat → Bool) : State :=
  ((List.range bs.length).filter bad).foldl (fun s i => s.setPoison (loc + i) 1) (s.write loc bs)

/-- R267: the elements of a run as CPYR leaves them. -/
def State.elemsDone (s : State) (o : EngineOp) (i : OpCpyr) (g : Seg) (bs : List Byte) : State :=
  let w := rowAlign o.shape
  (List.range (g.n / w)).foldl (fun s e =>
    let pa := g.dst + w * e
    s.write pa (leBytes w ((cpyrOp i.op.toNat o.shape).result w (s.num pa w) (leNat ((bs.drop (w * e)).take w)) 0))) s

/-- The bytes of a copy once all of it has landed. -/
def State.copied (s : State) (o : EngineOp) : State :=
  o.segs.foldl (fun s g =>
    let (bs, bad) := s.segSource o g
    match o.instr with
    | .cpyr i => s.elemsDone o i g bs
    | _ => g.dsts.foldl (fun s d => s.putBytes d bs bad) s) s

/-- The operations of an engine queue, oldest first. -/
def CoreState.queue (c : CoreState) (eng : Nat) : List EngineOp := c.ops.filter (·.eng == eng)

/-- An operation of a copy unit that moves bytes. -/
def isCopy : Instr → Bool
  | .cpy _ | .cpyh _ | .cpym _ | .cpyr _ | .cpyg _ | .cpyd _ => true
  | _ => false

/-- R261: as many copies are in flight as there can be. -/
def CoreState.copiesFull (c : CoreState) : Bool := decide (256 ≤ c.ops.countP fun o => isCopy o.instr)

/-! ### Copies that pre-emption stops (R281) -/

/-- R281: a segment of a row that a copy stopped by pre-emption does not begin. Such a copy has a repetition count of 0 and
the first row it leaves behind its byte count. -/
def EngineOp.cut (o : EngineOp) (g : Seg) : Bool := o.rep == 0 && decide ((o.extra.drop 1).headD 0 ≤ g.row)

/-- The channel of a CPY that advances a watermark. -/
def cutChannel : Instr → Option Nat
  | .cpy o => if o.w then some o.ch.toNat else none
  | _ => none

/-- R281: the first row of a copy from which on no row has begun. -/
def EngineOp.firstUnbegun (o : EngineOp) : Nat :=
  let whole (r : Nat) : Bool :=
    ((o.segs.filter fun g => g.row == r).map (·.n)).sum == rowBytes o.shape && (o.segs.filter fun g => g.row == r).all (·.sent == 0)
  (List.range (shRows o.shape)).foldr (fun r first => if first = r + 1 && whole r then r else first) (shRows o.shape)

/-- R281: the youngest W = 1 copy of each channel stops after the rows it has begun, when more than 64 KiB remain. -/
def CoreState.cutCopies (c : CoreState) : CoreState :=
  let youngest (o : EngineOp) : Bool :=
    (cutChannel o.instr).isSome && !c.ops.any fun p => cutChannel p.instr == cutChannel o.instr && decide (o.uid < p.uid)
  { c with ops := c.ops.map fun o =>
      if youngest o && decide (65536 < (o.segs.map (·.n)).sum) then { o with rep := 0, extra := [o.extra.headD 0, o.firstUnbegun] }
      else o }

/-- R281, R427 step 3: the engines of the core begin to drain. -/
def CoreState.beginDrain (c : CoreState) : CoreState := if c.drain then c else { c.cutCopies with drain := true }

/-- R281: every operation has performed but the rows that a stopped copy leaves. -/
def CoreState.drained (c : CoreState) : Bool := c.ops.all fun o => o.rep == 0 && !o.segs.isEmpty && o.segs.all o.cut

end Sys2Proof.Machine
end

