-- ==== Sys2Proof/Machine/FrameMap.lean ====
section
/-! DEFINITION. The frame map (R331 to R333): its entries, its pages, and where a bank lies. -/

namespace Sys2Proof.Machine

/-- A frame-map entry as read. -/
structure FrEntry where
  pa : Nat
  e0 : Nat
  e1 : Nat
  slots : List Nat
  deriving DecidableEq, Repr

def FrEntry.v (e : FrEntry) : Bool := e.e0 % 2 == 1

def FrEntry.comp (e : FrEntry) : Bool := e.e0 / 2 % 2 == 1

def FrEntry.snap (e : FrEntry) : Bool := e.e0 / 4 % 2 == 1

def FrEntry.npg (e : FrEntry) : Nat := e.e0 / 16 % 16

def FrEntry.htok (e : FrEntry) : Nat := e.e0 / 2 ^ 16 % 2 ^ 32

def FrEntry.hlist (e : FrEntry) : Nat := e.e1 / 2 ^ 6 % 2 ^ 40 * 64

def FrEntry.hcap (e : FrEntry) : Nat := e.e1 / 2 ^ 48

/-- R333: the counted history entries. -/
def FrEntry.hcount (e : FrEntry) : Nat := (e.htok + 15) / 16

/-- R332: the slot format. -/
def pageOf (raw : Nat) : Nat := raw % 2 ^ 30

def badPage (raw : Nat) : Bool := raw / 2 ^ 30 != 0 || decide (0xC00000 ≤ pageOf raw)

def State.readEntry (s : State) (pa : Nat) : FrEntry :=
  ⟨pa, s.num pa 8, s.num (pa + 8) 8, (List.range 12).map fun p => s.num (pa + 16 + 4 * p) 4⟩

def FrEntry.live (e : FrEntry) : List Nat := (e.slots.take e.npg).map pageOf

/-- R331, R336: the address of a session's directory entry. -/
def State.dirAt (s : State) (f : Nat) : Nat := bitsOf (s.devGet 0x120) 16 30 * 65536 + 8 * (f / 64)

def pagePa (pn : Nat) : Nat := pn * 65536

/-- The scratchpad location of page p of bank b. -/
def State.bankAt (s : State) (b : Bool) (p : Nat) : Nat :=
  Loc.spad (cluster s.core.id) (bankBase (s.core.crGet 0x00E) b) + 65536 * p

end Sys2Proof.Machine
end

