-- ==== Sys2Proof/Machine/LadderUnit.lean ====
section
/-! DEFINITION. What the Ladder computes (R312 to R324): the serial definition of its scans, and what each operation does when
it performs. -/

namespace Sys2Proof.Machine

/-- R320: a NaN result sets invalid. -/
def FRes.nanInvalid (r : FRes) : FRes := if (fp32.decode r.bits).isNan then ⟨r.bits, r.flags ||| Flags.invalid⟩ else r

/-- R319: fsum. -/
def fsum (m p q : Nat) : FRes :=
  let t := fadd m (fp32.decode p) (fp32.decode q)
  let r : FRes := if belowNormal t.1 then ⟨fp32.sign t.1.isNeg, Flags.underflow ||| Flags.inexact⟩ else fp32.round m 0 false t.1
  ((r.also t.2).also (fp32.snan [p, q])).nanInvalid

/-- R319: padd. -/
def padd (p q : Pair) : Pair × Flags :=
  let (s, e) := twoSum p.hi q.hi
  let l1 := addNe p.lo q.lo
  let l := addNe l1.bits e
  let (h, lo) := fastTwoSum s.bits l.bits
  let fl := (s.flags ||| l1.flags ||| l.flags ||| h.flags).ofSum
  if (fp32.decode h.bits).isNan then (⟨h.bits, 0⟩, fl ||| Flags.invalid)
  else if belowNormal (fp32.decode h.bits) then (⟨flush h.bits, 0⟩, fl ||| Flags.underflow ||| Flags.inexact)
  else
    let r : Pair := ⟨h.bits, flush lo⟩
    (r, fl ||| Flags.when (!sameValue (fadd 0 p.value q.value).1 r.value) .inexact)

/-- A value of a lane in the network: the factor and the input, a pair with lo +0 for LSCAN. -/
structure Rung where
  a : Nat
  b : Pair
  deriving DecidableEq, Repr

/-- R320: a factor as it enters, canonical NaN with invalid when it is not one (R110). -/
def factorIn (a : Nat) : FRes := if fadeOk (fp32.decode a) then ⟨a, 0⟩ else ⟨fp32.nan, Flags.invalid⟩

/-- R320: join, for LSCANC (`comp`) and for LSCAN. -/
def ladderJoin (comp : Bool) (m a : Nat) (h b : Pair) : Pair × Flags :=
  if comp then
    let (p, f1) := fadePair a h
    let (r, f2) := padd p b
    (r, f1 ||| f2)
  else
    let p := fadeMul a h.hi
    let r := fsum m p.bits b.hi
    (⟨r.bits, 0⟩, p.flags ||| r.flags)

/-- R320: node((a2, b2), (a1, b1)). -/
def ladderNode (comp : Bool) (m : Nat) (x2 x1 : Rung) : Rung × Flags :=
  let a := fadeMul x2.a x1.a
  let (b, f) := ladderJoin comp m x2.a x1.b x2.b
  (⟨a.bits, b⟩, a.flags ||| f)

/-- R320: `k` rungs from distance `d` on. -/
def ladderNet {σ : Type} (node : σ → σ → σ × Flags) : Nat → Nat → List σ → List σ × Flags
  | 0, _, xs => (xs, 0#7)
  | k + 1, d, xs =>
    let ys := List.zipWith node (xs.drop d) xs
    let (r, f) := ladderNet node k (2 * d) (xs.take d ++ ys.map (·.1))
    (r, ys.foldl (fun a y => a ||| y.2) f)

/-- The union of some flags. -/
def orFlags (l : List Flags) : Flags := l.foldl (fun a f => a ||| f) 0#7

/-- R320: ladder_ref over factors and inputs, with `k` rungs and carry `h`. -/
def ladderRef (comp : Bool) (m k : Nat) (as bs : List Nat) (h : Pair) : List Pair × Flags :=
  let fs := as.map factorIn
  let (xs, f) := ladderNet (ladderNode comp m) k 1 (List.zipWith (fun (a : FRes) b => (⟨a.bits, ⟨b, 0⟩⟩ : Rung)) fs bs)
  let rs := xs.map fun x => ladderJoin comp m x.a h x.b
  (rs.map (·.1), orFlags (fs.map (·.flags)) ||| f ||| orFlags (rs.map (·.2)))

/-- R323: the factor part alone. -/
def ladderFactors (k : Nat) (gs : List Nat) : List Nat × Flags :=
  let fs := gs.map factorIn
  let (xs, f) := ladderNet (fun a b => let r := fadeMul a b; (r.bits, r.flags)) k 1 (fs.map (·.bits))
  (xs, orFlags (fs.map (·.flags)) ||| f)

/-- R312: the participating lanes of a configuration. -/
def confLanes (conf : Nat) : Nat := conf / 8 % 32 + 1

/-- R313: the rungs and the chunk length of a configuration. -/
def confRungs (conf : Nat) : Nat := conf % 8 + 2

def confChunk (conf : Nat) : Nat := 2 ^ confRungs conf

def confOut (conf : Nat) : Nat := conf / 256 % 4

/-- Lane i of carry slot k: hi below, lo above. -/
def CoreState.carry (c : CoreState) (k : BitVec 3) (i : Nat) : Pair :=
  let v := (Cells.get 0#64 c.carries (32 * k.toNat + i)).toNat
  ⟨v % 2 ^ 32, v / 2 ^ 32⟩

def CoreState.setCarry (c : CoreState) (k : BitVec 3) (i : Nat) (p : Pair) : CoreState :=
  { c with carries := Cells.put 0#64 c.carries (32 * k.toNat + i) (BitVec.ofNat 64 (p.hi + p.lo * 2 ^ 32)) }

/-- R314: bytes read by an operation: what it has itself written, otherwise as its bundle reads them (R139). -/
def State.ladderRead (s : State) (o : EngineOp) (wrote : List (Nat × Nat)) (a n : Nat) : List Byte :=
  match o.old with
  | [] => s.bytes (s.st a) n
  | _ => (List.range n).map fun i =>
      if wrote.any fun r => decide (r.1 ≤ a + i) && decide (a + i < r.1 + r.2) then s.byte (s.st (a + i))
      else (oldByte o.old (s.st (a + i))).getD (s.byte (s.st (a + i)))

/-- Lane j of a row of bytes. -/
def laneOf (row : List Byte) (j : Nat) : Nat := leNat ((row.drop (4 * j)).take 4)

/-- What performing an operation has made so far: the state, its own writes, the flags by lane or row. -/
structure Ladders where
  s : State
  wrote : List (Nat × Nat)
  fl : List (Nat × Flags)

/-- The first lanes of a row written. -/
def Ladders.put (t : Ladders) (o : EngineOp) (a : Nat) (vs : List Nat) : Ladders :=
  { t with s := t.s.opWrite o (t.s.st a) (vs.flatMap (leBytes 4)), wrote := (a, 4 * vs.length) :: t.wrote }

/-- C rows read before any is written. -/
def Ladders.rows (t : Ladders) (o : EngineOp) (a n : Nat) : List (List Byte) :=
  (List.range n).map fun i => t.s.ladderRead o t.wrote (a + 128 * i) 128

/-- R321: one repetition of a scan. -/
def Ladders.scan (t : Ladders) (o : EngineOp) (comp : Bool) (k : BitVec 3) (zero : Bool) (a b : Nat) : Ladders :=
  let conf := o.extra.headD 0
  let C := confChunk conf
  let L := confLanes conf
  let fr := t.rows o a C
  let br := t.rows o b C
  let res := (List.range L).map fun j =>
    let h := if zero then ⟨0, 0⟩ else t.s.core.carry k j
    ladderRef comp (shRound o.shape) (confRungs conf) (fr.map (laneOf · j)) (br.map (laneOf · j)) (if comp then h else ⟨h.hi, 0⟩)
  let at' (i : Nat) (p : List Pair × Flags) : Pair := p.1[i]?.getD ⟨0, 0⟩
  let ts := if confOut conf = 0 then List.range C else if confOut conf = 1 then [C - 1] else []
  let t := ts.foldl (fun t i =>
    let t := t.put o (b + 128 * i) (res.map fun p => (at' i p).hi)
    if comp then t.put o (b + 128 * (C + i)) (res.map fun p => (at' i p).lo) else t) t
  { t with
    s := t.s.upd fun c => (List.range L).foldl (fun c j => c.setCarry k j (at' (C - 1) (res[j]?.getD ([], 0#7)))) c
    fl := t.fl ++ (List.range L).map fun j => (j, (res[j]?.getD ([], 0#7)).2) }

/-- R323: one repetition of LGATE. -/
def Ladders.gate (t : Ladders) (o : EngineOp) (a b : Nat) : Ladders :=
  let conf := o.extra.headD 0
  let C := confChunk conf
  let L := confLanes conf
  let gr := t.rows o a C
  let res := (List.range L).map fun j =>
    let g := gr.map (laneOf · j)
    (ladderFactors (confRungs conf) g, ladderFactors (confRungs conf) g.reverse)
  let t := (List.range C).foldl (fun t i =>
    let t := t.put o (b + 128 * i) (res.map fun p => p.1.1[i]?.getD 0)
    t.put o (b + 128 * (C + i)) (res.map fun p => if i + 1 = C then 0x3F800000 else p.2.1[C - 2 - i]?.getD 0)) t
  { t with fl := t.fl ++ (List.range L).map fun j => (j, orFlags ((res.drop j).take 1 |>.map fun p => p.1.2 ||| p.2.2)) }

/-- R324: one repetition of LMAT. -/
def Ladders.mat (t : Ladders) (o : EngineOp) (acc a b : Nat) : Ladders :=
  (List.range (shRows o.shape)).foldl (fun t r =>
    let g := leNat (t.s.ladderRead o t.wrote (a + 4 * r) 4)
    let ps := t.s.ladderRead o t.wrote (b + 1024 * r) 1024
    let ds := t.s.ladderRead o t.wrote (acc + 1024 * r) 1024
    let vs := (List.range 256).map fun c =>
      let p := fadeMul g (laneOf ds c)
      (fsum (shRound o.shape) p.bits (laneOf ps c)).also p.flags
    let t := t.put o (acc + 1024 * r) (vs.map (·.bits))
    { t with fl := t.fl ++ [(r, orFlags (vs.map (·.flags)))] }) t

/-- The pairs of bases of the repetitions, in order. -/
def repBases : List Nat → List (Nat × Nat)
  | a :: b :: t => (a, b) :: repBases t
  | _ => []

/-- R318: LCFG.load and LCFG.save. -/
def State.loadCarry (s : State) (o : EngineOp) (k : BitVec 3) (a : Nat) : State :=
  let bs := s.ladderRead o [] a 256
  s.upd fun c => (List.range 32).foldl (fun c i => c.setCarry k i ⟨laneOf bs i, laneOf bs (32 + i)⟩) c

def State.saveCarry (s : State) (o : EngineOp) (k : BitVec 3) (a : Nat) : State :=
  let ps := (List.range 32).map (s.core.carry k)
  s.opWrite o (s.st a) (ps.flatMap (fun p => leBytes 4 p.hi) ++ ps.flatMap fun p => leBytes 4 p.lo)

/-- What an N operation that consumes no error does. -/
def State.performN (s : State) (o : EngineOp) : Ladders :=
  let t : Ladders := ⟨s, [], []⟩
  let reps := repBases o.addrs
  match o.instr with
  | .lcfgLoad i => { t with s := s.loadCarry o i.k (o.addrs.headD 0) }
  | .lcfgSave i => { t with s := s.saveCarry o i.k (o.addrs.headD 0) }
  | .lcfgClear i => { t with s := s.upd fun c => { c with carries := Cells.clear c.carries (32 * i.k.toNat) 32 } }
  | .lscan i => (reps.zipIdx).foldl (fun t p => t.scan o false i.k (i.z && p.2 == 0) p.1.1 p.1.2) t
  | .lscanc i => (reps.zipIdx).foldl (fun t p => t.scan o true i.k (i.z && p.2 == 0) p.1.1 p.1.2) t
  | .lgate _ => reps.foldl (fun t p => t.gate o p.1 p.2) t
  | .lmat _ => reps.foldl (fun t p => t.mat o (o.regs.headD 0) p.1 p.2) t
  | _ => t

end Sys2Proof.Machine
end

