-- ==== Sys2Proof/Machine/MatrixUnit.lean ====
section
/-! DEFINITION. What the matrix array computes (R287 to R305): the stationary buffers, and what each operation does when
it performs. -/

namespace Sys2Proof.Machine

/-- R287: the code bytes of a column; none for a TYPE the table does not list. -/
def codeBytes (ty : Nat) : Option Nat :=
  if ty = 5 ∨ ty = 6 ∨ ty = 3 ∨ ty = 4 ∨ ty = 14 ∨ ty = 15 then some 128 else if ty = 13 ∨ ty = 2 then some 64 else none

/-- R287, R289: the group size of a tile. -/
def tileGroup (ty group : Nat) : Nat := if ty = 15 then 32 else 32 * 2 ^ group

def isGrouped (ty : Nat) : Bool := ty == 13 || ty == 14 || ty == 15

/-- R287: the bytes of a column: its codes and its records. -/
def columnBytes (ty group : Nat) : Nat :=
  (codeBytes ty).getD 0 + if isGrouped ty then 8 * (128 / tileGroup ty group) else 0

/-- R290: fields of MBRECb. -/
def CoreState.act (c : CoreState) : Nat := bitsOf (c.crGet 0x01B) 0 1

def CoreState.mbrec (c : CoreState) (b : Nat) : Word64 := c.crGet (0x01C + b)

def recOff (v : Word64) : Nat := bitsOf v 0 16

def recType (v : Word64) : Nat := bitsOf v 16 4

def recGroup (v : Word64) : Nat := bitsOf v 20 2

def recValid (v : Word64) : Bool := v.getLsbD 22

def CoreState.buf (c : CoreState) (b : Nat) : StatBuf := if b = 0 then c.mbuf0 else c.mbuf1

def CoreState.setBuf (c : CoreState) (b : Nat) (v : StatBuf) : CoreState := if b = 0 then { c with mbuf0 := v } else { c with mbuf1 := v }

/-- Byte j of array column n of a buffer. -/
def StatBuf.byte (b : StatBuf) (n j : Nat) : Nat := (Cells.get 0#8 b.bytes (256 * n + j)).toNat

/-- R287: element k of logical column c. -/
def StatBuf.code (b : StatBuf) (c k : Nat) : Nat :=
  if b.ty = 13 then b.byte c (k / 2) / 16 ^ (k % 2) % 16
  else if b.ty = 2 then b.byte (2 * c + k / 32) (2 * (k % 32)) + 256 * b.byte (2 * c + k / 32) (2 * (k % 32) + 1)
  else b.byte c k

/-- R287: the low 32 bits of record g of column c. -/
def StatBuf.record (b : StatBuf) (c g : Nat) : Nat :=
  let at' := (codeBytes b.ty).getD 0 + 8 * g
  b.byte c at' + 256 * b.byte c (at' + 1) + 65536 * b.byte c (at' + 2) + 16777216 * b.byte c (at' + 3)

/-- The value of an element of a floating or integer type. -/
def typeVal (ty code : Nat) : FVal :=
  match tyFmt ty, tyInt ty with
  | some F, _ => F.decode code
  | none, some (sg, n) => ofInt false (intOf sg n code) 0
  | none, none => .nan

def isInt8 (ty : Nat) : Bool := ty == 5 || ty == 6

def isFp8 (ty : Nat) : Bool := ty == 3 || ty == 4

/-- Element k of an A row. -/
def rowElem (ty : Nat) (row : List Byte) (k : Nat) : Nat :=
  if ty = 2 then leNat ((row.drop (2 * k)).take 2) else (row[k]?.getD 0#8).toNat

/-- R298: the partial of one row and column of a plain tile. -/
def plainDot (b : StatBuf) (ty : Nat) (row : List Byte) (c : Nat) : FRes :=
  if !b.full || (ty == 2 && decide (128 ≤ c)) then ⟨0, 0#7⟩
  else
    let ks := List.range (if ty = 2 then 64 else 128)
    if isInt8 b.ty && isInt8 ty then
      ⟨wrap 32 ((ks.map fun k => intOf (ty == 5) 8 (rowElem ty row k) * intOf (b.ty == 5) 8 (b.code c k)).sum), 0#7⟩
    else dotProducts (ks.map fun k => (typeVal ty (rowElem ty row k), typeVal b.ty (b.code c k)))

/-- R300: the partial of one row and column of group g. -/
def groupDot (b : StatBuf) (ty : Nat) (row : List Byte) (c g : Nat) : FRes :=
  if !b.full then ⟨0, 0#7⟩
  else
    let G := tileGroup b.ty b.group
    let ks := (List.range G).map (g * G + ·)
    let z := b.record c g / 65536 % 256
    let a (k : Nat) : Int := intOf (ty == 5) 8 (rowElem ty row k)
    if b.ty = 15 then dotProducts (ks.map fun k => (e4m3.decode (b.byte c k), typeVal ty (rowElem ty row k)))
    else if isInt8 ty then
      ⟨wrap 32 ((ks.map fun k => (b.code c k : Int) * a k).sum - (z : Int) * (ks.map a).sum), 0#7⟩
    else dotProducts (ks.map fun k => (ofInt false ((b.code c k : Int) - z) 0, typeVal ty (rowElem ty row k)))

/-- A row of results put into an accumulator. -/
def State.putRow (s : State) (o : EngineOp) (a row : Nat) (vs : List FRes) : State :=
  s.opWrite o (s.st (a + 1024 * row)) (vs.flatMap fun v => leBytes 4 v.bits)

/-- R298 to R301: an MMA-family operation: for each A row, in order, a row of every partial. -/
def State.performMma (s : State) (o : EngineOp) : State × List (Nat × Flags) :=
  let b := s.core.buf (o.extra.headD 0)
  let r0 := (o.extra.drop 1).headD 0
  let ty := shType o.shape
  let grouped := match o.instr with | .mmaz _ => true | _ => false
  let pre := s
  o.addrs.foldl (fun (a : State × List (Nat × Flags) × Nat) x =>
    let (s, fl, j) := a
    let row := s.opRead pre o (s.st x) 128
    let parts := (List.range o.regs.length).map fun g =>
      (o.regs[g]?.getD 0, (List.range 256).map fun c => if grouped then groupDot b ty row c g else plainDot b ty row c)
    (parts.foldl (fun s p => s.putRow o p.1 (r0 + j) p.2) s,
      fl ++ parts.flatMap (fun p => p.2.map fun v => (j, v.flags)), j + 1)) (s, [], 0) |> fun a => (a.1, a.2.1)

/-- R296: the bytes of a tile, column by column. -/
def State.tileCells (s : State) (o : EngineOp) (off n : Nat) : Cells 8 :=
  (List.range 256).foldl (fun m k => Cells.putN 0#8 m (256 * k) (s.bytesOver o.old (Loc.deck s.core.id.toNat (k * 65536 + off)) n)) []

/-- R296: MBLD: the tile in its buffer. -/
def State.loadBuf (s : State) (o : EngineOp) : State :=
  let off := o.addrs.headD 0
  let ty := shType o.shape
  let n := columnBytes ty (shGroup o.shape)
  s.upd fun c => c.setBuf (o.extra.headD 0) ⟨true, ty, shGroup o.shape, off, s.tileCells o off n⟩

/-- R290: MBRECb of a buffer as it stands: its offset, TYPE and GROUP, VALID when it is full. -/
def StatBuf.record' (b : StatBuf) : Word64 :=
  if b.full then BitVec.ofNat 64 (b.off + b.ty * 2 ^ 16 + b.group * 2 ^ 20 + 2 ^ 22) else 0#64

/-- R302: one element scaled. -/
def scaleElem (b : StatBuf) (shape : BitVec 128) (rec' v : Nat) : FRes :=
  let x := if shType shape = 0 then fp32.decode v else ofInt false (intOf true 32 v) 0
  let sn := if shType shape = 0 then fp32.snan [v] else 0#7
  let bad : FRes := ⟨fp32.nan, Flags.invalid ||| sn⟩
  let times (k : FVal) : FRes := let p := fmul k x; ((fp32.round (shRound shape) 0 false p.1).also p.2).also sn
  if b.ty = 15 then
    (if rec' / 512 ≠ 0 ∨ rec' % 256 = 255 then bad else times (se9 (rec' % 512)))
  else if rec' / 2 ^ 24 % 256 ≠ 0 ∨ (b.ty = 13 ∧ rec' / 2 ^ 20 % 16 ≠ 0) then bad
  else
    let k := fp16.decode (rec' % 65536)
    if k.isNan || k.isInf then bad else times k

/-- An element of an accumulator, as an operation reads it. -/
def State.accElem (s pre : State) (o : EngineOp) (a row c : Nat) : Nat := leNat (s.opRead pre o (s.st (a + 1024 * row + 4 * c)) 4)

/-- Rows of an accumulator rewritten element by element: `f` gets the reader of elements, the row and the column. -/
def State.mapRows (s : State) (o : EngineOp) (a r0 n base : Nat) (f : (Nat → Nat → Nat → Nat) → Nat → Nat → FRes) :
    State × List (Nat × Flags) :=
  let pre := s
  (List.range n).foldl (fun (t : State × List (Nat × Flags)) r =>
    let vs := (List.range 256).map fun c => f (t.1.accElem pre o) (r0 + r) c
    (t.1.putRow o a (r0 + r) vs, t.2 ++ vs.map fun v => (base + r, v.flags))) (s, [])

/-- R304: one element of MACC. -/
def addElem (shape : BitVec 128) (x y : Nat) : FRes :=
  if shType shape = 0 then
    let t := fadd (shRound shape) (fp32.decode x) (fp32.decode y)
    ((fp32.round (shRound shape) 0 false t.1).also t.2).also (fp32.snan [x, y])
  else ⟨intResult (shSat shape) true 32 (intOf true 32 x + intOf true 32 y), 0#7⟩

/-- R304: the repetitions of MACC, each whole before the next. -/
def State.performMacc (s : State) (o : EngineOp) (ss : Bool) (r0 : Nat) : State × List (Nat × Flags) :=
  let a := o.regs.headD 0
  let srcs := o.regs.drop 1
  let rows := shRows o.shape
  (List.range o.rep).foldl (fun (t : State × List (Nat × Flags)) i =>
    let src := if ss then srcs[i % 8]?.getD 0 else srcs.headD 0
    let rb := if ss then r0 else r0 + i * rows
    let (s, fl) := t.1.mapRows o a rb rows (if ss then 0 else i * rows) fun elem r c =>
      addElem o.shape (elem a r c) (elem src r c)
    (s, t.2 ++ fl)) (s, [])

/-- R305: MOUT. -/
def State.performMout (s : State) (o : EngineOp) (r0 : Nat) : State × List (Nat × Flags) :=
  let a := o.regs.headD 0
  let x := o.addrs.headD 0
  let sh := o.shape
  let w := tyBits (shOtype sh) / 8
  let pre := s
  (List.range (shRows sh)).foldl (fun (t : State × List (Nat × Flags)) r =>
    let vs := (List.range (shCols sh)).map fun c =>
      convert (shType sh) (shOtype sh) (shRound sh) 0 (shSat sh) (t.1.accElem pre o a (r0 + r) c)
    (t.1.opWrite o (t.1.st (x + r * shCols sh * w)) (vs.flatMap fun v => leBytes w v.bits), t.2 ++ vs.map fun v => (r, v.flags)))
    (s, [])

/-- What an M operation that consumes no error does: the state, and the flags by row. -/
def State.performM (s : State) (o : EngineOp) : State × List (Nat × Flags) :=
  let a := o.regs.headD 0
  match o.instr with
  | .mma _ | .mmaz _ | .mtap _ => s.performMma o
  | .mscl i =>
    let b := s.core.buf (o.extra.headD 0)
    s.mapRows o a i.r0.toNat (shRows o.shape) 0 fun elem r c => scaleElem b o.shape (b.record c i.grp.toNat) (elem a r c)
  | .mzero i => s.mapRows o a i.r0.toNat (shRows o.shape) 0 fun _ _ _ => ⟨0, 0#7⟩
  | .macc i => s.performMacc o i.ss i.r0.toNat
  | .mout i => s.performMout o i.r0.toNat
  | _ => (s, [])

end Sys2Proof.Machine
end

