-- ==== Sys2Proof/Machine/Containment.lean ====
section
/-! DEFINITION. Uncorrectable errors: abandoned work, delivery to a containment region, the trap outside one (R180 to
R185, R464); and the reads that perform as their instruction issues. -/

namespace Sys2Proof.Machine

/-! ### Containment (R180 to R185) -/

/-- The state after an operation has performed as a whole; of a frame operation, its bytes. -/
def State.fully (s : State) (o : EngineOp) : State :=
  match o.instr with
  | .mbld _ => s.loadBuf o
  | .frstat _ => o.writes.foldl (fun s w => s.write w.1 w.2) s
  | _ =>
    if o.eng = 0 then (s.performM o).1
    else if o.eng = 1 then (s.performN o).s
    else s.copied o

/-- R182 step 2, R1: bytes of an abandoned destination: each keeps its value, or takes the one it has in `full` and is then
written as the operation would have (log entry 9). -/
def State.mixBytes (s full : State) (loc n : Nat) : State :=
  let bad (t : State) (i : Nat) : Bool := Cells.get 0#1 t.poison (loc + i) == 1#1
  let picked := (List.range n).filter fun i =>
    (full.byte (loc + i) != s.byte (loc + i) || bad full i != bad s i) && Config.freeChoice s.tick (loc + i)
  picked.foldl (fun t i =>
    let t := t.performWrite (some s.core.launchKey) (loc + i) [full.byte (loc + i)]
    if bad full i then t.setPoison (loc + i) 1 else t) s.ticked

/-- R328: lanes of a carry slot: each keeps its pair or takes the one it has in `full`. -/
def State.mixCarry (s full : State) (k : BitVec 3) (n : Nat) : State :=
  let t := s.tick
  { (s.upd fun c => (List.range n).foldl (fun c i => if Config.freeChoice t i then c.setCarry k i (full.core.carry k i) else c) c)
    with tick := t + 1 }

/-- R290: an abandoned MBLD leaves its buffer as it was, or loaded; MBREC then describes the buffer. -/
def State.mixBuf (s full : State) (b : Nat) : State :=
  let t := s.tick
  (s.ticked.upd fun c =>
    let c := if Config.freeChoice t b then c.setBuf b (full.core.buf b) else c
    c.crPut (0x01C + b) (c.buf b).record')

/-- R328: what an abandoned operation of an array or the Ladder leaves of a buffer, of its carry slot and of NCONF. -/
def State.abandonUnit (s full : State) (o : EngineOp) : State :=
  match o.instr with
  | .mbld _ => s.mixBuf full (o.extra.headD 0)
  | .lcfgSet _ => s.upd fun c => c.crPut 0x01F (BitVec.ofNat 64 (o.extra.headD 0))
  | .lcfgLoad i => s.mixCarry full i.k 32
  | .lcfgClear i => s.mixCarry full i.k 32
  | .lscan i => s.mixCarry full i.k (confLanes (o.extra.headD 0))
  | .lscanc i => s.mixCarry full i.k (confLanes (o.extra.headD 0))
  | _ => s

/-- A request that no longer has a sender. -/
def State.dropRequest (s : State) (uid : Nat) : State :=
  { s with packets := s.packets.filter (·.uid != uid), reqs := s.reqs.filter (·.uid != uid) }

/-- R182, R280: a segment that has not landed: its write, if it is on its way to a scratchpad, does not arrive. -/
def State.abandonSeg (s full : State) (g : Seg) : State :=
  let s := if g.sent ≠ 0 ∧ isPhys g.dst = false then s.dropRequest (g.sent - 1) else s
  g.dsts.foldl (fun s d => if isPhys d && isRemote d then s else s.mixBytes full d g.n) s

/-- The destinations of an operation that has not performed: byte by byte as they were, or as in `full`, where it has. -/
def State.abandon (s full : State) (o : EngineOp) : State :=
  match o.segs with
  | [] => o.busy.foldl (fun s r => s.mixBytes full (s.st r.1) r.2) (s.abandonUnit full o)
  | gs => gs.foldl (fun s g => s.abandonSeg full g) s

/-- R357: the pages that an FRST or HPAPP took (the counts it would set to 1) are on their way back to the Pod; the bank of
a load is empty, storing flags clear. -/
def State.abandonFrame (s : State) (o : EngineOp) : State :=
  let back : State := { s with podBack := s.podBack ++ (o.regs.filter (· % 4 == 2)).map (· / 4) }
  let clear (b : Bool) (s : State) : State := s.upd fun c => c.setBank b { c.bank b with storing := false }
  match o.instr with
  | .frld _ | .frsw _ =>
    (match o.extra with | w :: _ => s.upd fun c => c.setBank (w == 1) .empty | [] => s)
  | .frst _ => clear false (clear true back)
  | .hpapp _ => back
  | _ => s

/-- R340: the pages of the frame a bank descriptor names, as the frame map has them now. -/
def State.bankFrame (s : State) (d : BankDesc) : List Nat :=
  (s.readEntry (s.num (s.dirAt d.frame.toNat) 8 / 2 ^ 12 % 2 ^ 34 * 4096 + 64 * (d.frame.toNat % 64))).slots.take d.npg |>.map pageOf

/-- R357: a lookahead load in flight is abandoned: its bank's bytes are old or new. -/
def State.abandonLook (s : State) (b : Bool) : State :=
  let d := s.core.bank b
  if d.state = 1 ∧ d.la = true then
    let full := (s.bankFrame d).zipIdx.foldl (fun s p => s.copyBytes (pagePa p.1) (s.bankAt b p.2) 65536) s
    (s.mixBytes full (s.bankAt b 0) (65536 * d.npg)).upd (·.setBank b .empty)
  else s

/-- An operation abandoned, after those before it in its queue as if they had performed. -/
def State.abandonOne (s : State) (o : EngineOp) : State :=
  let full := ((s.core.ops.filter fun p => p.eng == o.eng && decide (p.uid ≤ o.uid)).foldl State.fully s)
  (s.abandon full o).abandonFrame o

/-- NCONF as it was before the first LCFG.set of some operations. -/
def confBefore (ops : List EngineOp) : Option Word64 :=
  ops.findSome? fun o => match o.instr with | .lcfgSet _ => some (BitVec.ofNat 64 (o.extra.headD 0)) | _ => none

/-- R182, R328: every operation of the core's engine queues abandoned, in order, each with the values that it would have left
itself. -/
def State.abandonAll (s : State) : State :=
  let one (p : State × State) (o : EngineOp) : State × State :=
    let full := p.2.fully o
    ((p.1.abandon full o).abandonFrame o, full)
  let t := (s.core.ops.foldl one (s, s)).1
  ((t.abandonLook false).abandonLook true).upd fun c =>
    { (match confBefore s.core.ops with | some v => c.crPut 0x01F v | none => c) with ops := [] }

/-- R374: the core's parked queue requests are withdrawn. -/
def State.withdrawParked (s : State) (id : BitVec 7) : State :=
  (s.waiters.filter fun w => w.agent == .core id).foldl (fun s w => s.unpark w) (s.takeAnswers id)

/-- R182, R382, R386: the openings and closings of windows that a core's discarded entries wait for go on without them. -/
def State.leaveWindows (s : State) : State :=
  let mine (w : Window) : Bool := w.launch == s.core.launchKey && w.waits == some s.core.gang.k
  { s with windows := (s.windows.map fun w => if mine w then { w with waits := none } else w).filter fun w =>
    !(w.closing && w.waits.isNone && w.closed == BitVec.allOnes 64) }

/-- R182: delivery of a cause to the innermost region, its CERR record written before the region is popped. -/
def State.deliver (s : State) (cerr : List (Nat × Word64)) : State :=
  let s := (s.withdrawParked s.core.id).abandonAll.leaveWindows
  let s := s.correctLaunch s.core.launchKey
  s.upd fun c =>
    match c.cont with
    | [] => c
    | r :: rest =>
      let c := c.crPuts (cerr ++ [(0x047, 0#64), (0x048, 0#64), (0x000, setBits c.status 4 3 (c.cdepth - 1)),
        (0x05C, match rest with | [] => 0#64 | q :: _ => q.handler.setWidth 64)])
      { c with
        nest := c.nestOwed 0
        cont := rest, loops := c.loops.drop (c.loops.length - r.depth), segExp := 0#64, bundles := [], past := [], held := false
        trapReq := none, group := .start, replay := 0#8, replays := [], redo := [], redos := [], slacks := [], pc := r.handler }

/-- R462: what TDONE says of a bundle without one of its slots. -/
def CoreState.doneWithout (c : CoreState) (seq slot : Nat) : BitVec 8 :=
  c.tdone seq &&& ~~~(if 1 ≤ slot ∧ slot ≤ 7 then BitVec.ofNat 8 (2 ^ (slot - 1)) else 0#8)

/-- R183, R114: the core after a trap that arises as bundle `seq` performs, `slot` the slot it arises in (0 for none): that
bundle's unissued entries and those of later bundles are discarded. -/
def CoreState.lateEntry (c : CoreState) (t : Trap) (seq slot : Nat) : CoreState :=
  let first := c.bundles.find? fun b => decide (seq ≤ b.seq)
  { c with bundles := c.bundles.filter (fun b => decide (b.seq < seq)), past := c.past.filter (fun b => decide (b.seq < seq))
           nest := c.nestOwed seq }.enterTrap t (c.doneWithout seq slot) first [] [] []

/-- R181, R183, R464: an uncorrectable error is consumed. `src` is the source code of CERR2, `addr` the address as
the instruction formed it. -/
def State.consume (s : State) (seq : Nat) (pc : BitVec 48) (slot src : Nat) (addr : Word64) : State :=
  let d := s.core.cdepth
  let cerr := [(0x058, BitVec.ofNat 64 (0x29 + d * 2 ^ 8 + slot * 2 ^ 11)), (0x059, addr), (0x05A, BitVec.ofNat 64 src),
    (0x05B, pc.setWidth 64)]
  if d > 0 then s.deliver cerr
  else
    let s := s.upd fun c => (c.crPuts cerr).taint
    let s := s.taintLaunch s.core.launchKey 0x29#8
    if s.core.inTrap then s.doubleTrap 0x29#8
    else s.upd (·.lateEntry ⟨0x29#8, pc, 0#64, 0#64, 0#64, 0#64⟩ seq slot)

/-- R181: the error source code of a location (R185). -/
def sourceCode (loc : Nat) : Nat :=
  if loc < 2 ^ 46 then (if isDecoded loc then 4 else 0) else if loc < 2 ^ 47 then 1 else if loc < 2 ^ 48 then 2 else 3

/-- The entry being issued has read poisoned bytes at a location (its address `addr`). -/
def State.consumeHere (s : State) (loc : Nat) (addr : Word64) : Out :=
  .next (s.consume s.core.cur.seq s.core.cur.pc s.core.cur.slot (sourceCode loc) addr)

/-- R137: a read of a window for the entry being issued, or an atomic on its bytes: its slice forwards it, and the entry is held until
its bytes are back. -/
def State.farWait (s : State) (addr : Word64) (loc n : Nat) (kind : ReqKind) (data : List Byte) (k : State → List Byte → Out) : Out :=
  let i := s.core.cur
  match s.core.farReads.find? fun f => f.seq == i.seq && f.slot == i.slot && f.loc == loc && f.n == n with
  | some f => (match f.got with
    | none => s.hold
    | some (bs, bad) => if bad then s.consumeHere loc addr else k s bs)
  | none =>
    let (u, t) := s.fresh
    ((t.send ⟨u, .core t.core.id, i.pc, i.seq, i.slot, kind, [⟨loc, addr, n, 0, data⟩], false, t.entryTag⟩).upd fun c => { c with
      farReads := ⟨i.seq, i.slot, loc, n, none, u⟩ :: c.farReads }).hold

def State.farRead (s : State) (addr : Word64) (loc n : Nat) (k : State → List Byte → Out) : Out :=
  s.farWait addr loc n (.load .outside) [] k

/-- A read that performs as its instruction issues, not through L1. -/
def State.directRead (s : State) (addr : Word64) (loc n : Nat) (k : State → List Byte → Out) : Out :=
  if s.accessHeld addr loc n false || (!(isPhys loc && isRemote loc) && s.ownWait loc n) then s.hold
  else if isPhys loc && isRemote loc then s.farRead addr loc n k
  else if isPhys loc && isDecoded loc then
    match s.decoded.find? fun d => d.line == loc / 256 with
    | none => (s.missed (loc / 256)).hold
    | some d => if d.bad then s.consumeHere loc addr else k s ((d.data.drop (loc % 256)).take n)
  else if s.poisoned loc n then s.consumeHere loc addr
  else k s (s.readSync loc n)

end Sys2Proof.Machine
end

