-- ==== Sys2Proof/WellFormed.lean ====
section
/-! DEFINITION. Which instructions have an encoding that no rule of the dispatcher rejects (R52, R56 to R63 and the
encoding rules of the engines' chapters). An event carries no encoding and is always well formed. -/

namespace Sys2Proof

/-- R52: the type codes of a load. -/
def OpSL.loadOk (o : OpSL) : Bool := o.ty != 7#3

/-- R52: a store uses the signed codes only. -/
def OpSL.storeOk (o : OpSL) : Bool := o.ty != 7#3 && (o.ty &&& 1#3) == 0#3

/-- R53: mode 1 names an address register, so the two high bits of the base are zero. -/
def vmBaseOk (mode : Bool) (base : BitVec 6) : Bool := !mode || base.toNat < 16

/-- R166: a non-zero immediate count requires a zero register field. -/
def OpLoop.ok (o : OpLoop) : Bool := o.n == 0#19 || o.a == 0#6

/-- The slot class of a slot instruction; none for an event. -/
def Instr.slotClass : Instr → Option SlotClass
  | .nop | .add _ | .sub _ | .mul _ | .mulh _ | .mulhu _ | .div _ | .divu _ | .rem _ | .remu _
  | .and _ | .or _ | .xor _ | .shl _ | .shr _ | .sar _ | .rotr _
  | .addS32 _ | .subS32 _ | .mulS32 _ | .mulhS32 _ | .mulhuS32 _ | .divS32 _ | .divuS32 _ | .remS32 _ | .remuS32 _
  | .andS32 _ | .orS32 _ | .xorS32 _ | .shlS32 _ | .shrS32 _ | .sarS32 _ | .rotrS32 _
  | .min _ | .minu _ | .max _ | .maxu _ | .clz _ | .ctz _ | .popc _ | .bswap _ | .andn _ | .orn _
  | .cmp _ | .cmpi _ | .gand _ | .gor _ | .gxor _ | .gandn _ | .gset _ | .gget _ | .sel _
  | .addi _ | .andi _ | .ori _ | .xori _ | .shli _ | .shri _ | .sari _ | .muli _ | .movi _ | .movh _
  | .ld _ | .st _ | .ldacq _ | .strel _ | .atom64 _ | .atom32 _ | .atomn _
  | .qinit _ | .enq _ | .deq _ | .enqn _ | .deqn _ | .qpeek _ | .qstat _ | .qclose _ | .rwopen _ | .rwclose _
  | .fence _ | .fwait _ | .drain _ | .join _ | .xset _ | .xadd _ | .view _ | .shw _ | .slk _ | .mfc _ | .mtc _
  | .br _ | .jmp _ | .jmpi _ | .call _ | .ret _ | .loop _ | .lnsetBound _ | .lnsetBind _ | .lnsetClear _
  | .loopn _ | .rpt _ | .margin _ | .segOpen _ | .segClose _ | .cont _ | .endcont _ | .trap _ | .tret _
  | .halt _ | .yield _ | .waitev _ | .gate _ | .ctxsv _ | .ctxld _ | .bwait _ | .wmwait _ | .wmwaitAll _
  | .launch _ | .chwait _ | .preempt _ | .resume _ | .emrd _ | .digest _ | .sleep _
  | .linkst _ | .lnkcfg _ | .talign _ => some .s
  | .vadd _ | .vsub _ | .vmul _ | .vfma _ | .vmin _ | .vmax _ | .vabs _ | .vneg _ | .vdiv _ | .vsqrt _ | .vrcp _
  | .vrsq _ | .vexp2 _ | .vlog2 _ | .vcmp _ | .vsel _ | .vand _ | .vor _ | .vxor _ | .vnot _ | .vshl _ | .vshr _
  | .vsar _ | .vcvt _ | .vpack _ | .vunpk _ | .vperm _ | .vbcstLane _ | .vbcstScalar _ | .vred _ | .vcadd _
  | .vcacc _ | .vfade _ | .vqdeq _ | .xmov _ | .vmov _ | .cupseed _ | .cupstat _ | .vld _ | .vst _ | .vgth _
  | .vsct _ | .vatom _ => some .v
  | .mbld _ | .mbsw _ | .mma _ | .mmaz _ | .mscl _ | .macc _ | .mzero _ | .mout _ | .mtap _ => some .m
  | .lcfgSet _ | .lcfgLoad _ | .lcfgSave _ | .lcfgClear _ | .lscan _ | .lscanc _ | .lgate _ | .lmat _ => some .n
  | .cpy _ | .cpyh _ | .cpym _ | .cpyr _ | .cpyg _ | .cpyd _ | .wmark _ | .binit _ | .arrive _ | .badd _
  | .frld _ | .frst _ | .frsw _ | .snap _ | .fork _ | .rback _ | .frel _ | .hpapp _ | .hpmap _ | .frstat _ => some .c
  | .bundleDispatch | .fetchMissFill | .trapEntry | .wholeCoreStall | .watchdogExpiry | .timerEvent
  | .loadReplyArrival | .cupGenerate | .engineWakeDone _ | .copyCompletion .. | .mOperationDone | .nOperationDone
  | .frameOperationDone | .lookaheadPeek | .lookaheadLoadDone | .queueRequest | .withdrawalNotice
  | .backgroundHeadRead .. | .sliceReadRequest | .sliceWriteRequest | .sliceAtomicRequest | .missFill _
  | .tileDecodeDone .. | .lineEviction _ | .heldUpdateArrival | .windowOpenAtSlice _ | .windowCloseAtSlice _
  | .packetOverdue _ | .pipRevolution _ | .packetArrival _ | .endToEndAck _ | .resendTimeout _
  | .resetNoticeArrival .. | .flitReceived .. | .linkReplay _ | .lightLost .. | .restripeDone .. | .lightRestored ..
  | .linkTrained .. | .remoteAccessArrival .. | .remoteAckReturn .. | .remoteWaitTimeout _ | .quadDarkTimeout ..
  | .placementDecision _ | .launchRecordDequeued _ | .launchStart | .preemption _ | .launchComplete .. | .meterUpdate
  | .sleepStateEntry _ | .wake _ | .hostMemoryAccess .. | .hostWindowCompletion .. | .queueWindowStagingWrite ..
  | .queueWindowCommit _ | .queueWindowDeqn _ | .doorbellWrite _ | .hrstWrite _ | .formatRegionWrite .. | .tbinvWrite _
  | .frameRegisterWrite .. | .sliceRegisterWrite .. | .controllerRegisterWrite .. | .vectorStatusAccess ..
  | .matrixStatusAccess .. | .ladderStatusAccess .. | .evpendClear _ | .frlqWrite _ | .registerWrite ..
  | .correctedError _ | .fatalError _ | .deviceReset | .functionLevelReset | .bootImageLoad _ | .bootFlashTimeout _
  | .attestationCommand _ | .linkAckReceived .. | .timestampExchange .. | .coreOrSliceRetired ..
  | .releasedRequestReturn => none

/-- Whether the dispatcher accepts some word for the instruction. -/
def Instr.wellFormed : Instr → Bool
  | .cmp o => o.k != 0#3 && decide (o.c.toNat < 10)
  | .cmpi o => o.k != 0#3
  | .gand o | .gor o | .gxor o | .gandn o => o.d != 0#3
  | .gset o => o.d != 0#3
  | .ld o | .ldacq o => o.loadOk
  | .st o | .strel o => o.storeOk
  | .atom64 o => decide (o.f.toNat < 10)
  | .atom32 o => decide (o.f.toNat < 13)
  | .atomn o => decide (o.o.toNat < 4)
  | .enqn o | .deqn o => o.k != 0#3
  | .fence o => decide (o.scope.toNat < 5)
  | .drain o => decide (o.scope.toNat < 5)
  | .join o => o.m != 0#5
  | .view o => o.n != 0#3
  | .shw o => decide (o.slot.toNat < 6) && decide (o.f.toNat < 10)
  | .loop o | .rpt o => o.ok
  | .lnsetBound o => decide (o.lv.toNat < 6)
  | .lnsetBind o => decide (o.lv.toNat < 6)
  | .lnsetClear o => decide (o.lv.toNat < 6)
  | .loopn o => decide (o.lv.toNat < 6)
  | .bwait o => decide (o.who.toNat < 5)
  | .vcmp o => o.k != 0#3
  | .vred o => decide (o.o.toNat < 3)
  | .vld o | .vst o => vmBaseOk o.mode o.base
  | .vgth o | .vsct o => vmBaseOk o.mode o.base
  | .vatom o => decide (o.op.toNat < 7)
  | .lcfgSet o => decide (o.cc.toNat < 5) && decide (o.out.toNat < 3)
  | .cpyr o => decide (o.op.toNat < 5) && (o.ssp == 1#2 || o.ssp == 3#2)
  | .cpyg o => o.ssp != 3#2
  | .binit o | .badd o => decide (o.who.toNat < 5)
  | .arrive o => decide (o.who.toNat < 5)
  | _ => true

end Sys2Proof
end

