-- ==== Sys2Proof/Machine/Names.lean ====
section
/-! DEFINITION. What instructions name (R39), the read ports they need (R33), crossings (R77), which of them are
store instructions (R84), draw from the Cup (R58), or wait as acquires do (R151), and when two entries depend on
each other (R40, R46). -/

namespace Sys2Proof.Machine

/-- A named item: a range of the numbering below, for reading or writing; `soft` for the reads, post-increments and
swaps that R40 exempts within one slot. -/
structure Nm where
  lo : Nat
  hi : Nat
  write : Bool
  soft : Bool
  deriving DecidableEq, Repr

/-- The numbering of items: s n at n, x n at 64 + n, g n at 80 + n, shapes and shadows from 96, view registers from
144, further resources from 200, store byte A at 4096 + A. -/
def Nm.rd (k : Nat) : Nm := ⟨k, k, false, false⟩
def Nm.wr (k : Nat) : Nm := ⟨k, k, true, false⟩
def Nm.rS (n : BitVec 6) : Nm := .rd n.toNat
def Nm.wS (n : BitVec 6) : Nm := .wr n.toNat
/-- R79: g0 is a constant, so a field that holds it names nothing. -/
def Nm.rG (n : BitVec 3) : List Nm := if n = 0#3 then [] else [.rd (80 + n.toNat)]
def Nm.wG (n : BitVec 3) : List Nm := if n = 0#3 then [] else [.wr (80 + n.toNat)]
def Nm.rX (n : BitVec 4) : Nm := ⟨64 + n.toNat, 64 + n.toNat, false, true⟩
/-- R40: a post-increment. -/
def Nm.pX (n : BitVec 4) : Nm := ⟨64 + n.toNat, 64 + n.toNat, true, true⟩
def Nm.wX (n : BitVec 4) : Nm := .wr (64 + n.toNat)
def Nm.rView (n : Nat) : Nm := .rd (144 + n)
def Nm.wView (n : BitVec 3) : Nm := .wr (144 + n.toNat)

/-- R39: the guard that the G field denotes. -/
def Nm.guard (g : BitVec 4) : List Nm := Nm.rG (g.setWidth 3)

/-- R81, R82: a shape register of slot index i, and with the swap bit its shadow, both read and written. -/
def Nm.shape (i : Nat) (sh : BitVec 2) (swap : Bool) : List Nm :=
  let k := 96 + 8 * i + 2 * sh.toNat
  if swap then [⟨k, k + 1, false, true⟩, ⟨k, k + 1, true, true⟩] else [⟨k, k, false, true⟩]

/-- R81: the shadow that SHW names. -/
def Nm.shadow (i : Nat) (sh : BitVec 2) : Nm := .wr (96 + 8 * i + 2 * sh.toNat + 1)

/-- R39: the store bytes of a register of a view; a register that does not exist has none. -/
def Nm.store (a : Option Nat) (n : Nat) (write : Bool) : List Nm :=
  match a with
  | some a => [⟨4096 + a, 4096 + a + n - 1, write, false⟩]
  | none => []

def Nm.v (c : CoreState) (r : BitVec 9) (write : Bool) : List Nm := Nm.rView 1 :: Nm.store (c.vAddr r) 128 write
def Nm.a (c : CoreState) (r : BitVec 3) (write : Bool) : List Nm := Nm.rView 3 :: Nm.store (c.aAddr r) 32768 write

/-- R224: the partner of a pair register. -/
def CoreState.partner (c : CoreState) (n : BitVec 9) : BitVec 9 := n + (if vwSplit (c.viewReg 1) then 2#9 else 1#9)

/-- Whether v(n) and its partner both exist below v512. -/
def CoreState.partnerAddr (c : CoreState) (n : BitVec 9) : Option Nat :=
  if n.toNat + (if vwSplit (c.viewReg 1) then 2 else 1) < 512 then c.vAddr (c.partner n) else none

/-- Two items touch a common one, one of them writing. -/
def Nm.clash (x y : Nm) : Bool := (x.write || y.write) && decide (x.lo ≤ y.hi) && decide (y.lo ≤ x.hi)

/-! ### The operands of each instruction (chapters 06 to 15) -/

/-- Names of the S slot. -/
def namesS (i : Instr) : List Nm :=
  match i with
  | .add o | .sub o | .mul o | .mulh o | .mulhu o | .div o | .divu o | .rem o | .remu o | .and o | .or o | .xor o
  | .shl o | .shr o | .sar o | .rotr o | .addS32 o | .subS32 o | .mulS32 o | .mulhS32 o | .mulhuS32 o | .divS32 o
  | .divuS32 o | .remS32 o | .remuS32 o | .andS32 o | .orS32 o | .xorS32 o | .shlS32 o | .shrS32 o | .sarS32 o
  | .rotrS32 o | .min o | .minu o | .max o | .maxu o | .andn o | .orn o =>
    Nm.guard o.g ++ [.rS o.a, .rS o.b, .wS o.d]
  | .clz o | .ctz o | .popc o | .bswap o => Nm.guard o.g ++ [.rS o.a, .wS o.d]
  | .cmp o => Nm.guard o.g ++ [.rS o.a, .rS o.b] ++ Nm.wG o.k
  | .cmpi o => Nm.guard o.g ++ [.rS o.a] ++ Nm.wG o.k
  | .gand o | .gor o | .gxor o | .gandn o => Nm.guard o.g ++ Nm.rG o.a ++ Nm.rG o.b ++ Nm.wG o.d
  | .gset o => Nm.guard o.g ++ [.rS o.a] ++ Nm.wG o.d
  | .gget o => Nm.guard o.g ++ Nm.rG o.a ++ [.wS o.d]
  | .sel o => Nm.guard o.g ++ Nm.rG o.k ++ [.rS o.a, .rS o.b, .wS o.d]
  | .addi o | .andi o | .ori o | .xori o | .muli o | .movh o => Nm.guard o.g ++ [.rS o.a, .wS o.d]
  | .shli o | .shri o | .sari o => Nm.guard o.g ++ [.rS o.a, .wS o.d]
  | .movi o => Nm.guard o.g ++ [.wS o.d]
  | .ld o | .ldacq o => Nm.guard o.g ++ [.rS o.base, .wS o.r]
  | .st o | .strel o => Nm.guard o.g ++ [.rS o.base, .rS o.r]
  | .atom64 o | .atom32 o =>
    Nm.guard o.g ++ [.rS o.a, .rS o.b, .wS o.d] ++ (if o.f = 9#4 then [.rS o.d] else [])
  | .atomn o => Nm.guard o.g ++ [.rS o.a, .rS o.b, .wS o.d]
  | .qinit o | .enq o | .rwopen o => Nm.guard o.g ++ [.rS o.p, .rS o.q]
  | .deq o | .qpeek o => Nm.guard o.g ++ [.rS o.p, .rS o.q, .wS o.q]
  | .enqn o => Nm.guard o.g ++ [.rS o.p, .rS o.q] ++ Nm.wG o.k
  | .deqn o => Nm.guard o.g ++ [.rS o.p, .rS o.q, .wS o.q] ++ Nm.wG o.k
  | .qstat o | .rwclose o => Nm.guard o.g ++ [.rS o.p, .wS o.q]
  | .qclose o => Nm.guard o.g ++ [.rS o.p]
  | .fence o => Nm.guard o.g ++ [.wS o.p]
  | .fwait o => Nm.guard o.g ++ [.rS o.p]
  | .xset o => Nm.guard o.g ++ [.rS o.a, .wX o.k]
  | .xadd o => Nm.guard o.g ++ [.rX o.k, .wX o.k]
  | .view o => Nm.guard o.g ++ [.rS o.p, .wView o.n]
  | .shw o => Nm.guard o.g ++ [.rS o.p, .shadow o.slot.toNat o.h]
  | .mfc o => Nm.guard o.g ++ [.wS o.d]
  | .mtc o => Nm.guard o.g ++ [.rS o.a]
  | .jmpi o => Nm.guard o.g ++ [.rS o.p]
  | .call o => Nm.guard o.g ++ [.wS 63#6]
  | .ret o => Nm.guard o.g ++ [.rS 63#6]
  | .loop o | .rpt o => if o.n = 0#19 then [.rS o.a] else []
  | .lnsetBound o => Nm.guard o.g ++ [.rS o.p]
  | .lnsetBind o => Nm.guard o.g ++ [.rS o.p]
  | .waitev o => Nm.guard o.g ++ [.wS o.d]
  | .ctxsv o | .ctxld o => Nm.guard o.g ++ [.rS o.p]
  | .bwait o => Nm.guard o.g ++ [.wS o.d]
  | .wmwait o => Nm.guard o.g ++ [.rS o.a]
  | .launch o => Nm.guard o.g ++ [.rS o.p, .rS o.q]
  | .chwait o => Nm.guard o.g ++ [.wS o.p]
  | .preempt o | .resume o | .emrd o | .linkst o => Nm.guard o.g ++ [.rS o.p, .wS o.q]
  | .digest o | .talign o => Nm.guard o.g ++ [.rS o.p, .rS o.q, .wS o.q]
  | .sleep o => Nm.guard o.g ++ [.rS o.p]
  | .lnkcfg o => Nm.guard o.g ++ [.rS o.p, .rS o.q]
  | .slk o => Nm.guard o.g
  | .lnsetClear o => Nm.guard o.g
  | .drain o => Nm.guard o.g
  | .join o => Nm.guard o.g
  | .br o | .jmp o | .cont o => Nm.guard o.g
  | .endcont o | .tret o | .halt o | .yield o => Nm.guard o.g
  | .trap o => Nm.guard o.g
  | .gate o => Nm.guard o.g
  | .wmwaitAll o => Nm.guard o.g
  | _ => []

/-- R248: the base of a V-slot memory access. -/
def namesBase (base : BitVec 6) (mode : Bool) : List Nm :=
  if mode then [.rX (base.setWidth 4), .pX (base.setWidth 4)] else [.rS base]

/-- Names of a V slot (slot index u). -/
def namesV (c : CoreState) (u : Nat) (i : Instr) : List Nm :=
  match i with
  | .vadd o | .vsub o | .vmul o | .vmin o | .vmax o | .vdiv o | .vsel o | .vand o | .vor o | .vxor o | .vshl o
  | .vshr o | .vsar o | .vpack o | .vperm o | .vqdeq o =>
    Nm.guard o.g ++ Nm.shape u o.sh o.swap ++ Nm.v c o.a false ++ Nm.v c o.b false ++ Nm.v c o.d true
  | .vfma o | .vfade o =>
    Nm.guard o.g ++ Nm.shape u o.sh o.swap ++ Nm.v c o.a false ++ Nm.v c o.b false ++ Nm.v c o.d false
      ++ Nm.v c o.d true
  | .vabs o | .vneg o | .vsqrt o | .vrcp o | .vrsq o | .vexp2 o | .vlog2 o | .vnot o | .vcvt o | .xmov o | .vmov o =>
    Nm.guard o.g ++ Nm.shape u o.sh o.swap ++ Nm.v c o.a false ++ Nm.v c o.d true
  | .vcmp o => Nm.guard o.g ++ Nm.shape u o.sh o.swap ++ Nm.v c o.a false ++ Nm.v c o.b false ++ Nm.wG o.k
  | .vunpk o => Nm.guard o.g ++ Nm.shape u o.sh o.swap ++ Nm.v c o.a false ++ Nm.v c o.d true
  | .vbcstLane o => Nm.guard o.g ++ Nm.shape u o.sh o.swap ++ Nm.v c o.a false ++ Nm.v c o.d true
  | .vbcstScalar o => Nm.guard o.g ++ Nm.shape u o.sh o.swap ++ [.rS o.a] ++ Nm.v c o.d true
  | .vred o => Nm.guard o.g ++ Nm.shape u o.sh o.swap ++ Nm.rG o.m ++ Nm.v c o.a false ++ Nm.v c o.d true
  | .vcadd o =>
    Nm.guard o.g ++ Nm.shape u o.sh o.swap ++ Nm.v c o.a false ++ Nm.v c o.b false ++ Nm.v c o.d true
      ++ Nm.store (c.partnerAddr o.d) 128 true
  | .vcacc o =>
    Nm.guard o.g ++ Nm.shape u o.sh o.swap ++ Nm.v c o.a false ++ Nm.v c o.d false ++ Nm.v c o.d true
      ++ Nm.store (c.partnerAddr o.d) 128 false ++ Nm.store (c.partnerAddr o.d) 128 true
  | .cupseed o => Nm.guard o.g ++ [.rS o.p]
  | .cupstat o => Nm.guard o.g ++ Nm.v c o.d true
  | .vld o => Nm.guard o.g ++ Nm.shape u o.sh o.swap ++ namesBase o.base o.mode ++ Nm.v c o.d true
  | .vst o => Nm.guard o.g ++ Nm.shape u o.sh o.swap ++ namesBase o.base o.mode ++ Nm.v c o.d false
  | .vgth o =>
    Nm.guard o.g ++ Nm.shape u o.sh o.swap ++ namesBase o.base o.mode ++ Nm.v c o.i false ++ Nm.v c o.d true
  | .vsct o =>
    Nm.guard o.g ++ Nm.shape u o.sh o.swap ++ namesBase o.base o.mode ++ Nm.v c o.i false ++ Nm.v c o.d false
  | .vatom o =>
    Nm.guard o.g ++ Nm.shape u o.sh o.swap ++ [.rS o.base] ++ Nm.v c o.i false ++ Nm.v c o.d false
      ++ (if o.ret then Nm.v c o.d true else [])
  | _ => []

/-- A feed register, advanced under pi. -/
def namesFeed (x : BitVec 4) (pi : Bool) : List Nm := if pi then [.rX x, .pX x] else [.rX x]

/-- Names of the M slot (R291 to R305; MMAZ always names four accumulators, R300). -/
def namesM (c : CoreState) (i : Instr) : List Nm :=
  match i with
  | .mbld o => Nm.guard o.g ++ Nm.shape 2 o.sh o.swap ++ namesFeed o.xd o.pi
  | .mbsw o => Nm.guard o.g
  | .mma o => Nm.guard o.g ++ Nm.shape 2 o.sh o.swap ++ namesFeed o.xa o.pi ++ Nm.a c o.acc true
  | .mmaz o =>
    Nm.guard o.g ++ Nm.shape 2 o.sh o.swap ++ namesFeed o.xa o.pi
      ++ (List.range 4).flatMap fun k => Nm.a c (o.acc + BitVec.ofNat 3 k) true
  | .mscl o => Nm.guard o.g ++ Nm.shape 2 o.sh o.swap ++ Nm.a c o.acc false ++ Nm.a c o.acc true
  | .macc o =>
    Nm.guard o.g ++ Nm.shape 2 o.sh o.swap ++ Nm.a c o.src false ++ Nm.a c o.acc false ++ Nm.a c o.acc true
  | .mzero o => Nm.guard o.g ++ Nm.shape 2 o.sh o.swap ++ Nm.a c o.acc true
  | .mout o => Nm.guard o.g ++ Nm.shape 2 o.sh o.swap ++ namesFeed o.xa o.pi ++ Nm.a c o.acc false
  | .mtap o =>
    Nm.guard o.g ++ Nm.shape 2 o.sh o.swap ++ namesFeed o.xa o.pi ++ namesFeed o.xd o.pi ++ Nm.a c o.acc true
  | _ => []

/-- Names of the N slot (R316, R324). -/
def namesN (c : CoreState) (i : Instr) : List Nm :=
  match i with
  | .lcfgSet o => Nm.guard o.g ++ Nm.shape 3 o.sh o.swap
  | .lcfgLoad o | .lcfgSave o => Nm.guard o.g ++ Nm.shape 3 o.sh o.swap ++ namesFeed o.x o.pi
  | .lcfgClear o => Nm.guard o.g ++ Nm.shape 3 o.sh o.swap
  | .lscan o | .lscanc o =>
    Nm.guard o.g ++ Nm.shape 3 o.sh o.swap ++ namesFeed o.xa o.pi ++ namesFeed o.xb o.pi
  | .lgate o => Nm.guard o.g ++ Nm.shape 3 o.sh o.swap ++ namesFeed o.xa o.pi ++ namesFeed o.xb o.pi
  | .lmat o =>
    Nm.guard o.g ++ Nm.shape 3 o.sh o.swap ++ namesFeed o.xa o.pi ++ namesFeed o.xb o.pi ++ Nm.a c o.acc false
      ++ Nm.a c o.acc true
  | _ => []

/-- Names of a C slot (slot index u). -/
def namesC (u : Nat) (i : Instr) : List Nm :=
  match i with
  | .cpy o => Nm.guard o.g ++ Nm.shape u o.sh o.swap ++ [.rX o.xs, .rX o.xd]
  | .cpyg o => Nm.guard o.g ++ Nm.shape u o.sh o.swap ++ [.rX o.xs, .rX (o.xs + 1#4), .rX o.xd]
  | .cpyh o => Nm.guard o.g ++ Nm.shape u o.sh o.swap ++ [.rX o.xs, .rX o.xd]
  | .cpym o => Nm.guard o.g ++ Nm.shape u o.sh o.swap ++ [.rX o.xs, .rX o.xd, .rX (o.xd + 1#4)]
  | .cpyd o => Nm.guard o.g ++ Nm.shape u o.sh o.swap ++ [.rX o.xs, .rX o.xd]
  | .cpyr o => Nm.guard o.g ++ Nm.shape u o.sh o.swap ++ [.rX o.xs, .rX o.xd]
  | .wmark o => Nm.guard o.g ++ [.rX o.xs, .rX o.xd]
  | .binit o | .badd o => Nm.guard o.g ++ [.rX o.k]
  | .arrive o => Nm.guard o.g
  | .frld o => Nm.guard o.g ++ [.rX o.xf]
  | .frst o => Nm.guard o.g
  | .frsw o => Nm.guard o.g ++ [.rX o.xf, .wX o.xo]
  | .snap o | .fork o | .hpapp o | .frstat o => Nm.guard o.g ++ [.rX o.xf, .rX o.xo]
  | .rback o => Nm.guard o.g ++ [.rX o.xf, .rX o.xo]
  | .frel o => Nm.guard o.g ++ [.rX o.xf]
  | .hpmap o => Nm.guard o.g ++ [.rX o.xf, .rX (o.xf + 1#4), .rX o.xo]
  | _ => []

/-- R39: what the instruction in a slot names. -/
def names (c : CoreState) (slot : Nat) (i : Instr) : List Nm :=
  match slot with
  | 1 => namesS i
  | 2 => namesV c 0 i
  | 3 => namesV c 1 i
  | 4 => namesM c i
  | 5 => namesN c i
  | 6 => namesC 4 i
  | _ => namesC 5 i

/-! ### Read ports and crossings (R33, R34, R77) -/

/-- R33: the read ports an instruction needs. -/
def portNeed : Instr → Nat
  | .vadd _ | .vsub _ | .vmul _ | .vmin _ | .vmax _ | .vdiv _ | .vcmp _ | .vsel _ | .vand _ | .vor _ | .vxor _
  | .vshl _ | .vshr _ | .vsar _ | .vpack _ | .vperm _ | .vcadd _ | .vqdeq _ | .vsct _ | .vatom _ => 2
  | .vfma _ | .vcacc _ | .vfade _ => 3
  | .vabs _ | .vneg _ | .vsqrt _ | .vrcp _ | .vrsq _ | .vexp2 _ | .vlog2 _ | .vnot _ | .vcvt _ | .vunpk _
  | .vbcstLane _ | .vred _ | .xmov _ | .vmov _ | .vst _ => 1
  | .vld o => if o.mode then 1 else 0
  | .vgth o => if o.mode then 2 else 1
  | .mma _ | .mmaz _ | .mtap _ => 1
  | .lcfgSet _ | .lcfgLoad _ | .lcfgSave _ | .lcfgClear _ | .lgate _ | .lmat _ => 1
  | .lscan _ | .lscanc _ => 2
  | .cpy o => if o.ssp = 3#2 then 1 else 0
  | .cpyh o => if o.ssp = 3#2 then 1 else 0
  | .cpym o | .cpyd o => if o.ssp = 3#2 then 1 else 0
  | .cpyr o => if o.ssp = 3#2 then 1 else 0
  | .cpyg o => if o.dsp = 3#2 then 2 else 1
  | _ => 0

/-- R77: whether a vector register lies in the far half of unit u (0 or 1); none when it does not exist. -/
def CoreState.far (c : CoreState) (u : Nat) (r : BitVec 9) : Option Bool :=
  (c.vAddr r).map fun a => decide (a / 0x80000 ≠ u)

/-- The vector registers a V instruction reads. -/
def vReads : Instr → List (BitVec 9)
  | .vadd o | .vsub o | .vmul o | .vmin o | .vmax o | .vdiv o | .vsel o | .vand o | .vor o | .vxor o | .vshl o
  | .vshr o | .vsar o | .vpack o | .vperm o | .vqdeq o | .vcadd o => [o.a, o.b]
  | .vfma o | .vfade o => [o.a, o.b, o.d]
  | .vabs o | .vneg o | .vsqrt o | .vrcp o | .vrsq o | .vexp2 o | .vlog2 o | .vnot o | .vcvt o | .xmov o | .vmov o =>
    [o.a]
  | .vcmp o => [o.a, o.b]
  | .vunpk o => [o.a]
  | .vbcstLane o => [o.a]
  | .vred o => [o.a]
  | .vcacc o => [o.a, o.d]
  | .vst o => [o.d]
  | .vgth o => [o.i]
  | .vsct o => [o.i, o.d]
  | .vatom o => [o.i, o.d]
  | _ => []

/-- The vector register a V instruction writes. -/
def vWrite : Instr → Option (BitVec 9)
  | .vadd o | .vsub o | .vmul o | .vmin o | .vmax o | .vdiv o | .vsel o | .vand o | .vor o | .vxor o | .vshl o
  | .vshr o | .vsar o | .vpack o | .vperm o | .vqdeq o | .vcadd o | .vfma o | .vfade o => some o.d
  | .vabs o | .vneg o | .vsqrt o | .vrcp o | .vrsq o | .vexp2 o | .vlog2 o | .vnot o | .vcvt o | .xmov o | .vmov o
  | .vcacc o => some o.d
  | .vunpk o => some o.d
  | .vbcstLane o => some o.d
  | .vbcstScalar o => some o.d
  | .vred o => some o.d
  | .cupstat o => some o.d
  | .vld o => some o.d
  | .vgth o => some o.d
  | .vatom o => if o.ret then some o.d else none
  | _ => none

/-- R77: the crossings of a V instruction of unit u, and whether its destination breaks the rule of its half. A far register
that two operands name is two crossings (DESIGN CHOICE, log entry 46). -/
def CoreState.crossings (c : CoreState) (u : Nat) (i : Instr) : Nat × Bool :=
  let reads := ((vReads i).filter fun r => c.far u r == some true).length
  match i with
  | .xmov o => (reads + 1, c.far u o.d == some false)
  | _ => (reads, match vWrite i with | some d => c.far u d == some true | none => false)

/-! ### Kinds of instruction -/

/-- R84: an instruction that reads or writes store bytes through named registers or through address registers. -/
def storeInstr : Instr → Bool
  | .cupseed _ | .mbld _ | .mbsw _ | .lcfgSet _ | .lcfgClear _ | .wmark _ | .binit _ | .arrive _ | .badd _ => false
  | .cpy o => o.ssp == 3#2 || o.dsp == 3#2
  | .cpyh o => o.ssp == 3#2 || o.dsp == 3#2
  | .cpym o | .cpyd o => o.ssp == 3#2
  | .cpyr o => o.ssp == 3#2
  | .cpyg _ => true
  | .frld _ | .frst _ | .frsw _ | .snap _ | .fork _ | .rback _ | .frel _ | .hpapp _ | .hpmap _ => false
  | .frstat _ => true
  | i => match i.slotClass with | some .v | some .m | some .n => true | _ => false

/-- R58: the opcodes that draw under stochastic rounding. -/
def drawOp : Instr → Bool
  | .vadd _ | .vsub _ | .vmul _ | .vfma _ | .vdiv _ | .vsqrt _ | .vrcp _ | .vrsq _ | .vexp2 _ | .vlog2 _ | .vcvt _
  | .vpack _ | .vred _ | .vfade _ | .vqdeq _ => true
  | _ => false

/-- R252, R254: instructions that use the Cup, whatever their shape holds. -/
def cupOp : Instr → Bool
  | .cupseed _ | .cupstat _ => true
  | i => drawOp i

/-- CUPSEED (R252). -/
def isSeed : Instr → Bool
  | .cupseed _ => true
  | _ => false

/-- R36: repeatable instructions. -/
def repeatable : Instr → Bool
  | .mma _ | .mmaz _ | .macc _ | .mtap _ | .lscan _ | .lscanc _ | .lgate _ | .lmat _ => true
  | _ => false

/-- R45, R216, R219, R177: no later bundle is dispatched until this S entry has issued. -/
def stopsDispatch : Instr → Bool
  | .br _ | .jmp _ | .jmpi _ | .call _ | .ret _ | .trap _ | .tret _ | .cont _ | .endcont _ | .segOpen _ | .segClose _
  | .halt _ | .yield _ | .ctxsv _ | .ctxld _ | .view _ | .slk _ => true
  | _ => false

/-- R462: the transfers that bit 7 of a replay mask stands for. -/
def isTransfer : Instr → Bool
  | .br _ | .jmp _ | .jmpi _ | .call _ | .ret _ => true
  | _ => false

/-- R165: S entries that have their whole effect at dispatch; LOOPN still moves its address registers at its issue. -/
def atDispatch : Instr → Bool
  | .loop _ | .rpt _ | .margin _ => true
  | _ => false

/-- R172: what the body of RPT may not hold in its S slot. -/
def barredInRpt : Instr → Bool
  | .rpt _ | .loopn _ | .br _ | .jmp _ | .jmpi _ | .call _ | .ret _ | .cont _ | .endcont _ | .segClose _ | .trap _
  | .tret _ | .halt _ | .yield _ | .ctxld _ => true
  | _ => false

/-- MBLD, which reads the deck (R286). -/
def isMbld : Instr → Bool
  | .mbld _ => true
  | _ => false

/-- The frame instructions (R341). -/
def isFrame : Instr → Bool
  | .frld _ | .frst _ | .frsw _ | .snap _ | .fork _ | .rback _ | .frel _ | .hpapp _ | .hpmap _ | .frstat _ => true
  | _ => false

/-- R147, R148, R151, R175, R180, R286, R433: whether an unissued S entry `i` keeps the entry `j` of a later bundle, in slot
`slot`, from issuing. -/
def holdsLater (i : Instr) (slot : Nat) (j : Instr) : Bool :=
  match i with
  | .fwait _ | .drain _ | .ldacq _ | .deq _ | .deqn _ | .bwait _ | .rwclose _ | .chwait _ | .cont _ | .endcont _ | .halt _
  | .ctxsv _ | .ctxld _ => decide (2 ≤ slot)
  | .join o =>
    if slot = 4 then o.m.getLsbD 0 || (isMbld j && (o.m.getLsbD 2 || o.m.getLsbD 3)) else if slot = 5 then o.m.getLsbD 1
    else if slot = 6 ∨ slot = 7 then (if isFrame j then o.m.getLsbD 4 else o.m.getLsbD (slot - 4))
    else decide (2 ≤ slot)
  | _ => false

/-- An access of the synchronous stream that reads memory, and one that writes it (R139). -/
def readsMemory : Instr → Bool
  | .ld _ | .ldacq _ | .vld _ | .vgth _ | .deq _ | .deqn _ | .qpeek _ | .qstat _ | .segOpen _ | .emrd _ | .digest _ => true
  | _ => false
def writesMemory : Instr → Bool
  | .st _ | .strel _ | .vst _ | .vsct _ | .vatom _ | .atom64 _ | .atom32 _ | .atomn _ | .qinit _ | .enq _ | .enqn _
  | .qclose _ | .launch _ => true
  | _ => false

/-- The atomics. -/
def isAtomic : Instr → Bool
  | .atom64 _ | .atom32 _ | .atomn _ | .vatom _ => true
  | _ => false

/-! ### What the scoreboard watches beside the names (R46) -/

/-- Items 200 and up: 200 + n for channel n, 240 and 241 what V0 and V1 entries write of the vector status, 242 and 243 the
status of M and N, 244 the Cup, 245 the frame registers, 246 FPEN, 247 translation, 248 the windows of all channels, 249
RWSEQ, 250 + i bit i of GATEST. -/
def crItems (n : Nat) : List Nat :=
  if 0x080 ≤ n ∧ n ≤ 0x09F then [200 + (n - 0x080)]
  else if 0x0A0 ≤ n ∧ n ≤ 0x0BF then [200 + (n - 0x0A0)]
  else if 0x020 ≤ n ∧ n ≤ 0x030 then [240, 241]
  else if n = 0x031 then [240, 241, 244]
  else if 0x01B ≤ n ∧ n ≤ 0x01D then [242]
  else if n = 0x01E ∨ n = 0x01F then [243]
  else if n = 0x00E ∨ n = 0x00F ∨ (0x120 ≤ n ∧ n ≤ 0x124) then [245]
  else if n = 0x00D then [246]
  else if 0x018 ≤ n ∧ n ≤ 0x01A then [247]
  else if n = 0x127 then [249]
  else if n = 0x049 then [250, 251, 252, 253, 254, 255]
  else if 0x010 ≤ n ∧ n ≤ 0x017 then [144 + (n - 0x010)]
  else []

/-- Every view register, as an access through an address register reads them (R78). -/
def allViews : List Nm := [⟨145, 151, false, false⟩]

/-- What an access of memory in the S or a V slot uses: translation, and the channels' windows (R272). -/
def accessItems (i : Instr) : List Nm := if readsMemory i || writesMemory i || isAtomic i then [.rd 247, .rd 248] else []

/-- Resources an entry uses that it does not name. -/
def hidden (c : CoreState) (slot : Nat) (i : Instr) : List Nm :=
  match i with
  | .mfc o => (crItems o.c.toNat).map Nm.rd
  | .mtc o => (crItems o.c.toNat).map Nm.wr
  | .loopn o =>
    match c.nest[o.lv.toNat]? with
    | some v => (if v.b0.on then [Nm.wX v.b0.k] else []) ++ (if v.b1.on then [Nm.wX v.b1.k] else [])
    | none => []
  | .shw o => [.wr (96 + 8 * o.slot.toNat + 2 * o.h.toNat)]
  | .wmwait o => [.rd (200 + o.c.toNat)]
  | .wmwaitAll o => [.rd (200 + o.c.toNat)]
  | .wmark o => [.wr (200 + o.ch.toNat), .wr 248]
  | .cpy o | .cpyg o => allViews ++ [.rd (200 + o.ch.toNat), .rd 247, .rd 248]
  | .cpym o | .cpyd o => allViews ++ [.rd (200 + o.ch.toNat), .rd 247, .rd 248]
  | .cpyh _ => allViews ++ [.rd 200, .rd 247, .rd 248]
  | .cpyr _ => allViews ++ [.rd 200, .rd 247, .rd 248, .wr 249]
  | .vatom o => [.wr (if slot = 2 then 240 else 241), .rd 247, .rd 248] ++ allViews ++ (if o.ret then [] else [.wr 249])
  | _ =>
    (if slot = 1 then accessItems i
    else if slot = 2 then [.wr 240, .rd 246, .rd 248] ++ accessItems i ++ allViews
    else if slot = 3 then [.wr 241, .rd 246, .rd 248] ++ accessItems i ++ allViews
    else if slot = 4 then [.wr 242, .rd 246] ++ allViews
    else if slot = 5 then [.wr 243, .rd 246] ++ allViews
    else if isFrame i then [.wr 245, .rd 245, .rd 247] ++ allViews else [])
      ++ (if cupOp i then [.wr 244] else [])

/-- R46, R196: the bits of GATEST that an entry uses: GATE writes those that are set or that it sets, an entry of slots 2 to 7
reads that of its engine, and clears it by waking the engine. -/
def gateItems (c : CoreState) (slot : Nat) (i : Instr) : List Nm :=
  match i with
  | .gate o => ((List.range 6).filter fun k => o.m.getLsbD k || (c.crGet 0x049).getLsbD k).map fun k => .wr (250 + k)
  | _ =>
    if 2 ≤ slot then .rd (248 + slot) :: (if (c.crGet 0x049).getLsbD (slot - 2) then [.wr (248 + slot)] else []) else []

/-- Everything the scoreboard sees of an entry. -/
def touched (c : CoreState) (slot : Nat) (i : Instr) : List Nm := names c slot i ++ hidden c slot i ++ gateItems c slot i

/-- R40, R46: an entry overwrites a view or a control register that another entry of its bundle reads. -/
def overwrites (xs ys : List Nm) : Bool :=
  xs.any fun x => x.write && decide (144 ≤ x.lo) && decide (x.hi < 4096)
    && ys.any fun y => !y.write && decide (x.lo ≤ y.hi) && decide (y.lo ≤ x.hi)

/-- R156: instructions that can raise no trap after their dispatch. -/
def neverTraps : Instr → Bool
  | .nop | .add _ | .sub _ | .mul _ | .mulh _ | .mulhu _ | .and _ | .or _ | .xor _ | .shl _ | .shr _ | .sar _ | .rotr _ | .addS32 _
  | .subS32 _ | .mulS32 _ | .mulhS32 _ | .mulhuS32 _ | .andS32 _ | .orS32 _ | .xorS32 _ | .shlS32 _ | .shrS32 _ | .sarS32 _ | .rotrS32 _
  | .min _ | .minu _ | .max _ | .maxu _ | .andn _ | .orn _ | .clz _ | .ctz _ | .popc _ | .bswap _ | .cmp _ | .cmpi _ | .gand _ | .gor _
  | .gxor _ | .gandn _ | .gset _ | .gget _ | .sel _ | .addi _ | .andi _ | .ori _ | .xori _ | .muli _ | .movh _ | .shli _ | .shri _
  | .sari _ | .movi _ | .fence _ | .fwait _ | .drain _ | .join _ | .xset _ | .xadd _ | .shw _ | .slk _ | .mfc _ | .loop _ | .rpt _
  | .loopn _ | .margin _ | .lnsetBound _ | .lnsetBind _ | .lnsetClear _ | .segClose _ | .waitev _ | .halt _ | .yield _ | .gate _
  | .wmwait _ | .wmwaitAll _ | .chwait _ | .mbsw _ | .lcfgSet _ | .lcfgClear _ => true
  | .mtc o => !(decide (0x140 ≤ o.c.toNat) && decide (o.c.toNat ≤ 0x17F))
  | _ => false

/-- R131, R156: accesses whose check reads nothing but registers and page tables, so that it may pass while the entry waits
behind others of its slot. -/
def checksAhead : Instr → Bool
  | .ld _ | .ldacq _ | .st _ | .strel _ | .atom64 _ | .atom32 _ | .atomn _ | .div _ | .divu _ | .rem _ | .remu _ | .divS32 _ | .divuS32 _
  | .remS32 _ | .remuS32 _ | .view _ | .mtc _ | .emrd _ | .linkst _ | .lnkcfg _ | .talign _ | .digest _ | .cont _ | .endcont _
  | .binit _ | .badd _ => true
  | i => !isFrame i && (match i.slotClass with | some .v | some .m | some .n | some .c => true | _ => false)

/-- Whether two entries of different bundles depend on each other. -/
def dependent (xs ys : List Nm) : Bool := xs.any fun x => ys.any fun y => x.clash y

end Sys2Proof.Machine
end

