-- ==== Sys2Proof/Machine/Loops.lean ====
section
/-! DEFINITION. Counted loops (R166 to R174): the levels at the dispatch of a bundle, opening a level, the decision of
LOOPN, and control transfers (R162, R167). -/

namespace Sys2Proof.Machine

/-- The address `k` bundles after `pc`. -/
def ahead (pc : BitVec 48) (k : Nat) : BitVec 48 := pc + BitVec.ofNat 48 (32 * k)

/-- R166: the levels that end at a bundle count down, innermost first: the levels that stay, the address that follows,
and whether the bundle was the last of some body. -/
def countLevels (pc : BitVec 48) : List LoopLevel → List LoopLevel × BitVec 48 × Bool
  | [] => ([], ahead pc 1, false)
  | l :: t =>
    if l.last ≠ pc then (l :: t, ahead pc 1, false)
    else if 1 < l.left then ({ l with left := l.left - 1 } :: t, l.start, true)
    else
      let (t', n, _) := countLevels pc t
      (t', n, true)

/-- R166: the body of a level is the bundles from its first to its last address. -/
def LoopLevel.holds (l : LoopLevel) (pc : BitVec 48) : Bool := decide (l.start ≤ pc) && decide (pc ≤ l.last)

/-- R166: the count of LOOP or RPT. -/
def CoreState.loopCount (c : CoreState) (o : OpLoop) : Nat :=
  if o.n = 0#19 then (c.sVal o.a).toNat % 2 ^ 32 else o.n.toNat

/-- R166: whether opening a level raises trap 0x02: four levels are active, or the body leaves the innermost one. -/
def levelBad (loops : List LoopLevel) (pc : BitVec 48) (o : OpLoop) (n : Nat) : Bool :=
  n != 0 && (loops.length == 4
    || match loops with
      | [] => false
      | l :: _ => decide (l.last.toNat < pc.toNat + 32 * (o.l.toNat + 1)))

/-- R166: the effect of LOOP and RPT at dispatch, from the bundle at `pc` whose levels have been counted, `next` being
what follows it. A count of 0 skips the body unless a counted level has sent the control back, which stands (DESIGN CHOICE,
log entry 46). -/
def CoreState.openLevel (c : CoreState) (pc next : BitVec 48) (o : OpLoop) (rpt : Bool) : CoreState :=
  let n := c.loopCount o
  let c := { c with group := .start }
  if n = 0 then (if next = ahead pc 1 then { c with pc := ahead pc (o.l.toNat + 2) } else c)
  else { c with loops := ⟨ahead pc 1, ahead pc (o.l.toNat + 1), n, rpt, 0, false⟩ :: c.loops }

/-- An enabled binding moves its address register. -/
def CoreState.moveX (c : CoreState) (b : Binding) (by' : Word32) : CoreState :=
  if b.on then c.bumpX b.k by' else c

/-- R170: the decision of LOOPN: taken when the count is not yet at its bound. -/
def NestLevel.taken (v : NestLevel) : Bool := decide (v.count.toNat + 1 < v.bound.toNat)

/-- R170: LOOPN at dispatch: the count of its level, and where dispatch goes. -/
def CoreState.loopn (c : CoreState) (pc : BitVec 48) (o : OpLoopn) : CoreState :=
  let v := c.nest[o.lv.toNat]?.getD .clear
  let c := { c with nest := c.nest.set o.lv.toNat { v with count := if v.taken then v.count + 1#32 else 0#32 } }
  if v.taken then { c with pc := pc + (o.off.signExtend 48 <<< 5), group := .start } else c

/-- R170: the address registers at the issue of LOOPN, from its level as it stood before the dispatch. -/
def CoreState.loopnMove (c : CoreState) (v : NestLevel) : CoreState :=
  let back (b : Binding) : Word32 := if v.taken then b.stride else 0#32 - v.count * b.stride
  (c.moveX v.b0 (back v.b0)).moveX v.b1 (back v.b1)

/-- R162, R167: a taken transfer ends every level and starts a group. -/
def CoreState.jumpTo (c : CoreState) (t : BitVec 48) : CoreState := { c with pc := t, loops := [], group := .start }

/-- R162: the target of a transfer from the bundle at `pc`, as a 64-bit value. -/
def CoreState.target (c : CoreState) (pc : BitVec 48) (i : Instr) : Word64 :=
  match i with
  | .br o | .call o => pc.setWidth 64 + (o.off.signExtend 64 <<< 5)
  | .jmp o => (o.off.signExtend 48 <<< 5).setWidth 64
  | .jmpi o => c.sVal o.p
  | .ret _ => c.sVal 63#6
  | _ => 0#64

end Sys2Proof.Machine
end

