-- ==== Sys2Proof/Machine/LoadStore.lean ====
section
/-! DEFINITION. Loads, stores and fences of the S slot (R211 to R214, R145 to R151) and JOIN (R175). -/

namespace Sys2Proof.Machine

/-- R213, R251: the slot has as many loads, or stores, outstanding as it may. -/
def State.slotFull (s : State) (write : Bool) : Bool :=
  if write then decide ((if s.core.cur.slot = 1 then 32 else 16) ≤ s.storesOut s.core.cur.slot)
  else decide (8 ≤ s.loadsOut s.core.cur.slot)

/-- R140: a request for `n` bytes cannot be sent now. -/
def State.sendHeld (s : State) (loc n : Nat) : Bool := s.ownWait loc n

/-- R213, R272, R339: a load or store of the S slot that has passed its checks is held. -/
def State.scalarHeld (s : State) (a : Word64) (loc n : Nat) (write : Bool) : Bool :=
  s.accessHeld a loc n write || s.slotFull write || s.ownWait loc n

/-- A load of one element whose checks have passed (R212, R213). -/
def State.loadScalar (s : State) (o : OpSL) (a : Word64) (loc : Nat) : Out :=
  let w := slWidth o.ty
  let done (s : State) (bs : List Byte) : Out := .next (s.putS o.r (slValue o.ty (leNat bs)))
  let ask (s : State) : Out :=
    if s.sendHeld loc w then s.hold
    else .next (s.sendLoad (.sreg o.r o.ty) [⟨loc, a, w, 0, []⟩])
  if s.scalarHeld a loc w false then s.hold
  else if s.ownStorage loc then
    (if s.poisoned loc w then s.consumeHere loc a else done s (s.readSync loc w))
  else if usesL1 loc then
    match s.l1Read loc w with
    | some bs => if s.l1Bad loc w then s.consumeHere loc a else done s.ticked bs
    | none => ask (s.l1Drop s.core.id loc)
  else ask s

/-- LD (R211, R212). -/
def execLd (o : OpSL) (s : State) : Out :=
  s.whenOn o.g <|
    let a := slAddr s.core o
    match s.place a (slWidth o.ty) (slWidth o.ty) .rd with
    | .error f => s.accTrap f .rd 0 a 0#64
    | .ok p => (s.notePage p).loadScalar o a p.loc

/-- R151: what an acquire does when it performs. -/
def State.acquired (s : State) : State := s.l1Clear

/-- Whether the entry being issued has a load on its way. -/
def State.loadOnWay (s : State) : Bool :=
  (s.pendingOf s.core.id).any (fun r => r.seq == s.core.cur.seq && r.slot == s.core.cur.slot && r.isLoad)
    || s.replies.any fun r => r.core == s.core.id && r.seq == s.core.cur.seq && r.slot == s.core.cur.slot

/-- LDACQ (R149, R151, R212): performed at its serialisation point; its entry waits until then. -/
def execLdacq (o : OpSL) (s : State) : Out :=
  s.whenOn o.g <|
    let a := slAddr s.core o
    let w := slWidth o.ty
    match s.place a w w .rd with
    | .error f => s.accTrap f .rd 0 a 0#64
    | .ok p =>
      let s := s.notePage p
      if s.loadOnWay || s.scalarHeld a p.loc w false then s.hold
      else if s.ownStorage p.loc then
        (if s.poisoned p.loc w then s.consumeHere p.loc a
        else .next (s.acquired.putS o.r (slValue o.ty (leNat (s.readSync p.loc w)))))
      else if s.sendHeld p.loc w then s.hold
      else (s.sendLoad (.acq o.r o.ty) [⟨p.loc, a, w, 0, []⟩]).hold

/-- The bytes a store writes. -/
def storeBytes (c : CoreState) (o : OpSL) : List Byte := leBytes (slWidth o.ty) (c.sVal o.r).toNat

/-- R134, R212, R213: a store that has passed its checks and may be sent; one that is no release updates L1. -/
def State.storeScalar (s : State) (a : Word64) (loc : Nat) (bs : List Byte) (release : Bool) : State :=
  let s := if usesL1 loc && !release then s.l1Store loc bs else s
  s.sendStore [⟨loc, a, bs.length, 0, bs⟩] release

/-- ST (R211, R212). -/
def execSt (o : OpSL) (s : State) : Out :=
  s.whenOn o.g <|
    let a := slAddr s.core o
    let w := slWidth o.ty
    match s.place a w w .wr with
    | .error f => s.accTrap f .wr 0 a 0#64
    | .ok p =>
      let s := s.notePage p
      let bs := storeBytes s.core o
      if s.scalarHeld a p.loc w true then s.hold
      else if s.ownStorage p.loc then .next (s.writeSync p.loc bs)
      else if s.sendHeld p.loc w then s.hold
      else .next (s.storeScalar a p.loc bs false)

/-- STREL (R149, R150, R212, R213): a store that performs only after what it releases; the S slot goes on. -/
def execStrel (o : OpSL) (s : State) : Out :=
  s.whenOn o.g <|
    let a := slAddr s.core o
    let w := slWidth o.ty
    match s.place a w w .wr with
    | .error f => s.accTrap f .wr 0 a 0#64
    | .ok p =>
      let s := s.notePage p
      let bs := storeBytes s.core o
      if s.scalarHeld a p.loc w true || s.sendHeld p.loc w then s.hold
      else if s.ownStorage p.loc && s.releaseReady s.core.id s.core.cur.seq 3 then .next (s.writeSync p.loc bs)
      else .next (s.storeScalar a p.loc bs true)

/-! ### Fences -/

/-- FENCE (R147): a token for the accesses of earlier bundles. -/
def execFence (o : OpFence) (s : State) : Out :=
  s.whenOn o.g <|
    let n := s.core.fseq + 1#32
    .next (s.upd fun c =>
      { (c.setS o.p ((o.scope.setWidth 64 <<< 32) ||| n.setWidth 64)) with
        fseq := n, fences := ⟨n, o.scope.toNat, c.cur.seq⟩ :: c.fences.filter fun f => s.coveredLeft f.seq f.scope })

/-- R147: a malformed token. -/
def tokenBad (fseq : Word32) (t : Word64) : Bool :=
  t >>> 35 != 0#64 || decide (5 ≤ bitsOf t 32 3) || decide (2 ^ 31 ≤ (fseq - t.setWidth 32).toNat)

/-- R148: a drain of some scope: held until everything covered has performed; L1 is invalidated for die or wider. -/
def State.drainScope (s : State) (scope : Nat) : Out :=
  if s.coveredLeft s.core.cur.seq scope then s.hold else .next (if 2 ≤ scope then s.l1Clear else s)

/-- FWAIT (R147). -/
def execFwait (o : OpS1) (s : State) : Out :=
  s.whenOn o.g <|
    let t := s.core.sVal o.p
    if tokenBad s.core.fseq t then s.drainScope 4
    else
      if s.core.fences.any fun f => f.num == t.setWidth 32 && s.coveredLeft f.seq f.scope then s.hold else .next (if 2 ≤ bitsOf t 32 3 then s.l1Clear else s)

/-- DRAIN (R148). -/
def execDrain (o : OpDrain) (s : State) : Out := s.whenOn o.g (s.drainScope o.scope.toNat)

/-- R175: the bit of JOIN's mask that names the queue of an entry, none for the S and V slots. -/
def Entry.queueBit (e : Entry) : Option Nat :=
  if e.slot < 4 then none else if 6 ≤ e.slot ∧ isFrame e.instr = true then some 4 else some (e.slot - 4)

/-- R175: an operation of an earlier bundle, queued or still to issue, in the engine queues that a mask names. -/
def CoreState.joinBusy (c : CoreState) (m : BitVec 5) : Bool :=
  c.ops.any (fun p => decide (p.seq < c.cur.seq) && m.getLsbD p.eng)
    || c.bundles.any fun b => decide (b.seq < c.cur.seq) && b.entries.any fun e => e.queueBit.any m.getLsbD

/-- JOIN (R144, R175). -/
def execJoin (o : OpJoin) (s : State) : Out := s.whenOn o.g (if s.core.joinBusy o.m then s.hold else .next s)

end Sys2Proof.Machine
end

