-- ==== Sys2Proof/Machine/Sequencer.lean ====
section
/-! DEFINITION. The sequencer's instructions: transfers (R162), counted loops (R165 to R170), margin (R158), segments
(R176 to R178), containment (R180), traps and their return (R189, R192), ending, yielding, waiting and gating (R193 to
R196). -/

namespace Sys2Proof.Machine

/-! ### Transfers (R162) -/

/-- R162: a taken transfer: the check of its target, the link register, the end of every level. -/
def State.transfer (s : State) (g : BitVec 4) (i : Instr) (link : Bool) : Out :=
  s.whenOn g <|
    let pc := s.core.cur.pc
    let t := s.core.target pc i
    if t.toNat % 32 ≠ 0 ∨ 2 ^ 48 ≤ t.toNat then s.accTrap ⟨0x0A#8, 0#64⟩ .rd 0 t 0#64
    else .next (s.upd fun c =>
      let c := if link then c.setS 63#6 (pc.setWidth 64 + 32#64) else c
      (c.updBundle c.cur.seq fun b => { b with done := b.done ||| 0x80#8 }).jumpTo (t.setWidth 48))

def execBr (o : OpSJ) (s : State) : Out := s.transfer o.g (.br o) false
def execJmp (o : OpSJ) (s : State) : Out := s.transfer o.g (.jmp o) false
def execJmpi (o : OpS1) (s : State) : Out := s.transfer o.g (.jmpi o) false
def execCall (o : OpSJ) (s : State) : Out := s.transfer o.g (.call o) true
def execRet (o : OpG) (s : State) : Out := s.transfer o.g (.ret o) false

/-! ### Loops and margin -/

/-- LOOP (R166): its bundle has been dispatched and its levels counted. -/
def execLoop (o : OpLoop) (s : State) : Out := .next (s.upd fun c => c.openLevel c.cur.pc c.cur.next o false)

/-- RPT (R171). -/
def execRpt (o : OpLoop) (s : State) : Out := .next (s.upd fun c => c.openLevel c.cur.pc c.cur.next o true)

/-- LOOPN (R170): its branch was decided at dispatch, from the level that its bundle's record keeps; here its address
registers move. -/
def execLoopn (o : OpLoopn) (s : State) : Out :=
  let nest := (s.core.curBundle.bind (·.nest)).getD s.core.nest
  .next (s.upd (·.loopnMove (nest[o.lv.toNat]?.getD .clear)))

/-- MARGIN (R158): a new region. -/
def execMargin (o : OpMargin) (s : State) : Out :=
  .next (s.upd fun c => { (c.crPuts [(0x040, o.c.setWidth 64), (0x041, o.c.setWidth 64)]) with stalled := false })

/-- One loop-nest level changed (R169). -/
def State.setNest (s : State) (lv : BitVec 3) (f : NestLevel → NestLevel) : State :=
  s.upd fun c => { c with nest := c.nest.set lv.toNat (f (c.nest[lv.toNat]?.getD .clear)) }

def execLnsetBound (o : OpLnBound) (s : State) : Out :=
  s.whenOn o.g (.next (s.setNest o.lv fun v => { v with bound := (s.core.sVal o.p).setWidth 32, count := 0#32 }))

def execLnsetBind (o : OpLnBind) (s : State) : Out :=
  s.whenOn o.g
    (let b : Binding := ⟨o.k, true, (s.core.sVal o.p).setWidth 32⟩
    .next (s.setNest o.lv fun v => if o.j then { v with b1 := b } else { v with b0 := b }))

def execLnsetClear (o : OpLnClear) (s : State) : Out :=
  s.whenOn o.g
    (.next (s.setNest o.lv fun v =>
      { bound := 0#32, count := 0#32, b0 := { v.b0 with on := false }, b1 := { v.b1 with on := false } }))

/-! ### Segments (R176 to R178) -/

/-- R178: the core is tainted by a signature mismatch, and the launch with it (R435). -/
def State.taintSig (s : State) : State := (s.upd (·.taint)).taintLaunch s.core.launchKey 0x28#8

/-- R185: the CERR record of a mismatch of segment `i`. -/
def CoreState.sigRecord (c : CoreState) (i depth : Nat) (expected measured : Word64) : List (Nat × Word64) :=
  [(0x058, BitVec.ofNat 64 (0x28 + depth * 2 ^ 8 + 9 * 2 ^ 11 + i * 2 ^ 16)), (0x059, expected), (0x05A, measured),
    (0x05B, c.cur.pc.setWidth 64)]

/-- R177: the measured pair of the open segment. -/
def CoreState.measured (c : CoreState) : Word64 :=
  ((c.crGet 0x048 ^^^ 0xFFFFFFFF#64) &&& 0xFFFFFFFF#64) ||| (BitVec.ofNat 64 (bitsOf (c.crGet 0x047) 32 32) <<< 32)

/-- The segment is no longer open. -/
def CoreState.closeSeg (c : CoreState) : CoreState := { (c.crPut 0x047 (setBits (c.crGet 0x047) 0 1 0)) with segExp := 0#64 }

/-- R178: a mismatch outside any region. -/
def State.sigTaint (s : State) (i : Nat) (expected measured : Word64) : State :=
  (s.upd fun c => (c.crPuts (c.sigRecord i 0 expected measured)).closeSeg).taintSig

/-- R178: a mismatch: delivered inside a region, recorded with taint outside. -/
def State.mismatch (s : State) (i : Nat) (expected measured : Word64) : State :=
  let d := s.core.cdepth
  if d > 0 then s.deliver (s.core.sigRecord i d expected measured) else s.sigTaint i expected measured

/-- The open segment's index and pairs. -/
def CoreState.segIndex (c : CoreState) : Nat := bitsOf (c.crGet 0x047) 1 9
def CoreState.segOpen (c : CoreState) : Bool := (c.crGet 0x047).getLsbD 0

/-- SEG.open (R176, R177): the entry of the segment table is read; an open segment is first closed as a mismatch. -/
def execSegOpen (o : OpSeg) (s : State) : Out :=
  let a := s.core.crGet 0x046 + BitVec.ofNat 64 (8 * o.i.toNat)
  match s.place a 8 8 .fe with
  | .error f => s.accTrap f .fe 0 a 0#64
  | .ok p =>
    (s.notePage p).directRead a p.loc 8 fun s bs =>
      let t := if s.core.segOpen then s.mismatch s.core.segIndex s.core.segExp s.core.measured else s
      if s.core.segOpen && decide (s.core.cdepth > 0) then .next t
      else .next (t.upd fun c =>
        { (c.crPuts [(0x047, BitVec.ofNat 64 (1 + 2 * o.i.toNat)), (0x048, 0xFFFFFFFF#64)]) with
          segExp := BitVec.ofNat 64 (leNat bs) })

/-- SEG.close (R178). With no segment open the pairs of the record are open values (log entry 3). -/
def execSegClose (o : OpSeg) (s : State) : Out :=
  let c := s.core
  if !c.segOpen then .next (s.ticked.mismatch o.i.toNat (Config.freeWord s.tick) (Config.freeWord (s.tick + 1)))
  else if c.segIndex = o.i.toNat ∧ c.measured = c.segExp then .next (s.upd (·.closeSeg))
  else .next (s.mismatch c.segIndex c.segExp c.measured)

/-! ### Waiting for everything (R180, R193, R198) -/

/-- Every entry of earlier bundles has issued, and every operation and access of the core issued earlier has
performed; `all` counts those of the entry's own bundle too. -/
def State.quiet (s : State) (all : Bool) : Bool :=
  let c := s.core
  let old (seq : Nat) : Bool := if all then true else decide (seq < c.cur.seq)
  c.bundles.all (fun b => decide (c.cur.seq < b.seq)
      || (if b.seq = c.cur.seq then !all || b.entries.all (fun e => e.slot == c.cur.slot) else false))
    && c.ops.all (fun o => !old o.seq)
    && (s.pendingOf c.id).all (fun r => !old r.seq)
    && s.replies.all fun r => r.core != c.id || !old r.seq

/-! ### Containment (R180) -/

/-- CONT. -/
def execCont (o : OpSJ) (s : State) : Out :=
  s.whenOn o.g <|
    if s.core.cdepth = 4 then s.trap02
    else if !s.quiet false then s.hold
    else
      let h := (s.core.target s.core.cur.pc (.br o)).setWidth 48
      .next (s.upd fun c =>
        { (c.crPuts [(0x000, setBits c.status 4 3 (c.cdepth + 1)), (0x05C, h.setWidth 64)]) with
          cont := ⟨h, c.loops.length⟩ :: c.cont })

/-- ENDCONT. -/
def execEndcont (o : OpG) (s : State) : Out :=
  s.whenOn o.g <|
    if s.core.cdepth = 0 then s.trap02
    else if !s.quiet false then s.hold
    else .next (s.upd fun c =>
      let rest := c.cont.drop 1
      { (c.crPuts [(0x000, setBits c.status 4 3 (c.cdepth - 1)),
          (0x05C, match rest with | [] => 0#64 | r :: _ => r.handler.setWidth 64)]) with cont := rest })

/-! ### Ending (R189, R193) -/

/-- R193: the core program ends, and the core reports itself finished (R430). -/
def State.endCore (s : State) : State :=
  let id := s.core.id
  (s.upd fun c => { c with mode := .halted, bundles := [], ops := [], trapReq := none }).updLaunch s.core.launchKey fun l =>
    { l with gangs := l.gangs.map fun g => if g.cores.contains id then { g with halted := id :: g.halted } else g }

/-- R193: the end of a core program: an open segment first gives a mismatch (R178), recorded without a region. -/
def State.ending (s : State) : State :=
  if s.core.segOpen then (s.sigTaint s.core.segIndex s.core.segExp s.core.measured).endCore else s.endCore

/-- HALT (R193). -/
def execHalt (o : OpG) (s : State) : Out :=
  s.whenOn o.g (if !s.quiet true then s.hold else .next s.ending)

/-- TRET (R29, R189): a TPC that is no bundle's address fails as the target of a transfer does. -/
def execTret (o : OpG) (s : State) : Out :=
  s.whenOn o.g <|
    let cause := bitsOf (s.core.crGet 0x002) 0 8
    if !s.core.inTrap then s.trap02
    else if resumable cause then
      (if bitsOf (s.core.crGet 0x003) 0 5 ≠ 0 then s.accTrap ⟨0x0A#8, 0#64⟩ .rd 0 (s.core.crGet 0x003) 0#64
      else .next (s.upd fun c => c.returnTrap))
    else if !s.quiet true then s.hold
    else .next (((s.upd (·.taint)).taintLaunch s.core.launchKey (BitVec.ofNat 8 cause)).ending)

/-- R192: something of the entry's own bundle has not performed. -/
def State.ownBusy (s : State) : Bool :=
  let c := s.core
  c.ops.any (·.seq == c.cur.seq) || (s.pendingOf c.id).any (·.seq == c.cur.seq)
    || s.replies.any fun r => r.core == c.id && r.seq == c.cur.seq

/-- TRAP (R192): the trap of the next bundle in dispatch order, once its own bundle has performed. -/
def execTrap (o : OpTrap) (s : State) : Out :=
  s.whenOn o.g <|
    if s.ownBusy then s.hold
    else .next (s.takeTrap ⟨0x38#8, s.core.cur.next, o.c.setWidth 64, 0#64, 0#64, 0#64⟩)

/-! ### Yielding, waiting, gating (R194 to R196) -/

/-- YIELD (R194): under a pre-emption request (R427) dispatch stops here. -/
def execYield (o : OpG) (s : State) : Out :=
  s.whenOn o.g
    (if (s.core.crGet 0x0C4).getLsbD 0 then .next (s.upd fun c => { c with yielded := true }) else .next s)

/-- WAITEV (R195). -/
def execWaitev (o : OpWaitev) (s : State) : Out :=
  s.whenOn o.g
    (let e := s.core.crGet 0x042 &&& o.m.setWidth 64
    if o.m ≠ 0#4 ∧ e = 0#64 then s.hold else .next (s.putS o.d e))

/-- R308: the matrix array wakes: both buffers are empty. -/
def CoreState.wakeM (c : CoreState) : CoreState :=
  { (c.crPuts [(0x01C, setBits (c.crGet 0x01C) 22 1 0), (0x01D, setBits (c.crGet 0x01D) 22 1 0)]) with
    mbuf0 := .empty, mbuf1 := .empty }

/-- R196: engine i of GATEST (slot i + 2) has something in its queue. -/
def CoreState.engineBusy (c : CoreState) (i : Nat) : Bool :=
  c.bundles.any (fun b => decide (b.seq < c.cur.seq) && b.entries.any (·.slot == i + 2))
    || c.ops.any fun o => o.eng != 4 && o.eng + 2 == i

/-- GATE (R196). -/
def execGate (o : OpGate) (s : State) : Out :=
  s.whenOn o.g
    (let was := s.core.crGet 0x049
    let fresh := o.m.setWidth 64 &&& ~~~was
    if (List.range 6).any fun i => fresh.getLsbD i && s.core.engineBusy i then s.hold
    else .next (s.upd fun c =>
      let c := { (c.crPut 0x049 (o.m.setWidth 64)) with wake := c.wake &&& o.m.toNat }
      if was.getLsbD 2 && !o.m.getLsbD 2 then c.wakeM else c))

/-- R196: an on instruction has reached a gated engine: it waits for the engine to wake. -/
def State.wakeHold (s : State) : Option Out :=
  let i := s.core.cur.slot - 2
  if 2 ≤ s.core.cur.slot ∧ (s.core.crGet 0x049).getLsbD i = true then
    some (s.upd fun c => { c with wake := c.wake ||| 2 ^ i }).holdUnchecked
  else none

/-- ENGINE_WAKE_DONE (R196): a waking engine's gate bit clears. -/
def execEngineWakeDone (engine : BitVec 3) (s : State) : Out :=
  if s.core.wake / 2 ^ engine.toNat % 2 = 0 then .next s
  else .next (s.upd fun c =>
    let c := { (c.crPut 0x049 (c.crGet 0x049 &&& ~~~BitVec.ofNat 64 (2 ^ engine.toNat))) with
      wake := c.wake ^^^ 2 ^ engine.toNat }
    if engine = 2#3 then c.wakeM else c)

/-! ### Events of the sequencer -/

/-- TRAP_ENTRY (R47, R188): the trap that dispatch asked for. -/
def execTrapEntry (s : State) : Out :=
  match s.core.trapReq with
  | none => .next s
  | some t => .next ((s.upd fun c => { c with
      cur := { c.cur with seq := c.nextSeq }, ops := if t.cause = 0x39#8 then [] else c.ops
      drain := c.drain && t.cause != 0x39#8 }).takeTrap t)

/-- R191: the core without its unissued entries, as it stood before the oldest bundle that had one was dispatched. -/
def CoreState.discardEntries (c : CoreState) : CoreState :=
  let c' := { c with bundles := [], past := [], held := false, group := .start, replay := 0#8, replays := [], redo := [], redos := [], slacks := [] }
  match c.bundles with
  | [] => c'
  | b :: _ =>
    { (c'.crPuts [(0x047, b.segst), (0x048, b.segcrc)]) with loops := b.loopsNow, segExp := b.segexp, nest := c.nestOwed b.seq }

/-- WATCHDOG_EXPIRY (R191): dispatch stops, the entries go, the engines drain; the trap follows once they have. TPC holds
no address of a bundle: a free value (log entry 3). -/
def execWatchdogExpiry (s : State) : Out :=
  let c := s.core
  if !c.watchdogDue then .next s
  else
    let slots := c.bundles.flatMap fun b => b.entries.map (·.slot)
    let t0 := match c.bundles with | b :: _ => b.pc.setWidth 64 | [] => 0#64
    let t1 := BitVec.ofNat 64 (([1, 2, 3, 4, 5, 6, 7].filter slots.contains).map fun k => 2 ^ (k - 1)).sum
    let trap : Trap := ⟨0x39#8, (Config.freeWord s.tick).setWidth 48, t0, t1, 0#64, 0#64⟩
    let s := (((s.withdrawParked c.id).abandonLook false).abandonLook true).ticked
    .next (s.upd fun c => { c.discardEntries.beginDrain with wdCount := 0, trapReq := some trap })

/-- TIMER_EVENT (R155). -/
def execTimerEvent (s : State) : Out :=
  let t := s.core.crGet 0x043
  if t ≠ 0#64 ∧ t.toNat ≤ s.time.toNat then .next (s.setEvent s.core.id 2) else .next s

/-- CUP_GENERATE (R101, R103): one word joins the queue unless it holds 16. -/
def execCupGenerate (s : State) : Out :=
  if 16 ≤ s.core.cupQ.length then .next s
  else .next (s.upd fun c => { c with gen := c.gen.next, cupQ := c.cupQ ++ [c.gen.next.d] })

end Sys2Proof.Machine
end

