-- ==== Sys2Proof/Machine/Vector.lean ====
section
/-! DEFINITION. The vector units and the Cup (R221 to R247, R252 to R254): what every V instruction does as it issues,
and the register instructions. -/

namespace Sys2Proof.Machine

/-! ### Issue of a V instruction -/

/-- R221: the lanes that participate under a shape. -/
def CoreState.lanesOn (c : CoreState) (g : BitVec 4) (sh : BitVec 128) : List Nat :=
  (List.range 32).filter fun i => decide (i < shLanes sh) && (c.guard g).getLsbD i

/-- What an instruction asks at its issue: its shape, the types its row of R228 lists, the registers it reads (whole, or
participating lanes only) and writes, whether its opcode draws, and whether it ignores its guard (VSEL). -/
structure VUse where
  g : BitVec 4
  sh : BitVec 2
  swap : Bool
  types : BitVec 128 → Bool
  reads : List (Option Nat × Bool)
  writes : List (Option Nat)
  draws : Bool
  always : Bool

/-- R58: V0 notes that it used the Cup; V1 traps when both do. -/
def State.cupTurn (s : State) (uses : Bool) (k : State → Out) : Out :=
  if uses && s.core.cur.slot == 3 && s.core.cur.cup0 then s.trap 0x02#8 8#64 0#64 0#64 0#64
  else k (s.upd fun c => { c with cur := { c.cur with cup0 := c.cur.cup0 || (uses && c.cur.slot == 2) } })

/-- R103, R254: a word is drawn. -/
def CoreState.popCup (c : CoreState) : CoreState :=
  { (c.crPut 0x031 ((c.crGet 0x031 + 1#64) &&& 0xFFFFFFFF#64)) with cupQ := c.cupQ.drop 1, drawn := c.drawn.next }

/-- R181: the first poisoned byte range among registers about to be read. -/
def State.badRead (s : State) (rs : List (Nat × Bool)) (lanes : List Nat) : Option Nat :=
  rs.findSome? fun r =>
    if r.2 then (if s.poisoned (s.st r.1) 128 then some (s.st r.1) else none)
    else (lanes.find? fun i => s.poisoned (s.st (r.1 + 4 * i)) 4).map fun i => s.st (r.1 + 4 * i)

/-- R440: a V instruction issued. -/
def State.chargeV (s : State) : State := s.charge s.core.launchKey 1 1

/-- The issue of a V instruction: the Cup's turn (R58), the guard (R49), a gated unit (R196), the shape (R83), its
registers (R75), the store's bits (R86), an empty Cup queue (R103), the swap (R82) and the draw. The instruction goes on
with its shape, its participating lanes and the word drawn. -/
def State.vecOpen (s : State) (u : VUse) (k : State → BitVec 128 → List Nat → Nat → Out) : Out :=
  let sh := s.core.activeShape u.sh u.swap
  let draws := u.draws && shRound sh == 4
  s.cupTurn draws fun s =>
    let c := s.core
    if c.guard u.g = 0#32 ∧ u.always = false then .next s.chargeV
    else match s.wakeHold with
      | some o => o
      | none =>
        if !(shapeClean sh && u.types sh) then s.trap0B
        else if u.reads.any (·.1.isNone) || u.writes.any (·.isNone) then s.trap0B
        else
          let reads := u.reads.filterMap fun r => r.1.map fun a => (a, r.2)
          let writes := u.writes.filterMap id
          if s.storeWait none (reads.map fun r => (r.1, 128)) (writes.map fun a => (a, 128)) then s.hold
          else if draws && c.cupQ.isEmpty then s.hold
          else
            let lanes := if u.always then (List.range 32).filter fun i => decide (i < shLanes sh) else c.lanesOn u.g sh
            match s.badRead reads lanes with
            | some loc => s.consumeHere loc (BitVec.ofNat 64 (loc % 2 ^ 20))
            | none =>
              let w := if draws then (c.cupQ.headD 0#32).toNat else 0
              let s := s.chargeV.upd fun c => c.swapped u.sh u.swap
              k (if draws then s.upd (·.popCup) else s) sh lanes w

/-! ### Results and flags (R113, R114, R226) -/

/-- R226: flags of lanes gathered in the VLM registers of unit u. -/
def CoreState.addFlags (c : CoreState) (u : Nat) (fl : List (Nat × Flags)) : CoreState :=
  (List.range 7).foldl (fun c f =>
    let m := fl.foldl (fun m p => if p.2.getLsbD f then m ||| BitVec.ofNat 64 (2 ^ p.1) else m) 0#64
    if m = 0#64 then c else c.crPut (0x022 + 8 * u + f) (c.crGet (0x022 + 8 * u + f) ||| m)) c

/-- R114: the enabled flags that were raised, and the lanes that raised them. -/
def raised (fpen : Word64) (fl : List (Nat × Flags)) : Word64 × Flags :=
  fl.foldl (fun a p =>
    let e := p.2.enabled fpen
    (if e = 0#7 then a.1 else a.1 ||| BitVec.ofNat 64 (2 ^ p.1), a.2 ||| e)) (0#64, 0#7)

/-- R114: trap 0x31 after an instruction that raised an enabled flag. -/
def State.fpTrap (s : State) (fl : List (Nat × Flags)) : Out :=
  let r := raised (s.core.crGet 0x00D) fl
  if r.2 = 0#7 then .next s else s.trap 0x31#8 r.1 (r.2.setWidth 64) 0#64 0#64

/-- Lanes of the register at a store address written. -/
def State.putLanes (s : State) (a : Nat) (vs : List (Nat × Nat)) : State :=
  vs.foldl (fun s p => s.writeSync (s.st (a + 4 * p.1)) (leBytes 4 p.2)) s

/-- The end of a V instruction: its lanes, its flags, its trap. -/
def State.vecEnd (s : State) (a : Nat) (res : List (Nat × FRes)) : Out :=
  let s := s.putLanes a (res.map fun p => (p.1, p.2.bits))
  let fl := res.map fun p => (p.1, p.2.flags)
  (s.upd fun c => c.addFlags (c.cur.slot - 2) fl).fpTrap fl

/-! ### Types (R222, R228) -/

def typeIn (l : List Nat) (sh : BitVec 128) : Bool := l.contains (shType sh)
def anyType (_ : BitVec 128) : Bool := true
def arithTypes : List Nat := [0, 9, 10]
def isF32 (sh : BitVec 128) : Bool := shType sh == 0
def isSigned (sh : BitVec 128) : Bool := shType sh == 9

/-- R229: a result of lane arithmetic rounded under the shape, for the j-th rounding of lane i. -/
def laneRound (sh : BitVec 128) (w i j : Nat) (x : FVal) : FRes := fp32.round (shRound sh) (laneBits w i j) false x

/-- R230: an integer result put into a lane. -/
def laneInt (sh : BitVec 128) (t : Int) : FRes := ⟨intResult (shSat sh) (isSigned sh) 32 t, 0#7⟩
def laneVal (sh : BitVec 128) (v : Nat) : Int := intOf (isSigned sh) 32 v

/-! ### Lane operations (R230 to R234) -/

/-- A floating result from an exact value with its flags, and the invalid flag of signalling inputs. -/
def fpResult (sh : BitVec 128) (w i : Nat) (r : FVal × Flags) (ins : List Nat) : FRes :=
  ((laneRound sh w i 0 r.1).also r.2).also (fp32.snan ins)

def laneAdd (sh : BitVec 128) (w i a b : Nat) : FRes :=
  if isF32 sh then fpResult sh w i (fadd (shRound sh) (fp32.decode a) (fp32.decode b)) [a, b]
  else laneInt sh (laneVal sh a + laneVal sh b)

def laneSub (sh : BitVec 128) (w i a b : Nat) : FRes :=
  if isF32 sh then fpResult sh w i (fadd (shRound sh) (fp32.decode a) (fp32.decode b).neg) [a, b]
  else laneInt sh (laneVal sh a - laneVal sh b)

def laneMul (sh : BitVec 128) (w i a b : Nat) : FRes :=
  if isF32 sh then fpResult sh w i (fmul (fp32.decode a) (fp32.decode b)) [a, b]
  else laneInt sh (laneVal sh a * laneVal sh b)

/-- VFMA: one rounding of the exact A × B + D. -/
def laneFma (sh : BitVec 128) (w i a b d : Nat) : FRes :=
  if isF32 sh then
    let p := fmul (fp32.decode a) (fp32.decode b)
    let r := fadd (shRound sh) p.1 (fp32.decode d)
    (fpResult sh w i r [a, b, d]).also p.2
  else laneInt sh (laneVal sh a * laneVal sh b + laneVal sh d)

def laneMinMax (max : Bool) (sh : BitVec 128) (a b : Nat) : FRes :=
  if isF32 sh then ⟨fminmax max a b, fp32.snan [a, b]⟩
  else laneInt sh (if max then imax (laneVal sh a) (laneVal sh b) else imin (laneVal sh a) (laneVal sh b))

/-- R231. -/
def laneAbs (sh : BitVec 128) (a : Nat) : FRes :=
  if isF32 sh then ⟨a % 2 ^ 31, 0#7⟩ else laneInt sh (laneVal sh a).natAbs

def laneNeg (sh : BitVec 128) (a : Nat) : FRes :=
  if isF32 sh then ⟨negPat a, 0#7⟩ else laneInt sh (-(laneVal sh a))

/-- The greatest integer not above a finite value. -/
def ffloor (x : FVal) : Int :=
  match x with
  | .fin n m e => if e ≥ 0 then sgn n (m * 2 ^ e.toNat) else sgn n m / (2 ^ (-e).toNat : Nat)
  | _ => 0

/-- A value times a power of two. -/
def fscale (x : FVal) (k : Int) : FVal := match x with | .fin n m e => .fin n m (e + k) | x => x

/-- The value of an exact result rounded to nearest even. -/
def rneVal (x : FVal) : FVal := fp32.decode (fp32.rne x).bits

/-- R233, R234: a polynomial, one rounding per step. -/
def horner (x : FVal) (p : FVal) (cs : List Nat) : FVal :=
  cs.foldl (fun p c => rneVal (fadd 0 (fmul p x).1 (fp32.decode c)).1) p

/-- R233: c7 to c0. -/
def exp2Coefs : List Nat :=
  [0x377FE5FE, 0x39218489, 0x3AAEC3FF, 0x3C1D955B, 0x3D635847, 0x3E75FDF0, 0x3F317218, 0x3F800000]

/-- R233: VEXP2. -/
def laneExp2 (sh : BitVec 128) (w i a : Nat) : FRes :=
  match fp32.decode a with
  | .nan => ⟨fp32.nan, fp32.snan [a]⟩
  | .inf n => ⟨if n then 0 else fp32.inf, 0#7⟩
  | x =>
    if fcmp x (.fin false 128 0) ≥ 0 then fp32.overflow (shRound sh) false false
    else
      let x := if fcmp x (.fin true 151 0) < 0 then .fin true 151 0 else x
      let n := ffloor x
      let f := (fadd 0 x (ofInt false (-n) 0)).1
      laneRound sh w i 0 (fscale (horner f (fp32.decode 0x35B16011) exp2Coefs) n)

/-- R234: c9, c7, c5, c3, c1. -/
def log2Coefs : List Nat := [0x3EA4258A, 0x3ED30BB1, 0x3F13BB63, 0x3F76384F, 0x4038AA3B]

/-- R234: VLOG2. -/
def laneLog2 (sh : BitVec 128) (w i a : Nat) : FRes :=
  match fp32.decode a with
  | .nan => ⟨fp32.nan, fp32.snan [a]⟩
  | .inf n => if n then ⟨fp32.nan, .invalid⟩ else ⟨fp32.inf, 0#7⟩
  | .fin n m e =>
    if m = 0 then ⟨fp32.inf + fp32.sign true, .divZero⟩
    else if n then ⟨fp32.nan, .invalid⟩
    else
      let lg : Int := Nat.log2 m
      let m1 := FVal.fin false m (-lg)
      let big := decide (fcmp m1 (fp32.decode 0x3FB504F3) > 0)
      let v := if big then fscale m1 (-1) else m1
      let k := if big then e + lg + 1 else e + lg
      let one := FVal.fin false 1 0
      let q := rneVal (fadd 0 v one).1
      let y := rneVal (fdiv (fadd 0 v one.neg).1 q).1
      let z := rneVal (fmul y y).1
      let p := horner z (fp32.decode 0x3E864D42) log2Coefs
      let l := rneVal (fmul p y).1
      laneRound sh w i 0 (fadd (shRound sh) (ofInt false k 0) l).1

/-! ### Instructions of two or three registers -/

/-- A V instruction that computes lane i of vD from lane i of its sources. -/
def State.vec3 (s : State) (o : OpVA) (useD draws : Bool) (types : BitVec 128 → Bool)
    (f : BitVec 128 → Nat → Nat → Nat → Nat → Nat → FRes) : Out :=
  let c := s.core
  let d := c.vAddr o.d
  let rd := if useD then [(c.vAddr o.a, false), (c.vAddr o.b, false), (d, false)] else [(c.vAddr o.a, false), (c.vAddr o.b, false)]
  s.vecOpen ⟨o.g, o.sh, o.swap, types, rd, [d], draws, false⟩ fun s sh lanes w =>
    let a := (c.vAddr o.a).getD 0
    let b := (c.vAddr o.b).getD 0
    let d := d.getD 0
    s.vecEnd d (lanes.map fun i => (i, f sh w i (s.laneSync a i) (s.laneSync b i) (s.laneSync d i)))

def State.vec2 (s : State) (o : OpVA) (draws : Bool) (types : BitVec 128 → Bool)
    (f : BitVec 128 → Nat → Nat → Nat → Nat → FRes) : Out :=
  s.vec3 o false draws types fun sh w i a b _ => f sh w i a b

/-- A V instruction that computes lane i of vD from lane i of vA. -/
def State.vec1 (s : State) (o : OpVU) (draws : Bool) (types : BitVec 128 → Bool)
    (f : BitVec 128 → Nat → Nat → Nat → FRes) : Out :=
  let c := s.core
  s.vecOpen ⟨o.g, o.sh, o.swap, types, [(c.vAddr o.a, false)], [c.vAddr o.d], draws, false⟩ fun s sh lanes w =>
    let a := (c.vAddr o.a).getD 0
    s.vecEnd ((c.vAddr o.d).getD 0) (lanes.map fun i => (i, f sh w i (s.laneSync a i)))

/-- Bits moved without flags. -/
def plain (v : Nat) : FRes := ⟨v, 0#7⟩

def execVadd (o : OpVA) (s : State) : Out := s.vec2 o true (typeIn arithTypes) laneAdd
def execVsub (o : OpVA) (s : State) : Out := s.vec2 o true (typeIn arithTypes) laneSub
def execVmul (o : OpVA) (s : State) : Out := s.vec2 o true (typeIn arithTypes) laneMul
def execVfma (o : OpVA) (s : State) : Out := s.vec3 o true true (typeIn arithTypes) laneFma
def execVmin (o : OpVA) (s : State) : Out := s.vec2 o false (typeIn arithTypes) fun sh _ _ a b => laneMinMax false sh a b
def execVmax (o : OpVA) (s : State) : Out := s.vec2 o false (typeIn arithTypes) fun sh _ _ a b => laneMinMax true sh a b
def execVabs (o : OpVU) (s : State) : Out := s.vec1 o false (typeIn arithTypes) fun sh _ _ a => laneAbs sh a
def execVneg (o : OpVU) (s : State) : Out := s.vec1 o false (typeIn arithTypes) fun sh _ _ a => laneNeg sh a

/-- R232. -/
def execVdiv (o : OpVA) (s : State) : Out :=
  s.vec2 o true (typeIn [0]) fun sh w i a b => fpResult sh w i (fdiv (fp32.decode a) (fp32.decode b)) [a, b]
def execVsqrt (o : OpVU) (s : State) : Out :=
  s.vec1 o true (typeIn [0]) fun sh w i a => fpResult sh w i (fsqrt (fp32.decode a)) [a]
def execVrcp (o : OpVU) (s : State) : Out :=
  s.vec1 o true (typeIn [0]) fun sh w i a => fpResult sh w i (fdiv (.fin false 1 0) (fp32.decode a)) [a]
def execVrsq (o : OpVU) (s : State) : Out :=
  s.vec1 o true (typeIn [0]) fun sh w i a => fpResult sh w i (frsqrt (fp32.decode a)) [a]
def execVexp2 (o : OpVU) (s : State) : Out := s.vec1 o true (typeIn [0]) laneExp2
def execVlog2 (o : OpVU) (s : State) : Out := s.vec1 o true (typeIn [0]) laneLog2

/-- R236: the condition of VCMP for one lane, and its flag. -/
def laneCmp (sh : BitVec 128) (c : BitVec 3) (a b : Nat) : Bool × Flags :=
  let pick (unord : Bool) (d : Int) : Bool :=
    match c.toNat with
    | 0 => !unord && d == 0
    | 1 => unord || d != 0
    | 2 => !unord && decide (d < 0)
    | 3 => !unord && decide (d ≤ 0)
    | 4 => !unord && decide (d > 0)
    | 5 => !unord && decide (d ≥ 0)
    | 6 => unord
    | _ => !unord
  if isF32 sh then
    let x := fp32.decode a
    let y := fp32.decode b
    (pick (x.isNan || y.isNan) (fcmp x y), fp32.snan [a, b])
  else (pick false (laneVal sh a - laneVal sh b), 0#7)

/-- VCMP (R236). -/
def execVcmp (o : OpVcmp) (s : State) : Out :=
  let c := s.core
  s.vecOpen ⟨o.g, o.sh, o.swap, typeIn arithTypes, [(c.vAddr o.a, false), (c.vAddr o.b, false)], [], false, false⟩
    fun s sh lanes _ =>
      let a := (c.vAddr o.a).getD 0
      let b := (c.vAddr o.b).getD 0
      let res := lanes.map fun i => (i, laneCmp sh o.c (s.laneSync a i) (s.laneSync b i))
      let mask := lanes.foldl (fun m i => m ||| BitVec.ofNat 32 (2 ^ i)) 0#32
      let ones := res.foldl (fun m p => if p.2.1 then m ||| BitVec.ofNat 32 (2 ^ p.1) else m) 0#32
      let fl := res.map fun p => (p.1, p.2.2)
      (s.upd fun c => (c.setG o.k ((c.gVal o.k &&& ~~~mask) ||| ones)).addFlags (c.cur.slot - 2) fl).fpTrap fl

/-- VSEL (R237): the G field selects. -/
def execVsel (o : OpVA) (s : State) : Out :=
  let c := s.core
  s.vecOpen ⟨o.g, o.sh, o.swap, anyType, [(c.vAddr o.a, false), (c.vAddr o.b, false)], [c.vAddr o.d], false, true⟩
    fun s _ lanes _ =>
      let a := (c.vAddr o.a).getD 0
      let b := (c.vAddr o.b).getD 0
      s.vecEnd ((c.vAddr o.d).getD 0)
        (lanes.map fun i => (i, plain (if (c.guard o.g).getLsbD i then s.laneSync a i else s.laneSync b i)))

/-! ### Logic and shifts (R238) -/

def lane32 (f : Word32 → Word32 → Word32) (a b : Nat) : FRes := plain (f (BitVec.ofNat 32 a) (BitVec.ofNat 32 b)).toNat

def execVand (o : OpVA) (s : State) : Out := s.vec2 o false anyType fun _ _ _ a b => lane32 (· &&& ·) a b
def execVor (o : OpVA) (s : State) : Out := s.vec2 o false anyType fun _ _ _ a b => lane32 (· ||| ·) a b
def execVxor (o : OpVA) (s : State) : Out := s.vec2 o false anyType fun _ _ _ a b => lane32 (· ^^^ ·) a b
def execVnot (o : OpVU) (s : State) : Out := s.vec1 o false anyType fun _ _ _ a => lane32 (fun x _ => ~~~x) a 0
def execVshl (o : OpVA) (s : State) : Out := s.vec2 o false anyType fun _ _ _ a b => lane32 (fun x y => x <<< amount32 y) a b
def execVshr (o : OpVA) (s : State) : Out := s.vec2 o false anyType fun _ _ _ a b => lane32 (fun x y => x >>> amount32 y) a b
def execVsar (o : OpVA) (s : State) : Out :=
  s.vec2 o false anyType fun _ _ _ a b => lane32 (fun x y => x.sshiftRight (amount32 y)) a b

/-! ### Conversions and rearrangement (R239 to R243) -/

/-- R222: a pattern in lane form: sign-filled for .s8 and .s16. -/
def laneForm (ty v : Nat) : Nat :=
  match tyInt ty with
  | some (true, n) => if n < 32 then wrap 32 (sext v n) else v
  | _ => v

def FRes.inLane (r : FRes) (ty : Nat) : FRes := ⟨laneForm ty r.bits, r.flags⟩

/-- R228: the types of VCVT, and those of 8 and 16 bits. -/
def cvtTypes : List Nat := [0, 1, 2, 3, 4, 5, 6, 7, 8, 9, 10]
def narrowTypes : List Nat := [1, 2, 3, 4, 5, 6, 7, 8]

/-- VCVT (R239). -/
def execVcvt (o : OpVU) (s : State) : Out :=
  s.vec1 o true (fun sh => cvtTypes.contains (shType sh) && cvtTypes.contains (shOtype sh)) fun sh w i a =>
    (convert (shType sh) (shOtype sh) (shRound sh) (laneBits w i 0) (shSat sh) a).inLane (shOtype sh)

/-- VPACK (R240): the whole of vD is written; without a participating lane it is guarded off. -/
def execVpack (o : OpVA) (s : State) : Out :=
  let c := s.core
  let shape := c.activeShape o.sh o.swap
  if (c.lanesOn o.g shape).isEmpty then s.cupTurn (shRound shape == 4) fun s => .next s.chargeV
  else s.vecOpen ⟨o.g, o.sh, o.swap, fun sh => cvtTypes.contains (shType sh) && narrowTypes.contains (shOtype sh),
    [(c.vAddr o.a, false), (c.vAddr o.b, false)], [c.vAddr o.d], true, false⟩ fun s sh lanes w =>
      let a := (c.vAddr o.a).getD 0
      let b := (c.vAddr o.b).getD 0
      let one (src j i : Nat) : FRes :=
        if lanes.contains i then
          convert (shType sh) (shOtype sh) (shRound sh) (laneBits w i j) (shSat sh) (s.laneSync src i)
        else ⟨0, 0#7⟩
      let es := (List.range 32).map (one a 0) ++ (List.range 32).map (one b 1)
      let n := tyBits (shOtype sh) / 8
      let bytes := (es.flatMap fun r => leBytes n r.bits) ++ List.replicate (128 - 64 * n) 0#8
      let fl := (List.range 64).map fun e => (e % 32, (es[e]?.getD ⟨0, 0#7⟩).flags)
      let s := s.writeSync (s.st ((c.vAddr o.d).getD 0)) bytes
      (s.upd fun c => c.addFlags (c.cur.slot - 2) fl).fpTrap fl

/-- R241: the OTYPE that a TYPE is unpacked to, and the part. -/
def unpackOk (part : Nat) (sh : BitVec 128) : Bool :=
  narrowTypes.contains (shType sh) && decide (part < 32 / tyBits (shType sh))
    && (match tyInt (shType sh) with
      | none => shOtype sh == 0
      | some (sg, _) => shOtype sh == if sg then 9 else 10)

/-- VUNPK (R241). -/
def execVunpk (o : OpVunpk) (s : State) : Out :=
  let c := s.core
  s.vecOpen ⟨o.g, o.sh, o.swap, unpackOk o.part.toNat, [(c.vAddr o.a, true)], [c.vAddr o.d], false, false⟩
    fun s sh lanes _ =>
      let n := tyBits (shType sh) / 8
      let a := (c.vAddr o.a).getD 0
      s.vecEnd ((c.vAddr o.d).getD 0) (lanes.map fun i =>
        (i, convert (shType sh) (shOtype sh) 0 0 false (leNat (s.readSync (s.st (a + n * (32 * o.part.toNat + i))) n))))

/-- VPERM (R242). -/
def execVperm (o : OpVA) (s : State) : Out :=
  let c := s.core
  s.vecOpen ⟨o.g, o.sh, o.swap, anyType, [(c.vAddr o.a, true), (c.vAddr o.b, false)], [c.vAddr o.d], false, false⟩
    fun s _ lanes _ =>
      let a := (c.vAddr o.a).getD 0
      let b := (c.vAddr o.b).getD 0
      s.vecEnd ((c.vAddr o.d).getD 0) (lanes.map fun i => (i, plain (s.laneSync a (s.laneSync b i % 32))))

/-- VBCST of a lane (R242). -/
def execVbcstLane (o : OpVbcstLane) (s : State) : Out :=
  let c := s.core
  s.vecOpen ⟨o.g, o.sh, o.swap, anyType, [(c.vAddr o.a, true)], [c.vAddr o.d], false, false⟩ fun s _ lanes _ =>
    let v := s.laneSync ((c.vAddr o.a).getD 0) o.lane.toNat
    s.vecEnd ((c.vAddr o.d).getD 0) (lanes.map fun i => (i, plain v))

/-- VBCST of a scalar (R242). -/
def execVbcstScalar (o : OpVbcstScalar) (s : State) : Out :=
  let c := s.core
  s.vecOpen ⟨o.g, o.sh, o.swap, anyType, [], [c.vAddr o.d], false, false⟩ fun s _ lanes _ =>
    s.vecEnd ((c.vAddr o.d).getD 0) (lanes.map fun i => (i, plain ((c.sVal o.a).toNat % 2 ^ 32)))

def execVmov (o : OpVU) (s : State) : Out := s.vec1 o false anyType fun _ _ _ a => plain a
def execXmov (o : OpVU) (s : State) : Out := s.vec1 o false anyType fun _ _ _ a => plain a

/-! ### Reductions (R244) -/

/-- One node of the tree. -/
def redNode (op : Nat) (sh : BitVec 128) (w i lv : Nat) (x y : Option Nat) : Option Nat × Flags :=
  match x, y with
  | none, z => (z, 0#7)
  | z, none => (z, 0#7)
  | some a, some b =>
    let r : FRes :=
      if op = 0 then
        (if isF32 sh then
          let t := fadd (shRound sh) (fp32.decode a) (fp32.decode b)
          ((laneRound sh w i lv t.1).also t.2).also (fp32.snan [a, b])
        else laneInt sh (laneVal sh a + laneVal sh b))
      else laneMinMax (op == 2) sh a b
    (some r.bits, r.flags)

/-- The tree from level `lv` on, with `h` nodes at that level; `h` halves each time. -/
def redTree (op : Nat) (sh : BitVec 128) (w : Nat) : Nat → Nat → List (Option Nat) → Option Nat × List (Nat × Flags)
  | 0, _, t => (t.headD none, [])
  | fuel + 1, lv, t =>
    let h := 16 / 2 ^ lv
    let ns := (List.range h).map fun i => redNode op sh w i lv (t[i]?.getD none) (t[i + h]?.getD none)
    let (r, fl) := redTree op sh w fuel (lv + 1) (ns.map (·.1))
    (r, ((List.range h).map fun i => (i, (ns[i]?.getD (none, 0#7)).2)) ++ fl)

/-- R244: the identities. -/
def redIdentity (op ty : Nat) : Nat :=
  match op, ty with
  | 0, _ => 0
  | 1, 0 => fp32.inf
  | 1, 9 => 2 ^ 31 - 1
  | 1, _ => 2 ^ 32 - 1
  | _, 0 => fp32.inf + fp32.sign true
  | _, 9 => 2 ^ 31
  | _, _ => 0

/-- VRED (R244). -/
def execVred (o : OpVred) (s : State) : Out :=
  let c := s.core
  s.vecOpen ⟨o.g, o.sh, o.swap, typeIn arithTypes, [(c.vAddr o.a, true)], [c.vAddr o.d], true, false⟩
    fun s sh lanes w =>
      let a := (c.vAddr o.a).getD 0
      let t := (List.range 32).map fun i =>
        if i < shLanes sh ∧ (c.gVal o.m).getLsbD i = true then some (s.laneSync a i) else none
      let (r, fl) := redTree o.o.toNat sh w 5 0 t
      let v := r.getD (redIdentity o.o.toNat (shType sh))
      let s := s.putLanes ((c.vAddr o.d).getD 0) (lanes.map fun i => (i, v))
      (s.upd fun c => c.addFlags (c.cur.slot - 2) fl).fpTrap fl

/-! ### Pairs, fade, dequantising (R245 to R247) -/

/-- The two registers of a pair written. -/
def State.vecPair (s : State) (hi lo : Nat) (res : List (Nat × Pair × Flags)) : Out :=
  let s := s.putLanes lo (res.map fun p => (p.1, p.2.1.lo))
  s.vecEnd hi (res.map fun p => (p.1, ⟨p.2.1.hi, p.2.2⟩))

/-- VCADD (R245). -/
def execVcadd (o : OpVA) (s : State) : Out :=
  let c := s.core
  s.vecOpen ⟨o.g, o.sh, o.swap, typeIn [0], [(c.vAddr o.a, false), (c.vAddr o.b, false)],
    [c.vAddr o.d, c.partnerAddr o.d], false, false⟩ fun s _ lanes _ =>
      let a := (c.vAddr o.a).getD 0
      let b := (c.vAddr o.b).getD 0
      s.vecPair ((c.vAddr o.d).getD 0) ((c.partnerAddr o.d).getD 0) (lanes.map fun i =>
        let (r, e) := twoSum (s.laneSync a i) (s.laneSync b i)
        (i, ⟨r.bits, e⟩, r.flags.ofSum))

/-- VCACC (R245). -/
def execVcacc (o : OpVU) (s : State) : Out :=
  let c := s.core
  let d := c.vAddr o.d
  let p := c.partnerAddr o.d
  s.vecOpen ⟨o.g, o.sh, o.swap, typeIn [0], [(c.vAddr o.a, false), (d, false), (p, false)], [d, p], false, false⟩
    fun s _ lanes _ =>
      let a := (c.vAddr o.a).getD 0
      let d := d.getD 0
      let p := p.getD 0
      s.vecPair d p (lanes.map fun i =>
        let (r, fl) := cacc ⟨s.laneSync d i, s.laneSync p i⟩ (s.laneSync a i)
        (i, r, fl))

/-- R246: one step of VFADE. -/
def laneFade (sh : BitVec 128) (w i a b d : Nat) : FRes :=
  let p := fadeMul a d
  let t := fadd (shRound sh) (fp32.decode p.bits) (fp32.decode b)
  let r : FRes := if belowNormal t.1 then ⟨fp32.sign t.1.isNeg, Flags.underflow ||| Flags.inexact⟩ else laneRound sh w i 0 t.1
  ((r.also p.flags).also t.2).also (fp32.snan [a, b, d])

/-- VFADE (R246). -/
def execVfade (o : OpVA) (s : State) : Out := s.vec3 o true true (typeIn [0]) laneFade

/-- R247: element i of vA under a record, in OTYPE `G`. -/
def dequant (ty rec' : Nat) (code : Nat) : FVal × Flags :=
  if ty = 15 then
    let sc := se9 (rec' % 512)
    if rec' / 512 ≠ 0 ∨ sc.isNan then (.nan, .invalid) else fmul (e4m3.decode code) sc
  else
    let sc := fp16.decode (rec' % 65536)
    let z := rec' / 65536 % 256
    if rec' / 2 ^ 24 ≠ 0 ∨ (ty = 13 ∧ 15 < z) ∨ sc.isNan ∨ sc.isInf then (.nan, .invalid)
    else fmul sc (ofInt false ((code : Int) - z) 0)

/-- VQDEQ (R247). -/
def execVqdeq (o : OpVA) (s : State) : Out :=
  let c := s.core
  s.vecOpen ⟨o.g, o.sh, o.swap, fun sh => [13, 14, 15].contains (shType sh) && [0, 1, 2].contains (shOtype sh),
    [(c.vAddr o.a, true), (c.vAddr o.b, true)], [c.vAddr o.d], true, false⟩ fun s sh lanes w =>
      let a := (c.vAddr o.a).getD 0
      let rec' := s.laneSync ((c.vAddr o.b).getD 0) 0
      let code (i : Nat) : Nat :=
        if shType sh = 13 then leNat (s.readSync (s.st (a + i / 2)) 1) / 16 ^ (i % 2) % 16
        else leNat (s.readSync (s.st (a + i)) 1)
      let G := (tyFmt (shOtype sh)).getD fp32
      s.vecEnd ((c.vAddr o.d).getD 0) (lanes.map fun i =>
        let x := dequant (shType sh) rec' (code i)
        (i, (G.round (shRound sh) (laneBits w i 0) (shSat sh) x.1).also x.2))

/-! ### The Cup (R252, R253) -/

/-- CUPSEED (R252). -/
def execCupseed (o : OpS1) (s : State) : Out :=
  s.cupTurn true fun s =>
    if !s.core.on o.g then .next s.chargeV
    else match s.wakeHold with
      | some r => r
      | none => .next (s.chargeV.upd fun c =>
          let u := Cup.seed (c.sVal o.p) c.gang.k
          { (c.crPut 0x031 0#64) with gen := u, drawn := u, cupQ := [] })

/-- CUPSTAT (R253). -/
def execCupstat (o : OpCupstat) (s : State) : Out :=
  let c := s.core
  if c.guard o.g = 0#32 then .next s.chargeV
  else match s.wakeHold with
    | some r => r
    | none =>
      match c.vAddr o.d with
      | none => s.trap0B
      | some d =>
        if s.storeWait none [] [(d, 128)] then s.hold
        else
          let v (i : Nat) : Nat :=
            match i with
            | 0 => c.drawn.a.toNat | 1 => c.drawn.b.toNat | 2 => c.drawn.c.toNat | 3 => c.drawn.d.toNat
            | 4 => (c.crGet 0x031).toNat % 2 ^ 32
            | _ => 0
          .next (s.chargeV.putLanes d (((List.range 32).filter fun i => (c.guard o.g).getLsbD i).map fun i => (i, v i)))

end Sys2Proof.Machine
end

