-- ==== Sys2Proof/Machine/VectorMemory.lean ====
section
/-! DEFINITION. The vector memory instructions VLD, VST, VGTH and VSCT (R248 to R251), element by element under R133. -/

namespace Sys2Proof.Machine

/-! ### Lanes of memory -/

/-- The lanes of an access checked in ascending order (R133): the places of those below the first that fails, and that
one with its fault. -/
def State.checkLanes (s : State) (k : AccKind) : List (Nat × Word64) → List (Nat × Word64 × Place) × Option (Nat × Word64 × AccFault)
  | [] => ([], none)
  | (i, a) :: t =>
    match s.place a 4 4 k with
    | .error f => ([], some (i, a, f))
    | .ok p =>
      let (ok, bad) := s.checkLanes k t
      ((i, a, p) :: ok, bad)

/-- Bits of lanes. -/
def laneMask (is : List Nat) : Word64 := is.foldl (fun m i => m ||| BitVec.ofNat 64 (2 ^ i)) 0#64

/-- R133: elements of the entry being issued count as performed. -/
def State.markDone (s : State) (is : List Nat) : State :=
  s.upd fun c => { c with cur := { c.cur with redo := c.cur.redo ||| laneMask is } }

/-- The entry being issued has accesses on their way. -/
def State.onWay (s : State) : Bool :=
  s.loadOnWay || (s.pendingOf s.core.id).any fun r => r.seq == s.core.cur.seq && r.slot == s.core.cur.slot

/-- Lanes gathered by 256-byte line, in order. -/
def byLine (ps : List Part) : List (List Part) :=
  (ps.map fun p => p.loc / 256).eraseDups.map fun l => ps.filter fun p => p.loc / 256 == l

/-- The translation buffer after the lanes of an access. -/
def State.notePages (s : State) (ls : List (Nat × Word64 × Place)) : State := ls.foldl (fun s l => s.notePage l.2.2) s

/-- What a lane reads at once: own storage, or a hit in L1. -/
def State.laneNow (s : State) (l : Nat × Word64 × Place) : Option (List Byte) :=
  if s.ownStorage l.2.2.loc then some (s.readSync l.2.2.loc 4)
  else if usesL1 l.2.2.loc && isPhys l.2.2.loc then s.l1Read l.2.2.loc 4 else none

/-- The lanes of a load, and of a store from the register at store address `d`, that go out as requests. -/
def State.laneRequests (s : State) (d : Nat) (write : Bool) (ls : List (Nat × Word64 × Place)) : List Part :=
  if write then
    (ls.filter fun l => !s.ownStorage l.2.2.loc).map fun l => ⟨l.2.2.loc, l.2.1, 4, l.1, s.readSync (s.st (d + 4 * l.1)) 4⟩
  else (ls.filter fun l => (s.laneNow l).isNone).map fun l => ⟨l.2.2.loc, l.2.1, 4, l.1, []⟩

/-- R140, R251, R272, R339: the lanes cannot be moved now: one is held at a watermark, by a frame bank or behind
an own access, or the slot has as many out as it may. -/
def State.lanesHeld (s : State) (_d : Nat) (write : Bool) (ls : List (Nat × Word64 × Place)) : Bool :=
  (ls.any fun l => s.accessHeld l.2.1 l.2.2.loc 4 write || s.ownWait l.2.2.loc 4) || (!ls.isEmpty && s.slotFull write)

/-- R181: the first lane whose bytes, read now from own storage or L1, carry an error. -/
def State.laneBad (s : State) (d : Nat) (write : Bool) (ls : List (Nat × Word64 × Place)) : Option (Nat × Word64) :=
  (ls.find? fun l =>
    if write then s.poisoned (s.st (d + 4 * l.1)) 4
    else if s.ownStorage l.2.2.loc then s.poisoned l.2.2.loc 4
    else (s.laneNow l).isSome && s.l1Bad l.2.2.loc 4).map fun l =>
      if write then (s.st (d + 4 * l.1), BitVec.ofNat 64 (d + 4 * l.1)) else (l.2.2.loc, l.2.1)

/-- R249, R250, R251: lanes moved between memory and the register at `d`: what can be done now is done, in ascending
order, and the rest goes out. -/
def State.performLanes (s : State) (d : Nat) (write : Bool) (ls : List (Nat × Word64 × Place)) : State :=
  let later := s.laneRequests d write ls
  if write then
    let t := (ls.filter fun l => s.ownStorage l.2.2.loc).foldl
      (fun t l => t.writeSync l.2.2.loc (s.readSync (s.st (d + 4 * l.1)) 4)) s
    let t := later.foldl (fun t p => if usesL1 p.loc && isPhys p.loc then t.l1Store p.loc p.data else t) t
    (byLine later).foldl (fun t ps => t.sendStore ps false) t
  else
    let now := ls.filterMap fun l => (s.laneNow l).map fun bs => (l.1, leNat bs)
    let t := later.foldl (fun t p => t.l1Drop s.core.id p.loc) (s.ticked.putLanes d now)
    (byLine later).foldl (fun t ps => t.sendLoad (.lanes d) ps) t

/-- R133, R156: the lanes of an access through a tagged address. Those below a failing element perform; the trap
follows once they have. `done` is what happens besides when every lane passes; `wait` holds the entry. -/
def State.moveLanes (s : State) (d : Nat) (write wait : Bool) (as : List (Nat × Word64)) (done : State → State) : Out :=
  let k : AccKind := if write then .wr else .rd
  let (ok, bad) := s.checkLanes k (as.filter fun l => !s.core.cur.redo.getLsbD l.1)
  if wait || s.lanesHeld d write ok then s.await bad.isSome
  else match s.laneBad d write ok with
    | some (loc, a) => s.consumeHere loc a
    | none =>
      match bad with
      | none => .next (((done s).notePages ok).performLanes d write ok)
      | some b =>
        if !ok.isEmpty then (((s.notePages ok).performLanes d write ok).markDone (ok.map (·.1))).holdUnchecked
        else if s.onWay then s.holdUnchecked
        else s.accTrap b.2.2 k b.1 b.2.1 s.core.cur.redo

/-! ### Lanes of the register store (R78, R248) -/

/-- R78, R248: 4 bytes of a lane reached through an address register lie where unit u may reach them. -/
def CoreState.nearOk (c : CoreState) (u a n : Nat) : Bool :=
  c.storeOk a n && a / 0x80000 == u && (a + n - 1) / 0x80000 == u

/-- The fault of a lane at a store address. -/
def CoreState.laneStoreFault (c : CoreState) (u a : Nat) : Option AccFault :=
  if a % 4 ≠ 0 then some ⟨0x0A#8, 0#64⟩ else if c.nearOk u a 4 then none else some ⟨0x0B#8, 0#64⟩

/-- Lanes moved between the register at `d` and store addresses, in ascending order up to the first that faults. -/
def State.moveStore (s : State) (d : Nat) (write : Bool) (as : List (Nat × Nat)) (done : State → State) : Out :=
  let c := s.core
  let u := c.cur.slot - 2
  let k : AccKind := if write then .wr else .rd
  let as := as.filter fun l => !c.cur.redo.getLsbD l.1
  let ok := as.takeWhile fun l => (c.laneStoreFault u l.2).isNone
  let ranges := ok.map fun l => (l.2, 4)
  let regs := [(d, 128)]
  if s.storeWait none (if write then regs else ranges) (if write then ranges else regs)
      || ok.any (fun l => c.wmWait 3 l.2 4) then s.await (ok.length != as.length)
  else
    match ok.find? fun l => s.poisoned (s.st (if write then d + 4 * l.1 else l.2)) 4 with
    | some l => s.consumeHere (s.st l.2) (BitVec.ofNat 64 l.2)
    | none =>
      let vals := ok.map fun l => (l, s.readSync (s.st (if write then d + 4 * l.1 else l.2)) 4)
      let t := vals.foldl (fun s v => s.writeSync (s.st (if write then v.1.2 else d + 4 * v.1.1)) v.2) s
      match (as.drop ok.length).head? with
      | none => .next (done t)
      | some b =>
        let f := (c.laneStoreFault u b.2).getD ⟨0x0B#8, 0#64⟩
        let t := t.markDone (ok.map (·.1))
        t.accTrap f k b.1 (BitVec.ofNat 64 b.2) t.core.cur.redo

/-! ### The instructions -/

/-- R248: mode 1: the base x register's value, and its advance by STRIDE0. -/
def advance (base : BitVec 6) (sh : BitVec 128) (s : State) : State :=
  s.upd fun c => c.bumpX (base.setWidth 4) (shStride0 sh)

/-- The issue of a vector memory instruction, once it is on: gate, shape, registers, then its lanes; `done` is what
happens besides, once every lane has been checked. -/
def State.vmOpen (s : State) (g : BitVec 4) (sh : BitVec 2) (swap : Bool) (types : BitVec 128 → Bool)
    (regs : List (Option Nat)) (k : State → BitVec 128 → List Nat → Out) : Out :=
  let c := s.core
  let shape := c.activeShape sh swap
  if c.guard g = 0#32 then .next s.chargeV
  else match s.wakeHold with
    | some o => o
    | none =>
      if !(shapeClean shape && types shape) then s.trap0B
      else if regs.any (·.isNone) then s.trap0B
      else k s shape (c.lanesOn g shape)

/-- R82: what completes a memory instruction: its swap, and under mode 1 its post-increment. -/
def vmDone (sh : BitVec 2) (swap mode : Bool) (base : BitVec 6) (shape : BitVec 128) (s : State) : State :=
  let s := s.chargeV.upd fun c => c.swapped sh swap
  if mode then advance base shape s else s

/-- R248: the address of VLD and VST: tagged, or in the store. -/
def CoreState.vmAddr (c : CoreState) (o : OpVM) : Word64 :=
  let off := o.off.signExtend 64 * 128#64
  if o.mode then ((c.xVal (o.base.setWidth 4) + off.setWidth 32).setWidth 64) else c.sVal o.base + off

/-- VLD and VST (R249), lane by lane in both modes (R133). -/
def State.vmove (s : State) (o : OpVM) (write : Bool) : Out :=
  let c := s.core
  s.vmOpen o.g o.sh o.swap anyType [c.vAddr o.d] fun s shape lanes =>
    let d := (c.vAddr o.d).getD 0
    let a := c.vmAddr o
    let done := vmDone o.sh o.swap o.mode o.base shape
    if o.mode then s.moveStore d write (lanes.map fun i => (i, a.toNat + 4 * i)) done
    else s.moveLanes d write (s.storeWait none (if write then [(d, 128)] else []) (if write then [] else [(d, 128)])) (lanes.map fun i => (i, a + BitVec.ofNat 64 (4 * i))) done

def execVld (o : OpVM) (s : State) : Out := s.vmove o false
def execVst (o : OpVM) (s : State) : Out := s.vmove o true

/-- VGTH and VSCT (R250). -/
def State.vindexed (s : State) (o : OpVX) (write : Bool) : Out :=
  let c := s.core
  s.vmOpen o.g o.sh o.swap anyType [c.vAddr o.d, c.vAddr o.i] fun s shape lanes =>
    let d := (c.vAddr o.d).getD 0
    let ix := (c.vAddr o.i).getD 0
    let done := vmDone o.sh o.swap o.mode o.base shape
    if s.storeWait none [(ix, 128)] [] then s.holdUnchecked
    else
      match s.badRead [(ix, false)] lanes with
      | some loc => s.consumeHere loc (BitVec.ofNat 64 (loc % 2 ^ 20))
      | none =>
        let idx (i : Nat) : Word32 := BitVec.ofNat 32 (s.laneSync ix i)
        if o.mode then
          let x := c.xVal (o.base.setWidth 4)
          s.moveStore d write (lanes.map fun i => (i, (x + idx i).toNat)) done
        else s.moveLanes d write (s.storeWait none (if write then [(d, 128)] else []) (if write then [] else [(d, 128)])) (lanes.map fun i => (i, c.sVal o.base + (idx i).signExtend 64)) done

def execVgth (o : OpVX) (s : State) : Out := s.vindexed o false
def execVsct (o : OpVX) (s : State) : Out := s.vindexed o true

end Sys2Proof.Machine
end

