-- ==== Sys2Proof/Machine/Forward.lean ====
section
/-! DEFINITION. Remote accesses on their way out (R400, R401, R407, R410, R450): the links, the link a line's accesses
use, what a slice forwards and in which order. -/

namespace Sys2Proof.Machine

/-! ### Links (R406, R410, R414) -/

/-- One direction of a link. -/
def State.link (s : State) (inward : Bool) (n : BitVec 8) : Link :=
  (s.links.find? fun l => l.inward == inward && l.n == n).getD (Link.reset inward n)

/-- The place of a link among all. -/
def Link.place (l : Link) : Nat := l.n.toNat + if l.inward then 256 else 0

/-- A link put in its place. -/
def putLink (l : Link) : List Link → List Link
  | [] => [l]
  | k :: t => if l.place = k.place then l :: t else if l.place < k.place then l :: k :: t else k :: putLink l t

def State.setLink (s : State) (l : Link) : State := { s with links := putLink l s.links }
def State.updLink (s : State) (inward : Bool) (n : BitVec 8) (f : Link → Link) : State := s.setLink (f (s.link inward n))

/-- R414: fields of CTL and WIN. -/
def Link.peer (l : Link) : Nat := bitsOf l.ctl 1 4
def Link.allowed (l : Link) : BitVec 16 := BitVec.ofNat 16 (bitsOf l.ctl 5 16)
def Link.winBase (l : Link) : Nat := bitsOf l.win 0 16 * 2 ^ 30
def Link.winSize (l : Link) : Nat := bitsOf l.win 16 16 * 2 ^ 30

/-- R410: the link is up, in service, and leads to a peer. -/
def Link.serves (l : Link) (peer : Nat) : Bool := l.enabled && l.peer == peer && l.up == 2#2

/-- R407, R414: the status word. -/
def Link.status (l : Link) : Word64 :=
  BitVec.ofNat 64 (l.lit.toNat + l.width * 2 ^ 16 + l.up.toNat * 2 ^ 21 + (if l.up = 2#2 ∧ l.width < 16 then 2 ^ 23 else 0)
    + l.peer * 2 ^ 24 + l.replay.toNat * 2 ^ 32)

/-- R407: flits sent and not acknowledged. -/
def Link.unacked (l : Link) : Nat := l.sent - l.acked

/-- R410: the hash of a line. -/
def linkHash (pa : Nat) : Nat := (pa / 2 ^ 8 % 256) ^^^ (pa / 2 ^ 16 % 256) ^^^ (pa / 2 ^ 24 % 256) ^^^ (pa / 2 ^ 32 % 256)

/-- R124, R410: the peer a window address belongs to; 16 for the host window. -/
def peerOf (pa : Nat) : Nat := if isHostWin pa then 16 else pa / 2 ^ 40 % 16

/-- R410: the out link that a line's accesses to a peer use now. -/
def State.linkFor (s : State) (peer pa : Nat) : Option (BitVec 8) :=
  match s.links.filter fun l => !l.inward && l.serves peer with
  | [] => none
  | ls => (ls[linkHash pa % ls.length]?).map (·.n)

/-- R402: the flits that some bytes take: a header and at most four data flits a packet; what is longer goes as packets that follow each
other (log entry 15). -/
def flitsOf (n : Nat) : Nat := (if n = 0 then 1 else (n + 255) / 256) + (n + 63) / 64

/-- R402: the flits of a request's packet. -/
def Req.flits (r : Req) : Nat :=
  flitsOf (match r.kind with
    | .load _ => 0
    | .queue q => q.elem.length
    | _ => (r.parts.map (·.data.length)).sum)

def Req.line (r : Req) : Nat := r.loc / 256

/-- The launch on whose behalf a request is made (R437). -/
def State.launchFor (s : State) (r : Req) : Option Nat :=
  match r.agent with | .core k => some (s.coreAt k).launchKey | _ => none

/-- R441: events of a kind charged to the launch of a request. -/
def State.chargeFor (s : State) (r : Req) (kind n : Nat) : State :=
  match s.launchFor r with | some k => s.charge k kind n | none => s

/-- R396: the site of a link's port. -/
def linkSite (n : BitVec 8) : Nat := 16 * (n.toNat / 128) + n.toNat % 16

/-- A remote access changed. -/
def State.updRemote (s : State) (uid : Nat) (f : Remote → Remote) : State :=
  { s with remotes := s.remotes.map fun m => if m.uid = uid then f m else m }

/-- An answer for a peer changed. -/
def State.updPeerOut (s : State) (uid : Nat) (f : PeerAnswer → PeerAnswer) : State :=
  { s with peerOut := s.peerOut.map fun a => if a.uid = uid then f a else a }

/-! ### The transmit queue of a link (R390, R391, R407, R408) -/

/-- What waits in a port's transmit queue: an access or an answer, its key, its lines. -/
structure Waiting where
  uid : Nat
  answer : Bool
  key : List Nat
  lines : List Nat
  deriving DecidableEq, Repr

/-- R391, R392: what waits to be sent on out link n, in the order in which it is granted. -/
def State.transmitQueue (s : State) (n : BitVec 8) : List Waiting :=
  let out := (s.remotes.filter fun m => m.stage == .port && m.link == some n).map fun m =>
    (⟨m.uid, false, m.req.tag.key s.cycle (homeSlice m.req.loc / 2), m.req.lines⟩ : Waiting)
  let back := (s.peerOut.filter fun a => a.stage == .port && a.link == some n).map fun a =>
    (⟨a.uid, true, a.tag.key s.cycle (a.site.getD (linkSite n)), []⟩ : Waiting)
  (granting (·.key) (fun p q => p.lines.any q.lines.contains) (out ++ back)).map (·.2)

/-- R407, R411: one of them is sent: its flits are numbered. -/
def State.sendOut (s : State) (n : BitVec 8) (w : Waiting) : State :=
  let l := s.link false n
  if w.answer then
    match s.peerOut.find? (·.uid == w.uid) with
    | none => s
    | some a =>
      { s.setLink { l with sent := l.sent + flitsOf a.data.length } with
        peerOut := s.peerOut.filter (·.uid != w.uid), peerAnswers := s.peerAnswers ++ [(n, a.data, a.bad)] }
  else match s.remotes.find? (·.uid == w.uid) with
    | none => s
    | some m =>
      let t := m.req.tag.settle s.cycle
      let s := ((s.setLink { l with sent := l.sent + m.flits }).chargeFor m.req 12 m.flits).countOverdue m.req.agent m.req.tag t
      s.updRemote w.uid fun m => { m with stage := .sent, flit := l.sent, sent := s.cycle, req := { m.req with tag := t } }

/-- R408: an out link that is up and not silent sends what waits for it. -/
def State.transmit (s : State) (n : BitVec 8) : State :=
  let l := s.link false n
  if l.up = 2#2 ∧ l.lost = [] then (s.transmitQueue n).foldl (fun s w => s.sendOut n w) s else s

/-! ### What a slice hands to a port (R396, R397, R410, R450) -/

/-- R391, R392, R410: the accesses that wait at their slices, in the order of their keys, none before an earlier one to its line. -/
def State.waitingRemotes (s : State) : List Remote :=
  (granting (fun m : Remote => m.req.tag.key s.cycle m.req.agent.port) (fun m n => m.req.sameLine n.req)
    (s.remotes.filter (·.stage == .slice))).map (·.2)

/-- R410: an access takes the link of its line, unless an earlier access to that line is out on another, or waits; it goes to the
link's port by the return channel there (R397). -/
def State.assignOne (s : State) (m : Remote) : State :=
  let earlier := s.remotes.filter fun e => e.uid != m.uid && e.peer == m.peer && e.req.line == m.req.line
  match s.linkFor m.peer m.req.loc with
  | none => s
  | some n =>
    if earlier.any fun e => (e.stage != .slice && e.link != some n) || (e.stage == .slice && decide (e.uid < m.uid)) then s
    else
      let t := m.req.tag.settle s.cycle
      let s := (s.updRemote m.uid fun m => { m with link := some n, stage := .fabric, req := { m.req with tag := t } }).countOverdue
        m.req.agent m.req.tag t
      s.dispatch (homeSlice m.req.loc / 2) (64 + linkSite n) 2 t (.out m.uid)

/-- R465: an answer for a peer takes the out link of the number its request came in by, or the one R410 chooses; where none is up it
waits. -/
def State.assignAnswer (s : State) (a : PeerAnswer) : State :=
  let peer := (s.link true a.inlink).peer
  match (if (s.link false a.inlink).serves peer then some a.inlink else s.linkFor peer a.off) with
  | none => s
  | some n =>
    match a.site with
    | none =>
      if linkSite n = linkSite a.inlink then (s.updPeerOut a.uid fun a => { a with link := some n, stage := .port }).transmit n
      else (s.updPeerOut a.uid fun a => { a with link := some n, stage := .fabric }).dispatch (linkSite a.inlink) (64 + linkSite n) 2 a.tag (.peer a.uid)
    | some k =>
      (s.updPeerOut a.uid fun a => { a with link := some n, stage := .fabric }).dispatch k (64 + linkSite n) 2 a.tag (.peer a.uid)

/-- R410: what waits at its slice for a link takes it. -/
def State.assign (s : State) : State :=
  let s := s.waitingRemotes.foldl State.assignOne s
  (s.peerOut.filter (·.stage == .slice)).foldl State.assignAnswer s

/-- R410: what is on, or bound for, a link that is not up any more waits for another. -/
def State.unlink (s : State) (n : BitVec 8) : State :=
  let gone (m : Remote) : Bool := m.link == some n && m.stage != .answered
  let lost (a : PeerAnswer) : Bool := a.link == some n
  let stale (t : Transit) : Bool := match t.what with
    | .out u => s.remotes.any fun m => m.uid == u && gone m
    | .peer u => s.peerOut.any fun a => a.uid == u && lost a
    | _ => false
  State.assign { s with
    transits := s.transits.filter (!stale ·)
    remotes := s.remotes.map fun m => if gone m then { m with link := none, stage := .slice, since := s.cycle } else m
    peerOut := s.peerOut.map fun a => if lost a then { a with link := none, stage := .slice } else a }

/-- R393, R465: an answer for a peer is formed at a site, or at the ingress port, with the slack its request holds. -/
def State.answerPeer (s : State) (n : BitVec 8) (off : Nat) (site : Option Nat) (data : List Byte) (bad : Bool) (t : Tag) : State :=
  let (u, s) := s.fresh
  let a : PeerAnswer := ⟨u, n, off, site, data, bad, t.settle s.cycle, none, .slice⟩
  State.assignAnswer { s with peerOut := s.peerOut ++ [a] } a

/-- The address of a request as its sender formed it. -/
def Req.va (r : Req) : Nat := (r.parts.head?.map (·.va.toNat)).getD 0

/-! ### What a slice forwards -/

/-- A request leaves the queue or the miss table of its slice; its slack is what its wait there left. -/
def State.leaves (s : State) (r : Req) : State :=
  State.countOverdue { s with reqs := s.reqs.filter fun q => q.uid != r.uid, missing := s.missing.filter (· != r.uid) }
    r.agent r.tag (r.tag.settle s.cycle)

/-- R150: a remote request that may leave its slice. -/
def State.mayForward (s : State) (r : Req) : Bool :=
  r.remote && (match r.kind, r.agent with
    | .store, .core k => !r.release || s.releaseReady k r.seq 3
    | .queue _, _ => false
    | .update _, _ => false
    | _, _ => true)

/-- R137, R401, R410, R450: a request leaves its slice for a port: that of a link, once it has one, or the host attachment. -/
def State.forward (s : State) (r : Req) : State :=
  let q := { r with tag := r.tag.settle s.cycle }
  let t := s.leaves r
  let m : Remote := ⟨r.uid, q, peerOf r.loc, none, t.cycle, 0, r.flits, if peerOf r.loc = 16 then .fabric else .slice, 0, 0⟩
  let t := { t with remotes := t.remotes ++ [m] }
  if m.peer = 16 then t.dispatch (homeSlice r.loc / 2) 64 2 q.tag (.out r.uid) else t.assign

end Sys2Proof.Machine
end

