-- ==== Sys2Proof/Machine/Arbiter.lean ====
section
/-! DEFINITION. The queue of a slice or scratchpad port (R137, R362, R390 to R392): which of the requests that wait there may be
granted, and which is. -/

namespace Sys2Proof.Machine

/-! ### What may go -/

/-- Where a part can be read now: in a scratchpad, in a filled sector, or in a decoded line. -/
def State.partReady (s : State) (p : Part) : Bool :=
  !isPhys p.loc || (if isDecoded p.loc then s.decoded.any (·.line == p.loc / 256) else isRaw p.loc && s.filled p.loc)

/-- R363: the same of a part of a load, which may have got its bytes from a decode that a write has met. -/
def State.loadReady (s : State) (p : Part) : Bool := !p.data.isEmpty || s.partReady p

/-- A store that may perform now (R150). -/
def State.storeReady (s : State) (r : Req) : Bool :=
  match r.kind, r.agent with
  | .store, .core k => !r.remote && (!r.release || s.releaseReady k r.seq 3)
  | .store, _ => !r.remote
  | _, _ => false

/-- R383: the open window of a launch, at the home slice of an address, that holds its updates. -/
def State.windowFor (s : State) (launch pa : Nat) : Option Window :=
  s.windows.find? fun w => w.launch == launch && decide (w.lo ≤ pa) && decide (pa < w.lo + w.n)
    && w.opened.getLsbD (homeSlice pa) && !w.closed.getLsbD (homeSlice pa)

/-- A request of updates that an open window holds. -/
def State.heldReq (s : State) (r : Req) : Bool :=
  match r.kind with
  | .update u => r.parts.any fun p => (s.windowFor u.launch p.loc).isSome
  | _ => false

/-- A request could perform, or leave for a port, if it were granted. -/
def State.mayGo (s : State) (r : Req) : Bool :=
  if r.remote then s.mayForward r
  else match r.kind with
    | .load _ => r.parts.all s.loadReady
    | .store => s.storeReady r
    | .atom .. => r.parts.all s.partReady
    | .update _ => s.heldReq r || r.parts.all s.partReady
    | .queue _ => true

/-- A release that waits for what it orders (R150). -/
def State.releaseWaits (s : State) (r : Req) : Bool := r.release && !s.mayGo r

/-- R392: no earlier request of its agent to one of its lines is still here, but a release that waits. -/
def State.mayPass (s : State) (r : Req) : Bool :=
  (s.reqs.takeWhile (·.uid != r.uid)).all fun q => !(q.agent == r.agent && q.sameLine r && !s.releaseWaits q)

/-! ### What is granted -/

/-- R369, R390, R396: the slice or scratchpad a request waits at; that of a record's queue is the one its handle translates to. -/
def State.point (s : State) (r : Req) : Nat :=
  match r.parts, r.kind with
  | p :: _, _ => s.chanOf p.loc
  | [], .queue q =>
    let va := q.handle.toNat / 64 * 64
    (match s.translate (groupOf va) q.root va with
    | .ok p => s.sliceAt (p.pa + (va - p.va))
    | .error _ => s.sliceAt va)
  | [], _ => 96

/-- R391, R392: the requests that could go, with their keys. -/
def State.contenders (s : State) : List (List Nat × Req) :=
  (heirs (fun r : Req => r.tag.key s.cycle r.agent.port) (fun q r => q.agent == r.agent && q.sameLine r) s.reqs).filter fun x =>
    s.mayGo x.2 && s.mayPass x.2

/-- R362, R391: the first request of a sort that its slice or scratchpad grants: none there that could go has a lesser key. Those
in the miss table do not bid any more. -/
def State.grants (s : State) (which : Req → Bool) : Option Req :=
  let cs := s.contenders
  (cs.find? fun x => which x.2 && (s.missing.contains x.2.uid
    || cs.all fun y => !keyLess y.1 x.1 || s.missing.contains y.2.uid || s.point y.2 != s.point x.2)).map (·.2)

/-- R362, R390: a request that misses waits in the miss table from now on, once its lines have entries there. -/
def State.merge (s : State) (r : Req) (lines : List Nat) : State :=
  let s := lines.foldl State.missed s
  if s.missing.contains r.uid || !lines.all s.misses.contains then s
  else
    let t := r.tag.settle s.cycle
    State.countOverdue { s with
      missing := r.uid :: s.missing, reqs := s.reqs.map fun q => if q.uid = r.uid then { q with tag := t } else q } r.agent r.tag t

end Sys2Proof.Machine
end

