-- ==== Sys2Proof/Machine/Requests.lean ====
section
/-! DEFINITION. Loads and stores at their home slice or owning scratchpad (R136, R142, R362), misses, fills, decodes and
evictions (R119, R136, R363), and the return of a value to its core (R213, R464). -/

namespace Sys2Proof.Machine

/-! ### At the slice -/

/-- R119, R181: the bytes of a part carry an error. -/
def State.partBad (s : State) (p : Part) : Bool :=
  if isDecoded p.loc && isPhys p.loc then s.decoded.any fun d => d.line == p.loc / 256 && d.bad else s.poisoned p.loc p.n

/-- A part with the bytes its serialisation point holds. -/
def State.readPart (s : State) (p : Part) : Part :=
  { p with data := if isPhys p.loc then (s.sliceBytes p.loc p.n).getD [] else s.bytes p.loc p.n }

/-- R363: a part of a load with its bytes, those it has got already or those that are there. -/
def State.loadPart (s : State) (p : Part) : Part := if p.data.isEmpty then s.readPart p else p
def State.loadBad (s : State) (p : Part) : Bool := p.data.isEmpty && s.partBad p

/-- R134, R135, R140: the stores on their way to a sector, of the core or of its fused gang, in the order they were sent. -/
def State.storesTo (s : State) (c : CoreState) (sec : Nat) : List Part :=
  (s.pending.filter fun r => (match r.agent with | .core k => c.l1Cores.contains k | _ => false) && r.kind == .store && !r.release).flatMap
    fun r => r.parts.filter fun p => p.loc / 64 == sec && !p.data.isEmpty

/-- R134, R181: a sector as it fills L1: the slice's bytes, and over them those of the stores on their way to it. -/
def State.fillData (s : State) (c : CoreState) (sec : Nat) : L1Sector :=
  let bad := (List.range 64).filter fun i => if isDecoded (sec * 64) then s.decoded.any fun d => d.line == sec / 4 && d.bad else s.poisoned (sec * 64 + i) 1
  (s.storesTo c sec).foldl (fun e p => { e with
      data := splice e.data (p.loc % 64) p.data, bad := e.bad.filter fun i => decide (i < p.loc % 64) || decide (p.loc % 64 + p.n ≤ i) })
    ⟨c.l1Owner (sec * 64), sec, (s.sliceBytes (sec * 64) 64).getD [], bad⟩

/-- R134: an array holds 256 lines; which of them a further line replaces is open (log entry 3). -/
def State.l1Room (s : State) (own : BitVec 7) (line : Nat) : State :=
  let held := ((s.l1.filter fun e => e.owner == own).map fun e => e.sec / 4).eraseDups
  if held.contains line || decide (held.length < 256) then s
  else { s.ticked with l1 := s.l1.filter fun e => !(e.owner == own && held[Config.freeNat s.tick % 256]? == some (e.sec / 4)) }

/-- R134, R142: the sectors of a load fill L1. -/
def State.fillL1 (s : State) (id : BitVec 7) (parts : List Part) : State :=
  let c := s.coreAt id
  parts.foldl (fun s p =>
    if isPhys p.loc && usesL1 p.loc then
      let own := c.l1Owner p.loc
      let sec := p.loc / 64
      let s := s.l1Room own (sec / 4)
      { s with l1 := s.fillData c sec :: s.l1.filter fun e => !(e.owner == own && e.sec == sec) }
    else s) s

/-- R447: where in the host's view of a BAR an answer belongs. -/
def barAt (bar off : Nat) : Nat := bar * 2 ^ 40 + off

/-- R464: the source code of CERR2 for a request. -/
def Req.source (r : Req) : Nat := match r.parts with | [] => 0 | p :: _ => sourceCode p.loc

/-- R142, R213: a load leaves, and its value starts back to who asked for it. -/
def State.replyLoad (s : State) (r : Req) (dest : LoadDest) (parts : List Part) (bad : Bool) : State :=
  let s := s.leaves r
  match r.agent with
  | .core k =>
    s.replyTo r k dest parts bad r.source (siteOf r.loc)
  | .peer n => s.answerPeer n r.va (some (siteOf r.loc)) (if bad then [] else parts.flatMap (·.data)) bad r.tag
  | .host => { s with answers := s.answers ++ [(barAt 4 r.va, if bad then [] else parts.flatMap (·.data))] }
  | _ => s

/-- R142, R213: a load performs. What a stale decode brought does not fill L1. -/
def State.performLoad (s : State) (r : Req) (dest : LoadDest) : State :=
  let bad := r.parts.any s.loadBad
  let parts := if bad then r.parts.filter s.loadBad else r.parts.map s.loadPart
  let t := s.replyLoad r dest parts bad
  match r.agent, dest with
  | .core _, .acq .. => t
  | .core k, _ => if bad then t else t.fillL1 k (r.parts.filter (·.data.isEmpty))
  | _, _ => t

/-- A load, and no atomic. -/
def Req.reads (r : Req) : Bool := match r.kind with | .load _ => true | _ => false

/-- The lines a request waits for. -/
def State.wanted (s : State) (r : Req) : List Nat :=
  let ready (p : Part) : Bool := if r.reads then s.loadReady p else s.partReady p
  (partLines (r.parts.filter fun p => !ready p)).eraseDups

/-- R362: the requests of a sort that wait at their slice for lines ask for them. -/
def State.askLines (s : State) (which : Req → Bool) : State :=
  (s.reqs.filter fun r => which r && !r.remote && !(s.wanted r).isEmpty).foldl (fun s r => s.merge r (s.wanted r)) s

/-- SLICE_READ_REQUEST (R142, R362, R391, R401): a load that is granted performs, or is forwarded; failing that, those that miss ask
for their lines. -/
def execSliceReadRequest (s : State) : Out :=
  match s.grants (·.reads) with
  | some r => if r.remote then .next (s.forward r) else (match r.kind with | .load d => .next (s.performLoad r d) | _ => .next s)
  | none => .next (s.askLines (·.reads))

/-- R119, R136, R142, R260: the parts of a store perform, in ascending order (R250). A part that carries no bytes carries an error. -/
def State.performStore (s : State) (r : Req) : State :=
  let key := s.launchFor r
  let t := r.parts.foldl (fun s p =>
    let s := match r.agent with
      | .core k => let s := s.note k r.seq p.loc p.n; if r.release then s.l1Drop k p.loc else s
      | _ => s
    if p.data.isEmpty then s.setPoison p.loc p.n else s.performWrite key p.loc p.data) (s.leaves r)
  match r.agent with | .peer n => t.answerPeer n r.va (some (siteOf r.loc)) [] false r.tag | _ => t

/-! ### Misses -/

/-- R440: 64-byte units of memory traffic, charged to the launch whose load waits for the line. -/
def State.chargeTraffic (s : State) (line n : Nat) : State :=
  match s.reqs.find? fun r => !r.remote && r.parts.any fun p => p.loc / 256 == line with
  | some r => (match s.launchFor r with | some k => s.charge k 10 n | none => s)
  | none => s

/-- R363: a decoded line is on its way to its slice, or its tile is being decoded. -/
def State.awaited (s : State) (line : Nat) : Bool :=
  isDecoded (line * 256) && ((match s.tileOf (line * 256) with
    | some (r, k) => s.decodes.any fun d => d.region == r && d.tile == k
    | none => false) || s.reserved.any (·.delivers fun d => d.line == line))

/-- MISS_FILL (R119, R136, R362, R363): a raw line's sectors fill from memory, and its entry is free; a decoded line's tile starts
to be decoded unless it already is, and its entry stays until the line is there. -/
def execMissFill (line : Nat) (s : State) : Out :=
  if !s.misses.contains line || s.filling line then .next s
  else
    let t := { s with misses := s.misses.filter (· != line) }
    if isDecoded (line * 256) then
      match s.tileOf (line * 256) with
      | none => .next t
      | some (r, k) =>
        if s.awaited line then .next s
        else
          let t := s.chargeTraffic line ((tileBytes (s.fmtKind r) * 1025 / 1024 + s.recBytes r + 63) / 64)
          .next { t with decodes := t.decodes ++ [⟨r, k, false, []⟩] }
    else
      let t := t.chargeTraffic line 4
      if t.lines.any (·.line == line) then
        .next { t with lines := t.lines.map fun l => if l.line = line then { l with fill := 0xF#4 } else l }
      else .next { t with lines := ⟨line, 0xF#4, [], none⟩ :: t.lines }

/-- TILE_DECODE_DONE (R119, R362, R363): the decoded lines of a tile go to their home slices in the reserved class; those of a
decode that a write of R120 met go to the requests alone that merged before it, and are not installed. -/
def execTileDecodeDone (region : BitVec 4) (tile : Nat) (s : State) : Out :=
  match s.decodes.find? fun d => d.region == region.toNat && d.tile == tile with
  | none => .next s
  | some d =>
    let t := { s with decodes := s.decodes.filter fun e => !(e.region == d.region && e.tile == d.tile) }
    let from' := controllerSite ((s.fmtBase d.region + d.tile * tileBytes (s.fmtKind d.region)) / 256)
    if d.stale then .next (t.injectReserved (d.owed.map fun p => (from', s.sliceAt (256 * p.1.line), .answer p.1 p.2)))
    else if !s.fmtOn d.region then .next t
    else .next (t.injectReserved ((s.decodeTile d.region d.tile).map fun l => (from', s.sliceAt (256 * l.line), .delivery l)))

/-- R363: a decoded line reaches a request that merged before the write: its parts there have their bytes, or it ends with the
error. -/
def State.giveLine (s : State) (d : DecLine) (id : Nat) : State :=
  match s.reqs.find? fun r => r.uid == id && r.reads with
  | none => s
  | some r =>
    let here (p : Part) : Bool := p.data.isEmpty && p.loc / 256 == d.line
    match r.kind with
    | .load dest =>
      if d.bad then s.replyLoad r dest (r.parts.filter here) true
      else
        let parts := r.parts.map fun p => if here p then { p with data := (d.data.drop (p.loc % 256)).take p.n } else p
        { s with reqs := s.reqs.map fun q => if q.uid = id then { q with parts := parts } else q }
    | _ => s

/-- R440: the sectors of a line that a write-back moves, charged to the launch whose write was the last. -/
def State.chargeBack (s : State) (line : Nat) : State :=
  match s.lines.find? (·.line == line) with
  | some l =>
    (match l.writer with
    | some k => s.charge k 10 ((List.range 4).filter fun i => l.mask.any fun m => m.1 / 64 == i).length
    | none => s)
  | none => s

/-- LINE_EVICTION (R136, R362, R440): a raw line's masked bytes go back to memory, in the reserved class, and it leaves; a decoded
line leaves. -/
def execLineEviction (line : Nat) (s : State) : Out :=
  let dirty := s.lines.any fun l => l.line == line && !l.mask.isEmpty
  let s := if dirty then s.chargeBack line |>.injectReserved [(homeSlice (256 * line) / 2, 64 + controllerSite line, .writeBack line)] else s
  .next { s with lines := s.lines.filter (·.line != line), decoded := s.decoded.filter (·.line != line) }

end Sys2Proof.Machine
end

