-- ==== Sys2Proof/Machine/Windows.lean ====
section
/-! DEFINITION. Elements updated at their home slice (R267, R376 to R378), deterministic reduction windows (R382 to R388)
and the held updates of the Rack. -/

namespace Sys2Proof.Machine

/-! ### One element -/

/-- R440: an atomic element. -/
def State.chargeAtom (s : State) (key : Option Nat) : State := match key with | some k => s.charge k 9 1 | none => s

/-- An element updated at its serialisation point in one step; a poisoned one stays as it is. -/
def State.applyElem (s : State) (key : Option Nat) (e : ElemOp) (loc n v cmp : Nat) : State :=
  if s.poisoned loc n then s
  else (s.performWrite key loc (leBytes n (e.result n (s.num loc n) v cmp))).chargeAtom key

/-! ### Windows -/

/-- One window changed. -/
def State.updWindow (s : State) (launch : Nat) (id : BitVec 3) (f : Window → Window) : State :=
  { s with windows := s.windows.map fun w => if w.launch = launch ∧ w.id = id then f w else w }

/-- R386: the order in which held updates are applied: by element, then I, then S. -/
def HeldUpd.before (x y : HeldUpd) : Bool :=
  decide (x.pa < y.pa) || (x.pa == y.pa && (decide (x.i < y.i) || (x.i == y.i && decide (x.seqNo.toNat ≤ y.seqNo.toNat))))

/-- An update put among sorted ones. -/
def HeldUpd.place (x : HeldUpd) : List HeldUpd → List HeldUpd
  | [] => [x]
  | y :: t => if x.before y then x :: y :: t else y :: x.place t

def HeldUpd.sort : List HeldUpd → List HeldUpd
  | [] => []
  | x :: t => x.place (HeldUpd.sort t)

def HeldUpd.of (x : HeldUpd) (launch : Nat) (id : BitVec 3) (slice : Nat) : Bool :=
  x.launch == launch && x.win == id && homeSlice x.pa == slice

/-- R386: the elements of two updates overlap and differ in their address or their width. -/
def HeldUpd.clash (x y : HeldUpd) : Bool :=
  decide (x.pa < y.pa + y.n) && decide (y.pa < x.pa + x.n) && !(x.pa == y.pa && x.n == y.n)

/-- R386, R2: the bytes of an element that overlaps another of a different address or width are free values, since a
program must not use such elements and the spec gives no result (log entry 23). -/
def State.clashed (s : State) (all : List HeldUpd) (x : HeldUpd) : State :=
  if all.any x.clash && !s.poisoned x.pa x.n then
    s.performWrite (some x.launch) x.pa ((List.range x.n).map fun i => Config.freeByte s.tick (x.pa + i))
  else s

/-- R386: a slice applies the updates it holds for a window, element by element in I and S. -/
def State.applyHeld (s : State) (w : Window) (slice : Nat) : State :=
  let mine := HeldUpd.sort (s.heldUpds.filter fun x => x.of w.launch w.id slice)
  let s := { s with heldUpds := s.heldUpds.filter fun x => !x.of w.launch w.id slice }
  let s := mine.foldl (fun s x => s.applyElem (some x.launch) x.what x.pa x.n x.value 0) s
  let s := mine.foldl (fun s x => s.clashed mine x) s
  s.updWindow w.launch w.id fun w => { w with applied := w.applied + mine.length }

/-- R364: the spill area of a slice: its address and its number of entries; none while slices do not spill. -/
def State.spillArea (s : State) (slice : Nat) : Option (Nat × Nat) :=
  let v := s.devGet 0x125
  let sz := bitsOf v 48 4
  if v.getLsbD 0 && decide (sz < 8) then some (bitsOf v 16 30 * 65536 + slice * 65536 * 2 ^ sz, 2048 * 2 ^ sz) else none

/-- R385: the 32 bytes of a spill entry. -/
def HeldUpd.bytes (x : HeldUpd) : List Byte :=
  let e := x.what
  leBytes 8 (x.pa + e.op * 2 ^ 46 + e.ty * 2 ^ 50 + x.i % 2 ^ 12 * 2 ^ 52) ++ leBytes 4 x.seqNo.toNat
    ++ leBytes 4 (x.win.toNat + (if e.sgn64 then 8 else 0) + (if e.sat then 16 else 0) + e.round % 4 * 32)
    ++ leBytes 8 x.value ++ List.replicate 8 0#8

/-- The first place of a spill area of `n` entries that holds no update (log entry 14). -/
def State.freeSpot (s : State) (slice : BitVec 6) (n : Nat) : Option Nat :=
  (List.range n).find? fun i => !(s.heldUpds.any fun x => x.slice == slice && x.spot == some i)

/-- R385: a held update arrives at its slice: the Rack, the spill area, or the window breaks. -/
def State.holdUpdate (s : State) (w : Window) (x : HeldUpd) : State :=
  let h := homeSlice x.pa
  let apply (s : State) : State :=
    (s.applyElem (some x.launch) x.what x.pa x.n x.value 0).updWindow w.launch w.id fun w => { w with applied := w.applied + 1 }
  let broken : State :=
    apply ((s.applyHeld w h).updWindow w.launch w.id fun w => { w with broken := w.broken ||| BitVec.ofNat 64 (2 ^ h) })
  if w.broken.getLsbD h then apply s
  else if (s.heldUpds.filter fun y => y.slice == x.slice && y.spot.isNone).length < 16 then
    { s with heldUpds := s.heldUpds ++ [x] }
  else match s.spillArea x.slice.toNat with
    | none => broken
    | some (a, n) =>
      match s.freeSpot x.slice n with
      | none => broken
      | some i =>
        let s := s.performWrite none (a + 32 * i) x.bytes
        { s with heldUpds := s.heldUpds ++ [{ x with spot := some i }] }.updWindow w.launch w.id
          fun w => { w with spilled := w.spilled + 1 }

/-- R384, R385: one element of a no-return update reaches its slice: held, or applied. -/
def State.updateElem (s : State) (u : UpdInfo) (lane pa n v : Nat) : State :=
  match s.windowFor u.launch pa with
  | some w => s.holdUpdate w ⟨s.serving (homeSlice pa), none, u.launch, w.id, pa, n, 32 * u.k + lane, u.what, u.seqNo, v⟩
  | none => s.applyElem (some u.launch) u.what pa n v 0

/-- The parts of an update request reach their slice, in ascending lane order (R378). -/
def State.performUpdate (s : State) (r : Req) (u : UpdInfo) : State :=
  r.parts.foldl (fun s p =>
    let s := match r.agent with | .core k => (s.note k r.seq p.loc p.n).l1Drop k p.loc | _ => s
    s.updateElem u p.lane p.loc p.n p.value) (s.leaves r)

/-- HELD_UPDATE_ARRIVAL (R383 to R385, R391): a request of updates that a window holds is granted. -/
def execHeldUpdateArrival (s : State) : Out :=
  match s.grants s.heldReq with
  | some r => (match r.kind with | .update u => .next (s.performUpdate r u) | _ => .next s)
  | none => .next s

/-! ### Opening and closing (R382, R386) -/

/-- RWOPEN (R382). Checked: the base's tag and alignment, the parameters, the walk and permission, then the range. A window
of the launch whose open by this logical core has not performed is the one this entry waits for. Its check passes with
the opening, so that the updates of later bundles are held, as the scatter-add program requires. -/
def execRwopen (o : OpSQ) (s : State) : Out :=
  s.whenOn o.g <|
    let a := s.core.sVal o.p
    let v := s.core.sVal o.q
    let n := bitsOf v 0 32
    let id := BitVec.ofNat 3 (bitsOf v 32 3)
    let key := s.core.launchKey
    let bad : Out := s.accTrap ⟨0x0B#8, 0#64⟩ .wr 0 a 0#64
    match s.windows.find? fun w => w.launch == key && w.id == id && w.waits == some s.core.gang.k && !w.closing with
    | some w =>
      if w.opened = BitVec.allOnes 64 then .next (s.updWindow key id fun w => { w with waits := none }) else s.holdUnchecked
    | none =>
      if a.toNat % 256 ≠ 0 ∨ 2 ^ 60 ≤ a.toNat then s.accTrap ⟨0x0A#8, 0#64⟩ .wr 0 a 0#64
      else if v.toNat / 2 ^ 35 ≠ 0 ∨ n = 0 ∨ n % 256 ≠ 0 then bad
      else match s.place a 1 1 .wr with
        | .error f => s.accTrap f .wr 0 a 0#64
        | .ok p =>
          let fits := match p.page with | some g => decide (p.loc + n ≤ g.pa + g.size) | none => false
          if !fits || !(isRaw p.loc && isRaw (p.loc + n - 1))
            || s.windows.any (fun w => w.launch == key && (w.id == id || rangesMeet w.lo w.n p.loc n)) then bad
          else
            let w : Window := ⟨key, id, p.loc, n, 0#64, 0#64, 0#64, false, 0, 0, some s.core.gang.k⟩
            { s.notePage p with windows := s.windows ++ [w] }.holdUnchecked

/-- WINDOW_OPEN_AT_SLICE (R382): a slice opens the first window it has not opened. -/
def execWindowOpenAtSlice (slice : BitVec 6) (s : State) : Out :=
  match s.windows.find? fun w => !w.opened.getLsbD slice.toNat with
  | some w => .next (s.updWindow w.launch w.id fun w => { w with opened := w.opened ||| BitVec.ofNat 64 (2 ^ slice.toNat) })
  | none => .next s

/-- R386: what RWCLOSE returns. -/
def Window.status (w : Window) : Word64 :=
  BitVec.ofNat 64 (w.applied % 2 ^ 32 + (if w.broken = 0#64 then 0 else 2 ^ 32) + w.spilled % 2 ^ 24 * 2 ^ 40)

/-- A window no more. -/
def State.dropWindow (s : State) (launch : Nat) (id : BitVec 3) : State :=
  { s with windows := s.windows.filter fun w => !(w.launch == launch && w.id == id) }

/-- RWCLOSE (R386): a drain of package scope, the close at every slice, then an acquire and the status. -/
def execRwclose (o : OpSQ) (s : State) : Out :=
  s.whenOn o.g <|
    let v := s.core.sVal o.p
    let id := BitVec.ofNat 3 (bitsOf v 0 3)
    let key := s.core.launchKey
    match s.windows.find? fun w => w.launch == key && w.id == id && w.opened == BitVec.allOnes 64 with
    | none => s.trap0B
    | some w =>
      if v.toNat / 8 ≠ 0 then s.trap0B
      else if w.closing then
        (if w.closed = BitVec.allOnes 64 then .next (((s.dropWindow key id).l1Clear).putS o.q w.status) else s.hold)
      else if s.coveredLeft s.core.cur.seq 3 then s.hold
      else (s.updWindow key id fun w => { w with closing := true, waits := some s.core.gang.k }).hold

/-- WINDOW_CLOSE_AT_SLICE (R386, R387): a slice applies and closes the first window being closed. One that its launch's
end closes is gone when every slice has closed it. -/
def execWindowCloseAtSlice (slice : BitVec 6) (s : State) : Out :=
  match s.windows.find? fun w => w.closing && !w.closed.getLsbD slice.toNat with
  | none => .next s
  | some w =>
    let t := (s.applyHeld w slice.toNat).updWindow w.launch w.id fun w =>
      { w with closed := w.closed ||| BitVec.ofNat 64 (2 ^ slice.toNat) }
    .next { t with windows := t.windows.filter fun w => !(w.closing && w.waits.isNone && w.closed == BitVec.allOnes 64) }

end Sys2Proof.Machine
end

