-- ==== Sys2Proof/Machine/Atomics.lean ====
section
/-! DEFINITION. The atomics (R376 to R381): ATOM, ATOMN and VATOM, and what happens to them at their serialisation
point. -/

namespace Sys2Proof.Machine

/-- R379: the combinations that the check turns away with trap 0x20. `far` says that the operation is one that the
far side of a window performs; `fp` that it is a floating operation. -/
def atomBarred (loc : Nat) (far fp : Bool) : Bool :=
  if isPhys loc then isRemote loc && !far else fp

/-- R131, R379: the checks of an atomic element. -/
def State.placeAtom (s : State) (a : Word64) (n : Nat) (far fp : Bool) : Except AccFault Place :=
  match s.place a n n .at with
  | .error f => .error f
  | .ok p => if atomBarred p.loc far fp then .error ⟨0x20#8, 0#64⟩ else .ok p

/-- R376 to R378: an atomic with a result, of one element of `n` bytes; one that the done-mask holds, which a handler has
performed, does nothing again (R133, R380). -/
def State.atomOne (s : State) (a : Word64) (n : Nat) (far : Bool) (e : ElemOp) (v cmp : Word64) (d : BitVec 6) (ty : BitVec 3) :
    Out :=
  if s.core.cur.redo.getLsbD 0 then .next s
  else match s.placeAtom a n far (e.ty == 0) with
  | .error f => s.accTrap f .at 0 a 0#64
  | .ok p =>
    let s := s.notePage p
    if s.accessHeld a p.loc n true then s.hold
    else if s.ownStorage p.loc then
      (if s.ownWait p.loc n then s.hold
      else if s.poisoned p.loc n then s.consumeHere p.loc a
      else
        let m := s.num p.loc n
        .next (((s.writeSync p.loc (leBytes n (e.result n m (v.toNat % 2 ^ (8 * n)) cmp.toNat))).chargeAtom
          (some s.core.launchKey)).putS d (slValue ty m)))
    else if s.sendHeld p.loc n || s.slotFull false then s.hold
    else
      let (u, s) := s.fresh
      .next (s.send ⟨u, .core s.core.id, s.core.cur.pc, s.core.cur.seq, s.core.cur.slot, .atom e cmp (.sreg d ty),
        [⟨p.loc, a, n, 0, leBytes n v.toNat⟩], false, s.entryTag⟩)

/-- R56: the operations of ATOM by their fn, for an integer type code and the unsigned one. -/
def atomOp (f ty uty : Nat) (sgn : Bool) : ElemOp :=
  match f with
  | 0 => ⟨0, uty, false, false, 0⟩
  | 1 => ⟨3, uty, false, false, 0⟩
  | 2 => ⟨4, uty, false, false, 0⟩
  | 3 => ⟨5, uty, false, false, 0⟩
  | 4 => ⟨1, ty, sgn, false, 0⟩
  | 5 => ⟨2, ty, sgn, false, 0⟩
  | 6 => ⟨1, uty, false, false, 0⟩
  | 7 => ⟨2, uty, false, false, 0⟩
  | 8 => ⟨6, uty, false, false, 0⟩
  | 9 => ⟨7, uty, false, false, 0⟩
  | 10 => ⟨0, 0, false, false, 0⟩
  | 11 => ⟨1, 0, false, false, 0⟩
  | _ => ⟨2, 0, false, false, 0⟩

/-- R379: ADD, SWAP and CAS are performed at the far side of a window. -/
def atomFar (f : BitVec 4) : Bool := f == 0#4 || f == 8#4 || f == 9#4

/-- ATOM of 64 bits (R376). -/
def execAtom64 (o : OpAtom) (s : State) : Out :=
  s.whenOn o.g
    (s.atomOne (s.core.sVal o.a) 8 (atomFar o.f) (atomOp o.f.toNat 3 3 true) (s.core.sVal o.b) (s.core.sVal o.d) o.d 6#3)

/-- ATOM of 32 bits (R376). -/
def execAtom32 (o : OpAtom) (s : State) : Out :=
  s.whenOn o.g
    (s.atomOne (s.core.sVal o.a) 4 (atomFar o.f) (atomOp o.f.toNat 1 2 false) (s.core.sVal o.b) (s.core.sVal o.d) o.d 4#3)

/-- ATOMN (R377). -/
def execAtomn (o : OpAtomn) (s : State) : Out :=
  s.whenOn o.g
    (s.atomOne (s.core.sVal o.a) 1 false ⟨16 + 2 * o.o.toNat + (if o.n then 1 else 0), 2, false, false, 0⟩ (s.core.sVal o.b)
      0#64 o.d 1#3)

/-! ### VATOM (R378, R381) -/

/-- R378: the element operation of a lane under TYPE. -/
def vatomOp (op ty : Nat) : ElemOp := ⟨op, if ty = 0 then 0 else if ty = 9 then 1 else 2, false, false, 0⟩

/-- R378: the types of each operation. -/
def vatomTypes (op : Nat) (sh : BitVec 128) : Bool :=
  arithTypes.contains (shType sh) && !(isF32 sh && decide (3 ≤ op) && decide (op ≤ 5))

/-- R133: the lanes of an atomic checked in ascending order, up to the first that fails. -/
def State.checkAtoms (s : State) (fp : Bool) : List (Nat × Word64) → List (Nat × Word64 × Place) × Option (Nat × Word64 × AccFault)
  | [] => ([], none)
  | (i, a) :: t =>
    match s.placeAtom a 4 false fp with
    | .error f => ([], some (i, a, f))
    | .ok p =>
      let (ok, bad) := s.checkAtoms fp t
      ((i, a, p) :: ok, bad)

/-- A lane applied to the core's own scratchpad; with RET its old value goes to the register at `d`. -/
def State.atomLane (s : State) (e : ElemOp) (d : Nat) (ret : Bool) (lane loc v : Nat) : State :=
  let m := s.num loc 4
  let s := (s.writeSync loc (leBytes 4 (e.result 4 m v 0))).chargeAtom (some s.core.launchKey)
  if ret then s.writeSync (s.st (d + 4 * lane)) (leBytes 4 m) else s

/-- The lanes of VATOM: those of own storage at once, in ascending order, the others as requests. -/
def State.performAtoms (s : State) (e : ElemOp) (d : Nat) (ret : Bool) (ls : List (Nat × Word64 × Place)) : State :=
  let v (i : Nat) : Nat := leNat (s.readSync (s.st (d + 4 * i)) 4)
  let far := (ls.filter fun l => !s.ownStorage l.2.2.loc).map fun l => (⟨l.2.2.loc, l.2.1, 4, l.1, leBytes 4 (v l.1)⟩ : Part)
  let kind : ReqKind :=
    if ret then .atom e 0#64 (.lanes d) else .update ⟨e, (s.core.crGet 0x127).setWidth 32, s.core.gang.k, s.core.launchKey⟩
  let t := (ls.filter fun l => s.ownStorage l.2.2.loc).foldl (fun t l => t.atomLane e d ret l.1 l.2.2.loc (v l.1)) s
  (byLine far).foldl (fun t ps =>
    let (u, t) := t.fresh
    t.send ⟨u, .core t.core.id, t.core.cur.pc, t.core.cur.seq, t.core.cur.slot, kind, ps, false, t.entryTag⟩) t

/-- R140, R251, R272, R339: the lanes of VATOM cannot be performed or sent now. -/
def State.atomsHeld (s : State) (ret : Bool) (ls : List (Nat × Word64 × Place)) : Bool :=
  let far := (ls.filter fun l => !s.ownStorage l.2.2.loc).map (·.2.2.loc)
  (ls.any fun l => s.accessHeld l.2.1 l.2.2.loc 4 true || s.ownWait l.2.2.loc 4)
    || (!far.isEmpty && s.slotFull (!ret))

/-- R384: the next sequence number. -/
def CoreState.bumpSeq (c : CoreState) (n : Nat) : CoreState :=
  c.crPut 0x127 (BitVec.ofNat 64 (((c.crGet 0x127).toNat + n) % 2 ^ 32))

/-- What the completion of VATOM does besides its lanes: its swap and, without RET, its sequence number. -/
def vatomDone (o : OpVatom) (s : State) : State :=
  s.chargeV.upd fun c => let c := c.swapped o.sh o.swap; if o.ret then c else c.bumpSeq 1

/-- VATOM (R378, R381, R384). -/
def execVatom (o : OpVatom) (s : State) : Out :=
  let c := s.core
  s.vmOpen o.g o.sh o.swap (vatomTypes o.op.toNat) [c.vAddr o.d, c.vAddr o.i] fun s shape lanes =>
    let d := (c.vAddr o.d).getD 0
    let ix := (c.vAddr o.i).getD 0
    let e := vatomOp o.op.toNat (shType shape)
    if s.storeWait none [(ix, 128)] [] then s.holdUnchecked
    else
      let lanes := lanes.filter fun i => !c.cur.redo.getLsbD i
      match s.badRead [(ix, false)] lanes with
      | some loc => s.consumeHere loc (BitVec.ofNat 64 (loc % 2 ^ 20))
      | none =>
        let wait := s.storeWait none [(d, 128)] (if o.ret then [(d, 128)] else [])
        let as := lanes.map fun i => (i, c.sVal o.base + (BitVec.ofNat 32 (s.laneSync ix i)).signExtend 64)
        let (ok, bad) := s.checkAtoms (isF32 shape) as
        if wait || s.atomsHeld o.ret ok then s.await bad.isSome
        else match s.badRead [(d, false)] (ok.map (·.1)), ok.find? fun l => s.ownStorage l.2.2.loc && s.poisoned l.2.2.loc 4 with
          | some loc, _ => s.consumeHere loc (BitVec.ofNat 64 (loc % 2 ^ 20))
          | none, some l => s.consumeHere l.2.2.loc l.2.1
          | none, none =>
            match bad with
            | none => .next (vatomDone o ((s.notePages ok).performAtoms e d o.ret ok))
            | some b =>
              if !ok.isEmpty then (((s.notePages ok).performAtoms e d o.ret ok).markDone (ok.map (·.1))).holdUnchecked
              else if s.onWay then s.holdUnchecked
              else s.accTrap b.2.2 .at b.1 b.2.1 s.core.cur.redo

/-! ### At the slice -/

/-- An atomic, or an update that no window holds. -/
def State.isAtom (s : State) (r : Req) : Bool :=
  match r.kind with
  | .atom .. => true
  | .update _ => !s.heldReq r
  | _ => false

/-- R376 to R378: the elements of an atomic with a result perform, in ascending lane order, and the old values start back
to the core; an element with an uncorrectable error stays as it is (R464). -/
def State.performAtom (s : State) (r : Req) (e : ElemOp) (cmp : Word64) (dest : LoadDest) : State :=
  let key := s.launchFor r
  let (t, old) := r.parts.foldl (fun (a : State × List Part) p =>
    let s := match r.agent with | .core k => (a.1.note k r.seq p.loc p.n).l1Drop k p.loc | _ => a.1
    (s.applyElem key e p.loc p.n p.value cmp.toNat, a.2 ++ [s.readPart p])) (s.leaves r, [])
  let bad := r.parts.filter s.partBad
  match r.agent with
  | .core k =>
    t.replyTo r k dest (if bad.isEmpty then old else bad) (!bad.isEmpty) r.source (siteOf r.loc)
  | .peer n => t.answerPeer n r.va (some (siteOf r.loc)) (if bad.isEmpty then old.flatMap (·.data) else []) (!bad.isEmpty) r.tag
  | _ => t

/-- SLICE_ATOMIC_REQUEST (R267, R362, R376 to R379, R391, R401): an atomic or update that is granted performs, or is forwarded;
failing that, those that miss ask for their lines. -/
def execSliceAtomicRequest (s : State) : Out :=
  match s.grants s.isAtom with
  | some r =>
    if r.remote then .next (s.forward r)
    else (match r.kind with
      | .atom e cmp d => .next (s.performAtom r e cmp d)
      | .update u => .next (s.performUpdate r u)
      | _ => .next s)
  | none => .next (s.askLines s.isAtom)

end Sys2Proof.Machine
end

