-- ==== Sys2Proof/Decode.lean ====
section
/-! DEFINITION. The decoder of slot words (R48 to R63) with the bits a header lends (R37), and the encoder written
from the same tables. A word is handled as the natural number of its 32 bits. -/

namespace Sys2Proof

/-- Why the dispatcher rejects a word: trap 0x01 at the slot, trap 0x02 at the slot, or a lend that R37 does not
admit (a header fault, trap 0x02, R64). -/
inductive Reject where
  | illegalOpcode
  | illegalEncoding
  | illegalLend
  deriving DecidableEq, Repr

/-- What decoding a word gives. -/
abbrev Decoded := Except Reject Instr

/-- The `len` bits of `w` from bit `lo` up. -/
def fld (w lo len : Nat) : Nat := w / 2 ^ lo % 2 ^ len

/-- The `n` bits of `w` from bit `lo` up, as a bit vector. -/
def bits (n w lo : Nat) : BitVec n := BitVec.ofNat n (w / 2 ^ lo)

/-- Bit `lo` of `w`. -/
def flag (w lo : Nat) : Bool := w / 2 ^ lo % 2 == 1

/-- R63: the word is accepted when its reserved fields are as they must be. -/
def require (ok : Bool) (i : Instr) : Decoded := if ok then .ok i else .error .illegalEncoding

/-- R37: an instruction without a lendable field. -/
def noLend (lend : Option (BitVec 9)) (r : Decoded) : Decoded :=
  match lend with
  | none => r
  | some _ => .error .illegalLend

/-- R37: the shift immediates, WAITEV, GATE, BWAIT and WMWAIT accept a lend of zero bits only. -/
def zeroLend (lend : Option (BitVec 9)) (r : Decoded) : Decoded :=
  match lend with
  | none => r
  | some b => if b == 0#9 then r else .error .illegalLend

/-- R37, format VA: the lent bits under `mask` must be zero. -/
def maskLend (mask : BitVec 9) (lend : Option (BitVec 9)) (r : Decoded) : Decoded :=
  if lend.getD 0#9 &&& mask == 0#9 then r else .error .illegalLend

/-- R37, format SI with a signed immediate (R201). -/
def immS (w : Nat) (lend : Option (BitVec 9)) : BitVec 19 :=
  match lend with
  | none => (bits 10 w 0).signExtend 19
  | some b => b ++ bits 10 w 0

/-- R37, format SI with an unsigned immediate (R158, R166, R192, R197). -/
def immZ (w : Nat) (lend : Option (BitVec 9)) : BitVec 19 :=
  match lend with
  | none => (bits 10 w 0).setWidth 19
  | some b => b ++ bits 10 w 0

/-- R37, format SJ. -/
def offJ (w : Nat) (lend : Option (BitVec 9)) : BitVec 31 :=
  match lend with
  | none => (bits 22 w 0).signExtend 31
  | some b => b ++ bits 22 w 0

/-- R37, format SL. -/
def offL (w : Nat) (lend : Option (BitVec 9)) : BitVec 16 :=
  match lend with
  | none => (bits 7 w 0).signExtend 16
  | some b => b ++ bits 7 w 0

/-- R37, format VA: a vector-register field joined to its three lent bits. -/
def vreg (w lo : Nat) (lend : Option (BitVec 9)) (at' : Nat) : BitVec 9 :=
  (lend.getD 0#9).extractLsb' at' 3 ++ bits 6 w lo

/-- R37, VLD and VST: the offset of format VM, six bits of it lent; signed (R248). -/
def offV (w : Nat) (lend : Option (BitVec 9)) : BitVec 12 :=
  match lend with
  | none => (bits 6 w 4).signExtend 12
  | some b => b.setWidth 6 ++ bits 6 w 4

/-- R37, MTAP and LCFG: the 16-bit immediate. -/
def imm16 (w : Nat) (lend : Option (BitVec 9)) : BitVec 16 := lend.getD 0#9 ++ bits 7 w 0

def dSA (w : Nat) : OpSA := ⟨bits 4 w 22, bits 6 w 16, bits 6 w 10, bits 6 w 4⟩
def dSU (w : Nat) : OpSU := ⟨bits 4 w 22, bits 6 w 16, bits 6 w 10⟩
def dSQ (w : Nat) : OpSQ := ⟨bits 4 w 22, bits 6 w 16, bits 6 w 10⟩
def dSI (w : Nat) (l : Option (BitVec 9)) : OpSI := ⟨bits 4 w 22, bits 6 w 16, bits 6 w 10, immS w l⟩
def dShift (w : Nat) : OpShift := ⟨bits 4 w 22, bits 6 w 16, bits 6 w 10, bits 6 w 0⟩
def dSL (w : Nat) (l : Option (BitVec 9)) : OpSL := ⟨bits 4 w 22, bits 6 w 16, bits 6 w 10, bits 3 w 7, offL w l⟩
def dAtom (w : Nat) : OpAtom := ⟨bits 4 w 22, bits 6 w 16, bits 6 w 10, bits 6 w 4, bits 4 w 0⟩
def dLoop (w : Nat) (l : Option (BitVec 9)) : OpLoop := ⟨bits 6 w 16, bits 6 w 10, immZ w l⟩
def dGuard (w : Nat) : OpGuard := ⟨bits 4 w 22, bits 3 w 16, bits 3 w 10, bits 3 w 4⟩
def dG (w : Nat) : OpG := ⟨bits 4 w 22⟩
def dSJ (w : Nat) (l : Option (BitVec 9)) : OpSJ := ⟨bits 4 w 22, offJ w l⟩

/-- R56, OP 0x01. -/
def alu64 : Nat → OpSA → Instr
  | 0 => .add | 1 => .sub | 2 => .mul | 3 => .mulh | 4 => .mulhu | 5 => .div | 6 => .divu | 7 => .rem | 8 => .remu
  | 9 => .and | 10 => .or | 11 => .xor | 12 => .shl | 13 => .shr | 14 => .sar | _ => .rotr

/-- R56, OP 0x02. -/
def alu32 : Nat → OpSA → Instr
  | 0 => .addS32 | 1 => .subS32 | 2 => .mulS32 | 3 => .mulhS32 | 4 => .mulhuS32 | 5 => .divS32 | 6 => .divuS32
  | 7 => .remS32 | 8 => .remuS32 | 9 => .andS32 | 10 => .orS32 | 11 => .xorS32 | 12 => .shlS32 | 13 => .shrS32
  | 14 => .sarS32 | _ => .rotrS32

/-- R56, OP 0x03 (R204). -/
def decodeBit (w : Nat) : Decoded :=
  match fld w 0 4 with
  | 0 => .ok (.min (dSA w)) | 1 => .ok (.minu (dSA w)) | 2 => .ok (.max (dSA w)) | 3 => .ok (.maxu (dSA w))
  | 4 => require (fld w 4 6 == 0) (.clz (dSU w)) | 5 => require (fld w 4 6 == 0) (.ctz (dSU w))
  | 6 => require (fld w 4 6 == 0) (.popc (dSU w)) | 7 => require (fld w 4 6 == 0) (.bswap (dSU w))
  | 8 => .ok (.andn (dSA w)) | 9 => .ok (.orn (dSA w))
  | _ => .error .illegalOpcode

/-- R209: three guards, each in the low three bits of its field, the destination not g0 (R63). -/
def guardOk (w : Nat) : Bool := fld w 19 3 == 0 && fld w 13 3 == 0 && fld w 7 3 == 0 && fld w 16 3 != 0

/-- R56, OP 0x06 (R209). -/
def decodeGuard (w : Nat) : Decoded :=
  match fld w 0 4 with
  | 0 => require (guardOk w) (.gand (dGuard w)) | 1 => require (guardOk w) (.gor (dGuard w))
  | 2 => require (guardOk w) (.gxor (dGuard w)) | 3 => require (guardOk w) (.gandn (dGuard w))
  | 4 => require (fld w 19 3 == 0 && fld w 4 6 == 0 && fld w 16 3 != 0)
      (.gset ⟨bits 4 w 22, bits 3 w 16, bits 6 w 10⟩)
  | 5 => require (fld w 13 3 == 0 && fld w 4 6 == 0) (.gget ⟨bits 4 w 22, bits 6 w 16, bits 3 w 10⟩)
  | _ => .error .illegalOpcode

/-- R56, OP 0x19 (R368). -/
def decodeQueue (w : Nat) : Decoded :=
  match fld w 6 4 with
  | 0 => require (fld w 0 6 == 0) (.qinit (dSQ w)) | 1 => require (fld w 0 6 == 0) (.enq (dSQ w))
  | 2 => require (fld w 0 6 == 0) (.deq (dSQ w))
  | 3 => require (fld w 0 3 == 0 && fld w 3 3 != 0) (.enqn ⟨bits 4 w 22, bits 6 w 16, bits 6 w 10, bits 3 w 3⟩)
  | 4 => require (fld w 0 3 == 0 && fld w 3 3 != 0) (.deqn ⟨bits 4 w 22, bits 6 w 16, bits 6 w 10, bits 3 w 3⟩)
  | 5 => require (fld w 0 6 == 0) (.qpeek (dSQ w)) | 6 => require (fld w 0 6 == 0) (.qstat (dSQ w))
  | 7 => require (fld w 0 6 == 0 && fld w 10 6 == 0) (.qclose ⟨bits 4 w 22, bits 6 w 16⟩)
  | 8 => require (fld w 0 6 == 0) (.rwopen (dSQ w)) | 9 => require (fld w 0 6 == 0) (.rwclose (dSQ w))
  | _ => .error .illegalOpcode

/-- R214: FENCE, FWAIT, DRAIN. -/
def decodeOrder (w : Nat) : Decoded :=
  match fld w 8 2 with
  | 0 => if fld w 5 3 < 5
      then require (fld w 0 5 == 0 && fld w 10 6 == 0) (.fence ⟨bits 4 w 22, bits 6 w 16, bits 3 w 5⟩)
      else .error .illegalOpcode
  | 1 => if fld w 5 3 < 5
      then require (fld w 0 8 == 0 && fld w 10 6 == 0) (.fwait ⟨bits 4 w 22, bits 6 w 16⟩)
      else .error .illegalOpcode
  | 2 => if fld w 5 3 < 5
      then require (fld w 0 5 == 0 && fld w 10 12 == 0) (.drain ⟨bits 4 w 22, bits 3 w 5⟩)
      else .error .illegalOpcode
  | _ => .error .illegalOpcode

/-- R169: LNSET. -/
def decodeLnset (w : Nat) : Decoded :=
  if fld w 7 3 < 6 then
    match fld w 5 2 with
    | 0 => require (fld w 0 5 == 0 && fld w 10 6 == 0) (.lnsetBound ⟨bits 4 w 22, bits 6 w 16, bits 3 w 7⟩)
    | 1 => require (fld w 10 6 == 0)
        (.lnsetBind ⟨bits 4 w 22, bits 6 w 16, bits 3 w 7, bits 4 w 1, flag w 0⟩)
    | 2 => require (fld w 0 5 == 0 && fld w 10 12 == 0) (.lnsetClear ⟨bits 4 w 22, bits 3 w 7⟩)
    | _ => .error .illegalOpcode
  else .error .illegalOpcode

/-- R431: the launch instructions. -/
def decodeLaunch (w : Nat) : Decoded :=
  match fld w 6 4 with
  | 0 => require (fld w 0 6 == 0) (.launch (dSQ w))
  | 1 => require (fld w 0 6 == 0 && fld w 16 6 == 0) (.chwait ⟨bits 4 w 22, bits 6 w 10⟩)
  | 2 => require (fld w 0 6 == 0) (.preempt (dSQ w)) | 3 => require (fld w 0 6 == 0) (.resume (dSQ w))
  | 4 => require (fld w 0 6 == 0) (.emrd (dSQ w)) | 5 => require (fld w 0 6 == 0) (.digest (dSQ w))
  | 6 => require (fld w 0 6 == 0 && fld w 10 6 == 0) (.sleep ⟨bits 4 w 22, bits 6 w 16⟩)
  | _ => .error .illegalOpcode

/-- R415: the link instructions. -/
def decodeLink (w : Nat) : Decoded :=
  match fld w 6 4 with
  | 0 => require (fld w 0 6 == 0) (.linkst (dSQ w))
  | 1 => require (fld w 0 6 == 0) (.lnkcfg (dSQ w))
  | 2 => require (fld w 0 6 == 0) (.talign (dSQ w))
  | _ => .error .illegalOpcode

/-- R56: the S-slot opcode map. -/
def decodeS (w : Nat) (l : Option (BitVec 9)) : Decoded :=
  match fld w 26 6 with
  | 0x00 => noLend l (require (w == 0) .nop)
  | 0x01 => noLend l (.ok (alu64 (fld w 0 4) (dSA w)))
  | 0x02 => noLend l (.ok (alu32 (fld w 0 4) (dSA w)))
  | 0x03 => if fld w 0 4 < 10 then noLend l (decodeBit w) else .error .illegalOpcode
  | 0x04 => if fld w 0 4 < 10
      then noLend l (require (fld w 19 3 == 0 && fld w 16 3 != 0)
        (.cmp ⟨bits 4 w 22, bits 3 w 16, bits 6 w 10, bits 6 w 4, bits 4 w 0⟩))
      else .error .illegalOpcode
  | 0x05 => require (fld w 19 3 != 0) (.cmpi ⟨bits 4 w 22, bits 3 w 19, bits 3 w 16, bits 6 w 10, immS w l⟩)
  | 0x06 => if fld w 0 4 < 6 then noLend l (decodeGuard w) else .error .illegalOpcode
  | 0x07 => noLend l (.ok (.sel ⟨bits 4 w 22, bits 6 w 16, bits 6 w 10, bits 6 w 4, flag w 3, bits 3 w 0⟩))
  | 0x08 => .ok (.addi (dSI w l)) | 0x09 => .ok (.andi (dSI w l))
  | 0x0A => .ok (.ori (dSI w l)) | 0x0B => .ok (.xori (dSI w l))
  | 0x0C => zeroLend l (require (fld w 6 4 == 0) (.shli (dShift w)))
  | 0x0D => zeroLend l (require (fld w 6 4 == 0) (.shri (dShift w)))
  | 0x0E => zeroLend l (require (fld w 6 4 == 0) (.sari (dShift w)))
  | 0x0F => .ok (.muli (dSI w l))
  | 0x10 => require (fld w 10 6 == 0) (.movi ⟨bits 4 w 22, bits 6 w 16, immS w l⟩)
  | 0x11 => .ok (.movh (dSI w l))
  | 0x12 => require (fld w 7 3 != 7) (.ld (dSL w l))
  | 0x13 => require (fld w 7 3 != 7 && fld w 7 1 == 0) (.st (dSL w l))
  | 0x14 => require (fld w 7 3 != 7) (.ldacq (dSL w l))
  | 0x15 => require (fld w 7 3 != 7 && fld w 7 1 == 0) (.strel (dSL w l))
  | 0x16 => if fld w 0 4 < 10 then noLend l (.ok (.atom64 (dAtom w))) else .error .illegalOpcode
  | 0x17 => if fld w 0 4 < 13 then noLend l (.ok (.atom32 (dAtom w))) else .error .illegalOpcode
  | 0x18 => if fld w 1 3 < 4
      then noLend l (.ok (.atomn ⟨bits 4 w 22, bits 6 w 16, bits 6 w 10, bits 6 w 4, bits 3 w 1, flag w 0⟩))
      else .error .illegalOpcode
  | 0x19 => if fld w 6 4 < 10 then noLend l (decodeQueue w) else .error .illegalOpcode
  | 0x1A => if fld w 8 2 < 3 && fld w 5 3 < 5 then noLend l (decodeOrder w) else .error .illegalOpcode
  | 0x1B => noLend l (require (fld w 5 17 == 0 && fld w 0 5 != 0) (.join ⟨bits 4 w 22, bits 5 w 0⟩))
  | 0x1C => noLend l (require (fld w 20 2 == 0 && fld w 0 10 == 0) (.xset ⟨bits 4 w 22, bits 4 w 16, bits 6 w 10⟩))
  | 0x1D => require (fld w 20 2 == 0 && fld w 10 6 == 0) (.xadd ⟨bits 4 w 22, bits 4 w 16, immS w l⟩)
  | 0x1E => noLend l (require (fld w 3 13 == 0 && fld w 0 3 != 0) (.view ⟨bits 4 w 22, bits 6 w 16, bits 3 w 0⟩))
  | 0x1F => if fld w 7 3 < 6 && fld w 0 5 < 10
      then noLend l (require (fld w 10 6 == 0)
        (.shw ⟨bits 4 w 22, bits 6 w 16, bits 3 w 7, bits 2 w 5, bits 5 w 0⟩))
      else .error .illegalOpcode
  | 0x20 => noLend l (require (fld w 20 2 == 0 && fld w 10 6 == 0) (.slk ⟨bits 4 w 22, bits 4 w 16, bits 10 w 0⟩))
  | 0x21 => require (fld w 10 6 == 0) (.mfc ⟨bits 4 w 22, bits 6 w 16, immZ w l⟩)
  | 0x22 => require (fld w 16 6 == 0) (.mtc ⟨bits 4 w 22, bits 6 w 10, immZ w l⟩)
  | 0x23 => .ok (.br (dSJ w l)) | 0x24 => .ok (.jmp (dSJ w l))
  | 0x25 => noLend l (require (fld w 16 6 == 0 && fld w 0 10 == 0) (.jmpi ⟨bits 4 w 22, bits 6 w 10⟩))
  | 0x26 => .ok (.call (dSJ w l))
  | 0x27 => noLend l (require (fld w 0 22 == 0) (.ret (dG w)))
  | 0x28 => require (fld w 22 4 == 0 && (immZ w l == 0#19 || fld w 10 6 == 0)) (.loop (dLoop w l))
  | 0x29 => if fld w 7 3 < 6 && fld w 5 2 < 3 then noLend l (decodeLnset w) else .error .illegalOpcode
  | 0x2A => if fld w 19 3 < 6
      then noLend l (require (fld w 22 4 == 0) (.loopn ⟨bits 3 w 19, bits 19 w 0⟩))
      else .error .illegalOpcode
  | 0x2B => require (fld w 22 4 == 0 && (immZ w l == 0#19 || fld w 10 6 == 0)) (.rpt (dLoop w l))
  | 0x2C => require (fld w 10 16 == 0) (.margin ⟨immZ w l⟩)
  | 0x2D => noLend l (require (fld w 10 16 == 0)
      (if flag w 9 then .segClose ⟨bits 9 w 0⟩ else .segOpen ⟨bits 9 w 0⟩))
  | 0x2E => .ok (.cont (dSJ w l))
  | 0x2F => noLend l (require (fld w 0 22 == 0) (.endcont (dG w)))
  | 0x30 => require (fld w 10 12 == 0) (.trap ⟨bits 4 w 22, immZ w l⟩)
  | 0x31 => noLend l (require (fld w 0 22 == 0) (.tret (dG w)))
  | 0x32 => noLend l (require (fld w 0 22 == 0) (.halt (dG w)))
  | 0x33 => noLend l (require (fld w 0 22 == 0) (.yield (dG w)))
  | 0x34 => zeroLend l (require (fld w 4 12 == 0) (.waitev ⟨bits 4 w 22, bits 6 w 16, bits 4 w 0⟩))
  | 0x35 => zeroLend l (require (fld w 6 16 == 0) (.gate ⟨bits 4 w 22, bits 6 w 0⟩))
  | 0x36 => noLend l (require (fld w 16 6 == 0 && fld w 0 10 == 0) (.ctxsv ⟨bits 4 w 22, bits 6 w 10⟩))
  | 0x37 => noLend l (require (fld w 16 6 == 0 && fld w 0 10 == 0) (.ctxld ⟨bits 4 w 22, bits 6 w 10⟩))
  | 0x38 => if fld w 10 3 < 5
      then zeroLend l (require (fld w 13 3 == 0 && fld w 8 2 == 0)
        (.bwait ⟨bits 4 w 22, bits 6 w 16, bits 3 w 10, bits 8 w 0⟩))
      else .error .illegalOpcode
  | 0x39 => zeroLend l (require (fld w 16 6 == 0 && fld w 6 4 == 0 && (!flag w 5 || fld w 10 6 == 0))
      (if flag w 5 then .wmwaitAll ⟨bits 4 w 22, bits 5 w 0⟩ else .wmwait ⟨bits 4 w 22, bits 6 w 10, bits 5 w 0⟩))
  | 0x3A => if fld w 6 4 < 7 then noLend l (decodeLaunch w) else .error .illegalOpcode
  | 0x3B => if fld w 6 4 < 3 then noLend l (decodeLink w) else .error .illegalOpcode
  | _ => .error .illegalOpcode

def dVA (w : Nat) (l : Option (BitVec 9)) : OpVA :=
  ⟨bits 4 w 22, vreg w 16 l 6, vreg w 10 l 3, vreg w 4 l 0, bits 2 w 2, flag w 1⟩
def dVU (w : Nat) (l : Option (BitVec 9)) : OpVU :=
  ⟨bits 4 w 22, vreg w 16 l 6, vreg w 10 l 3, bits 2 w 2, flag w 1⟩

/-- Format VA with three vector registers: bit 0 is reserved (R53). -/
def decVA (f : OpVA → Instr) (w : Nat) (l : Option (BitVec 9)) : Decoded :=
  require (fld w 0 1 == 0) (f (dVA w l))

/-- Format VA without a b operand: the b field and its lent bits are zero. -/
def decVU (f : OpVU → Instr) (w : Nat) (l : Option (BitVec 9)) : Decoded :=
  maskLend 0x007#9 l (require (fld w 0 1 == 0 && fld w 4 6 == 0) (f (dVU w l)))

def dVM (w : Nat) (l : Option (BitVec 9)) : OpVM :=
  ⟨bits 4 w 22, vreg w 16 l 6, bits 6 w 10, offV w l, bits 2 w 2, flag w 1, flag w 0⟩
def dVX (w : Nat) (l : Option (BitVec 9)) : OpVX :=
  ⟨bits 4 w 22, vreg w 16 l 6, bits 6 w 10, vreg w 4 l 0, bits 2 w 2, flag w 1, flag w 0⟩

/-- R53: the base field of format VM. -/
def vmOk (w : Nat) : Bool := !flag w 0 || fld w 14 2 == 0

/-- R57: the V-slot opcode map. CUPSEED has no operand that a lend widens, so a lend to it, of zero bits or not, is refused
(R37; DESIGN CHOICE, log entry 46). -/
def decodeV (w : Nat) (l : Option (BitVec 9)) : Decoded :=
  match fld w 26 6 with
  | 0x00 => noLend l (require (w == 0) .nop)
  | 0x01 => decVA .vadd w l | 0x02 => decVA .vsub w l | 0x03 => decVA .vmul w l | 0x04 => decVA .vfma w l
  | 0x05 => decVA .vmin w l | 0x06 => decVA .vmax w l | 0x07 => decVU .vabs w l | 0x08 => decVU .vneg w l
  | 0x09 => decVA .vdiv w l | 0x0A => decVU .vsqrt w l | 0x0B => decVU .vrcp w l | 0x0C => decVU .vrsq w l
  | 0x0D => decVU .vexp2 w l | 0x0E => decVU .vlog2 w l
  | 0x0F => maskLend 0x1C0#9 l (require (fld w 0 1 == 0 && fld w 16 3 != 0)
      (.vcmp ⟨bits 4 w 22, bits 3 w 19, bits 3 w 16, vreg w 10 l 3, vreg w 4 l 0, bits 2 w 2, flag w 1⟩))
  | 0x10 => decVA .vsel w l
  | 0x11 => decVA .vand w l | 0x12 => decVA .vor w l | 0x13 => decVA .vxor w l | 0x14 => decVU .vnot w l
  | 0x15 => decVA .vshl w l | 0x16 => decVA .vshr w l | 0x17 => decVA .vsar w l
  | 0x18 => decVU .vcvt w l | 0x19 => decVA .vpack w l
  | 0x1A => maskLend 0x007#9 l (require (fld w 0 1 == 0 && fld w 6 4 == 0)
      (.vunpk ⟨bits 4 w 22, vreg w 16 l 6, vreg w 10 l 3, bits 2 w 4, bits 2 w 2, flag w 1⟩))
  | 0x1B => decVA .vperm w l
  | 0x1C => if flag w 9
      then maskLend 0x03F#9 l (require (fld w 0 1 == 0 && fld w 4 5 == 0)
        (.vbcstScalar ⟨bits 4 w 22, vreg w 16 l 6, bits 6 w 10, bits 2 w 2, flag w 1⟩))
      else maskLend 0x007#9 l (require (fld w 0 1 == 0)
        (.vbcstLane ⟨bits 4 w 22, vreg w 16 l 6, vreg w 10 l 3, bits 5 w 4, bits 2 w 2, flag w 1⟩))
  | 0x1D => if fld w 4 3 < 3
      then maskLend 0x007#9 l (require (fld w 0 1 == 0)
        (.vred ⟨bits 4 w 22, vreg w 16 l 6, vreg w 10 l 3, bits 3 w 7, bits 3 w 4, bits 2 w 2, flag w 1⟩))
      else .error .illegalOpcode
  | 0x1E => decVA .vcadd w l | 0x1F => decVU .vcacc w l | 0x20 => decVA .vfade w l | 0x21 => decVA .vqdeq w l
  | 0x22 => decVU .xmov w l | 0x23 => decVU .vmov w l
  | 0x24 => noLend l (require (fld w 0 10 == 0 && fld w 16 6 == 0) (.cupseed ⟨bits 4 w 22, bits 6 w 10⟩))
  | 0x25 => maskLend 0x03F#9 l (require (fld w 0 16 == 0) (.cupstat ⟨bits 4 w 22, vreg w 16 l 6⟩))
  | 0x28 => require (vmOk w) (.vld (dVM w l))
  | 0x29 => require (vmOk w) (.vst (dVM w l))
  | 0x2A => maskLend 0x038#9 l (require (vmOk w) (.vgth (dVX w l)))
  | 0x2B => maskLend 0x038#9 l (require (vmOk w) (.vsct (dVX w l)))
  | 0x2C => if (lend3 l).toNat < 7
      then .ok (.vatom ⟨bits 4 w 22, vreg w 16 l 6, bits 6 w 10, vreg w 4 l 0, lend3 l, bits 2 w 2, flag w 1, flag w 0⟩)
      else .error .illegalOpcode
  | _ => .error .illegalOpcode
where
  /-- R378: the operation of VATOM. -/
  lend3 (l : Option (BitVec 9)) : BitVec 3 := (l.getD 0#9).extractLsb' 3 3

def dMma (w : Nat) : OpMma := ⟨bits 4 w 22, bits 3 w 19, bits 4 w 15, bits 2 w 9, flag w 8, flag w 7, bits 5 w 2⟩

/-- R59 and R294: the M-slot opcode map. -/
def decodeM (w : Nat) (l : Option (BitVec 9)) : Decoded :=
  match fld w 26 6 with
  | 0 => noLend l (require (w == 0) .nop)
  | 1 => noLend l (require (fld w 15 7 == 0 && fld w 0 7 == 0)
      (.mbld ⟨bits 4 w 22, bits 4 w 11, bits 2 w 9, flag w 8, flag w 7⟩))
  | 2 => noLend l (require (fld w 0 22 == 0) (.mbsw (dG w)))
  | 3 => noLend l (require (fld w 11 4 == 0 && fld w 0 2 == 0) (.mma (dMma w)))
  | 4 => noLend l (require (fld w 11 4 == 0 && fld w 0 2 == 0) (.mmaz (dMma w)))
  | 5 => noLend l (require (fld w 11 8 == 0 && fld w 7 1 == 0)
      (.mscl ⟨bits 4 w 22, bits 3 w 19, bits 2 w 9, flag w 8, bits 5 w 2, bits 2 w 0⟩))
  | 6 => noLend l (require (fld w 18 1 == 0 && fld w 11 4 == 0 && fld w 7 1 == 0 && fld w 1 1 == 0)
      (.macc ⟨bits 4 w 22, bits 3 w 19, bits 3 w 15, bits 2 w 9, flag w 8, bits 5 w 2, flag w 0⟩))
  | 7 => noLend l (require (fld w 11 8 == 0 && fld w 7 1 == 0 && fld w 0 2 == 0)
      (.mzero ⟨bits 4 w 22, bits 3 w 19, bits 2 w 9, flag w 8, bits 5 w 2⟩))
  | 8 => noLend l (require (fld w 11 4 == 0 && fld w 0 2 == 0) (.mout (dMma w)))
  | 9 => .ok (.mtap ⟨bits 4 w 22, bits 3 w 19, bits 4 w 15, bits 4 w 11, bits 2 w 9, flag w 8, flag w 7, imm16 w l⟩)
  | _ => .error .illegalOpcode

/-- R318: LCFG, its operation in the two high bits of the immediate. -/
def decodeLcfg (w : Nat) (i : BitVec 16) : Decoded :=
  match fld i.toNat 14 2 with
  | 0 => require (fld w 19 3 == 0 && fld w 15 4 == 0 && fld w 11 4 == 0 && fld w 7 1 == 0
        && fld i.toNat 10 4 == 0 && decide (fld i.toNat 0 3 < 5) && decide (fld i.toNat 8 2 < 3))
      (.lcfgSet ⟨bits 4 w 22, bits 2 w 9, flag w 8, bits 3 i.toNat 0, bits 5 i.toNat 3, bits 2 i.toNat 8⟩)
  | 1 => require (fld w 11 4 == 0 && fld i.toNat 0 14 == 0)
      (.lcfgLoad ⟨bits 4 w 22, bits 3 w 19, bits 4 w 15, bits 2 w 9, flag w 8, flag w 7⟩)
  | 2 => require (fld w 15 4 == 0 && fld i.toNat 0 14 == 0)
      (.lcfgSave ⟨bits 4 w 22, bits 3 w 19, bits 4 w 11, bits 2 w 9, flag w 8, flag w 7⟩)
  | _ => require (fld w 15 4 == 0 && fld w 11 4 == 0 && fld w 7 1 == 0 && fld i.toNat 0 14 == 0)
      (.lcfgClear ⟨bits 4 w 22, bits 3 w 19, bits 2 w 9, flag w 8⟩)

def dScan (w : Nat) : OpScan :=
  ⟨bits 4 w 22, bits 3 w 19, bits 4 w 15, bits 4 w 11, bits 2 w 9, flag w 8, flag w 7, flag w 0⟩

/-- R59 and R316: the N-slot opcode map. -/
def decodeN (w : Nat) (l : Option (BitVec 9)) : Decoded :=
  match fld w 26 6 with
  | 0 => noLend l (require (w == 0) .nop)
  | 1 => decodeLcfg w (imm16 w l)
  | 2 => noLend l (require (fld w 1 6 == 0) (.lscan (dScan w)))
  | 3 => noLend l (require (fld w 1 6 == 0) (.lscanc (dScan w)))
  | 4 => noLend l (require (fld w 19 3 == 0 && fld w 0 7 == 0)
      (.lgate ⟨bits 4 w 22, bits 4 w 15, bits 4 w 11, bits 2 w 9, flag w 8, flag w 7⟩))
  | 5 => noLend l (require (fld w 5 2 == 0)
      (.lmat ⟨bits 4 w 22, bits 3 w 19, bits 4 w 15, bits 4 w 11, bits 2 w 9, flag w 8, flag w 7, bits 5 w 0⟩))
  | _ => .error .illegalOpcode

/-- R37 and R55: the barrier of a copy, and whether the lend is one that R37 admits. -/
def copyLend (w : Nat) (l : Option (BitVec 9)) (r : Decoded) : Decoded :=
  match l with
  | none => r
  | some b => if flag w 1 && b.getMsbD 0 == false then r else .error .illegalLend

/-- R258: the barrier that counts the arriving bytes. -/
def copyCnt (w : Nat) (l : Option (BitVec 9)) (ch : BitVec 5) : Option (BitVec 8) :=
  if flag w 1 then some (match l with | none => ch.setWidth 8 | some b => b.setWidth 8) else none

/-- R258, R341: CPYH, CPYR and HPMAP have no barrier of their own, so counting requires a lend. -/
def lendIfCounts (w : Nat) (l : Option (BitVec 9)) : Bool := !flag w 1 || l.isSome

def dCpy (w : Nat) (l : Option (BitVec 9)) : OpCpy :=
  ⟨bits 4 w 22, bits 5 w 17, bits 4 w 13, bits 4 w 9, bits 2 w 7, flag w 6, bits 2 w 4, bits 2 w 2,
    copyCnt w l (bits 5 w 17), flag w 0⟩
def dCpym (w : Nat) (l : Option (BitVec 9)) : OpCpym :=
  ⟨bits 4 w 22, bits 5 w 17, bits 4 w 13, bits 4 w 9, bits 2 w 7, flag w 6, bits 2 w 4, copyCnt w l (bits 5 w 17)⟩
def dBar (w : Nat) : OpBar := ⟨bits 4 w 22, bits 8 w 14, bits 3 w 11, bits 4 w 7⟩
def dFr2 (w : Nat) : OpFr2 := ⟨bits 4 w 22, bits 4 w 13, bits 4 w 9⟩

/-- R60, R257, R276 and R341: the C-slot opcode map. -/
def decodeC (w : Nat) (l : Option (BitVec 9)) : Decoded :=
  match fld w 26 6 with
  | 0x00 => noLend l (require (w == 0) .nop)
  | 0x01 => copyLend w l (.ok (.cpy (dCpy w l)))
  | 0x02 => copyLend w l (require (fld w 21 1 == 0 && fld w 0 1 == 0 && lendIfCounts w l)
      (.cpyh ⟨bits 4 w 22, bits 4 w 17, bits 4 w 13, bits 4 w 9, bits 2 w 7, flag w 6, bits 2 w 4, bits 2 w 2,
        copyCnt w l 0#5⟩))
  | 0x03 => copyLend w l (require (fld w 2 2 == 2 && fld w 0 1 == 0) (.cpym (dCpym w l)))
  | 0x04 => if fld w 19 3 < 5
      then copyLend w l (require (fld w 17 2 == 0 && (fld w 4 2 == 1 || fld w 4 2 == 3) && fld w 2 2 == 0
          && fld w 0 1 == 0 && lendIfCounts w l)
        (.cpyr ⟨bits 4 w 22, bits 3 w 19, bits 4 w 13, bits 4 w 9, bits 2 w 7, flag w 6, bits 2 w 4, copyCnt w l 0#5⟩))
      else .error .illegalOpcode
  | 0x05 => copyLend w l (require (fld w 4 2 != 3) (.cpyg (dCpy w l)))
  | 0x06 => copyLend w l (require (fld w 2 2 == 0 && fld w 0 1 == 0) (.cpyd (dCpym w l)))
  | 0x07 => noLend l (require (fld w 4 5 == 0 && fld w 0 2 == 0)
      (.wmark ⟨bits 4 w 22, bits 5 w 17, bits 4 w 13, bits 4 w 9, bits 2 w 2⟩))
  | 0x08 => if fld w 11 3 < 5 then noLend l (require (fld w 0 7 == 0) (.binit (dBar w))) else .error .illegalOpcode
  | 0x09 => if fld w 11 3 < 5
      then noLend l (require (fld w 0 11 == 0) (.arrive ⟨bits 4 w 22, bits 8 w 14, bits 3 w 11⟩))
      else .error .illegalOpcode
  | 0x0A => if fld w 11 3 < 5 then noLend l (require (fld w 0 7 == 0) (.badd (dBar w))) else .error .illegalOpcode
  | 0x10 => noLend l (require (fld w 17 5 == 0 && fld w 8 5 == 0 && fld w 0 7 == 0)
      (.frld ⟨bits 4 w 22, bits 4 w 13, flag w 7⟩))
  | 0x11 => noLend l (require (fld w 8 14 == 0 && fld w 0 7 == 0) (.frst ⟨bits 4 w 22, flag w 7⟩))
  | 0x12 => noLend l (require (fld w 17 5 == 0 && fld w 8 1 == 0 && fld w 0 7 == 0)
      (.frsw ⟨bits 4 w 22, bits 4 w 13, bits 4 w 9, flag w 7⟩))
  | 0x13 => noLend l (require (fld w 17 5 == 0 && fld w 0 9 == 0) (.snap (dFr2 w)))
  | 0x14 => noLend l (require (fld w 17 5 == 0 && fld w 0 9 == 0) (.fork (dFr2 w)))
  | 0x15 => noLend l (require (fld w 17 5 == 0 && fld w 8 1 == 0 && fld w 0 7 == 0)
      (.rback ⟨bits 4 w 22, bits 4 w 13, bits 4 w 9, flag w 7⟩))
  | 0x16 => noLend l (require (fld w 17 5 == 0 && fld w 0 13 == 0) (.frel ⟨bits 4 w 22, bits 4 w 13⟩))
  | 0x17 => noLend l (require (fld w 17 5 == 0 && fld w 0 9 == 0) (.hpapp (dFr2 w)))
  | 0x18 => copyLend w l (require (fld w 2 7 == 0 && fld w 0 1 == 0 && lendIfCounts w l)
      (.hpmap ⟨bits 4 w 22, bits 5 w 17, bits 4 w 13, bits 4 w 9, copyCnt w l 0#5⟩))
  | 0x19 => noLend l (require (fld w 17 5 == 0 && fld w 0 9 == 0) (.frstat (dFr2 w)))
  | _ => .error .illegalOpcode

/-- A word in a slot of a class. -/
def decodeSlot (k : SlotClass) (w : Word32) (l : Option (BitVec 9)) : Decoded :=
  match k with
  | .s => decodeS w.toNat l
  | .v => decodeV w.toNat l
  | .m => decodeM w.toNat l
  | .n => decodeN w.toNat l
  | .c => decodeC w.toNat l

/-- What a word means where it is met with no lend: the classes tried in the order S, V, M, N, C (the same bits
mean one instruction in each class; log entry 6). -/
def decodeAny (w : Word32) : Option (SlotClass × Instr) :=
  let hit (k : SlotClass) : Option (SlotClass × Instr) := (decodeSlot k w none).toOption.map (k, ·)
  (hit .s <|> hit .v) <|> (hit .m <|> (hit .n <|> hit .c))

/-- The decoder as the host asks it: a 32-bit slot word, in the first slot class whose map holds it. -/
def decodeTableWord (nbits w : Nat) : Option Instr :=
  if nbits == 32 then (decodeAny (BitVec.ofNat 32 w)).map (·.2) else none

/-- The words that stand for an instruction: its slot word, and the bits its bundle lends it, if it needs any. -/
structure EncWord where
  word : Nat
  lend : Option (BitVec 9)
  deriving DecidableEq, Repr

/-- A word of 6-bit opcode, guard and operand bits. -/
def wordOf (op : Nat) (g : BitVec 4) (rest : Nat) : Nat := op * 2 ^ 26 + g.toNat * 2 ^ 22 + rest

def plain (op : Nat) (g : BitVec 4) (rest : Nat) : EncWord := ⟨wordOf op g rest, none⟩

def boolBit (b : Bool) : Nat := if b then 1 else 0

def encSA (op fn : Nat) (o : OpSA) : EncWord :=
  plain op o.g (o.d.toNat * 2 ^ 16 + o.a.toNat * 2 ^ 10 + o.b.toNat * 2 ^ 4 + fn)
def encSU (op fn : Nat) (o : OpSU) : EncWord := plain op o.g (o.d.toNat * 2 ^ 16 + o.a.toNat * 2 ^ 10 + fn)
def encSQ (op sub : Nat) (o : OpSQ) : EncWord := plain op o.g (o.p.toNat * 2 ^ 16 + o.q.toNat * 2 ^ 10 + sub)
def encGuard (fn : Nat) (o : OpGuard) : EncWord :=
  plain 0x06 o.g (o.d.toNat * 2 ^ 16 + o.a.toNat * 2 ^ 10 + o.b.toNat * 2 ^ 4 + fn)

/-- A lend is added only when the unlent field would not give the value back. -/
def lendS {n : Nat} (k : Nat) (v : BitVec n) : Option (BitVec 9) :=
  if (v.setWidth k).signExtend n = v then none else some (v.extractLsb' k 9)

/-- The same for a zero-extended field. -/
def lendZ {n : Nat} (k : Nat) (v : BitVec n) : Option (BitVec 9) :=
  if v.toNat < 2 ^ k then none else some (v.extractLsb' k 9)

def encSI (op : Nat) (o : OpSI) : EncWord :=
  ⟨wordOf op o.g (o.d.toNat * 2 ^ 16 + o.a.toNat * 2 ^ 10 + o.imm.toNat % 2 ^ 10), lendS 10 o.imm⟩
def encShift (op : Nat) (o : OpShift) : EncWord :=
  plain op o.g (o.d.toNat * 2 ^ 16 + o.a.toNat * 2 ^ 10 + o.k.toNat)
def encSL (op : Nat) (o : OpSL) : EncWord :=
  ⟨wordOf op o.g (o.r.toNat * 2 ^ 16 + o.base.toNat * 2 ^ 10 + o.ty.toNat * 2 ^ 7 + o.off.toNat % 2 ^ 7), lendS 7 o.off⟩
def encAtom (op : Nat) (o : OpAtom) : EncWord :=
  plain op o.g (o.d.toNat * 2 ^ 16 + o.a.toNat * 2 ^ 10 + o.b.toNat * 2 ^ 4 + o.f.toNat)
def encSJ (op : Nat) (o : OpSJ) : EncWord := ⟨wordOf op o.g (o.off.toNat % 2 ^ 22), lendS 22 o.off⟩
def encLoop (op : Nat) (o : OpLoop) : EncWord :=
  ⟨wordOf op 0#4 (o.l.toNat * 2 ^ 16 + o.a.toNat * 2 ^ 10 + o.n.toNat % 2 ^ 10), lendZ 10 o.n⟩

/-- The three lent bits of each vector register, added when any is not zero. -/
def lendV (d a b : BitVec 3) : Option (BitVec 9) :=
  let l : BitVec 9 := (d ++ a ++ b).cast (by decide)
  if l = 0#9 then none else some l

def hi3 (r : BitVec 9) : BitVec 3 := r.extractLsb' 6 3
def lo6 (r : BitVec 9) : Nat := r.toNat % 2 ^ 6
def shSwap (sh : BitVec 2) (swap : Bool) : Nat := sh.toNat * 2 ^ 2 + boolBit swap * 2

def encVA (op : Nat) (o : OpVA) : EncWord :=
  ⟨wordOf op o.g (lo6 o.d * 2 ^ 16 + lo6 o.a * 2 ^ 10 + lo6 o.b * 2 ^ 4 + shSwap o.sh o.swap),
    lendV (hi3 o.d) (hi3 o.a) (hi3 o.b)⟩
def encVU (op : Nat) (o : OpVU) : EncWord :=
  ⟨wordOf op o.g (lo6 o.d * 2 ^ 16 + lo6 o.a * 2 ^ 10 + shSwap o.sh o.swap), lendV (hi3 o.d) (hi3 o.a) 0#3⟩

/-- VLD and VST lend three bits of d and six of the offset. -/
def lendVM (o : OpVM) : Option (BitVec 9) :=
  if hi3 o.d = 0#3 ∧ (o.off.setWidth 6).signExtend 12 = o.off then none
  else some (hi3 o.d ++ o.off.extractLsb' 6 6)

def encVM (op : Nat) (o : OpVM) : EncWord :=
  ⟨wordOf op o.g (lo6 o.d * 2 ^ 16 + o.base.toNat * 2 ^ 10 + o.off.toNat % 2 ^ 6 * 2 ^ 4 + shSwap o.sh o.swap
    + boolBit o.mode), lendVM o⟩
def encVX (op : Nat) (o : OpVX) : EncWord :=
  ⟨wordOf op o.g (lo6 o.d * 2 ^ 16 + o.base.toNat * 2 ^ 10 + lo6 o.i * 2 ^ 4 + shSwap o.sh o.swap + boolBit o.mode),
    lendV (hi3 o.d) 0#3 (hi3 o.i)⟩

def mShape (sh : BitVec 2) (swap pi : Bool) : Nat := sh.toNat * 2 ^ 9 + boolBit swap * 2 ^ 8 + boolBit pi * 2 ^ 7

def encMma (op : Nat) (o : OpMma) : EncWord :=
  plain op o.g (o.acc.toNat * 2 ^ 19 + o.xa.toNat * 2 ^ 15 + mShape o.sh o.swap o.pi + o.r0.toNat * 2 ^ 2)

/-- MTAP and LCFG: the high nine bits of the immediate are lent when any is not zero. -/
def lend16 (i : BitVec 16) : Option (BitVec 9) := lendZ 7 i

def encScan (op : Nat) (o : OpScan) : EncWord :=
  plain op o.g (o.k.toNat * 2 ^ 19 + o.xa.toNat * 2 ^ 15 + o.xb.toNat * 2 ^ 11 + mShape o.sh o.swap o.pi + boolBit o.z)

/-- The immediate of LCFG.set (R318). -/
def lcfgImm (o : OpLcfgSet) : Nat := o.out.toNat * 2 ^ 8 + o.lanes.toNat * 2 ^ 3 + o.cc.toNat

/-- R258: a barrier that is not channel ch's own is lent. -/
def lendCnt (ch : BitVec 5) (cnt : Option (BitVec 8)) : Option (BitVec 9) :=
  match cnt with
  | none => none
  | some b => if ch.setWidth 8 = b then none else some (b.setWidth 9)

/-- CPYH, CPYR and HPMAP always lend the barrier. -/
def lendBar (cnt : Option (BitVec 8)) : Option (BitVec 9) := cnt.map (·.setWidth 9)

def cShape (sh : BitVec 2) (swap : Bool) : Nat := sh.toNat * 2 ^ 7 + boolBit swap * 2 ^ 6
def xPair (xs xd : BitVec 4) : Nat := xs.toNat * 2 ^ 13 + xd.toNat * 2 ^ 9

def encCpy (op : Nat) (o : OpCpy) : EncWord :=
  ⟨wordOf op o.g (o.ch.toNat * 2 ^ 17 + xPair o.xs o.xd + cShape o.sh o.swap + o.ssp.toNat * 2 ^ 4 + o.dsp.toNat * 2 ^ 2
    + boolBit o.cnt.isSome * 2 + boolBit o.w), lendCnt o.ch o.cnt⟩
def encCpym (op dsp : Nat) (o : OpCpym) : EncWord :=
  ⟨wordOf op o.g (o.ch.toNat * 2 ^ 17 + xPair o.xs o.xd + cShape o.sh o.swap + o.ssp.toNat * 2 ^ 4 + dsp * 2 ^ 2
    + boolBit o.cnt.isSome * 2), lendCnt o.ch o.cnt⟩
def encBar (op : Nat) (o : OpBar) : EncWord :=
  plain op o.g (o.b.toNat * 2 ^ 14 + o.who.toNat * 2 ^ 11 + o.k.toNat * 2 ^ 7)
def encFr2 (op : Nat) (o : OpFr2) : EncWord := plain op o.g (xPair o.xf o.xo)

/-- The word of a slot instruction, from R51 to R60 and the encoding tables of the engines' chapters; none for an
event. -/
def encode : Instr → Option EncWord
  | .nop => some ⟨0, none⟩
  | .add o => some (encSA 1 0 o) | .sub o => some (encSA 1 1 o) | .mul o => some (encSA 1 2 o)
  | .mulh o => some (encSA 1 3 o) | .mulhu o => some (encSA 1 4 o) | .div o => some (encSA 1 5 o)
  | .divu o => some (encSA 1 6 o) | .rem o => some (encSA 1 7 o) | .remu o => some (encSA 1 8 o)
  | .and o => some (encSA 1 9 o) | .or o => some (encSA 1 10 o) | .xor o => some (encSA 1 11 o)
  | .shl o => some (encSA 1 12 o) | .shr o => some (encSA 1 13 o) | .sar o => some (encSA 1 14 o)
  | .rotr o => some (encSA 1 15 o)
  | .addS32 o => some (encSA 2 0 o) | .subS32 o => some (encSA 2 1 o) | .mulS32 o => some (encSA 2 2 o)
  | .mulhS32 o => some (encSA 2 3 o) | .mulhuS32 o => some (encSA 2 4 o) | .divS32 o => some (encSA 2 5 o)
  | .divuS32 o => some (encSA 2 6 o) | .remS32 o => some (encSA 2 7 o) | .remuS32 o => some (encSA 2 8 o)
  | .andS32 o => some (encSA 2 9 o) | .orS32 o => some (encSA 2 10 o) | .xorS32 o => some (encSA 2 11 o)
  | .shlS32 o => some (encSA 2 12 o) | .shrS32 o => some (encSA 2 13 o) | .sarS32 o => some (encSA 2 14 o)
  | .rotrS32 o => some (encSA 2 15 o)
  | .min o => some (encSA 3 0 o) | .minu o => some (encSA 3 1 o) | .max o => some (encSA 3 2 o)
  | .maxu o => some (encSA 3 3 o) | .clz o => some (encSU 3 4 o) | .ctz o => some (encSU 3 5 o)
  | .popc o => some (encSU 3 6 o) | .bswap o => some (encSU 3 7 o) | .andn o => some (encSA 3 8 o)
  | .orn o => some (encSA 3 9 o)
  | .cmp o => some (plain 4 o.g (o.k.toNat * 2 ^ 16 + o.a.toNat * 2 ^ 10 + o.b.toNat * 2 ^ 4 + o.c.toNat))
  | .cmpi o => some ⟨wordOf 5 o.g (o.k.toNat * 2 ^ 19 + o.c.toNat * 2 ^ 16 + o.a.toNat * 2 ^ 10 + o.imm.toNat % 2 ^ 10),
      lendS 10 o.imm⟩
  | .gand o => some (encGuard 0 o) | .gor o => some (encGuard 1 o) | .gxor o => some (encGuard 2 o)
  | .gandn o => some (encGuard 3 o)
  | .gset o => some (plain 6 o.g (o.d.toNat * 2 ^ 16 + o.a.toNat * 2 ^ 10 + 4))
  | .gget o => some (plain 6 o.g (o.d.toNat * 2 ^ 16 + o.a.toNat * 2 ^ 10 + 5))
  | .sel o => some (plain 7 o.g (o.d.toNat * 2 ^ 16 + o.a.toNat * 2 ^ 10 + o.b.toNat * 2 ^ 4 + boolBit o.neg * 2 ^ 3
      + o.k.toNat))
  | .addi o => some (encSI 0x08 o) | .andi o => some (encSI 0x09 o) | .ori o => some (encSI 0x0A o)
  | .xori o => some (encSI 0x0B o)
  | .shli o => some (encShift 0x0C o) | .shri o => some (encShift 0x0D o) | .sari o => some (encShift 0x0E o)
  | .muli o => some (encSI 0x0F o)
  | .movi o => some ⟨wordOf 0x10 o.g (o.d.toNat * 2 ^ 16 + o.imm.toNat % 2 ^ 10), lendS 10 o.imm⟩
  | .movh o => some (encSI 0x11 o)
  | .ld o => some (encSL 0x12 o) | .st o => some (encSL 0x13 o) | .ldacq o => some (encSL 0x14 o)
  | .strel o => some (encSL 0x15 o)
  | .atom64 o => some (encAtom 0x16 o) | .atom32 o => some (encAtom 0x17 o)
  | .atomn o => some (plain 0x18 o.g (o.d.toNat * 2 ^ 16 + o.a.toNat * 2 ^ 10 + o.b.toNat * 2 ^ 4 + o.o.toNat * 2
      + boolBit o.n))
  | .qinit o => some (encSQ 0x19 0 o) | .enq o => some (encSQ 0x19 (1 * 2 ^ 6) o)
  | .deq o => some (encSQ 0x19 (2 * 2 ^ 6) o)
  | .enqn o => some (plain 0x19 o.g (o.p.toNat * 2 ^ 16 + o.q.toNat * 2 ^ 10 + 3 * 2 ^ 6 + o.k.toNat * 2 ^ 3))
  | .deqn o => some (plain 0x19 o.g (o.p.toNat * 2 ^ 16 + o.q.toNat * 2 ^ 10 + 4 * 2 ^ 6 + o.k.toNat * 2 ^ 3))
  | .qpeek o => some (encSQ 0x19 (5 * 2 ^ 6) o) | .qstat o => some (encSQ 0x19 (6 * 2 ^ 6) o)
  | .qclose o => some (plain 0x19 o.g (o.p.toNat * 2 ^ 16 + 7 * 2 ^ 6))
  | .rwopen o => some (encSQ 0x19 (8 * 2 ^ 6) o) | .rwclose o => some (encSQ 0x19 (9 * 2 ^ 6) o)
  | .fence o => some (plain 0x1A o.g (o.p.toNat * 2 ^ 16 + o.scope.toNat * 2 ^ 5))
  | .fwait o => some (plain 0x1A o.g (o.p.toNat * 2 ^ 16 + 1 * 2 ^ 8))
  | .drain o => some (plain 0x1A o.g (2 * 2 ^ 8 + o.scope.toNat * 2 ^ 5))
  | .join o => some (plain 0x1B o.g o.m.toNat)
  | .xset o => some (plain 0x1C o.g (o.k.toNat * 2 ^ 16 + o.a.toNat * 2 ^ 10))
  | .xadd o => some ⟨wordOf 0x1D o.g (o.k.toNat * 2 ^ 16 + o.imm.toNat % 2 ^ 10), lendS 10 o.imm⟩
  | .view o => some (plain 0x1E o.g (o.p.toNat * 2 ^ 16 + o.n.toNat))
  | .shw o => some (plain 0x1F o.g (o.p.toNat * 2 ^ 16 + o.slot.toNat * 2 ^ 7 + o.h.toNat * 2 ^ 5 + o.f.toNat))
  | .slk o => some (plain 0x20 o.g (o.e.toNat * 2 ^ 16 + o.v.toNat))
  | .mfc o => some ⟨wordOf 0x21 o.g (o.d.toNat * 2 ^ 16 + o.c.toNat % 2 ^ 10), lendZ 10 o.c⟩
  | .mtc o => some ⟨wordOf 0x22 o.g (o.a.toNat * 2 ^ 10 + o.c.toNat % 2 ^ 10), lendZ 10 o.c⟩
  | .br o => some (encSJ 0x23 o) | .jmp o => some (encSJ 0x24 o)
  | .jmpi o => some (plain 0x25 o.g (o.p.toNat * 2 ^ 10))
  | .call o => some (encSJ 0x26 o) | .ret o => some (plain 0x27 o.g 0)
  | .loop o => some (encLoop 0x28 o)
  | .lnsetBound o => some (plain 0x29 o.g (o.p.toNat * 2 ^ 16 + o.lv.toNat * 2 ^ 7))
  | .lnsetBind o => some (plain 0x29 o.g (o.p.toNat * 2 ^ 16 + o.lv.toNat * 2 ^ 7 + 1 * 2 ^ 5 + o.k.toNat * 2
      + boolBit o.j))
  | .lnsetClear o => some (plain 0x29 o.g (o.lv.toNat * 2 ^ 7 + 2 * 2 ^ 5))
  | .loopn o => some (plain 0x2A 0#4 (o.lv.toNat * 2 ^ 19 + o.off.toNat))
  | .rpt o => some (encLoop 0x2B o)
  | .margin o => some ⟨wordOf 0x2C 0#4 (o.c.toNat % 2 ^ 10), lendZ 10 o.c⟩
  | .segOpen o => some (plain 0x2D 0#4 o.i.toNat)
  | .segClose o => some (plain 0x2D 0#4 (2 ^ 9 + o.i.toNat))
  | .cont o => some (encSJ 0x2E o) | .endcont o => some (plain 0x2F o.g 0)
  | .trap o => some ⟨wordOf 0x30 o.g (o.c.toNat % 2 ^ 10), lendZ 10 o.c⟩
  | .tret o => some (plain 0x31 o.g 0) | .halt o => some (plain 0x32 o.g 0) | .yield o => some (plain 0x33 o.g 0)
  | .waitev o => some (plain 0x34 o.g (o.d.toNat * 2 ^ 16 + o.m.toNat))
  | .gate o => some (plain 0x35 o.g o.m.toNat)
  | .ctxsv o => some (plain 0x36 o.g (o.p.toNat * 2 ^ 10)) | .ctxld o => some (plain 0x37 o.g (o.p.toNat * 2 ^ 10))
  | .bwait o => some (plain 0x38 o.g (o.d.toNat * 2 ^ 16 + o.who.toNat * 2 ^ 10 + o.b.toNat))
  | .wmwait o => some (plain 0x39 o.g (o.a.toNat * 2 ^ 10 + o.c.toNat))
  | .wmwaitAll o => some (plain 0x39 o.g (2 ^ 5 + o.c.toNat))
  | .launch o => some (encSQ 0x3A 0 o)
  | .chwait o => some (plain 0x3A o.g (o.p.toNat * 2 ^ 10 + 1 * 2 ^ 6))
  | .preempt o => some (encSQ 0x3A (2 * 2 ^ 6) o) | .resume o => some (encSQ 0x3A (3 * 2 ^ 6) o)
  | .emrd o => some (encSQ 0x3A (4 * 2 ^ 6) o) | .digest o => some (encSQ 0x3A (5 * 2 ^ 6) o)
  | .sleep o => some (plain 0x3A o.g (o.p.toNat * 2 ^ 16 + 6 * 2 ^ 6))
  | .linkst o => some (encSQ 0x3B 0 o) | .lnkcfg o => some (encSQ 0x3B (1 * 2 ^ 6) o)
  | .talign o => some (encSQ 0x3B (2 * 2 ^ 6) o)
  | .vadd o => some (encVA 0x01 o) | .vsub o => some (encVA 0x02 o) | .vmul o => some (encVA 0x03 o)
  | .vfma o => some (encVA 0x04 o) | .vmin o => some (encVA 0x05 o) | .vmax o => some (encVA 0x06 o)
  | .vabs o => some (encVU 0x07 o) | .vneg o => some (encVU 0x08 o) | .vdiv o => some (encVA 0x09 o)
  | .vsqrt o => some (encVU 0x0A o) | .vrcp o => some (encVU 0x0B o) | .vrsq o => some (encVU 0x0C o)
  | .vexp2 o => some (encVU 0x0D o) | .vlog2 o => some (encVU 0x0E o)
  | .vcmp o => some ⟨wordOf 0x0F o.g (o.c.toNat * 2 ^ 19 + o.k.toNat * 2 ^ 16 + lo6 o.a * 2 ^ 10 + lo6 o.b * 2 ^ 4
      + shSwap o.sh o.swap), lendV 0#3 (hi3 o.a) (hi3 o.b)⟩
  | .vsel o => some (encVA 0x10 o)
  | .vand o => some (encVA 0x11 o) | .vor o => some (encVA 0x12 o) | .vxor o => some (encVA 0x13 o)
  | .vnot o => some (encVU 0x14 o) | .vshl o => some (encVA 0x15 o) | .vshr o => some (encVA 0x16 o)
  | .vsar o => some (encVA 0x17 o) | .vcvt o => some (encVU 0x18 o) | .vpack o => some (encVA 0x19 o)
  | .vunpk o => some ⟨wordOf 0x1A o.g (lo6 o.d * 2 ^ 16 + lo6 o.a * 2 ^ 10 + o.part.toNat * 2 ^ 4 + shSwap o.sh o.swap),
      lendV (hi3 o.d) (hi3 o.a) 0#3⟩
  | .vperm o => some (encVA 0x1B o)
  | .vbcstLane o => some ⟨wordOf 0x1C o.g (lo6 o.d * 2 ^ 16 + lo6 o.a * 2 ^ 10 + o.lane.toNat * 2 ^ 4
      + shSwap o.sh o.swap), lendV (hi3 o.d) (hi3 o.a) 0#3⟩
  | .vbcstScalar o => some ⟨wordOf 0x1C o.g (lo6 o.d * 2 ^ 16 + o.a.toNat * 2 ^ 10 + 2 ^ 9 + shSwap o.sh o.swap),
      lendV (hi3 o.d) 0#3 0#3⟩
  | .vred o => some ⟨wordOf 0x1D o.g (lo6 o.d * 2 ^ 16 + lo6 o.a * 2 ^ 10 + o.m.toNat * 2 ^ 7 + o.o.toNat * 2 ^ 4
      + shSwap o.sh o.swap), lendV (hi3 o.d) (hi3 o.a) 0#3⟩
  | .vcadd o => some (encVA 0x1E o) | .vcacc o => some (encVU 0x1F o) | .vfade o => some (encVA 0x20 o)
  | .vqdeq o => some (encVA 0x21 o) | .xmov o => some (encVU 0x22 o) | .vmov o => some (encVU 0x23 o)
  | .cupseed o => some (plain 0x24 o.g (o.p.toNat * 2 ^ 10))
  | .cupstat o => some ⟨wordOf 0x25 o.g (lo6 o.d * 2 ^ 16), lendV (hi3 o.d) 0#3 0#3⟩
  | .vld o => some (encVM 0x28 o) | .vst o => some (encVM 0x29 o)
  | .vgth o => some (encVX 0x2A o) | .vsct o => some (encVX 0x2B o)
  | .vatom o => some ⟨wordOf 0x2C o.g (lo6 o.d * 2 ^ 16 + o.base.toNat * 2 ^ 10 + lo6 o.i * 2 ^ 4 + shSwap o.sh o.swap
      + boolBit o.ret), lendV (hi3 o.d) o.op (hi3 o.i)⟩
  | .mbld o => some (plain 1 o.g (o.xd.toNat * 2 ^ 11 + mShape o.sh o.swap o.pi))
  | .mbsw o => some (plain 2 o.g 0)
  | .mma o => some (encMma 3 o) | .mmaz o => some (encMma 4 o)
  | .mscl o => some (plain 5 o.g (o.acc.toNat * 2 ^ 19 + mShape o.sh o.swap false + o.r0.toNat * 2 ^ 2 + o.grp.toNat))
  | .macc o => some (plain 6 o.g (o.acc.toNat * 2 ^ 19 + o.src.toNat * 2 ^ 15 + mShape o.sh o.swap false
      + o.r0.toNat * 2 ^ 2 + boolBit o.ss))
  | .mzero o => some (plain 7 o.g (o.acc.toNat * 2 ^ 19 + mShape o.sh o.swap false + o.r0.toNat * 2 ^ 2))
  | .mout o => some (encMma 8 o)
  | .mtap o => some ⟨wordOf 9 o.g (o.acc.toNat * 2 ^ 19 + o.xa.toNat * 2 ^ 15 + o.xd.toNat * 2 ^ 11
      + mShape o.sh o.swap o.pi + o.imm.toNat % 2 ^ 7), lend16 o.imm⟩
  | .lcfgSet o => some ⟨wordOf 1 o.g (mShape o.sh o.swap false + lcfgImm o % 2 ^ 7),
      lend16 (BitVec.ofNat 16 (lcfgImm o))⟩
  | .lcfgLoad o => some ⟨wordOf 1 o.g (o.k.toNat * 2 ^ 19 + o.x.toNat * 2 ^ 15 + mShape o.sh o.swap o.pi),
      some 0x080#9⟩
  | .lcfgSave o => some ⟨wordOf 1 o.g (o.k.toNat * 2 ^ 19 + o.x.toNat * 2 ^ 11 + mShape o.sh o.swap o.pi),
      some 0x100#9⟩
  | .lcfgClear o => some ⟨wordOf 1 o.g (o.k.toNat * 2 ^ 19 + mShape o.sh o.swap false), some 0x180#9⟩
  | .lscan o => some (encScan 2 o) | .lscanc o => some (encScan 3 o)
  | .lgate o => some (plain 4 o.g (o.xa.toNat * 2 ^ 15 + o.xb.toNat * 2 ^ 11 + mShape o.sh o.swap o.pi))
  | .lmat o => some (plain 5 o.g (o.acc.toNat * 2 ^ 19 + o.xa.toNat * 2 ^ 15 + o.xb.toNat * 2 ^ 11
      + mShape o.sh o.swap o.pi + o.r0.toNat))
  | .cpy o => some (encCpy 1 o)
  | .cpyh o => some ⟨wordOf 2 o.g (o.edge.toNat * 2 ^ 17 + xPair o.xs o.xd + cShape o.sh o.swap + o.ssp.toNat * 2 ^ 4
      + o.dsp.toNat * 2 ^ 2 + boolBit o.cnt.isSome * 2), lendBar o.cnt⟩
  | .cpym o => some (encCpym 3 2 o)
  | .cpyr o => some ⟨wordOf 4 o.g (o.op.toNat * 2 ^ 19 + xPair o.xs o.xd + cShape o.sh o.swap + o.ssp.toNat * 2 ^ 4
      + boolBit o.cnt.isSome * 2), lendBar o.cnt⟩
  | .cpyg o => some (encCpy 5 o) | .cpyd o => some (encCpym 6 0 o)
  | .wmark o => some (plain 7 o.g (o.ch.toNat * 2 ^ 17 + xPair o.xs o.xd + o.dsp.toNat * 2 ^ 2))
  | .binit o => some (encBar 8 o)
  | .arrive o => some (plain 9 o.g (o.b.toNat * 2 ^ 14 + o.who.toNat * 2 ^ 11))
  | .badd o => some (encBar 10 o)
  | .frld o => some (plain 0x10 o.g (o.xf.toNat * 2 ^ 13 + boolBit o.c * 2 ^ 7))
  | .frst o => some (plain 0x11 o.g (boolBit o.all * 2 ^ 7))
  | .frsw o => some (plain 0x12 o.g (xPair o.xf o.xo + boolBit o.c * 2 ^ 7))
  | .snap o => some (encFr2 0x13 o) | .fork o => some (encFr2 0x14 o)
  | .rback o => some (plain 0x15 o.g (xPair o.xf o.xo + boolBit o.free * 2 ^ 7))
  | .frel o => some (plain 0x16 o.g (o.xf.toNat * 2 ^ 13))
  | .hpapp o => some (encFr2 0x17 o)
  | .hpmap o => some ⟨wordOf 0x18 o.g (o.n.toNat * 2 ^ 17 + xPair o.xf o.xo + boolBit o.cnt.isSome * 2), lendBar o.cnt⟩
  | .frstat o => some (encFr2 0x19 o)
  | _ => none

end Sys2Proof
end

