-- ==== Sys2Proof/Machine/Dispatcher.lean ====
section
/-! DEFINITION. The dispatcher: fetching a bundle (R28, R29, R463), the dispatch-time checks in the order of R64,
and placing the entries (R43). -/

namespace Sys2Proof.Machine

/-! ### Fetch -/

/-- What a fetch at the program counter gives. -/
inductive Fetched where
  | bytes (bs : List Byte)
  | miss (line : Nat)
  | fault (f : AccFault)
  deriving DecidableEq, Repr

/-- R29, R130, R463: a fetch through the translation buffer and the instruction cache. -/
def State.fetch (s : State) : Fetched :=
  let c := s.core
  match s.placeVA (cluster c.id) (c.crGet 0x018) c.sup c.pc.toNat .fe with
  | .error f => .fault f
  | .ok p =>
    let line := p.loc / 256 * 256
    match c.icache.find? (·.1 == line) with
    | some e => .bytes ((e.2.drop (p.loc % 256)).take 32)
    | none => .miss line

/-! ### The bundle (R28, R31) -/

/-- Slot word k of a bundle's 32 bytes. -/
def slotWord (bs : List Byte) (k : Nat) : Nat := leNat ((bs.drop (4 * k)).take 4)

def slotClassOf (k : Nat) : SlotClass :=
  match k with | 1 => .s | 2 => .v | 3 => .v | 4 => .m | 5 => .n | _ => .c

def hdStop (h : Nat) : Bool := fld h 31 1 == 1
def hdSync (h : Nat) : Bool := fld h 30 1 == 1
/-- R32: the ports allotted to slot k, 2 to 7. -/
def hdPorts (h k : Nat) : Nat := fld h (32 - 2 * k) 2
def hdSk (h : Nat) : Nat := fld h 14 4
def hdRp (h : Nat) : Nat := fld h 12 2
def hdLend (h k : Nat) : Option (BitVec 9) := if fld h 9 3 = k then some (bits 9 h 0) else none

/-- A dispatch-time trap: cause, TINFO0, TINFO1. -/
structure DTrap where
  cause : BitVec 8
  t0 : Nat
  t1 : Nat
  deriving DecidableEq, Repr

/-- The slots of a bundle. -/
def slotNumbers : List Nat := [1, 2, 3, 4, 5, 6, 7]

/-- R36, by opcode: the M or N slot holds a repeatable instruction. -/
def rpOk (h m n : Nat) : Bool :=
  match hdRp h with
  | 0 => true
  | 1 => fld m 26 6 == 3 || fld m 26 6 == 4 || fld m 26 6 == 6 || fld m 26 6 == 9
  | 2 => decide (2 ≤ fld n 26 6) && decide (fld n 26 6 ≤ 5)
  | _ => false

/-- R36, R37: whether a decoding failed for the lend. -/
def lendBad (r : Decoded) : Bool := match r with | .error .illegalLend => true | _ => false

/-- R64 item 1. -/
def headerCheck (bs : List Byte) (rs : List (Nat × Decoded)) : Option DTrap :=
  let h := slotWord bs 0
  let lent := fld h 9 3
  if !rpOk h (slotWord bs 4) (slotWord bs 5) then some ⟨0x02#8, 8, 0⟩
  else if (lent == 0 && fld h 0 9 != 0) || rs.any (fun r => r.1 == lent && lendBad r.2) then some ⟨0x02#8, 8, 0⟩
  else if 6 < ((slotNumbers.drop 1).map (hdPorts h)).sum then some ⟨0x03#8, 8, 0⟩
  else none

/-- R61, R90, R197: what of an instruction depends on the register number it names and on the privilege level. -/
def levelCheck (sup : Bool) (i : Instr) : Option (BitVec 8) :=
  match i with
  | .tret _ | .ctxld _ | .preempt _ | .resume _ | .lnkcfg _ | .talign _ => if sup then none else some 0x05#8
  | .sleep _ => some 0x01#8
  | .mfc o => if (crAccess o.c.toNat).isNone then some 0x01#8 else none
  | .mtc o =>
    if (crAccess o.c.toNat).isNone then some 0x01#8
    else if crNeedsSup o.c.toNat && !sup then some 0x05#8 else none
  | _ => none

/-- R64 item 2: the check of one slot. A word with a reserved field reports 0x02 before the 0x01 of an unassigned register
number (R90) or of SLEEP on a core (R431): the order list names neither (DESIGN CHOICE, log entry 46). -/
def slotCheck (sup : Bool) (k : Nat) (r : Decoded) : Option DTrap :=
  match r with
  | .error .illegalOpcode => some ⟨0x01#8, k, 0⟩
  | .error _ => some ⟨0x02#8, k, 0⟩
  | .ok i => (levelCheck sup i).map fun cause => ⟨cause, k, 0⟩

/-- R252: the instruction of a V slot that may draw beside a CUPSEED in the other. -/
def drawBySeed (is : List (Nat × Instr)) : Option (Nat × Instr) :=
  is.find? fun p => drawOp p.2 && is.any fun q => p.1 + q.1 == 5 && isSeed q.2

/-- The shape register that an instruction names, and whether its swap bit takes the shadow. -/
def CoreState.namedShape (c : CoreState) (slot : Nat) (i : Instr) : Option (Nat × Bool) :=
  ((names c slot i).find? fun n => decide (96 ≤ n.lo) && decide (n.hi < 144)).map fun n => ((n.lo - 96) / 2, n.lo != n.hi)

/-- R47, R252: the shape that decides the check of R252 is not settled: an earlier entry that writes it has not issued, and the
bundle waits at dispatch (DEDUCED, log entry 46). -/
def CoreState.seedWaits (c : CoreState) (is : List (Nat × Instr)) : Bool :=
  match drawBySeed is with
  | none => false
  | some p =>
    let mine := (names c p.1 p.2).filter fun n => decide (96 ≤ n.lo) && decide (n.hi < 144)
    c.bundles.any fun b => b.entries.any fun e => dependent (touched c e.slot e.instr) mine

/-- R58, R252: beside a CUPSEED the other V slot draws. -/
def CoreState.seedDraws (c : CoreState) (is : List (Nat × Instr)) : Bool :=
  match (drawBySeed is).bind fun p => c.namedShape p.1 p.2 with
  | some (k, swap) => shRound (Cells.get Shape.reset (if swap then c.shadows else c.shapes) k) == 4
  | none => false

/-- R64 item 3; in the V slots two CUPSEEDs, or one beside a draw, too (R47, R252). -/
def bundleCheck (c : CoreState) (h : Nat) (is : List (Nat × Instr)) : Option DTrap :=
  if is.any fun p => decide (2 ≤ p.1) && decide (hdPorts h p.1 < portNeed p.2) then some ⟨0x03#8, 8, 0⟩
  else
    let xs := (is.filter fun p => p.1 == 2 || p.1 == 3).map fun p => c.crossings (p.1 - 2) p.2
    if xs.any (·.2) || decide (1 < (xs.map (·.1)).sum) then some ⟨0x02#8, 8, 0⟩
    else if decide (is.countP (fun p => isSeed p.2) = 2) || c.seedDraws is then some ⟨0x02#8, 8, 0⟩
    else none

/-- R304: the sources that MACC.ss names in the head of an RPT body that repeats it. -/
def CoreState.repeatedSources (c : CoreState) (h k : Nat) (i : Instr) : List Nm :=
  match i, c.loops with
  | .macc o, l :: _ =>
    if o.ss && k == 4 && hdRp h == 1 && l.rpt && l.start == c.pc then
      (List.range (if l.left < 8 then l.left else 8)).flatMap fun j => Nm.a c (o.src + BitVec.ofNat 3 j) false
    else []
  | _, _ => []

/-- The items a slot of the bundle at the program counter names, under a header. -/
def itemsOf (c : CoreState) (h k : Nat) (i : Instr) : List NameItem :=
  let pc := c.pc
  (names c k i ++ c.repeatedSources h k i).map fun n => ⟨n.lo, n.hi, k, pc, n.write, n.soft⟩

def NameItem.meets (x y : NameItem) : Bool := decide (x.lo ≤ y.hi) && decide (y.lo ≤ x.hi)

/-- R40: item `n` of the bundle depends on the write `w` of an earlier bundle of its group, `all` being everything
named in the group, the bundle included. -/
def NameItem.depends (all : List NameItem) (n w : NameItem) : Bool :=
  w.write && n.meets w
    && !(n.soft && w.soft && n.slot == w.slot && !(all.any fun o => o.slot != n.slot && o.meets n))

/-- R40: the write that item `n` of the bundle depends on, if any: of an earlier bundle (the latest), or of another
slot of its own, listed before it. -/
def dependence (group mine : List NameItem) (n : NameItem) : Option NameItem :=
  match group.reverse.find? (n.depends (group ++ mine)) with
  | some w => some w
  | none => if n.write then mine.find? fun w => w.write && decide (w.slot < n.slot) && w.meets n else none

/-- R64 item 4. Of several dependences the report names the lowest slot and its first named item, and of two writes of one
bundle the later slot (DESIGN CHOICE, log entry 46). -/
def groupCheck (c : CoreState) (mine : List NameItem) : Option DTrap :=
  if 16 ≤ c.group.count then some ⟨0x02#8, 9, 0⟩
  else
    (mine.findSome? fun n => (dependence c.group.items mine n).map fun w => (n, w)).map
      fun (n, w) => ⟨0x04#8, 9 + 16 * n.slot, w.pc.toNat⟩

/-- R64 item 5. -/
def loopCheck (c : CoreState) (h : Nat) (is : List (Nat × Instr)) : Option DTrap :=
  let s1 := ((is.find? (·.1 == 1)).map (·.2)).getD .nop
  let body :=
    match c.loops.find? (fun l => l.rpt && l.holds c.pc) with
    | none => none
    | some r =>
      if r.start = c.pc then (if hdRp h = 0 then some ⟨0x02#8, 8, 0⟩ else none)
      else if hdRp h ≠ 0 then some ⟨0x02#8, 8, 0⟩
      else if is.any fun p => p.1 == r.eng && p.2 != .nop then some ⟨0x02#8, r.eng, 0⟩
      else none
  match body with
  | some t => some t
  | none =>
    if (c.loops.any fun l => l.rpt && l.holds c.pc) && barredInRpt s1 then some ⟨0x02#8, 1, 0⟩
    else match s1 with
      | .loop o | .rpt o => if levelBad c.loops c.pc o (c.loopCount o) then some ⟨0x02#8, 1, 0⟩ else none
      | .loopn _ => if c.loops.any (·.holds c.pc) then some ⟨0x02#8, 1, 0⟩ else none
      | _ => none

/-- What the words of a bundle decode to. -/
def decodeBundle (bs : List Byte) : List (Nat × Decoded) :=
  slotNumbers.map fun k => (k, decodeSlot (slotClassOf k) (BitVec.ofNat 32 (slotWord bs k)) (hdLend (slotWord bs 0) k))

def okInstrs (rs : List (Nat × Decoded)) : List (Nat × Instr) :=
  rs.filterMap fun r => match r.2 with | .ok i => some (r.1, i) | .error _ => none

/-- R64, items 1 to 4: the first rule that the bundle at the program counter breaks. -/
def CoreState.dispatchCheck (c : CoreState) (bs : List Byte) (rs : List (Nat × Decoded)) (mine : List NameItem) :
    Option DTrap :=
  match headerCheck bs rs with
  | some t => some t
  | none =>
    match rs.findSome? fun r => slotCheck c.sup r.1 r.2 with
    | some t => some t
    | none =>
      match bundleCheck c (slotWord bs 0) (okInstrs rs) with
      | some t => some t
      | none => groupCheck c mine

/-! ### Placing the entries -/

/-- The loads of the core that have not returned, as writes of their destinations; `but` is left out. -/
def State.loadItems (s : State) (but : Nat) : List Nm :=
  let item (d : LoadDest) : List Nm :=
    match d with
    | .sreg n _ => [.wS n]
    | .lanes a => [⟨4096 + a, 4096 + a + 127, true, false⟩]
    | .acq .. => []
    | .outside => []
    | .queue .. => []
  ((s.pendingOf s.core.id).filter (·.seq != but)).flatMap (fun r => match r.kind with | .load d => item d | .atom _ _ d => item d | _ => [])
    ++ (s.replies.filter fun r => r.core == s.core.id && r.seq != but).flatMap fun r => item r.dest

/-- R43, R45, R47, R427: whether a bundle may be dispatched now at all. -/
def CoreState.mayDispatch (c : CoreState) : Bool :=
  c.mode == .running && c.trapReq.isNone && !c.yielded && !(c.crGet 0x0C4).getLsbD 0
    && !(c.bundles.any fun b => b.entries.any fun e => e.slot == 1 && stopsDispatch e.instr)
    && match c.bundles with | [] => true | b :: _ => decide (c.nextSeq < b.seq + 16)

/-- R462: the register that a transfer taken again at dispatch reads. -/
def targetReg (i : Instr) : Option (BitVec 6) := match i with | .jmpi o => some o.p | .ret _ => some 63#6 | _ => none

/-- R44, R165: the bundle waits for entries of earlier bundles, SYNC for all of them, LOOPN, the register form of LOOP and RPT
and a transfer taken again (R462) for those of the S slot; MARGIN for an earlier read of MREM (R46). -/
def State.dispatchWaits (s : State) (h : Nat) (s1 : Instr) : Bool :=
  let c := s.core
  let sBusy := c.bundles.any fun b => b.entries.any (·.slot == 1)
  (hdSync h && !c.bundles.isEmpty)
    || match s1 with
      | .loop o | .rpt o =>
        o.n == 0#19 && (sBusy || dependent (s.loadItems 0) [.rS o.a])
      | .margin _ => c.bundles.any fun b => b.entries.any fun e => match e.instr with | .mfc o => o.c == 0x040#19 | _ => false
      | .loopn _ => sBusy
      | .jmpi _ | .ret _ => c.replay.getLsbD 7 && (sBusy || (targetReg s1).any fun r => dependent (s.loadItems 0) [.rS r])
      | _ => false

/-- R177: the bundle's bytes counted in an open segment. -/
def CoreState.countSegment (c : CoreState) (bs : List Byte) : CoreState :=
  let st := c.crGet 0x047
  if st.getLsbD 0 && c.shadow.isNone then
    c.crPuts [(0x047, setBits st 32 32 (bitsOf st 32 32 + 1)),
      (0x048, (crcBytes ((c.crGet 0x048).setWidth 32) bs).setWidth 64)]
  else c

/-- R171: in the head of an RPT body, whether the repeated slot's entry is a placeholder, and its count. -/
def CoreState.repeatOf (c : CoreState) (k rp : Nat) : Option Nat :=
  match c.loops with
  | l :: _ => if l.rpt && l.start == c.pc && k == rp then (if l.issued then none else some l.left) else some 1
  | [] => some 1

/-- The order in which entries of one bundle are tried. -/
def issueOrder : List Nat := [4, 5, 6, 7, 2, 3, 1]

/-- R43, R156, R171, R462: the entries of a bundle, under a replay mask. Counted loops are resolved again whatever it
holds. -/
def CoreState.entriesOf (c : CoreState) (is : List (Nat × Instr)) (mask : BitVec 8) (rp : Nat) : List Entry :=
  issueOrder.filterMap fun k =>
    match ((is.find? (·.1 == k)).map (·.2)).getD .nop with
    | .nop => none
    | i =>
      let again := match i with | .loop _ | .rpt _ => true | _ => false
      if mask.getLsbD (k - 1) && !again then none
      else (c.repeatOf k rp).map fun n => ⟨k, i, n, neverTraps i, false, []⟩

/-- R43, R166, R177, R462: dispatch of a bundle that passed its checks. -/
def CoreState.place (c : CoreState) (bs : List Byte) (is : List (Nat × Instr)) (mine : List NameItem) : CoreState :=
  let h := slotWord bs 0
  let rp := match hdRp h with | 1 => 4 | 2 => 5 | _ => 0
  let s1 := ((is.find? (·.1 == 1)).map (·.2)).getD .nop
  let mask := c.replay
  let es := c.entriesOf is mask rp
  let head := c.loops.map fun l => if l.rpt && l.start == c.pc then { l with eng := rp, issued := true } else l
  let (loops, next, isLast) := countLevels c.pc head
  let ends := hdStop h || isLast || match s1 with | .yield _ => true | _ => false
  let b : Bundle :=
    { seq := c.nextSeq, pc := c.pc, next := next, sync := hdSync h, slack := c.slacks.head?.getD (Cells.get 0#10 c.slack (hdSk h)), done := mask
      entries := es, old := [], oldMem := [], loops := c.loops
      nest := match s1 with | .loopn _ => some c.nest | _ => none
      segst := c.crGet 0x047, segcrc := c.crGet 0x048, segexp := c.segExp, redo := c.redo, rp := rp, cup0 := false
      mask := mask, mrem := c.crGet 0x040, mlim := c.crGet 0x041 }
  let pc := c.pc
  let c := { c.countSegment bs with
    bundles := if es.isEmpty then c.bundles else c.bundles ++ [b]
    past := if es.isEmpty && !c.bundles.isEmpty then c.past ++ [b] else c.past
    loops := loops, pc := next, nextSeq := c.nextSeq + 1, wdCount := 0, replay := c.replays.headD 0#8, replays := c.replays.drop 1
    redo := c.redos.headD [], redos := c.redos.drop 1, slacks := c.slacks.drop 1, fired := c.fired ||| 1#8
    group := if ends then .start else ⟨c.group.count + 1, c.group.items ++ mine⟩ }
  if mask.getLsbD 7 && isTransfer s1 then c.jumpTo ((c.target pc s1).setWidth 48)
  else match s1 with
    | .loopn o => c.loopn pc o
    | _ => c

/-- A dispatch-time trap waits in trapReq until the earlier entries have been checked (R47). -/
def State.requestTrap (s : State) (t : Trap) : State := s.upd fun c => { c with trapReq := some t }

/-- R434: the TIME of a launch's first bundle. -/
def State.firstBundle (s : State) : State :=
  s.updLaunch s.core.launchKey fun l => { l with started := l.started.or (some s.time) }

/-- The bundle in 32 bytes: trapped, held, or dispatched. A transfer that its replay mask takes again fails as it would at its
issue (R29, R462). -/
def State.dispatchBytes (s : State) (bs : List Byte) : State :=
  let c := s.core
  let rs := decodeBundle bs
  let is := okInstrs rs
  let h := slotWord bs 0
  let mine := is.flatMap fun p => itemsOf c h p.1 p.2
  let s1 := ((is.find? (·.1 == 1)).map (·.2)).getD .nop
  let ask (t : DTrap) : State :=
    s.requestTrap ⟨t.cause, c.pc, BitVec.ofNat 64 t.t0, BitVec.ofNat 64 t.t1, 0#64, 0#64⟩
  if c.seedWaits is then s
  else match c.dispatchCheck bs rs mine with
  | some t => ask t
  | none =>
    let to' := c.target c.pc s1
    if s.dispatchWaits h s1 then s
    else if c.replay.getLsbD 7 && isTransfer s1 && (decide (to'.toNat % 32 ≠ 0) || decide (2 ^ 48 ≤ to'.toNat)) then
      s.requestTrap ⟨0x0A#8, c.pc, 1#64, to', 0#64, 0#64⟩
    else match loopCheck c h is with
      | some t => ask t
      | none => ((s.upd fun c => c.place bs is mine).charge s.core.launchKey 0 1).firstBundle

/-- The entry made current. -/
def CoreState.begin (c : CoreState) (b : Bundle) (e : Entry) : CoreState :=
  { c with
    held := false
    cur := { seq := b.seq, pc := b.pc, next := b.next, slot := e.slot, slack := b.slack, rep := e.rep, old := b.old
             oldMem := b.oldMem, redo := (b.redo.lookup e.slot).getD 0#64
             cup0 := b.cup0, pass := e.pass } }

end Sys2Proof.Machine
end

