-- ==== Sys2Proof/Machine/Engines.lean ====
section
/-! DEFINITION. What the engines share: the issue of an operation into an engine queue, its reads and writes when it
performs, the errors it consumes (R181, R280), and trap 0x31 of an operation that performs later (R114). -/

namespace Sys2Proof.Machine

/-! ### Issue -/

/-- A new operation in an engine queue. -/
def State.pushOp (s : State) (eng : Nat) (i : Instr) (shape : BitVec 128) (addrs regs : List Nat) (locks busy : List (Nat × Nat))
    (segs : List Seg) (extra : List Nat) : State :=
  let c := s.core
  let (u, s) := s.fresh
  let o : EngineOp := ⟨u, c.cur.seq, eng, c.cur.pc, c.slackNow, i, c.cur.rep, shape, addrs, regs, locks, busy, segs, extra, c.cur.oldMem, []⟩
  s.upd fun c => { c with ops := c.ops ++ [o] }

/-- The issue of an M or N instruction: its guard (R49), a gated engine (R196), its shape (R83), then what it checks,
and the swap (R82) with what it does. `k` answers a trap, or a hold, or the operation. -/
def State.engOpen (s : State) (g : BitVec 4) (sh : BitVec 2) (swap : Bool) (ok : BitVec 128 → Bool) (k : State → BitVec 128 → Out) : Out :=
  s.whenOn g <|
    match s.wakeHold with
    | some o => o
    | none =>
      let shape := s.core.activeShape sh swap
      if !(shapeClean shape && ok shape) then s.trap0B else k s shape

/-- The issue of one whose shape is not checked first (R296, R316). -/
def State.engGate (s : State) (g : BitVec 4) (k : Out) : Out := s.whenOn g (s.wakeHold.getD k)

/-- R292, R314, R114: an operation cannot enter its queue now: it holds 8, or one of its earlier operations may still
raise an enabled flag; or the store's bits say so (R86). -/
def State.engWait (s : State) (eng : Nat) (reads writes : List (Nat × Nat)) : Bool :=
  let q := s.core.queue eng
  decide (8 ≤ q.length) || (s.core.crGet 0x00D != 0#64 && !q.isEmpty) || s.storeWait (some eng) reads writes

/-- The fault of the first range that may not be reached through address registers (R78). -/
def CoreState.firstBad (c : CoreState) (rs : List (Nat × Nat)) : Option Nat := (rs.find? fun r => !c.storeOk r.1 r.2).map (·.1)

/-- Trap 0x0B at a store address (R78). -/
def State.storeTrap (s : State) (write : Bool) (a : Nat) : Out :=
  s.accTrap ⟨0x0B#8, 0#64⟩ (if write then .wr else .rd) 0 (BitVec.ofNat 64 a) 0#64

/-! ### Performing -/

/-- An operation has performed. -/
def State.endOp (s : State) (o : EngineOp) : State := s.upd fun c => { c with ops := c.ops.filter (·.uid != o.uid) }

/-- R181, R260, R280: an operation consumes an uncorrectable error: it is abandoned. -/
def State.opConsume (s : State) (o : EngineOp) (slot src : Nat) (addr : Word64) : State :=
  ((s.abandonOne o).endOp o).consume o.seq o.pc slot src addr

/-- R114: trap 0x31 of an operation that has performed. -/
def State.lateTrap (s : State) (o : EngineOp) (mask : Word64) (fl : Flags) : State :=
  if s.core.inTrap then s.doubleTrap 0x31#8
  else s.upd (·.lateEntry ⟨0x31#8, o.pc, mask, fl.setWidth 64, 0#64, 0#64⟩ o.seq 0)

/-- The flags of rows or lanes, all of them, and trap 0x31 if one is enabled. -/
def State.raise (s : State) (o : EngineOp) (fl : List (Nat × Flags)) : State :=
  let r := raised (s.core.crGet 0x00D) fl
  if r.2 = 0#7 then s else s.lateTrap o r.1 r.2

/-- The union of flags. -/
def allFlags (fl : List (Nat × Flags)) : Flags := fl.foldl (fun a p => a ||| p.2) 0#7

/-- The first of some ranges of the core's store that holds an error. -/
def State.badStore (s : State) (rs : List (Nat × Nat)) : Option Nat :=
  (rs.find? fun r => s.poisoned (s.st r.1) r.2).map (·.1)

end Sys2Proof.Machine
end

