-- ==== Sys2Proof/Machine/Matrix.lean ====
section
/-! DEFINITION. The matrix array (R284 to R307): the stationary buffers, the M instructions at issue, and what each
operation does when it performs. -/

namespace Sys2Proof.Machine

/-! ### Issue-time checks -/

/-- R294: the rows of an instruction fit, with `n` the repetitions that move them. -/
def rowsFit (shape : BitVec 128) (r0 n : Nat) : Bool :=
  decide (1 ≤ shRows shape) && decide (shRows shape ≤ 32) && decide (r0 + n * shRows shape ≤ 32)

/-- Rows of an accumulator as a store range. -/
def accRows (a r0 n : Nat) : Nat × Nat := (a + 1024 * r0, 1024 * n)

/-- R298, R301: the A rows of all repetitions, 128 bytes each. -/
def feedRows (base step pitch : Word32) (reps rows : Nat) : List (Nat × Nat) :=
  (List.range reps).flatMap fun i => (List.range rows).map fun r =>
    ((base + BitVec.ofNat 32 i * step + BitVec.ofNat 32 r * pitch).toNat, 128)

/-- The advance of a feed register over all repetitions (R173). -/
def CoreState.feed (c : CoreState) (x : BitVec 4) (pi : Bool) (stride : Word32) : CoreState :=
  if pi then c.bumpX x (BitVec.ofNat 32 c.cur.rep * stride) else c

/-- R291: a pairing of activation type and recorded weight type for MMA and MTAP; an empty buffer takes any listed
activation type. -/
def pairsPlain (rec' : Word64) (ty : Nat) : Bool :=
  if !recValid rec' then isInt8 ty || isFp8 ty || ty == 2
  else
    let w := recType rec'
    (isInt8 w && (isInt8 ty || isFp8 ty)) || (isFp8 w && (isInt8 ty || isFp8 ty)) || (w == 2 && ty == 2)

/-- R291: the pairings of MMAZ. -/
def pairsGrouped (rec' : Word64) (ty : Nat) : Bool :=
  recValid rec' && isGrouped (recType rec') && (isInt8 ty || isFp8 ty)

/-- MBLD (R296): the address is checked before the shape. -/
def execMbld (o : OpMbld) (s : State) : Out :=
  s.engGate o.g <|
    let c := s.core
    let shape := c.activeShape o.sh o.swap
    let ty := shType shape
    let at' := (c.xVal o.xd).toNat
    let b := 1 - c.act
    if 0x10000 ≤ at' then s.trap0B
    else if at' % 8 ≠ 0 then s.accTrap ⟨0x0A#8, 0#64⟩ .rd 0 (BitVec.ofNat 64 at') 0#64
    else if !shapeClean shape || (codeBytes ty).isNone then s.trap0B
    else if 0x10000 < at' + columnBytes ty (shGroup shape) then s.trap0B
    else if s.engWait 0 [] [] then s.hold
    else
      let s := s.pushOp 0 (.mbld o) shape [at'] [] [] [] [] [b]
      .next (s.upd fun c =>
        let c := (c.swapped o.sh o.swap).crPut (0x01C + b)
          (BitVec.ofNat 64 (at' + ty * 2 ^ 16 + shGroup shape * 2 ^ 20 + 2 ^ 22))
        if o.pi then c.bumpX o.xd (shStride1 shape) else c)

/-- MBSW (R297): the active index flips as it issues (R289). -/
def execMbsw (o : OpG) (s : State) : Out :=
  s.whenOn o.g <|
    match s.wakeHold with
    | some r => r
    | none =>
      if s.engWait 0 [] [] then s.hold
      else .next ((s.pushOp 0 (.mbsw o) 0#128 [] [] [] [] [] []).upd fun c =>
        c.crPut 0x01B (setBits (c.crGet 0x01B) 0 1 (1 - c.act)))

/-- An MMA-family instruction past its pairing check: rows, destinations, feed rows, waits. `accs` are the
accumulators it writes and `feeds` the A rows. -/
def State.issueMma (s : State) (i : Instr) (shape : BitVec 128) (r0 : Nat) (accs : List (BitVec 3)) (feeds : List (Nat × Nat))
    (done : CoreState → CoreState) : Out :=
  let c := s.core
  let n := c.cur.rep
  if !rowsFit shape r0 n then s.trap0B
  else
    let as := accs.map c.aAddr
    if as.any (·.isNone) then s.trap0B
    else match c.firstBad feeds with
      | some a => s.storeTrap false a
      | none =>
        let as := as.filterMap id
        let busy := as.map fun a => accRows a r0 (n * shRows shape)
        if s.engWait 0 feeds busy then s.hold
        else .next ((s.pushOp 0 i shape (feeds.map (·.1)) as feeds busy [] [c.act, r0]).upd done)

/-- The A rows, once the rows are known to fit. -/
def CoreState.feedsOf (c : CoreState) (shape : BitVec 128) (r0 : Nat) (base step pitch : Word32) : List (Nat × Nat) :=
  if rowsFit shape r0 c.cur.rep then feedRows base step pitch c.cur.rep (shRows shape) else []

/-- MMA (R298). -/
def execMma (o : OpMma) (s : State) : Out :=
  s.engOpen o.g o.sh o.swap (fun sh => pairsPlain (s.core.mbrec s.core.act) (shType sh)) fun s shape =>
    let step := if o.pi then shStride0 shape else 0#32
    s.issueMma (.mma o) shape o.r0.toNat [o.acc] (s.core.feedsOf shape o.r0.toNat (s.core.xVal o.xa) step 128#32) fun c =>
      (c.swapped o.sh o.swap).feed o.xa o.pi step

/-- MMAZ (R300): one partial per group. -/
def execMmaz (o : OpMma) (s : State) : Out :=
  let rec' := s.core.mbrec s.core.act
  s.engOpen o.g o.sh o.swap (fun sh => pairsGrouped rec' (shType sh)) fun s shape =>
    let step := if o.pi then shStride0 shape else 0#32
    let accs := (List.range (128 / tileGroup (recType rec') (recGroup rec'))).map fun g => o.acc + BitVec.ofNat 3 g
    s.issueMma (.mmaz o) shape o.r0.toNat accs (s.core.feedsOf shape o.r0.toNat (s.core.xVal o.xa) step 128#32) fun c =>
      (c.swapped o.sh o.swap).feed o.xa o.pi step

/-- R301: the fields of MTAP's immediate. -/
def mtapR0 (o : OpMtap) : Nat := o.imm.toNat % 32
def mtapPitch (o : OpMtap) : Word32 := BitVec.ofNat 32 (o.imm.toNat / 32)

/-- MTAP (R301); one register named twice advances by both strides and counts twice in the sum. -/
def execMtap (o : OpMtap) (s : State) : Out :=
  s.engOpen o.g o.sh o.swap (fun sh => pairsPlain (s.core.mbrec s.core.act) (shType sh)) fun s shape =>
    let st0 := if o.pi then shStride0 shape else 0#32
    let st1 := if o.pi then shStride1 shape else 0#32
    let base := s.core.xVal o.xa + s.core.xVal o.xd
    let step := if o.xa = o.xd then (st0 + st1) + (st0 + st1) else st0 + st1
    s.issueMma (.mtap o) shape (mtapR0 o) [o.acc] (s.core.feedsOf shape (mtapR0 o) base step (mtapPitch o)) fun c =>
      ((c.swapped o.sh o.swap).feed o.xa o.pi st0).feed o.xd o.pi st1

/-- An accumulate-pipe instruction: its accumulators, the ranges it reads and writes. -/
def State.issueAcc (s : State) (i : Instr) (addrs regs : List Nat) (shape : BitVec 128) (locks busy : List (Nat × Nat))
    (extra : List Nat) (done : CoreState → CoreState) : Out :=
  if s.engWait 0 (locks ++ busy) busy then s.hold
  else .next ((s.pushOp 0 i shape addrs regs locks busy [] extra).upd done)

/-- MSCL (R302). -/
def execMscl (o : OpMscl) (s : State) : Out :=
  let c := s.core
  let rec' := c.mbrec c.act
  s.engOpen o.g o.sh o.swap
    (fun sh => recValid rec' && (shType sh == 0 || shType sh == 9) && shOtype sh == 0 && decide (shRound sh ≤ 3)
      && isGrouped (recType rec') && decide (o.grp.toNat < 128 / tileGroup (recType rec') (recGroup rec'))
      && rowsFit sh o.r0.toNat 1) fun s shape =>
    match c.aAddr o.acc with
    | none => s.trap0B
    | some a =>
      s.issueAcc (.mscl o) [] [a] shape [] [accRows a o.r0.toNat (shRows shape)] [c.act] fun c => c.swapped o.sh o.swap

/-- MZERO (R303). -/
def execMzero (o : OpMzero) (s : State) : Out :=
  s.engOpen o.g o.sh o.swap (fun sh => rowsFit sh o.r0.toNat 1) fun s shape =>
    match s.core.aAddr o.acc with
    | none => s.trap0B
    | some a => s.issueAcc (.mzero o) [] [a] shape [] [accRows a o.r0.toNat (shRows shape)] [] fun c => c.swapped o.sh o.swap

/-- MACC (R304). -/
def execMacc (o : OpMacc) (s : State) : Out :=
  let c := s.core
  let n := c.cur.rep
  s.engOpen o.g o.sh o.swap
    (fun sh => (shType sh == 0 || shType sh == 9) && decide (shRound sh ≤ 3) && rowsFit sh o.r0.toNat (if o.ss then 1 else n))
    fun s shape =>
    let srcs := if o.ss then (List.range (if n < 8 then n else 8)).map fun i => c.aAddr (o.src + BitVec.ofNat 3 i) else [c.aAddr o.src]
    match c.aAddr o.acc with
    | none => s.trap0B
    | some a =>
      if srcs.any (·.isNone) then s.trap0B
      else
        let srcs := srcs.filterMap id
        let rows := if o.ss then shRows shape else n * shRows shape
        s.issueAcc (.macc o) [] (a :: srcs) shape (srcs.map fun r => accRows r o.r0.toNat rows) [accRows a o.r0.toNat rows] []
          fun c => c.swapped o.sh o.swap

/-- R305: the types of MOUT's result. -/
def outTypes : List Nat := [0, 1, 2, 3, 4, 5, 6, 7, 8, 9, 10]

/-- MOUT (R305). -/
def execMout (o : OpMma) (s : State) : Out :=
  let c := s.core
  s.engOpen o.g o.sh o.swap
    (fun sh => (shType sh == 0 || shType sh == 9) && outTypes.contains (shOtype sh) && decide (shRound sh ≤ 3)
      && rowsFit sh o.r0.toNat 1 && decide (1 ≤ shCols sh) && decide (shCols sh ≤ 256)) fun s shape =>
    let w := tyBits (shOtype shape) / 8
    let x := (c.xVal o.xa).toNat
    let range := (x, shRows shape * shCols shape * w)
    match c.aAddr o.acc with
    | none => s.trap0B
    | some a =>
      if x % w ≠ 0 then s.accTrap ⟨0x0A#8, 0#64⟩ .wr 0 (BitVec.ofNat 64 x) 0#64
      else if !c.storeOk range.1 range.2 then s.storeTrap true x
      else
        let locks := [accRows a o.r0.toNat (shRows shape)]
        if s.engWait 0 locks [range] then s.hold
        else .next ((s.pushOp 0 (.mout o) shape [x] [a] locks [range] [] []).upd fun c =>
          let c := c.swapped o.sh o.swap
          if o.pi then c.bumpX o.xa (shStride0 shape) else c)

/-! ### Performing -/

/-- R285: the deck address of the first 32-byte word of a tile that cannot be corrected. -/
def State.badWord (s : State) (off n : Nat) : Option Nat :=
  (List.range 256).findSome? fun k =>
    let lo := (k * 65536 + off) / 32
    (List.range ((off % 32 + n + 31) / 32)).findSome? fun w =>
      if s.poisoned (Loc.deck s.core.id.toNat (32 * (lo + w))) 32 then some (32 * (lo + w)) else none

/-- R296, R285: MBLD: the tile into its buffer, or an empty buffer and a consumed error; VALID then clears unless a later MBLD
has already recorded itself there. -/
def State.performMbld (s : State) (o : EngineOp) : State :=
  let off := o.addrs.headD 0
  let b := o.extra.headD 0
  let n := columnBytes (shType o.shape) (shGroup o.shape)
  match s.badWord off n with
  | some a =>
    let later := s.core.ops.any fun p => (match p.instr with | .mbld _ => true | _ => false) && decide (o.uid < p.uid) && p.extra.headD 0 == b
    let t := (s.endOp o).upd fun c =>
      let c := c.setBuf b .empty
      if later then c else c.crPut (0x01C + b) (setBits (c.mbrec b) 22 1 0)
    t.consume o.seq o.pc 4 3 (BitVec.ofNat 64 a)
  | none => (s.charge s.core.launchKey 3 ((n + 31) / 32)).loadBuf o

/-- R440: the array rows and accumulate-pipe cycles of an operation. -/
def mCharge (o : EngineOp) : Nat × Nat :=
  let rows := shRows o.shape
  match o.instr with
  | .mma _ | .mmaz _ | .mtap _ => (2, o.addrs.length)
  | .mscl _ | .mzero _ => (4, (rows + 7) / 8)
  | .macc _ => (4, o.rep * ((rows + 7) / 8))
  | .mout _ => (4, rows * ((shCols o.shape * (tyBits (shOtype o.shape) / 8) + 127) / 128))
  | _ => (2, 0)

/-- R290, R306: the flags of an operation gathered in MSTAT. -/
def CoreState.mFlags (c : CoreState) (fl : Flags) : CoreState := c.crPut 0x01B (c.crGet 0x01B ||| (fl.setWidth 64 <<< 8))

/-- What an M operation reads of the store. -/
def EngineOp.mReads (o : EngineOp) : List (Nat × Nat) :=
  match o.instr with
  | .macc _ | .mscl _ => o.locks ++ o.busy
  | _ => o.locks

/-- M_OPERATION_DONE (R292, R306, R307): the oldest M operation of the core performs. -/
def execMOperationDone (s : State) : Out :=
  match s.core.queue 0 with
  | [] => .next s
  | o :: _ =>
    match o.instr with
    | .mbld _ =>
      let t := s.performMbld o
      .next (if t.core.ops.any (·.uid == o.uid) then t.endOp o else t)
    | _ =>
      match s.badStore o.mReads with
      | some a => .next (s.opConsume o 4 2 (BitVec.ofNat 64 a))
      | none =>
        let (t, fl) := s.performM o
        let k := mCharge o
        let t := (t.endOp o).charge s.core.launchKey k.1 k.2
        .next ((t.upd (·.mFlags (allFlags fl))).ticked.raise o fl)

end Sys2Proof.Machine
end

