-- ==== Sys2Proof/Machine/Ladder.lean ====
section
/-! DEFINITION. The Ladder (R312 to R328): the serial definition of its scans, the N instructions at issue, and what each
operation does when it performs. -/

namespace Sys2Proof.Machine

/-- NCONF as the LCFG operations issued so far leave it (R314). -/
def CoreState.nconf (c : CoreState) : Nat := (c.crGet 0x01F).toNat

/-! ### Issue (R316, R317) -/

/-- A range an N instruction reaches: whether it is an output, its address and its length. -/
structure RowUse where
  out : Bool
  a : Nat
  n : Nat
  deriving DecidableEq, Repr

/-- `n` rows of 128 bytes from an address. -/
def rowUses (out : Bool) (base : Word32) (t0 n : Nat) : List RowUse :=
  (List.range n).map fun t => ⟨out, (base + BitVec.ofNat 32 (128 * (t0 + t))).toNat, 128⟩

/-- R317: the first row whose address is no multiple of 4 or that R78 does not allow. -/
def State.rowTrap (s : State) (us : List RowUse) : Option Out :=
  (us.find? fun u => u.a % 4 != 0 || !s.core.storeOk u.a u.n).map fun u =>
    if u.a % 4 ≠ 0 then s.accTrap ⟨0x0A#8, 0#64⟩ (if u.out then .wr else .rd) 0 (BitVec.ofNat 64 u.a) 0#64
    else s.storeTrap u.out u.a

def usesOf (out : Bool) (us : List RowUse) : List (Nat × Nat) := (us.filter (·.out == out)).map fun u => (u.a, u.n)

/-- LCFG.set (R318). -/
def execLcfgSet (o : OpLcfgSet) (s : State) : Out :=
  s.engGate o.g <|
    if s.engWait 1 [] [] then s.hold
    else .next ((s.pushOp 1 (.lcfgSet o) 0#128 [] [] [] [] [] [s.core.nconf]).upd fun c =>
      (c.swapped o.sh o.swap).crPut 0x01F (BitVec.ofNat 64 (o.cc.toNat + 8 * o.lanes.toNat + 256 * o.out.toNat)))

/-- LCFG.clear (R318). -/
def execLcfgClear (o : OpLcfgClear) (s : State) : Out :=
  s.engGate o.g <|
    if s.engWait 1 [] [] then s.hold
    else .next ((s.pushOp 1 (.lcfgClear o) 0#128 [] [] [] [] [] []).upd (·.swapped o.sh o.swap))

/-- LCFG.load and LCFG.save: the 256 bytes at the address, locked or busy, and the advance. -/
def State.lcfgMove (s : State) (o : OpLcfgX) (i : Instr) (out : Bool) : Out :=
  s.engGate o.g <|
    let shape := s.core.activeShape o.sh o.swap
    let a := (s.core.xVal o.x).toNat
    let r := [(a, 256)]
    if a % 128 ≠ 0 then s.accTrap ⟨0x0A#8, 0#64⟩ (if out then .wr else .rd) 0 (BitVec.ofNat 64 a) 0#64
    else if !s.core.storeOk a 256 then s.storeTrap out a
    else if s.engWait 1 (if out then [] else r) (if out then r else []) then s.hold
    else .next ((s.pushOp 1 i shape [a] [] (if out then [] else r) (if out then r else []) [] []).upd fun c =>
      let c := c.swapped o.sh o.swap
      if o.pi then c.bumpX o.x (if out then shStride1 shape else shStride0 shape) else c)

def execLcfgLoad (o : OpLcfgX) (s : State) : Out := s.lcfgMove o (.lcfgLoad o) false
def execLcfgSave (o : OpLcfgX) (s : State) : Out := s.lcfgMove o (.lcfgSave o) true

/-- R173: the value of a feed register in each repetition. -/
def feedBases (base step : Word32) (n : Nat) : List Word32 := (List.range n).map fun i => base + BitVec.ofNat 32 i * step

/-- A scan, LGATE or LMAT past its shape check: its rows in every repetition, `acc` the accumulator rows it also reads
and writes. One register named twice advances by both strides (R321). -/
def State.issueRows (s : State) (i : Instr) (shape : BitVec 128) (xa xb : BitVec 4) (sh : BitVec 2) (pi swap : Bool) (acc : List (Nat × Nat))
    (rows : Word32 → Word32 → List RowUse) : Out :=
  let c := s.core
  let n := c.cur.rep
  let st0 := if pi then shStride0 shape else 0#32
  let st1 := if pi then shStride1 shape else 0#32
  let both := st0 + st1
  let bases := List.zip (feedBases (c.xVal xa) (if xa = xb then both else st0) n) (feedBases (c.xVal xb) (if xa = xb then both else st1) n)
  let us := bases.flatMap fun b => rows b.1 b.2
  match s.rowTrap us with
  | some t => t
  | none =>
    let locks := usesOf false us
    let busy := acc ++ usesOf true us
    if s.engWait 1 (locks ++ acc) busy then s.hold
    else .next ((s.pushOp 1 i shape (bases.flatMap fun b => [b.1.toNat, b.2.toNat]) (acc.map (·.1)) locks busy [] [c.nconf]).upd
      fun c => ((c.swapped sh swap).feed xa pi st0).feed xb pi st1)

/-- R321: the rows of a scan's repetition. -/
def scanRows (conf : Nat) (comp : Bool) (a b : Word32) : List RowUse :=
  let C := confChunk conf
  let out (t0 : Nat) : List RowUse :=
    if confOut conf = 0 then rowUses true b t0 C else if confOut conf = 1 then rowUses true b (t0 + C - 1) 1 else []
  rowUses false a 0 C ++ rowUses false b 0 C ++ out 0 ++ (if comp then out C else [])

/-- R317: the shape of a scan, LGATE or LMAT: TYPE .f32, ROUND checked where it is read. -/
def ladderShape (rounds : Bool) (sh : BitVec 128) : Bool := shType sh == 0 && (!rounds || decide (shRound sh ≤ 3))

/-- LSCAN (R317, R321). -/
def execLscan (o : OpScan) (s : State) : Out :=
  s.engOpen o.g o.sh o.swap (ladderShape true) fun s shape =>
    s.issueRows (.lscan o) shape o.xa o.xb o.sh o.pi o.swap [] (scanRows s.core.nconf false)

/-- LSCANC (R317, R321). -/
def execLscanc (o : OpScan) (s : State) : Out :=
  s.engOpen o.g o.sh o.swap (ladderShape false) fun s shape =>
    s.issueRows (.lscanc o) shape o.xa o.xb o.sh o.pi o.swap [] (scanRows s.core.nconf true)

/-- LGATE (R317, R323). -/
def execLgate (o : OpLgate) (s : State) : Out :=
  s.engOpen o.g o.sh o.swap (ladderShape false) fun s shape =>
    let C := confChunk s.core.nconf
    s.issueRows (.lgate o) shape o.xa o.xb o.sh o.pi o.swap []
      fun a b => rowUses false a 0 C ++ rowUses true b 0 (2 * C)

/-- R324: the partial rows of LMAT, 1,024 bytes each. -/
def partialRows (b : Word32) (n : Nat) : List RowUse :=
  (List.range n).map fun r => ⟨false, (b + BitVec.ofNat 32 (1024 * r)).toNat, 1024⟩

/-- LMAT (R317, R324). -/
def execLmat (o : OpLmat) (s : State) : Out :=
  s.engOpen o.g o.sh o.swap (fun sh => ladderShape true sh && rowsFit sh o.r0.toNat 1) fun s shape =>
    match s.core.aAddr o.acc with
    | none => s.trap0B
    | some a =>
      s.issueRows (.lmat o) shape o.xa o.xb o.sh o.pi o.swap [accRows a o.r0.toNat (shRows shape)]
        fun x b => rowUses false x 0 1 ++ partialRows b (shRows shape)

/-! ### Performing -/

/-- R325, R440: the cycles an operation occupies the Ladder. -/
def nCharge (o : EngineOp) : Nat :=
  let C := confChunk (o.extra.headD 0)
  match o.instr with
  | .lcfgLoad _ | .lcfgSave _ => 2
  | .lscan _ => o.rep * C
  | .lscanc _ | .lgate _ => o.rep * (2 * C)
  | .lmat _ => o.rep * (8 * shRows o.shape)
  | _ => 1

/-- R313, R322: the flags of an operation gathered in NSTAT. -/
def CoreState.nFlags (c : CoreState) (fl : List (Nat × Flags)) : CoreState :=
  c.crPut 0x01E (fl.foldl (fun v p =>
    v ||| p.2.setWidth 64 ||| (if p.2 &&& Flags.faded = 0#7 then 0#64 else BitVec.ofNat 64 (2 ^ (32 + p.1)))) (c.crGet 0x01E))

/-- R312, R324: the bytes an operation reads of its ranges in repetition `i`: the participating lanes of a row, the gates of
LMAT. -/
def EngineOp.nReads (o : EngineOp) (i : Nat) : List (Nat × Nat) :=
  let k := o.locks.length / o.rep
  let part (n : Nat) : List (Nat × Nat) := ((o.locks.drop (i * k)).take k).map fun r => if r.2 = 128 then (r.1, 4 * n) else r
  match o.instr with
  | .lmat _ => part (shRows o.shape) ++ o.busy
  | .lscan _ | .lscanc _ | .lgate _ => part (confLanes (o.extra.headD 0))
  | _ => o.locks

/-- R314: the first `i` repetitions of an operation, and the others. -/
def EngineOp.firstReps (o : EngineOp) (i : Nat) : EngineOp := { o with addrs := o.addrs.take (2 * i), rep := i }

def EngineOp.laterReps (o : EngineOp) (i : Nat) : EngineOp :=
  { o with
    addrs := o.addrs.drop (2 * i), rep := o.rep - i
    instr := match o.instr with
      | .lscan j => .lscan { j with z := j.z && i == 0 }
      | .lscanc j => .lscanc { j with z := j.z && i == 0 }
      | j => j }

/-- R314: the first repetition that reads a poisoned byte once those before it have performed, and where. -/
def State.badRep (s : State) (o : EngineOp) : Option (Nat × Nat) :=
  (List.range o.rep).findSome? fun i => ((s.performN (o.firstReps i)).s.badStore (o.nReads i)).map fun a => (i, a)

/-- N_OPERATION_DONE (R314, R322, R328): the oldest N operation of the core performs, repetition by repetition; one that
consumes an error is abandoned with those after it. -/
def execNOperationDone (s : State) : Out :=
  match s.core.queue 1 with
  | [] => .next s
  | o :: _ =>
    match s.badRep o with
    | some (0, a) => .next (s.opConsume o 5 2 (BitVec.ofNat 64 a))
    | some (i, a) =>
      let t := s.performN (o.firstReps i)
      let left := o.laterReps i
      let u := t.s.upd fun c => { c.nFlags t.fl with ops := c.ops.map fun p => if p.uid = o.uid then left else p }
      .next (u.opConsume left 5 2 (BitVec.ofNat 64 a))
    | none =>
      let t := s.performN o
      let s := (t.s.endOp o).charge s.core.launchKey 5 (nCharge o)
      .next ((s.upd (·.nFlags t.fl)).raise o t.fl)

end Sys2Proof.Machine
end

