-- ==== Sys2Proof/Machine/Copy.lean ====
section
/-! DEFINITION. The copy units (R255 to R273): channels, the checks of a copy, its segments and how each lands; and the
barriers (R274 to R279). -/

namespace Sys2Proof.Machine

/-! ### Addresses and pieces (R256, R260) -/

/-- R256: the high bits of a global address, from a channel. -/
def CoreState.ghi (c : CoreState) (ch : Nat) (dst : Bool) : Nat := bitsOf (c.crGet (0x0A0 + ch)) (if dst then 48 else 32) 16

/-- R256: an address of a space code, some bytes on. -/
def spaceAddr (code : Nat) (x : Word32) (ghi : Nat) (off : Int) : Nat :=
  if code = 0 then (((ghi * 2 ^ 32 + x.toNat : Nat) + off) % (2 ^ 48 : Nat)).toNat else (((x.toNat : Int) + off) % (2 ^ 32 : Nat)).toNat

/-- A run of bytes of one page, or of one scratchpad, store or deck. -/
structure Piece where
  loc : Nat
  n : Nat
  va : Nat
  page : Option Page
  deriving DecidableEq, Repr

/-- R260: the pieces of a range of device virtual addresses, page by page; the decoded view and remote
windows line by line. Under `raw` a page that is not raw LPDDR-6 fails (R267). -/
def State.vaPieces (s : State) (k : AccKind) (raw : Bool) : Nat → Nat → Nat → Except (Nat × AccFault) (List Piece)
  | 0, _, _ => .ok []
  | fuel + 1, va, n =>
    if n = 0 then .ok []
    else if 2 ^ 48 ≤ va then .error (va, ⟨0x0B#8, 0#64⟩)
    else match s.placeVA (cluster s.core.id) (s.core.crGet 0x018) s.core.sup va k with
      | .error f => .error (va, f)
      | .ok p =>
        if raw && !isRaw p.loc then .error (va, ⟨0x20#8, 0#64⟩)
        else
        let most := if isDecoded p.loc || isRemote p.loc then 256 - va % 256 else 65536 - va % 65536
        let m := if n < most then n else most
        match s.vaPieces k raw fuel (va + m) (n - m) with
        | .error e => .error e
        | .ok t => .ok (⟨p.loc, m, va, p.page⟩ :: t)

/-- R402: a range of a peer's scratchpad, line by line. -/
def linePieces : Nat → Nat → Nat → Nat → List Piece
  | 0, _, _, _ => []
  | fuel + 1, loc, va, n =>
    let m := if n < 256 - loc % 256 then n else 256 - loc % 256
    if n = 0 then [] else ⟨loc, m, va, none⟩ :: linePieces fuel (loc + m) (va + m) (n - m)

/-- R123, R125, R131, R260: the pieces of a range in a space: codes 0 to 3 of R55, 4 the deck, 5 raw LPDDR-6 (R267), any
other none at all. An address is a row's: past the bits of its space it lies outside (log entry 43). -/
def State.copyPieces (s : State) (code a n : Nat) (k : AccKind) : Except (Nat × AccFault) (List Piece) :=
  let c := s.core
  let bad : Except (Nat × AccFault) (List Piece) := .error (a, ⟨0x0B#8, 0#64⟩)
  match code with
  | 0 => s.vaPieces k false (n / 256 + 2) a n
  | 1 => if a / 2 ^ 22 = 0 ∧ c.ownsSpad a n = true then .ok [⟨Loc.spad (cluster c.id) a, n, a, none⟩] else bad
  | 2 =>
    let cl := a / 2 ^ 22
    let l := a % 2 ^ 22
    let pieces := linePieces (n / 256 + 2) (Loc.spad cl l) a n
    if 32 ≤ cl then bad
    else if cl = cluster c.id then (if c.ownsSpad l n then .ok pieces else bad)
    else match s.peerSpad c cl l n with
      | some p => .ok (pieces.map fun q => { q with page := some p })
      | none => bad
  | 3 => if c.storeOk a n then .ok [⟨s.st a, n, a, none⟩] else bad
  | 4 => .ok [⟨Loc.deck c.id.toNat a, n, a, none⟩]
  | 5 => s.vaPieces k true (n / 256 + 2) a n
  | _ => bad

/-- One run of a row: its source and destination addresses, its length; `zero` is never read (R265). -/
structure RowMove where
  row : Nat
  src : Nat
  dst : Nat
  n : Nat
  zero : Bool
  tag : Nat
  deriving DecidableEq, Repr

/-- A fault of the check of a copy: the row, the address, and whether it is the destination's. -/
structure MoveErr where
  row : Nat
  addr : Nat
  fault : AccFault
  write : Bool
  deriving DecidableEq, Repr

/-- The segments of two lists of pieces of one length. -/
def joinPieces (m : RowMove) (w : Nat) : Nat → Nat → List Piece → List Piece → List Seg
  | fuel + 1, off, p :: ps, q :: qs =>
    let n := if p.n < q.n then p.n else q.n
    let rest (x : Piece) (t : List Piece) : List Piece :=
      if n < x.n then { x with loc := x.loc + n, va := x.va + n, n := x.n - n } :: t else t
    ⟨p.loc, q.loc, n, m.zero, p.va, q.va, m.row, m.tag + off / w, 0, [], none⟩ :: joinPieces m w fuel (off + n) (rest p ps) (rest q qs)
  | _, _, _, _ => []

/-- R123: an address register holds a bit that must be zero. -/
def regBad (code : Nat) (x : Word32) : Bool := (code == 1 && decide (2 ^ 22 ≤ x.toNat)) || (code == 2 && decide (2 ^ 27 ≤ x.toNat))

/-- What a copy's operands are: the source space, the width and alignment of its elements (R259), the destinations of a
run, whether an address register is out of its space (R123), and how its writes are recorded (R132). -/
structure CopyForm where
  ssp : Nat
  al : Nat
  dsts : RowMove → List (Nat × Nat)
  sbad : Bool
  dbad : Bool
  kind : AccKind

/-- R131, R260: one run checked against one destination. -/
def State.moveTo (s : State) (f : CopyForm) (m : RowMove) (src : List Piece) (d : Nat × Nat) : Except MoveErr (List Seg × List Page) :=
  if d.2 % f.al ≠ 0 then .error ⟨m.row, d.2, ⟨0x0A#8, 0#64⟩, true⟩
  else if f.dbad then .error ⟨m.row, d.2, ⟨0x0B#8, 0#64⟩, true⟩
  else match s.copyPieces d.1 d.2 m.n f.kind with
    | .error e => .error ⟨m.row, e.1, e.2, true⟩
    | .ok qs => .ok (joinPieces m f.al (src.length + qs.length) 0 src qs, qs.filterMap (·.page))

/-- R266: the segments of a run to its first destination, with its other destinations. -/
def withMore : List (List Seg) → List Seg
  | [] => []
  | gs :: rest => gs.zipIdx.map fun g => { g.1 with more := rest.filterMap fun hs => (hs[g.2]?).map (·.dst) }

/-- R131, R260: one run checked, its source before its destinations. -/
def State.moveOne (s : State) (f : CopyForm) (m : RowMove) : Except MoveErr (List Seg × List Page) :=
  if m.n = 0 then .ok ([], [])
  else if !m.zero && m.src % f.al != 0 then .error ⟨m.row, m.src, ⟨0x0A#8, 0#64⟩, false⟩
  else if !m.zero && f.sbad then .error ⟨m.row, m.src, ⟨0x0B#8, 0#64⟩, false⟩
  else match (if m.zero then .ok [⟨0, m.n, 0, none⟩] else s.copyPieces f.ssp m.src m.n .rd) with
    | .error e => .error ⟨m.row, e.1, e.2, false⟩
    | .ok ps =>
      let all : Except MoveErr (List (List Seg) × List Page) := (f.dsts m).foldl (fun a d => match a with
        | .error e => .error e
        | .ok (gs, pg) => (match s.moveTo f m ps d with | .error e => .error e | .ok (hs, ph) => .ok (gs ++ [hs], pg ++ ph)))
        (.ok ([], ps.filterMap (·.page)))
      all.map fun r => (withMore r.1, r.2)

/-- R260: the rows in ascending order, up to the first fault. -/
def State.checkMoves (s : State) (f : CopyForm) : List RowMove → Except MoveErr (List Seg × List Page)
  | [] => .ok ([], [])
  | m :: t =>
    match s.moveOne f m with
    | .error e => .error e
    | .ok (gs, pg) =>
      match s.checkMoves f t with
      | .error e => .error e
      | .ok (hs, ph) => .ok (gs ++ hs, pg ++ ph)

/-! ### Issue -/

/-- R259: a tile that exists. -/
def tileOk (sh : BitVec 128) : Bool :=
  shRows sh != 0 && shCols sh != 0 && !(shType sh == 13 && shCols sh % 2 == 1) && decide (shRows sh * rowBytes sh ≤ 2 ^ 24)

/-- The store ranges of some runs of locations of the core. -/
def State.storeRuns (s : State) (rs : List (Nat × Nat)) : List (Nat × Nat) :=
  rs.filterMap fun r => if s.st 0 ≤ r.1 ∧ r.1 < s.st 0 + 2 ^ 20 then some (r.1 - s.st 0, r.2) else none

/-- R85, R263, R272, R339, R261: a copy that has passed its checks cannot issue now. `list` is CPYG's list. -/
def State.copyHeld (s : State) (ssp : Nat) (segs : List Seg) (list : List (Nat × Nat)) : Bool :=
  let c := s.core
  let srcs := segs.filterMap Seg.from?
  c.copiesFull
    || segs.any (fun g => !g.zero && c.wmWait ssp g.sva g.n)
    || segs.any (fun g => (!g.zero && s.bankWait g.src g.n false) || g.dsts.any fun d => s.bankWait d g.n true)
    || s.storeWait (some (c.cur.slot - 4)) (s.storeRuns srcs ++ list) (s.storeRuns (segs.map fun g => (g.dst, g.n)))

/-- R262: where a copy's source and destination overlap, the source as it stands now, and its runs. -/
def overlapRuns (segs : List Seg) : List (Nat × Nat) :=
  let srcs := segs.filterMap Seg.from?
  if srcs.any fun r => segs.any fun g => g.dsts.any fun d => runsMeet r.1 r.2 d g.n then srcs else []

/-- A copy enters its queue (R263, R440). -/
def State.pushCopy (s : State) (i : Instr) (shape : BitVec 128) (segs : List Seg) (list : List (Nat × Nat)) (extra : List Nat) : State :=
  let ov := overlapRuns segs
  let s := s.upd fun c => { c with
    cur := { c.cur with oldMem := c.cur.oldMem ++ ov.map fun r => (r.1, s.bytesOver c.cur.oldMem r.1 r.2) } }
  s.pushOp (s.core.cur.slot - 4) i shape (ov.flatMap fun r => [r.1, r.2]) (list.flatMap fun r => [r.1, r.2])
    (s.storeRuns (segs.filterMap Seg.from?) ++ list) (s.storeRuns (segs.map fun g => (g.dst, g.n))) segs
    ((segs.map fun g => g.n * g.dsts.length).sum :: extra)

/-- A copy with its rows: checked, held, or issued. -/
def State.copyGo (s : State) (i : Instr) (shape : BitVec 128) (f : CopyForm) (moves : List RowMove) (list : List (Nat × Nat))
    (extra : List Nat) (done : CoreState → CoreState) : Out :=
  match s.checkMoves f moves with
  | .error e => s.accTrap e.fault (if e.write then f.kind else .rd) e.row (BitVec.ofNat 64 e.addr) 0#64
  | .ok (segs, pages) =>
    let s := pages.foldl State.usePage s
    if s.copyHeld f.ssp segs list then s.hold
    else .next ((s.pushCopy i shape segs list extra).upd done)

/-- The issue of a copy: its guard (R49), a gated unit (R196), its shape (R83, R259). -/
def State.copyOpen (s : State) (g : BitVec 4) (sh : BitVec 2) (swap : Bool) (ok : BitVec 128 → Bool) (k : BitVec 128 → Out) : Out :=
  s.whenOn g <|
    match s.wakeHold with
    | some o => o
    | none =>
      let shape := s.core.activeShape sh swap
      if !(shapeClean shape && tileOk shape && ok shape) then s.trap0B else k shape

/-- R264: the rows of a plain tile. -/
def plainRows (shape : BitVec 128) (src dst : Int → Nat) : List RowMove :=
  (List.range (shRows shape)).map fun r =>
    ⟨r, src (r * (shStride0 shape).toInt), dst (r * (shStride1 shape).toInt), rowBytes shape, false, 0⟩

/-- CPY (R264). -/
def execCpy (o : OpCpy) (s : State) : Out :=
  let c := s.core
  let ssp := o.ssp.toNat
  let dsp := o.dsp.toNat
  s.copyOpen o.g o.sh o.swap (fun _ => true) fun shape =>
    s.copyGo (.cpy o) shape ⟨ssp, rowAlign shape, fun m => [(dsp, m.dst)], regBad ssp (c.xVal o.xs), regBad dsp (c.xVal o.xd), .wr⟩
      (plainRows shape (spaceAddr ssp (c.xVal o.xs) (c.ghi o.ch.toNat false)) (spaceAddr dsp (c.xVal o.xd) (c.ghi o.ch.toNat true)))
      [] [] (·.swapped o.sh o.swap)

/-- R265: the runs of row r of a haloed tile: left halo, middle, right halo. -/
def haloRow (shape : BitVec 128) (edge : BitVec 4) (src dst : Int → Nat) (i : Nat) : List RowMove :=
  let h := shGroup shape + 1
  let w := rowAlign shape
  let r : Int := (i : Int) - h
  let off : Int := r * (shStride0 shape).toInt
  let to' : Int := i * (shStride1 shape).toInt
  let dark := (edge.getLsbD 0 && decide (r < 0)) || (edge.getLsbD 1 && decide ((shRows shape : Int) ≤ r))
  let run (c0 : Int) (n : Nat) (z : Bool) : RowMove :=
    ⟨i, src (off + c0 * w), dst (to' + (c0 + h) * w), n * w, dark || z, 0⟩
  [run (-h) h (edge.getLsbD 2), run 0 (shCols shape) false, run (shCols shape) h (edge.getLsbD 3)]

/-- CPYH (R265). -/
def execCpyh (o : OpCpyh) (s : State) : Out :=
  let c := s.core
  let ssp := o.ssp.toNat
  let dsp := o.dsp.toNat
  s.copyOpen o.g o.sh o.swap (fun sh => shType sh != 13) fun shape =>
    s.copyGo (.cpyh o) shape ⟨ssp, rowAlign shape, fun m => [(dsp, m.dst)], regBad ssp (c.xVal o.xs), regBad dsp (c.xVal o.xd), .wr⟩
      ((List.range (shRows shape + 2 * (shGroup shape + 1))).flatMap
        (haloRow shape o.edge (spaceAddr ssp (c.xVal o.xs) (c.ghi 0 false)) (spaceAddr dsp (c.xVal o.xd) (c.ghi 0 true))))
      [] [] (·.swapped o.sh o.swap)

/-- R266: the receivers of a mask. -/
def receivers (mask : Word32) : List Nat := (List.range 32).filter fun i => mask.getLsbD i

/-- CPYM (R266). -/
def execCpym (o : OpCpym) (s : State) : Out :=
  let c := s.core
  let ssp := o.ssp.toNat
  let d := c.xVal o.xd
  let cls := receivers (c.xVal (o.xd + 1#4))
  s.copyOpen o.g o.sh o.swap (fun _ => true) fun shape =>
    if d.toNat / 2 ^ 22 ≠ 0 then s.trap0B
    else if cls.isEmpty then .next (s.upd (·.swapped o.sh o.swap))
    else
      let own (cl : Nat) : Option (Nat × Nat) := if cl = cluster c.id then some (bitsOf (c.crGet 0x01A) 0 6, bitsOf (c.crGet 0x01A) 6 7)
        else (s.peerSpad c cl d.toNat (rowBytes shape)).map Page.partition
      let to' (m : RowMove) (cl : Nat) : Nat × Nat :=
        if 2 ^ 22 ≤ m.dst then (6, m.dst)
        else (if (own cl).any fun p => inPartition p.1 p.2 m.dst m.n then 2 else 6, cl * 2 ^ 22 + m.dst)
      s.copyGo (.cpym o) shape ⟨ssp, rowAlign shape, fun m => cls.map (to' m), regBad ssp (c.xVal o.xs), false, .wr⟩
        (plainRows shape (spaceAddr ssp (c.xVal o.xs) (c.ghi o.ch.toNat false)) (spaceAddr 1 d 0)) [] [] (·.swapped o.sh o.swap)

/-- R267: the types and operations of CPYR. -/
def cpyrOk (op : Nat) (sh : BitVec 128) : Bool :=
  [0, 9, 10, 11, 12].contains (shType sh) && !(shType sh == 0 && decide (3 ≤ op)) && decide (shRound sh ≤ 3)

/-- R267, R384: the runs of 32 elements of a tile, in row and column order. -/
def runRows (shape : BitVec 128) (src dst : Int → Nat) : List RowMove :=
  let w := rowAlign shape
  let per := (shCols shape + 31) / 32
  (List.range (shRows shape)).flatMap fun r => (List.range per).map fun k =>
    let n := if shCols shape < 32 * (k + 1) then shCols shape - 32 * k else 32
    ⟨r, src (r * (shStride0 shape).toInt + 32 * k * w), dst (r * (shStride1 shape).toInt + 32 * k * w), n * w, false, 32 * (r * per + k)⟩

/-- CPYR (R267). -/
def execCpyr (o : OpCpyr) (s : State) : Out :=
  let c := s.core
  let ssp := o.ssp.toNat
  s.copyOpen o.g o.sh o.swap (cpyrOk o.op.toNat) fun shape =>
    let runs := runRows shape (spaceAddr ssp (c.xVal o.xs) 0) (spaceAddr 0 (c.xVal o.xd) (c.ghi 0 true))
    s.copyGo (.cpyr o) shape ⟨ssp, rowAlign shape, fun m => [(5, m.dst)], regBad ssp (c.xVal o.xs), false, .at⟩ runs []
      [(c.crGet 0x127).toNat] fun c => (c.swapped o.sh o.swap).bumpSeq runs.length

/-- CPYG (R268): the list is read and checked with the rows. -/
def execCpyg (o : OpCpy) (s : State) : Out :=
  let c := s.core
  let ssp := o.ssp.toNat
  let dsp := o.dsp.toNat
  s.copyOpen o.g o.sh o.swap (fun _ => true) fun shape =>
    let a := (c.xVal (o.xs + 1#4)).toNat
    let n := 4 * shRows shape
    if a % 4 ≠ 0 then s.accTrap ⟨0x0A#8, 0#64⟩ .rd 0 (BitVec.ofNat 64 a) 0#64
    else if !c.storeOk a n then s.storeTrap false a
    else if s.storeWait none [(a, n)] [] then s.holdUnchecked
    else if s.poisoned (s.st a) n then s.consumeHere (s.st a) (BitVec.ofNat 64 a)
    else
      let list := s.readSync (s.st a) n
      let idx (r : Nat) : Nat := leNat ((list.drop (4 * r)).take 4)
      let src := spaceAddr ssp (c.xVal o.xs) (c.ghi o.ch.toNat false)
      let dst := spaceAddr dsp (c.xVal o.xd) (c.ghi o.ch.toNat true)
      s.copyGo (.cpyg o) shape ⟨ssp, rowAlign shape, fun m => [(dsp, m.dst)], regBad ssp (c.xVal o.xs), regBad dsp (c.xVal o.xd), .wr⟩
        ((List.range (shRows shape)).map fun r =>
          ⟨r, src (idx r * (shStride0 shape).toInt), dst (r * (shStride1 shape).toInt), rowBytes shape, false, 0⟩)
        [(a, n)] [] (·.swapped o.sh o.swap)

/-- CPYD (R269). -/
def execCpyd (o : OpCpym) (s : State) : Out :=
  let c := s.core
  let ssp := o.ssp.toNat
  let d := (c.xVal o.xd).toNat
  s.copyOpen o.g o.sh o.swap (fun sh => tyNibbles (shType sh) == 2 || shType sh == 13 || shType sh == 2) fun shape =>
    if 2 ^ 24 ≤ d ∨ 256 < d / 65536 + shRows shape ∨ 65536 < d % 65536 + rowBytes shape then s.trap0B
    else
      let src := spaceAddr ssp (c.xVal o.xs) (c.ghi o.ch.toNat false)
      s.copyGo (.cpyd o) shape ⟨ssp, rowAlign shape, fun m => [(4, m.dst)], regBad ssp (c.xVal o.xs), false, .wr⟩
        ((List.range (shRows shape)).map fun j =>
          ⟨j, src (j * (shStride0 shape).toInt), d + 65536 * j, rowBytes shape, false, 0⟩)
        [] [] (·.swapped o.sh o.swap)

/-! ### Watermarks (R270 to R273) -/

/-- The channel a copy fills (R271), and the space of its destination. -/
def wChannel : Instr → Option (Nat × Nat)
  | .cpy o => if o.w then some (o.ch.toNat, o.dsp.toNat) else none
  | .cpyg o => if o.w then some (o.ch.toNat, o.dsp.toNat) else none
  | _ => none

/-- R270: the bytes of a space code. -/
def spaceSize (code : Nat) : Nat := match code with | 0 => 2 ^ 48 | 1 => 2 ^ 22 | 2 => 2 ^ 27 | _ => 2 ^ 20

/-- WMARK (R270). -/
def execWmark (o : OpWmark) (s : State) : Out :=
  s.whenOn o.g <|
    match s.wakeHold with
    | some r => r
    | none =>
      let c := s.core
      let ch := o.ch.toNat
      let dsp := o.dsp.toNat
      let base := spaceAddr dsp (c.xVal o.xs) (c.ghi ch true) 0
      let len := (c.xVal o.xd).toNat
      let bad (cause : BitVec 8) : Out := s.accTrap ⟨cause, 0#64⟩ .rd 0 (BitVec.ofNat 64 base) 0#64
      if base % 64 ≠ 0 then bad 0x0A#8
      else if len % 64 ≠ 0 ∨ 64 * (2 ^ 20 - 1) < len ∨ spaceSize dsp ≤ base ∨ spaceSize dsp < base + len then bad 0x0B#8
      else if c.ops.any fun p => (wChannel p.instr).any fun w => w.1 == ch then s.hold
      else .next (s.upd fun c =>
        { (c.crPuts [(0x080 + ch, BitVec.ofNat 64 (base / 64 + dsp * 2 ^ 42 + len / 64 * 2 ^ 44)),
            (0x0A0 + ch, setBits (c.crGet (0x0A0 + ch)) 0 20 0)]) with marks := Cells.clear c.marks (ch * 2 ^ 20) (2 ^ 20) })

/-- R271: FILL after some marks: the first unit from `f` on that is not marked. -/
def firstUnmarked (marks : Cells 1) (key : Nat) : Nat → Nat → Nat
  | 0, f => f
  | fuel + 1, f => if Cells.get 0#1 marks (key + f) = 1#1 then firstUnmarked marks key fuel (f + 1) else f

/-- R271: the units of a window that a landed segment completes are marked, and FILL follows. `rest` are the copy's
segments still to land. -/
def CoreState.markUnits (c : CoreState) (ch dsp : Nat) (rest : List Seg) (g : Seg) : CoreState :=
  let cfg := c.crGet (0x080 + ch)
  let (space, base) := c.window cfg
  let at' (g : Seg) : Nat := (c.canon dsp g.dva).2
  let lo := if at' g < base then base else at' g
  let hi := if at' g + g.n < base + chLen cfg then at' g + g.n else base + chLen cfg
  if space ≠ (c.canon dsp g.dva).1 ∨ hi ≤ lo then c
  else
    let u0 := (lo - base) / 64
    let units := (List.range ((hi - 1 - base) / 64 + 1 - u0)).map (u0 + ·)
    let whole := units.filter fun u => !rest.any fun h => runsMeet (at' h) h.n (base + 64 * u) 64
    let key := ch * 2 ^ 20
    let marks := whole.foldl (fun m u => Cells.put 0#1 m (key + u) 1#1) c.marks
    let x := c.crGet (0x0A0 + ch)
    let f := bitsOf x 0 20
    let f' := firstUnmarked marks key (chLen cfg / 64 - f) f
    { (c.crPut (0x0A0 + ch) (setBits x 0 20 f')) with marks := marks }

/-- WMWAIT and WMWAIT.all (R273): the entry is held until the watermark reaches t. -/
def State.watermarkWait (s : State) (g : BitVec 4) (ch : BitVec 5) (t : Option Nat) : Out :=
  s.whenOn g <|
    let cfg := s.core.crGet (0x080 + ch.toNat)
    let fin := chBase cfg + chLen cfg
    let t := match t with | some t => (if t < fin then t else fin) | none => fin
    if chLen cfg ≠ 0 ∧ chBase cfg < t ∧ chBase cfg + chFill (s.core.crGet (0x0A0 + ch.toNat)) < t then s.hold else .next s

def execWmwait (o : OpWmwait) (s : State) : Out := s.watermarkWait o.g o.c (some ((s.core.sVal o.a).toNat % 2 ^ 48))
def execWmwaitAll (o : OpWmwaitAll) (s : State) : Out := s.watermarkWait o.g o.c none

/-! ### Barriers (R274 to R279) -/

/-- R274: an addition to a barrier. -/
def CoreState.addBar (c : CoreState) (b n : Nat) : CoreState :=
  let t := (Cells.get 0#31 c.barCnt b).toNat + n
  let t := if t < 2 ^ 31 then t else 2 ^ 31 - 1
  { c with
    barCnt := Cells.put 0#31 c.barCnt b (BitVec.ofNat 31 t)
    barOvr := if (Cells.get 0#32 c.barExp b).toNat < t then Cells.put 0#1 c.barOvr b 1#1 else c.barOvr }

/-- R276: BINIT at a barrier. -/
def CoreState.initBar (c : CoreState) (b : Nat) (v : Word32) : CoreState :=
  { c with barExp := Cells.put 0#32 c.barExp b v, barCnt := Cells.put 0#31 c.barCnt b 0#31, barOvr := Cells.put 0#1 c.barOvr b 0#1 }

/-- R274: a barrier is complete. -/
def CoreState.barDone (c : CoreState) (b : Nat) : Bool := decide ((Cells.get 0#32 c.barExp b).toNat ≤ (Cells.get 0#31 c.barCnt b).toNat)

/-- R275: the core a who field names; none beyond the gang. -/
def CoreState.whoCore (c : CoreState) (who : BitVec 3) : Option (BitVec 7) :=
  if who = 4#3 then some c.id else if who.toNat < c.gang.size then some (c.gang.lead + BitVec.ofNat 7 who.toNat) else none

/-- A barrier instruction of a copy unit: it joins its unit's queue with the named core and its operand. -/
def State.barrierOp (s : State) (g : BitVec 4) (who : BitVec 3) (i : Instr) (v : Nat) : Out :=
  s.whenOn g <|
    match s.wakeHold with
    | some r => r
    | none =>
      match s.core.whoCore who with
      | none => s.trap0B
      | some k => .next (s.pushOp (s.core.cur.slot - 4) i 0#128 [] [k.toNat, v] [] [] [] [])

def execBinit (o : OpBar) (s : State) : Out := s.barrierOp o.g o.who (.binit o) (s.core.xVal o.k).toNat
def execArrive (o : OpArrive) (s : State) : Out := s.barrierOp o.g o.who (.arrive o) 1
def execBadd (o : OpBar) (s : State) : Out := s.barrierOp o.g o.who (.badd o) (s.core.xVal o.k).toNat

/-- R278: the barrier a copy counts at. -/
def countBar : Instr → Option (BitVec 8)
  | .cpy o | .cpyg o => o.cnt
  | .cpyh o => o.cnt
  | .cpym o | .cpyd o => o.cnt
  | .cpyr o => o.cnt
  | _ => none

/-- R278: the core whose barrier counts bytes at a location. -/
def State.countCore (s : State) (loc : Nat) : Option (BitVec 7) :=
  let c := s.core
  if loc < 2 ^ 46 ∨ 2 ^ 47 ≤ loc then some c.id
  else
    let cl := (loc - 2 ^ 46) / 2 ^ 22
    let a := (loc - 2 ^ 46) % 2 ^ 22
    if cl = cluster c.id ∧ c.ownsSpad a 1 = true then some c.gang.lead
    else
      ((s.standing.flatMap (·.gangsOn cl)).find? fun g => inPartition g.pbase g.psize a 1).bind fun g => g.cores.head?

/-- BWAIT (R277, R279). -/
def execBwait (o : OpBwait) (s : State) : Out :=
  s.whenOn o.g <|
    match s.core.whoCore o.who with
    | none => s.trap0B
    | some k =>
      let c := s.coreAt k
      if s.core.initDue s.core.cur.seq (fun i => i.b == o.b && s.core.whoCore i.who == some k) then s.hold
      else if !c.barDone o.b.toNat then s.hold
      else .next (s.acquired.putS o.d ((Cells.get 0#31 c.barCnt o.b.toNat).setWidth 64))

/-! ### Landing -/

/-- R144, R262: a segment waits for a segment of an earlier copy of its unit that shares a byte with it. -/
def Seg.after (g h : Seg) : Bool :=
  (g.dsts.any fun d => h.dsts.any (fun e => runsMeet d g.n e h.n) || h.from?.any fun r => runsMeet d g.n r.1 r.2)
    || g.from?.any fun r => h.dsts.any fun e => runsMeet r.1 r.2 e h.n

/-- The operations of the queue before one. -/
def CoreState.earlier (c : CoreState) (o : EngineOp) : List EngineOp := (c.queue o.eng).takeWhile fun p => p.uid != o.uid

/-- R144, R262, R276: a segment of a copy may land. -/
def CoreState.mayLand (c : CoreState) (o : EngineOp) (g : Seg) : Bool :=
  g.sent == 0 && !o.cut g
    && (c.earlier o).all fun p => p.segs.all (fun h => p.cut h || !g.after h)
      && !((countBar o.instr).isSome && match p.instr with | .binit _ => true | _ => false)

/-- An operation of the queue changed. -/
def State.updOp (s : State) (uid : Nat) (f : EngineOp → EngineOp) : State :=
  s.upd fun c => { c with ops := c.ops.map fun o => if o.uid = uid then f o else o }

/-- A copy with other segments left: its source granules stay locked while some of them reads there (R263). -/
def State.setSegs (s : State) (o : EngineOp) (segs : List Seg) : State :=
  s.updOp o.uid fun p => { p with segs := segs, locks := flatPairs p.regs ++ s.storeRuns (segs.filterMap Seg.from?) }

/-- R278: bytes counted at the copy's barrier, for each destination. -/
def State.countBytes (s : State) (o : EngineOp) (g : Seg) : State :=
  g.dsts.foldl (fun s d => match countBar o.instr, s.countCore d with
    | some b, some k => s.updCore k (·.addBar b.toNat g.n)
    | _, _ => s) s

/-- R262: what an operation keeps of its source takes the bytes that an earlier copy has just written there. -/
def State.patchOld (s : State) (o : OldBytes) (loc n : Nat) : OldBytes :=
  o.map fun e => (e.1, e.2.zipIdx.map fun b => if loc ≤ e.1 + b.2 ∧ e.1 + b.2 < loc + n then s.byte (e.1 + b.2) else b.1)

/-- R144, R262: the later copies of the unit read what a segment of an operation has written. -/
def State.patchLater (s : State) (o : EngineOp) (g : Seg) : State :=
  s.upd fun c => { c with ops := c.ops.map fun p =>
    if p.eng = o.eng ∧ o.uid < p.uid then { p with old := g.dsts.foldl (fun l d => s.patchOld l d g.n) p.old } else p }

/-- Segment j of a copy has landed: marks (R271), counts (R278), lock bits (R263), what it has fetched from memory; after the last
the copy has performed (R261, R440). -/
def State.segDone (s : State) (o : EngineOp) (j : Nat) (g : Seg) : State :=
  let rest := o.segs.eraseIdx j
  let s := match wChannel o.instr with | some (ch, dsp) => s.upd (·.markUnits ch dsp rest g) | none => s
  let s := ((s.charge s.core.launchKey 10 (if g.zero then 0 else s.fetchUnits g.src g.n)).countBytes o g).patchLater o g
  match rest with
  | [] => (s.endOp o).charge s.core.launchKey 6 ((o.extra.headD 0 + 63) / 64)
  | _ => s.setSegs o rest

/-- R267, R384: the elements of a run of CPYR at their home slice. -/
def State.landElems (s : State) (o : EngineOp) (i : OpCpyr) (g : Seg) (bs : List Byte) (bad : Nat → Bool) : State :=
  let w := rowAlign o.shape
  let seq := (o.extra.drop 1).headD 0
  (List.range (g.n / w)).foldl (fun s e =>
    let pa := g.dst + w * e
    if (List.range w).any fun b => bad (w * e + b) then s.setPoison pa w
    else
      let s := s.note s.core.id o.seq pa w
      s.updateElem ⟨cpyrOp i.op.toNat o.shape, BitVec.ofNat 32 (seq + (g.tag + e) / 32), s.core.gang.k, s.core.launchKey⟩
        ((g.tag + e) % 32) pa w (leNat ((bs.drop (w * e)).take w))) s

/-- R262: the bytes that land at a destination: where source and destination overlap, each is its old or its new value. -/
def State.landing (s : State) (o : EngineOp) (dst : Nat) (bs : List Byte) : List Byte :=
  match o.addrs with
  | [] => bs
  | _ =>
    let ov := flatPairs o.addrs
    bs.zipIdx.map fun b =>
      if (ov.any fun r => runsMeet r.1 r.2 (dst + b.2) 1) && Config.freeChoice s.tick b.2 then s.byte (dst + b.2) else b.1

/-- R260: a segment's bytes written at a destination, poisoned where its source is. -/
def State.landAt (s : State) (o : EngineOp) (bs : List Byte) (bad : Nat → Bool) (dst : Nat) : State :=
  let s := ((s.note s.core.id o.seq dst bs.length).performWrite (some s.core.launchKey) dst (s.landing o dst bs)).ticked
  ((List.range bs.length).filter bad).foldl (fun s i => s.setPoison (dst + i) 1) s

/-- A segment's bytes written at its destinations. -/
def State.landBytes (s : State) (o : EngineOp) (g : Seg) (bs : List Byte) (bad : Nat → Bool) : State :=
  match o.instr with
  | .cpyr i => s.landElems o i g bs bad
  | _ => g.dsts.foldl (fun s d => s.landAt o bs bad d) s

/-- R181, R260, R280: a copy consumes an error in the bytes a segment has read. -/
def State.segError (s : State) (o : EngineOp) (g : Seg) (bad : Nat → Bool) : State :=
  match (List.range g.n).find? bad with
  | none => s
  | some i =>
    let a := BitVec.ofNat 64 (g.sva + i)
    match s.core.ops.find? (·.uid == o.uid) with
    | some p => s.opConsume p (o.eng + 4) (sourceCode g.src) a
    | none => s.consume o.seq o.pc (o.eng + 4) (sourceCode g.src) a

/-- R12, R396: whether a copy reaches a destination over the light fabric: a remote window, or the scratchpad of a cluster
that is neither the issuer's own nor its successor. -/
def State.byFabric (s : State) (loc : Nat) : Bool :=
  let own := cluster s.core.id
  let cl := (loc - 2 ^ 46) / 2 ^ 22
  if isPhys loc then isRemote loc else decide (loc < 2 ^ 47) && cl != own && cl != (own + 1) % 32

/-- A request of an operation for one end of segment j. -/
def State.sendSeg (s : State) (o : EngineOp) (j : Nat) (g : Seg) (kind : ReqKind) (parts : List Part) : State :=
  let (u, s) := s.fresh
  let r : Req := ⟨u, .core s.core.id, o.pc, o.seq, o.eng + 4, kind, parts, false, s.tag o.slack.toNat⟩
  (s.send r).setSegs o (o.segs.set j { g with sent := u + 1 })

/-- R138, R410: the remote source of a segment is asked for. -/
def State.readSeg (s : State) (o : EngineOp) (j : Nat) (g : Seg) : State :=
  s.sendSeg o j g (.load .outside) [⟨g.src, BitVec.ofNat 64 g.sva, g.n, 0, []⟩]

/-- R12, R260: a segment's bytes go out to a destination over the fabric; a byte with an error goes as a part that carries
none. -/
def State.writeSeg (s : State) (o : EngineOp) (j : Nat) (g : Seg) (bs : List Byte) (bad : Nat → Bool) : State :=
  let vs := s.landing o g.dst bs
  let part (skip n : Nat) (data : List Byte) : Part := ⟨g.dst + skip, BitVec.ofNat 64 (g.dva + skip), n, 0, data⟩
  let parts := if !(List.range g.n).any bad then [part 0 g.n vs]
    else vs.zipIdx.map fun b => part b.2 1 (if bad b.2 then [] else [b.1])
  s.ticked.sendSeg o j { g with got := some (bs, (List.range g.n).filter bad) } .store parts

/-- A segment's bytes go to its one destination: they land, or they go out over the fabric. -/
def State.segOut (s : State) (o : EngineOp) (j : Nat) (g : Seg) (bs : List Byte) (bad : Nat → Bool) : State :=
  if s.byFabric g.dst then s.writeSeg o j g bs bad else (s.landBytes o g bs bad).segDone o j g

/-- A segment's bytes are there, and go to its destinations. Those of CPYM go on one by one (R266); all at once where the bytes
carry an error, because the copy ends with them (R260). -/
def State.segBytes (s : State) (o : EngineOp) (j : Nat) (g : Seg) (bs : List Byte) (bad : Nat → Bool) : State :=
  if g.more.isEmpty then (s.segOut o j g bs bad).segError o g bad
  else
    let bads := (List.range g.n).filter bad
    let pieces := g.dsts.map fun d => { g with dst := d, more := [], got := some (bs, bads) }
    let t := s.setSegs o (o.segs.take j ++ pieces ++ o.segs.drop (j + 1))
    if bads.isEmpty then t
    else
      let out (s : State) (p : Seg) : State :=
        match s.core.ops.find? (·.uid == o.uid) with
        | none => s
        | some q => match q.segs.findIdx? (· == p) with | some i => s.segOut q i p bs bad | none => s
      (pieces.foldl out t).segError o g bad

/-- A segment that may land: its source is read where it lies. -/
def State.moveSeg (s : State) (o : EngineOp) (j : Nat) (g : Seg) : State :=
  match g.got with
  | some (bs, bad) => s.segBytes o j g bs bad.contains
  | none =>
    if g.zero then s.segBytes o j g (List.replicate g.n 0#8) fun _ => false
    else if isPhys g.src && isRemote g.src then s.readSeg o j g
    else if isPhys g.src && isDecoded g.src then
      match s.decoded.find? fun d => d.line == g.src / 256 with
      | none => s.missed (g.src / 256)
      | some d => s.segBytes o j g ((d.data.drop (g.src % 256)).take g.n) fun _ => d.bad
    else
      let p := s.poison
      s.segBytes o j g (s.bytesOver o.old g.src g.n) fun i => Cells.get 0#1 p (g.src + i) == 1#1

/-- R25, R144: segment j cut so that `n` of its bytes from `skip` on stand alone, whole elements under CPYR; the operation so,
and the number of that part. None with 0 or with all of it. -/
def EngineOp.cutSeg (o : EngineOp) (j : Nat) (g : Seg) (skip n : Nat) : EngineOp × Nat :=
  let w := match o.instr with | .cpyr _ => rowAlign o.shape | _ => 1
  let a := skip / w * w
  let m := n / w * w
  if m = 0 ∨ g.n < a + m then (o, j)
  else
    let cut (skip n : Nat) : List Seg := if n = 0 then [] else [g.part skip n w]
    ({ o with segs := o.segs.take j ++ cut 0 a ++ cut a m ++ cut (a + m) (g.n - a - m) ++ o.segs.drop (j + 1) },
      if a = 0 then j else j + 1)

/-- R276, R279: a barrier operation at the head of its queue performs. -/
def State.performBar (s : State) (o : EngineOp) : State :=
  let k : BitVec 7 := BitVec.ofNat 7 (o.regs.headD 0)
  let v := (o.regs.drop 1).headD 0
  match o.instr with
  | .binit i => (s.updCore k (·.initBar i.b.toNat (BitVec.ofNat 32 v))).endOp o
  | .arrive i => if s.releaseReady s.core.id o.seq 1 then (s.updCore k (·.addBar i.b.toNat v)).endOp o else s
  | .badd i => if s.releaseReady s.core.id o.seq 1 then (s.updCore k (·.addBar i.b.toNat v)).endOp o else s
  | _ => s

/-- What a unit has still to do: the segments of its copies, and its barrier operations. -/
def CoreState.unitItems (c : CoreState) (eng : Nat) : List (EngineOp × Nat × Option Seg) :=
  (c.queue eng).flatMap fun o =>
    if o.segs.isEmpty then [(o, 0, none)] else o.segs.zipIdx.map fun p => (o, p.2, some p.1)

/-- COPY_COMPLETION (R25, R144, R261, R262, R276): item `index` mod 2^32 of a unit: a segment of a copy lands, or a barrier
operation performs. What stands in `index` above that names a part of the segment: 32 bits of the byte it begins at, then its
length (0 the rest). The engines of a core that a double trap has stopped drain as for pre-emption (R190). -/
def execCopyCompletion (unit : Bool) (index : Nat) (s : State) : Out :=
  let s := if s.core.mode = .dead then s.upd (·.beginDrain) else s
  let c := s.core
  match (c.unitItems (if unit then 3 else 2))[index % 2 ^ 32]? with
  | none => .next s
  | some (o, j, some g) =>
    if !c.mayLand o g then .next s
    else
      let (p, i) := o.cutSeg j g (index / 2 ^ 32 % 2 ^ 32) (index / 2 ^ 64)
      .next (match p.segs[i]? with | some h => (s.setSegs p p.segs).moveSeg p i h | none => s)
  | some (o, _, none) => .next (if (c.earlier o).isEmpty then s.performBar o else s)

/-- One end of a segment of the core whose turn it is has performed (R12, R411): request `uid`, the bytes a read
brought, and whether they carry an error. -/
def State.segReply (s : State) (uid : Nat) (read : Bool) (bs : List Byte) (bad : Bool) : State :=
  let mine (p : Seg × Nat) : Bool := p.1.sent == uid + 1
  match s.core.ops.find? fun o => o.segs.zipIdx.any mine with
  | none => s
  | some o =>
    match o.segs.zipIdx.find? mine with
    | none => s
    | some (g, j) => if read then s.segBytes o j { g with sent := 0 } bs fun _ => bad else s.segDone o j g

/-- SLICE_WRITE_REQUEST (R120, R136, R142, R391, R401): a store that is granted performs, and with it the segment of a copy that it
carries (R12), or is forwarded. -/
def execSliceWriteRequest (s : State) : Out :=
  match s.grants (·.kind == .store) with
  | some r =>
    if r.remote then .next (s.forward r)
    else
      let t := s.performStore r
      .next (match r.agent with | .core k => t.asCore k (·.segReply r.uid false [] false) | _ => t)
  | none => .next s

end Sys2Proof.Machine
end

