-- ==== Sys2Proof/Machine/Controls.lean ====
section
/-! DEFINITION. MFC and MTC (R197), what a write of each control register does (R5, R6, R90, R115, R127, R225, R290,
R313, R336, R364, R446, R454, R461), the cluster reset (R405), and the host's register writes (R447, R448, R451). -/

namespace Sys2Proof.Machine

/-! ### Waits (R115, R127, R226, R290, R313, R336, R337) -/

/-- An operation of an earlier bundle is in an engine queue. -/
def CoreState.engWaits (c : CoreState) (eng : Nat) : Bool := c.ops.any fun o => o.eng == eng && decide (o.seq < c.cur.seq)

/-- R336: a frame operation of some core is in progress. -/
def State.framesBusy (s : State) : Bool := (s.core :: s.parked).any fun c => c.ops.any fun o => o.eng == 4

/-- An access to register `n` waits for the engine that keeps it. -/
def State.accessWaits (s : State) (n : Nat) : Bool :=
  if 0x01B ≤ n ∧ n ≤ 0x01D then s.core.engWaits 0
  else if n = 0x01E ∨ n = 0x01F then s.core.engWaits 1
  else if n = 0x00E then s.core.engWaits 4
  else false

/-- R127: what a TBINV value drops. -/
def tbinvHits (v : Word64) (e : TlbEntry) : Bool :=
  let same := e.gl || e.asid.toNat == bitsOf v 48 12
  match bitsOf v 60 2 with
  | 0 => same && decide (e.va ≤ bitsOf v 16 32 * 65536) && decide (bitsOf v 16 32 * 65536 < e.va + e.size)
  | 1 => same
  | _ => true

/-- R127: an access that may have used an entry to be dropped has not performed: one of a core whose cluster holds such an
entry, under whatever PTBR it was made, parked queue requests, what a core sent that has ended since, and entries whose check
has found the page included; or a request at a slice group that holds one. -/
def State.tbinvWaits (s : State) (v : Word64) : Bool :=
  s.tlb.any fun e => tbinvHits v e
    && ((s.core :: s.parked).any (fun c => e.cluster == cluster c.id
        && (!(s.pendingOf c.id).isEmpty || !c.ops.isEmpty || (s.waiters ++ s.released).any (fun w => w.agent == .core c.id)
          || c.bundles.any fun b => (c.id != s.core.id || decide (b.seq < c.cur.seq)) && b.entries.any fun q => q.pass.contains e.page))
      || s.pending.any (fun r => match r.agent with | .gone cl => e.cluster == cl.toNat | _ => false)
      || s.waiters.any fun w => e.cluster == 32 + homeSlice w.qpa / 4)

/-- A write to register `n` waits before it performs; that of FPEN for the operations that raise flags under its old value
(R114, R322). -/
def State.writeWaits (s : State) (n : Nat) (v : Word64) : Bool :=
  s.accessWaits n || (n == 0x00D && s.core.ops.any fun o => o.eng == 0 || o.eng == 1) || (n == 0x019 && s.tbinvWaits v) || (decide (0x120 ≤ n) && decide (n ≤ 0x124) && s.framesBusy)

/-! ### What writes do -/

/-- R5, R6: the bits of `mask` take their new value. -/
def masked (old v mask : Word64) : Word64 := (old &&& ~~~mask) ||| (v &&& mask)

/-- R115: the region that register `n` belongs to, with its four words as a write leaves them. -/
def fmtRegion (n : Nat) : Nat := (n - 0x140) / 4

/-- R115: a write enables a region with a reserved or misplaced value. Only a write of FMTn.A enables one: what a later write of
the other words makes of a region that is on is not checked (log entry 44). -/
def State.fmtBad (s : State) (n : Nat) (v : Word64) : Bool :=
  let t := s.devPut n (masked (s.devGet n) v (crWritable n))
  let r := fmtRegion n
  let fmt := t.fmtKind r
  n % 4 == 0 && t.fmtOn r
    && (!(decide (13 ≤ fmt) && decide (fmt ≤ 15)) || t.fmtGroup r == 3 || decide (t.fmtLimit r ≤ t.fmtBase r)
      || (t.fmtLimit r - t.fmtBase r) % tileBytes fmt != 0
      || (List.range 16).any fun k => k != r && t.fmtOn k
          && decide (t.fmtBase r < t.fmtLimit k) && decide (t.fmtBase k < t.fmtLimit r))

/-- R115: the decoded lines of a region's old and new ranges are invalidated. -/
def State.dropRegion (s : State) (r : Nat) (old : State) : State :=
  let hit (raw : Nat) : Bool :=
    (decide (old.fmtBase r ≤ raw) && decide (raw < old.fmtLimit r)) || (decide (s.fmtBase r ≤ raw) && decide (raw < s.fmtLimit r))
  let t := old.invalidate (fun d => d.region == r || hit (d.line * 256 - 2 ^ 45)) fun d => d.region == r
  { s with decoded := t.decoded, reserved := t.reserved, decodes := t.decodes }

/-- R445: a controller that sleeps, or is to sleep, has a cause to wake. -/
def Controller.rouse (c : Controller) : Controller := if c.asleep = 0 ∧ c.asked = none then c else { c with waking := true }

/-- R445, R458: a host write or access arrives. -/
def State.hostWake (s : State) : State := { s with east := s.east.rouse, west := s.west.rouse }

/-- R454: a doorbell. A sleeping controller wakes. -/
def State.doorbell (s : State) (v : Word64) : State :=
  let k := bitsOf v 0 8
  if 128 ≤ k ∨ s.coreGone (BitVec.ofNat 7 k) = true then s
  else
    let s := s.setEvent (BitVec.ofNat 7 k) 3
    if k < 64 then { s with east := s.east.rouse } else { s with west := s.west.rouse }

/-- R405: what a core has sent goes on its way, but is answered to nobody. -/
def State.orphan (s : State) (id : BitVec 7) : State :=
  let now : Agent := .gone (BitVec.ofNat 5 (cluster id))
  let other (r : Req) : Req :=
    if r.agent = .core id then
      { r with agent := now, kind := match r.kind with | .queue q => .queue { q with agent := now } | k => k }
    else r
  { s with
    packets := s.packets.map fun p => if p.agent = .core id then { p with agent := now, payload := p.payload.map other } else p
    reqs := s.reqs.map other, remotes := s.remotes.map fun m => { m with req := other m.req }
    replies := s.replies.filter fun r => r.core != id
    waiters := s.waiters.map fun w => if w.agent = .core id then { w with agent := now } else w
    released := s.released.filter fun w => w.agent != .core id }

/-- What a controller holds of a queue. -/
def State.lq (s : State) (die : Bool) (n : BitVec 6) : LaunchQueue :=
  (s.launchQueues.find? fun q => q.die == die && q.n == n).getD ⟨die, n, [], none, none, false⟩

/-- A queue of which nothing is held is not listed. -/
def State.updLq (s : State) (die : Bool) (n : BitVec 6) (f : LaunchQueue → LaunchQueue) : State :=
  let q := f (s.lq die n)
  let rest := s.launchQueues.filter fun q => !(q.die == die && q.n == n)
  { s with launchQueues := if q = ⟨die, n, [], none, none, false⟩ then rest else q :: rest }

/-- A record that becomes a candidate now. -/
def State.queued (s : State) (r : List Byte) (lid : Option (BitVec 16)) (tailPrio : Option (BitVec 3)) : QueuedRecord :=
  ⟨r, lid, s.cycle, false, false, false, tailPrio⟩

/-- R430: the tail child of a launch that retires becomes the head of its queue, with its parent's priority. -/
def State.tailToHead (s : State) (key : Nat) : State :=
  match s.launches.find? fun l => l.key == key && l.phase != .retired with
  | none => s
  | some l =>
    match l.tail with
    | none => s
    | some r => s.updLq l.die l.queue fun q => { q with held := s.queued r none (some l.prio) :: q.held }

/-- A change of one gang of a launch, named by its first logical number. -/
def State.updGang (s : State) (key k0 : Nat) (f : Gang → Gang) : State :=
  s.updLaunch key fun l => { l with gangs := l.gangs.map fun g => if g.k0 = k0 then f g else g }

/-- Kind 14 charged up to now, and the meters brought up to date. -/
def State.flush (s : State) : State :=
  let now := s.cycle
  let t := s.launches.foldl (fun s l => l.gangs.foldl (fun s g =>
    if g.placed && l.phase == .running then
      (s.charge l.key 14 ((now - g.billed) * g.cores.length)).updGang l.key g.k0 fun g => { g with billed := now }
    else s) s) s
  { t with meters := (List.range 128).foldl (fun m i =>
      Cells.put 0#64 m i (BitVec.ofNat 64 ((Cells.get 0#96 t.charged i).toNat / 1000))) t.meters }

/-- A launch ends at once: its cores stop, what their engines have not performed is abandoned (log entry 9), their parked
requests are withdrawn, what they sent is answered to nobody, its save slots are free, its tail child takes its turn, its verdict is tainted
with a cause (R444, R461); what its time has cost is charged first (R441). -/
def State.endLaunch (s : State) (key : Nat) (cause : BitVec 8) : State :=
  let cores := s.launches.flatMap fun l =>
    if l.key = key ∧ l.phase = .running then l.gangs.flatMap fun g => if g.placed then g.cores else [] else []
  let s := cores.foldl (fun s k => ((s.asCore k fun s => (s.withdrawParked k).abandonAll.upd fun c =>
    { c with mode := .halted, bundles := [], past := [], trapReq := none, held := false })).orphan k) s.flush
  ((s.tailToHead key).taintLaunch key cause).updLaunch key fun l =>
    { l with phase := .retired, gangs := l.gangs.map fun g => { g with placed := false, saved := none, halted := g.cores } }

/-- R405, R461: the reset of a cluster: its unsent packets are gone, those too of which flits are still to leave in the revolution they
were granted in (R398), its permits stay out until the notices arrive, what it has sent is answered to nobody, its launches
end tainted, its cores return to reset, and a notice is on its way on every home channel. -/
def State.clusterReset (s : State) (cl : BitVec 5) : State :=
  let mine (id : BitVec 7) : Bool := cluster id == cl.toNat
  let cut (p : Packet) : Bool := !p.granted || (p.payload.isSome && decide (s.cycle < p.tag.since + 18))
  let s := { s with packets := s.packets.filter fun p => !(p.src == cl.toNat && cut p
    && (match p.agent with | .core _ => true | .gone _ => true | _ => false)) }
  let held := ((List.range 4).map fun i => BitVec.ofNat 7 (4 * cl.toNat + i)).flatMap fun k =>
    (List.range 64).flatMap fun sl => List.replicate (s.permitsUsed k sl) (k, sl)
  let s := ((s.core :: s.parked).filter fun c => mine c.id).foldl (fun s c => (s.asCore c.id State.abandonAll).orphan c.id) s
  let hit := s.launches.filter fun l => l.phase != .retired && l.gangs.any fun g => g.placed && g.cores.any mine
  let s := hit.foldl (fun s l => s.endLaunch l.key 0x42#8) s
  let fresh (c : CoreState) : CoreState := if mine c.id then { CoreState.reset c.id with nextSeq := c.nextSeq } else c
  let s := s.injectReserved ((List.range 64).map fun k => (cl.toNat, k, .notice cl))
  { s with
    core := fresh s.core, parked := s.parked.map fresh, resetPermits := s.resetPermits ++ held
    notices := s.notices ++ (List.range 32).map fun i => (cl, BitVec.ofNat 5 i) }

/-- R461: a write of HRST. -/
def State.hrst (s : State) (v : Word64) : State := if v.getLsbD 63 then s.clusterReset (v.setWidth 5) else s

/-- R225: writing ones to VSF clears whole lane masks. -/
def CoreState.clearVsf (c : CoreState) (u : Nat) (v : Word64) : CoreState :=
  (List.range 7).foldl (fun c f => if v.getLsbD f then c.crPut (0x022 + 8 * u + f) 0#64 else c) c

/-- R5: what a write of 1 to bits of a W1C register leaves. -/
def CoreState.clearBits (c : CoreState) (n : Nat) (v : Word64) : CoreState := c.crPut n (c.crGet n &&& ~~~v)

/-- The effect of a write of `v` to register `n`, by the core whose turn it is where the register is a core's own. A write of
DGAREA that R438 forbids, or of RWSPL that R364 forbids, does nothing (R2, log entry 45). -/
def State.writeReg (s : State) (n : Nat) (v : Word64) : State :=
  if n = 0x020 then s.upd (·.clearVsf 0 v)
  else if n = 0x021 then s.upd (·.clearVsf 1 v)
  else if n = 0x01B then s.upd (·.clearBits n (v &&& field 8 14))
  else if n = 0x019 then { s with tlb := s.tlb.filter fun e => !tbinvHits v e }
  else if n = 0x104 then s.hrst v
  else if n = 0x105 then s.doorbell v
  else if n = 0x0CC ∧ s.digesting = true then s
  else if n = 0x125 ∧ s.windows ≠ [] then s
  else if 0x140 ≤ n ∧ n ≤ 0x17F then
    (if s.fmtBad n v then s
    else (s.devPut n (masked (s.devGet n) v (crWritable n))).dropRegion (fmtRegion n) s)
  else match crAccess n with
    | some .w1c => if crOfDevice n then s.devPut n (s.devGet n &&& ~~~v) else s.upd (·.clearBits n v)
    | some .rw | some .rs =>
      if crOfDevice n then s.devPut n (masked (s.devGet n) v (crWritable n))
      else s.upd fun c => c.crPut n (masked (c.crGet n) v (crWritable n))
    | _ => s

/-! ### MFC and MTC (R197) -/

/-- R46: what MFC reads: of the registers that dispatch changes, the value from before its own bundle's dispatch, since
later bundles may have been dispatched. -/
def State.readHere (s : State) (n : Nat) : Word64 :=
  match s.core.bundles.find? (·.seq == s.core.cur.seq) with
  | none => s.readCr n
  | some b =>
    if n = 0x041 then b.mlim
    else if n = 0x045 then CoreState.lstat { s.core with loops := b.loops }
    else if n = 0x047 then b.segst
    else if n = 0x048 then b.segcrc
    else s.readCr n

/-- MFC. TEMP is drawn with the counter. -/
def execMfc (o : OpMfc) (s : State) : Out :=
  s.whenOn o.g <|
    let n := o.c.toNat
    if s.accessWaits n then s.hold
    else
      let t := s.putS o.d (s.readHere n)
      .next (if n = 0x10C then t.ticked else t)

/-- MTC. -/
def execMtc (o : OpMtc) (s : State) : Out :=
  s.whenOn o.g <|
    let n := o.c.toNat
    let v := s.core.sVal o.a
    if 0x140 ≤ n ∧ n ≤ 0x17F ∧ s.fmtBad n v = true then s.trap0B
    else if s.writeWaits n v then s.hold
    else .next (s.writeReg n v)

/-! ### Register accesses with behaviour of their own, as events -/

/-- A write of a register of some class; one that waits stays undone. -/
def State.regEvent (s : State) (mine : Bool) (n : Nat) (v : Word64) : Out :=
  if !mine || s.writeWaits n v then .next s else .next (s.writeReg n v)

/-- HRST_WRITE (R405, R461). -/
def execHrstWrite (value : Word64) (s : State) : Out := s.regEvent true 0x104 value
/-- FORMAT_REGION_WRITE (R115). -/
def execFormatRegionWrite (number : BitVec 19) (value : Word64) (s : State) : Out :=
  s.regEvent (decide (0x140 ≤ number.toNat) && decide (number.toNat ≤ 0x17F)) number.toNat value
/-- TBINV_WRITE (R127). -/
def execTbinvWrite (value : Word64) (s : State) : Out := s.regEvent true 0x019 value
/-- FRAME_REGISTER_WRITE (R336). -/
def execFrameRegisterWrite (number : BitVec 19) (value : Word64) (s : State) : Out :=
  s.regEvent (decide (0x120 ≤ number.toNat) && decide (number.toNat ≤ 0x124)) number.toNat value
/-- SLICE_REGISTER_WRITE (R364). -/
def execSliceRegisterWrite (number : BitVec 19) (value : Word64) (s : State) : Out :=
  s.regEvent (number == 0x125#19 || number == 0x126#19) number.toNat value
/-- CONTROLLER_REGISTER_WRITE (R446). -/
def execControllerRegisterWrite (number : BitVec 19) (value : Word64) (s : State) : Out :=
  s.regEvent (decide (0x0C5 ≤ number.toNat) && decide (number.toNat ≤ 0x0DF)) number.toNat value
/-- VECTOR_STATUS_ACCESS (R225, R226): the write of ones; a read changes nothing. -/
def execVectorStatusAccess (number : BitVec 19) (value : Word64) (s : State) : Out :=
  s.regEvent (decide (0x020 ≤ number.toNat) && decide (number.toNat ≤ 0x031)) number.toNat value
/-- MATRIX_STATUS_ACCESS (R290). -/
def execMatrixStatusAccess (number : BitVec 19) (value : Word64) (s : State) : Out :=
  s.regEvent (decide (0x01B ≤ number.toNat) && decide (number.toNat ≤ 0x01D)) number.toNat value
/-- LADDER_STATUS_ACCESS (R313). -/
def execLadderStatusAccess (number : BitVec 19) (value : Word64) (s : State) : Out :=
  s.regEvent (number == 0x01E#19 || number == 0x01F#19) number.toNat value
/-- EVPEND_CLEAR (R155). -/
def execEvpendClear (value : Word64) (s : State) : Out := s.regEvent true 0x042 value
/-- FRLQ_WRITE (R337). -/
def execFrlqWrite (value : Word64) (s : State) : Out := s.regEvent true 0x00F value
/-- DOORBELL_WRITE (R454). -/
def execDoorbellWrite (value : Word64) (s : State) : Out := s.regEvent true 0x105 value

/-- R453: a vector whose table entry is not masked is sent, otherwise its pending bit sets. The mask is bit 32 of the
entry's second word and stands at reset (log entry 5). -/
def State.msixWord (s : State) (i : Nat) : Word64 := Cells.get (if i % 2 = 1 then 0x100000000#64 else 0#64) s.msixTable i
def State.sendMsix (s : State) (v : BitVec 6) : State :=
  if (s.msixWord (2 * v.toNat + 1)).getLsbD 32 then { s with msixPending := Cells.put 0#1 s.msixPending v.toNat 1#1 }
  else { s with msixSent := s.msixSent ++ [v] }

/-- The MSI-X table written; a vector unmasked while pending is sent. -/
def State.msixWrite (s : State) (i : Nat) (v : Word64) : State :=
  let s := { s with msixTable := Cells.put (if i % 2 = 1 then 0x100000000#64 else 0#64) s.msixTable i v }
  if i % 2 = 1 ∧ v.getLsbD 32 = false ∧ Cells.get 0#1 s.msixPending (i / 2) = 1#1 then
    { s with msixPending := Cells.put 0#1 s.msixPending (i / 2) 0#1, msixSent := s.msixSent ++ [BitVec.ofNat 6 (i / 2)] }
  else s

/-- R451: the writable bits of QWCFG. -/
def qwMask : Word64 := field 0 57 ||| field 63 63

/-- R336: the host's register writes that waited, as far as they need not wait any more, in order. -/
def State.lateWrites (s : State) : List (BitVec 19 × Word64) → State
  | [] => { s with heldWrites := [] }
  | w :: t => if s.writeWaits w.1.toNat w.2 then { s with heldWrites := w :: t } else (s.writeReg w.1.toNat w.2).lateWrites t

/-- REGISTER_WRITE (R336, R447, R448, R451, R458): an 8-byte host write at BAR0 offset 8 × `number`: the device's registers, where
it may have to wait, PCLASS in a core's window, the queue-window configuration, the mailbox, the MSI-X table. -/
def execRegisterWrite (number : BitVec 19) (value : Word64) (s : State) : Out :=
  let n := number.toNat
  let s := s.hostWake
  if (0x100 ≤ n ∧ n ≤ 0x1FF) ∨ (0x0C6 ≤ n ∧ n ≤ 0x0DF) then
    (if n = 0x127 then .next s
    else if s.heldWrites ≠ [] ∨ s.writeWaits n value = true then .next { s with heldWrites := s.heldWrites ++ [(number, value)] }
    else .next (s.writeReg n value))
  else if 0x10000 ≤ n ∧ n < 0x20000 then
    (let k : BitVec 7 := BitVec.ofNat 7 ((n - 0x10000) / 0x200)
    if n % 0x200 = 0x0C5 ∧ s.coreGone k = false then
      .next (s.updCore k fun c => c.crPut 0x0C5 (masked (c.crGet 0x0C5) value (crWritable 0x0C5)))
    else .next s)
  else if 0x20000 ≤ n ∧ n < 0x20100 then
    .next { s with qwCfg := Cells.put 0#64 s.qwCfg (n - 0x20000) (value &&& qwMask) }
  else if 0x40000 ≤ n ∧ n < 0x60000 then
    .next { s with mailbox := Cells.putN 0#8 s.mailbox (8 * (n - 0x40000)) (word value) }
  else if 0x60000 ≤ n ∧ n < 0x60080 then .next (s.msixWrite (n - 0x60000) value)
  else .next s

end Sys2Proof.Machine
end

