-- ==== Sys2Proof/Machine/Queues.lean ====
section
/-! DEFINITION. Queues (R365 to R375, R453): what the home slice does with a request, how its answer reaches the
requester, parked requests, and the queue instructions of the S slot. -/

namespace Sys2Proof.Machine

/-! ### Answers -/

/-- The S entry of a bundle made current, for a trap its request brings back. -/
def State.asEntry (s : State) (seq : Nat) (f : State → State) : State :=
  match s.core.bundles.find? (·.seq == seq) with
  | none => s
  | some b =>
    match b.entries.find? (·.slot == 1) with
    | none => s
    | some e => f (s.upd fun c => c.begin b e)

/-- An answer reaches the S entry of the core whose turn it is. -/
def State.answerEntry (s : State) (r : QReq) (seq : Nat) (q : BitVec 6) (k : BitVec 3) (buf : List Nat) (a : QAnswer) : State :=
  let s := s.answerGood r seq q k buf a
  match a with
  | .elem _ true => s.consume seq r.pc 1 0 r.handle
  | .fault cause t0 t1 t2 t3 =>
    s.asEntry seq fun s => s.takeTrap ⟨cause, s.core.cur.pc, BitVec.ofNat 64 t0, t1, t2, t3⟩
  | _ => s

/-- R432: a LAUNCH whose record is in its queue. -/
def State.answerLaunch (s : State) (r : QReq) (seq : Nat) (a : QAnswer) : State :=
  match a with
  | .elem .. =>
    (s.upd (·.retireEntry seq 1)).updLaunch s.core.launchKey fun l => { l with children := l.children + 1 }
  | _ => s.answerEntry r seq 0#6 0#3 [] a

/-- R369, R443: a record that could not be enqueued. -/
def State.eventLost (s : State) : State := s.lostRecord

/-- R453: the interrupt that follows a record: in HEVQ, which is translated under FMPT (R446), by its class. -/
def State.recordSent (s : State) (r : QReq) (event : Bool) : State :=
  if event then
    (if r.handle = s.devGet 0x0CB ∧ r.root = s.devGet 0x122 then
      s.sendMsix (BitVec.ofNat 6 (bitsOf (s.devGet 0x109) (6 * (leNat (r.elem.take 1) - 1)) 6))
    else s)
  else match (List.range 8).find? fun i => s.devGet (0x118 + i) == r.handle with
    | some i => s.sendMsix (BitVec.ofNat 6 (56 + i))
    | none => s

/-- R452: the host's read that stands for a DEQN completes, without bytes when there is no element. -/
def State.slotReturn (s : State) (r : QReq) (n : BitVec 8) (bs : List Byte) : State :=
  if r.op = .deqn then { s with answers := s.answers ++ [(barAt 2 (0x1000 * n.toNat + 0xFE8), bs)] } else s

/-- R451, R452: the outcome of a host slot's operation; the element of a DEQN returns to the host. -/
def State.answerSlot (s : State) (r : QReq) (n : BitVec 8) (a : QAnswer) : State :=
  let put (v : Nat) : State := { s with qwStatus := Cells.put 0#8 s.qwStatus n.toNat (BitVec.ofNat 8 v) }
  match a with
  | .elem bs bad =>
    let t := put (if bad then 4 else 1)
    t.slotReturn r n (if bad then [] else bs)
  | .refused closed => (put (if closed then 3 else 2)).slotReturn r n []
  | .fault .. => (put 4).slotReturn r n []
  | _ => s

/-- R393: an answer leaves the block's home slice: to a core as a reply on its return channel; that a request parks is known at
once (R156). -/
def State.answer (s : State) (r : QReq) (a : QAnswer) : State :=
  let tag : Tag := { s.tag r.slack with its := r.its, mute := r.slack == 0 }
  let back (id : BitVec 7) (seq : Nat) : State :=
    s.replyTo ⟨r.uid, .core id, r.pc, seq, 1, .queue r, [], false, tag⟩ id (.queue r a) [⟨r.qpa, r.handle, 64, 0, []⟩] false 0 (homeSlice r.qpa / 2)
  match r.agent, r.dest, a with
  | .core id, .entry seq q k buf, .parked => s.asCore id fun s => s.answerEntry r seq q k buf .parked
  | .core id, .launchRec seq, .parked => s.asCore id fun s => s.answerLaunch r seq .parked
  | .core id, .entry seq .., _ => back id seq
  | .core id, .launchRec seq, _ => back id seq
  | _, .hostSlot n, a => s.answerSlot r n a
  | _, .record event, .elem .. => s.recordSent r event
  | _, .record _, .parked => s
  | _, .record _, _ => s.eventLost
  | _, _, _ => s

/-! ### At the home slice -/

/-- R130, R368: the group keeps a translation under a root. -/
def State.noteGroup (s : State) (pa : Nat) (root : Word64) (va : Nat) : State :=
  match s.translate (groupOf pa) root va with
  | .ok p => s.fillTlb (groupOf pa) root p
  | .error _ => s

/-- R367: a request that is no background read has been accepted for a block: the lookahead may peek there again. -/
def State.peekAgain (s : State) (pa : Nat) : State := { s with peekBad := s.peekBad.filter (·.1 != pa) }

/-- R369: the block's address under the requester's root, for a requester without a core. Which slice group translates an address
that no slice is known for yet is open: that of the virtual address (log entry 15). -/
def State.blockAt (s : State) (r : QReq) (write : Bool) : Except AccFault Nat :=
  if r.qpa ≠ 0 then .ok r.qpa
  else
    let va := r.handle.toNat / 64 * 64
    if bitsOf r.handle 4 2 ≠ 0 then .error ⟨0x0A#8, 0#64⟩
    else if 2 ^ 48 ≤ va then .error ⟨0x0B#8, 0#64⟩
    else match s.translate (groupOf va) r.root va with
      | .error e => .error e.fault
      | .ok p =>
        if (write && !p.w) || (!r.sup && !p.k) then .error p.denied
        else if isRaw (p.pa + (va - p.va)) then .ok (p.pa + (va - p.va)) else .error ⟨0x0B#8, 0#64⟩

/-- R368: the data area of a block, its first page translated: the physical address of element 0. -/
def areaUnder (page : Except WalkErr Page) (sup : Bool) (b : Qcb) (write : Bool) : Except AccFault Nat :=
  match page with
  | .error e => .error e.fault
  | .ok p =>
    let pa := p.pa + (b.base - p.va)
    let n := b.esize * b.capacity
    if (write && !p.w) || (!sup && !p.k) then .error p.denied
    else if p.va + p.size < b.base + n ∨ isRaw pa = false ∨ isRaw (pa + n - 1) = false then .error ⟨0x0B#8, 0#64⟩
    else .ok pa

/-- R368: the data area of a block under the requester's root, through the group's translation cache. -/
def State.dataArea (s : State) (pa : Nat) (root : Word64) (sup write : Bool) : Except AccFault Nat :=
  areaUnder (s.translate (groupOf pa) root (s.qcb pa).base) sup (s.qcb pa) write

/-- The slack a parked request still has (R390): it falls by one at each 16th cycle. -/
def State.slackLeft (s : State) (r : QReq) : Nat := r.slack - (s.cycle - r.since) / 16

/-- R373: the parked request of some kind that goes first: least slack, then the one parked earliest. -/
def State.firstParked (s : State) (pa : Nat) (op : QOp → Bool) : Option QReq :=
  (s.waiters.filter fun w => w.qpa == pa && op w.op).foldl (fun best w =>
    match best with
    | none => some w
    | some b => if s.slackLeft w < s.slackLeft b then some w else best) none

/-- R441: a performed queue operation is charged to the queue's meter. -/
def State.chargeQueue (s : State) (pa : Nat) : State := s.chargeMeter (s.qcb pa).meter (s.eventCharge 8 1)

/-- The launch whose digest a request's element enters (R437). -/
def State.queueKey (s : State) (r : QReq) : Option Nat :=
  match r.agent with | .core k => some (s.coreAt k).launchKey | _ => none

/-- R445: an ENQ at a block wakes a controller that sleeps, or is to sleep, when it is a launch queue of the wake priority
or a pre-empted gang was parked there. -/
def State.wakeOn (s : State) (pa : Nat) : State :=
  let hit (die : Bool) (c : Controller) : Bool :=
    (c.asked.isSome || c.asleep != 0)
      && ((List.range 64).any (fun n => pa == s.queuePa die n && decide (c.wakePrio.toNat ≤ (s.qcb pa).prio))
        || s.launches.any fun l => l.die == die && l.gangs.any (·.parkedOn.contains pa))
  { s with
    east := if hit false s.east then { s.east with waking := true } else s.east
    west := if hit true s.west then { s.west with waking := true } else s.west }

/-- R372: an ENQ performs. -/
def State.enqueue (s : State) (r : QReq) : State :=
  let b := s.qcb r.qpa
  let s := s.performWrite (s.queueKey r) (r.data + b.esize * (b.tail % b.capacity)) r.elem
  ((s.setQcb r.qpa fun b => { b with tail := (b.tail + 1) % 2 ^ 32, free := b.free - 1 }).chargeQueue r.qpa).wakeOn r.qpa

/-- R372: the element at the head of a queue, and whether it carries an error. -/
def State.headElem (s : State) (pa data : Nat) : List Byte × Bool :=
  let b := s.qcb pa
  let at' := data + b.esize * (b.head % b.capacity)
  (s.bytes at' b.esize, s.poisoned at' b.esize)

/-- R22, R340: the record at `head` of a queue goes to some agent: a frame that the lookahead of another gang has loaded, or
loads, for it is discarded, that of a saved gang too; that of its own gang stays. -/
def State.peekTaken (s : State) (pa head : Nat) (who : Agent) : State :=
  let own (c : CoreState) : Bool := match who with | .core k => (s.coreAt k).gang.lead == c.id | _ => false
  let hit (c : CoreState) (b : Bool) : Bool := (c.bank b).peeked == some (pa, head)
  let one (s : State) (c : CoreState) (b : Bool) : State :=
    if !hit c b then s
    else if own c then s.updCore c.id fun c => c.setBank b { c.bank b with peeked := none }
    else s.asCore c.id fun s => (s.abandonLook b).upd (·.setBank b .empty)
  let t := ((s.core :: s.parked).filter fun c => hit c false || hit c true).foldl (fun s c => one (one s c false) c true) s
  let gone (d : BankDesc) : BankDesc := if d.peeked == some (pa, head) then .empty else d
  { t with launches := t.launches.map fun l => { l with gangs := l.gangs.map fun g =>
      { g with kept := g.kept.map fun k => { k with bank0 := gone k.bank0, bank1 := gone k.bank1 } } } }

/-- R372: a DEQ of some agent performs. -/
def State.dequeue (s : State) (pa : Nat) (who : Agent) : State :=
  ((s.setQcb pa fun b => { b with head := (b.head + 1) % 2 ^ 32, free := b.free + 1 }).chargeQueue pa).peekTaken pa (s.qcb pa).head who

/-- R373: the waiters that a performed ENQ or DEQ wakes. -/
def State.wakeAfter (s : State) (pa : Nat) (enq : Bool) : Nat → State
  | 0 => s
  | fuel + 1 =>
    if enq then
      let s := (s.waiters.filter fun w => w.qpa == pa && w.op == .qpeek).foldl (fun s w =>
        let (e, bad) := s.headElem pa w.data
        ((s.unpark w).chargeQueue pa).answer w (.elem e bad)) s
      match s.firstParked pa fun o => o == .deq with
      | none => s
      | some w =>
        let (e, bad) := s.headElem pa w.data
        (((s.unpark w).dequeue pa w.agent).answer w (.elem e bad)).wakeAfter pa false fuel
    else match s.firstParked pa fun o => o == .enq with
      | none => s
      | some w => (((s.unpark w).enqueue w).answer w (.elem [] false)).wakeAfter pa true fuel

/-- R373: parked requests of a block released, to be sent again; `count` when their counts fall with them. -/
def State.release (s : State) (pa : Nat) (which : QReq → Bool) (count : Bool) : State :=
  let out := s.waiters.filter fun w => w.qpa == pa && which w
  let s := if count then out.foldl (fun s w => s.unpark w) s
    else { s with waiters := s.waiters.filter fun w => !(w.qpa == pa && which w) }
  { s with released := s.released ++ out }

/-- R375: the word of QSTAT, of a block that passed R366 or not. -/
def State.qstatWord (s : State) (pa : Nat) (good : Bool) : Word64 :=
  let b := s.qcb pa
  BitVec.ofNat 64 ((if good then (b.tail + 2 ^ 32 - b.head) % 2 ^ 32 % 2 ^ 21 else 0) + (if b.closed then 2 ^ 21 else 0)
    + (if b.poison then 2 ^ 22 else 0) + b.waitp * 2 ^ 32 + b.waitc * 2 ^ 48)

/-- R371: the block that QINIT writes. -/
def initBlock (code : Nat) (v : Word64) (die : Bool) : Qcb :=
  { code := code, cap := bitsOf v 0 5, head := 0, tail := 0, free := 2 ^ bitsOf v 0 5, prio := bitsOf v 5 3
    closed := false, poison := false, hdie := die, meter := bitsOf v 8 8, waitp := 0, waitc := 0
    base := bitsOf v 16 32 * 65536 }

/-- R366, R370, R372: a request on a block that passed its tests and whose data area is at `r.data`. -/
def State.runQueue (s : State) (r : QReq) : State × QAnswer :=
  let b := s.qcb r.qpa
  let fault8 : QAnswer := .fault 0x10#8 0x801 r.handle (BitVec.ofNat 64 r.qpa) 0#64
  let park : State × QAnswer :=
    match r.agent with | .gone _ => (s, .parked) | _ => ({ s with waiters := s.waiters ++ [{ r with since := s.cycle }] }.setQcb r.qpa fun b =>
      if r.op.producer then { b with waitp := b.waitp + 1 } else { b with waitc := b.waitc + 1 }, .parked)
  match r.op with
  | .enq | .enqn =>
    if b.closed then (s, if r.op = .enqn then .refused true else fault8)
    else if b.free = 0 then (if r.op = .enqn then (s, .refused false) else park)
    else (s.enqueue r, .elem [] false)
  | .deq | .deqn | .qpeek =>
    if b.free = b.capacity then
      (if b.closed then (s, if r.op = .deqn then .refused true else fault8)
      else if r.op = .deqn then (s, .refused false) else park)
    else
      let (e, bad) := s.headElem r.qpa r.data
      (if r.op = .qpeek then s.chargeQueue r.qpa else s.dequeue r.qpa r.agent, .elem e bad)
  | .qclose =>
    if b.closed then (s.chargeQueue r.qpa, .elem [] false)
    else
      let empty := b.free == b.capacity
      (((s.setQcb r.qpa fun b => { b with closed := true }).release r.qpa (fun w => w.op.producer || empty) true).chargeQueue
        r.qpa, .elem [] false)
  | .qstat => (s.chargeQueue r.qpa, .status (s.qstatWord r.qpa true))
  | .qinit => (s, .elem [] false)

/-- A request at its block, with everything but the waking: QINIT; the tests of R366; QSTAT; the size codes of R370;
the data area of R368; the operation. -/
def State.tryQueue (s : State) (r : QReq) : State × QAnswer :=
  let pa := r.qpa
  if r.op = .qinit then
    let s := s.release pa (fun _ => true) false
    let s := s.performWrite (s.queueKey r) pa
      (initBlock (bitsOf r.handle 0 4) (BitVec.ofNat 64 (leNat r.elem)) (homeSlice pa / 32 == 1)).bytes
    (s.chargeQueue pa, .elem [] false)
  else
    let reason := s.qcbReason pa
    if reason ≠ 0 then
      let t := if reason = 1 then s else (s.poisonBlock pa).release pa (fun _ => true) false
      (t, if r.op = .qstat then .status (t.qstatWord pa false)
        else .fault 0x10#8 (1 + reason * 256) r.handle (BitVec.ofNat 64 pa) 0#64)
    else
      let b := s.qcb pa
      let write := r.op.producer
      if r.op = .qstat then s.runQueue r
      else if b.code ≠ bitsOf r.handle 0 4 then (s, .fault 0x11#8 (1 + b.code * 256) r.handle 0#64 0#64)
      else if r.op = .qclose then s.runQueue r
      else match s.dataArea pa r.root r.sup write with
        | .error f => (s, .fault f.cause (1 + if write then 16 else 0) (BitVec.ofNat 64 b.base) 0#64 f.info)
        | .ok data => (s.noteGroup pa r.root b.base).runQueue { r with data := data }

/-- R367: a request that is not faulted has been accepted. -/
def State.acceptQueue (s : State) (r : QReq) : State × QAnswer :=
  match s.tryQueue r with
  | (t, .fault c t0 t1 t2 t3) => (t, .fault c t0 t1 t2 t3)
  | (t, a) => (t.peekAgain r.qpa, a)

/-- Whether the entry that sent a request still waits for it; a request of a discarded entry is withdrawn (R374). -/
def State.entryStands (s : State) (r : QReq) : Bool :=
  let there (id : BitVec 7) (seq : Nat) : Bool :=
    (s.coreAt id).bundles.any fun b => b.seq == seq && b.entries.any (·.slot == 1)
  match r.agent, r.dest with
  | .core id, .entry seq .. => there id seq
  | .core id, .launchRec seq => there id seq
  | _, _ => true

/-- Parked requests of a block whose entries are gone leave it. -/
def State.purge (s : State) (pa : Nat) : State :=
  (s.waiters.filter fun w => w.qpa == pa && !s.entryStands w).foldl (fun s w => s.unpark w) s

/-- R372, R373: a request is accepted, answered, and wakes others. -/
def State.serveQueue (s : State) (r : QReq) : State :=
  match s.blockAt r (match r.op with | .qstat | .qpeek => false | _ => true) with
  | .error f => s.answer r (.fault f.cause 1 r.handle 0#64 f.info)
  | .ok pa =>
    let s := if r.qpa = 0 then s.noteGroup (r.handle.toNat / 64 * 64) r.root (r.handle.toNat / 64 * 64) else s
    let r := { r with qpa := pa }
    let (s, a) := (s.purge pa).acceptQueue r
    let s := s.answer r a
    match a, r.op with
    | .elem .., .enq | .elem .., .enqn => s.wakeAfter pa true 4
    | .elem .., .deq | .elem .., .deqn => s.wakeAfter pa false 4
    | _, _ => s

/-- The queue request that a request carries. -/
def Req.queue (r : Req) : Option QReq := match r.kind with | .queue q => some q | _ => none

/-- QUEUE_REQUEST (R366 to R373, R391): a queue request is accepted. -/
def execQueueRequest (s : State) : Out :=
  match (s.grants (·.queue.isSome)).bind fun r => r.queue.map fun q => (r, q) with
  | none => .next s
  | some (r, q) =>
    let t := s.leaves r
    if t.entryStands q then .next (t.serveQueue { q with slack := (r.tag.settle s.cycle).slack, its := r.tag.its }) else .next t

/-- WITHDRAWAL_NOTICE (R374): the first notice reaches its slice: a request still parked leaves. -/
def execWithdrawalNotice (s : State) : Out :=
  match s.withdrawals with
  | [] => .next s
  | u :: rest =>
    let t := { s with withdrawals := rest }
    match t.waiters.find? (·.uid == u) with
    | some w => .next (t.unpark w)
    | none => .next t

/-- RELEASED_REQUEST_RETURN (R373): the first released request is with its sender again: a core's entry is tried anew,
a record is sent again. -/
def execReleasedRequestReturn (s : State) : Out :=
  match s.released with
  | [] => .next s
  | w :: rest =>
    let t := { s with released := rest }
    match w.agent with
    | .core _ => .next t
    | a => .next { t with reqs := t.reqs ++ [⟨w.uid, a, w.pc, 0, 0, .queue { w with its := t.cycle }, [], false, t.tag w.slack⟩] }

/-! ### The instructions (R368, R370, R371) -/

/-- A request of the entry being issued is on its way, waiting or parked. -/
def State.queueOut (s : State) : Bool :=
  let c := s.core
  let mine (r : QReq) : Bool :=
    r.agent == .core c.id && (match r.dest with | .entry seq .. => seq == c.cur.seq | .launchRec seq => seq == c.cur.seq | _ => false)
  s.pending.any (fun r => match r.queue with | some q => mine q | none => false) || s.waiters.any mine || s.released.any mine
    || s.replies.any fun x => match x.dest with | .queue q _ => mine q | _ => false

/-- R370: the element or buffer of an operation. -/
def QOp.moves (o : QOp) : Bool := match o with | .enq | .enqn | .deq | .deqn | .qpeek => true | _ => false

/-- R370: the 8-byte pieces of a buffer, checked in ascending order. -/
def State.bufferPieces (s : State) (k : AccKind) (a : Word64) : Nat → Except (Word64 × AccFault) (List (Word64 × Place))
  | 0 => .ok []
  | n + 1 =>
    if a.toNat / 2 ^ 60 = 4 then .error (a, ⟨0x0B#8, 0#64⟩)
    else match s.place a 8 8 k with
      | .error f => .error (a, f)
      | .ok p =>
        match s.bufferPieces k (a + 8#64) n with
        | .error e => .error e
        | .ok ps => .ok ((a, p) :: ps)

/-- R370: the bytes of a buffer read piece by piece. -/
def State.gather (s : State) (ps : List (Word64 × Place)) (acc : List Byte) (k : State → List Byte → Out) : Out :=
  match ps with
  | [] => k s acc
  | (a, p) :: t => s.directRead a p.loc 8 fun s bs => s.gather t (acc ++ bs) k

/-- R156: an entry found held before its request's own check has not passed it. -/
def unchecked (o : Out) : Out :=
  match o with
  | .next t =>
    if t.core.held then .next (t.upd fun c => c.updBundle c.cur.seq fun b => { b with
      entries := b.entries.map fun e => if e.slot = c.cur.slot then { e with checked := false } else e })
    else .next t
  | o => o

/-- A queue request of the entry being issued sent to the block's home slice. -/
def State.sendQueue (s : State) (op : QOp) (handle : Word64) (pa : Nat) (elem : List Byte) (dest : QDest) : State :=
  let c := s.core
  let (u, s) := s.fresh
  let q : QReq := ⟨u, .core c.id, op, handle, pa, c.crGet 0x018, c.sup, elem, dest, c.slackNow.toNat, c.cur.pc, 0, 0, s.cycle⟩
  s.send ⟨u, .core c.id, c.cur.pc, c.cur.seq, 1, .queue q, [⟨pa, handle, 64, 0, []⟩], false, s.entryTag⟩

/-- R368: the check of a handle: its block, in raw memory. -/
def State.checkHandle (s : State) (handle : Word64) (k : AccKind) : Except AccFault Place :=
  let a := BitVec.ofNat 64 (handle.toNat / 64 * 64)
  if bitsOf handle 4 2 ≠ 0 then .error ⟨0x0A#8, 0#64⟩
  else if 2 ^ 60 ≤ a.toNat then .error ⟨0x0B#8, 0#64⟩
  else match s.place a 64 64 k with
    | .error f => .error f
    | .ok p => if isRaw p.loc then .ok p else .error ⟨0x0B#8, 0#64⟩

/-- R371: the parameters of QINIT. -/
def initBad (handle v : Word64) : Bool :=
  decide (9 < bitsOf handle 0 4) || decide (20 < bitsOf v 0 5) || decide (2 ^ 30 < 8 * 2 ^ bitsOf handle 0 4 * 2 ^ bitsOf v 0 5)
    || v.toNat / 2 ^ 48 != 0

/-- R140, R372: the request is sent when it may be. -/
def State.sendWhenFree (s : State) (op : QOp) (handle : Word64) (pa : Nat) (elem : List Byte) (dest : QDest) : Out :=
  if s.ownWait pa 64 then s.holdUnchecked
  else (s.sendQueue op handle pa elem dest).holdUnchecked

/-- A queue instruction: its handle `p`, operand register `q`, status guard `k`. -/
def State.queueOp (s : State) (op : QOp) (g : BitVec 4) (p q : BitVec 6) (k : BitVec 3) : Out :=
  s.whenOn g <|
    let handle := s.core.sVal p
    let v := s.core.sVal q
    let code := bitsOf handle 0 4
    let hk : AccKind := match op with | .qstat | .qpeek => .rd | _ => .wr
    let bk : AccKind := if op.producer then .rd else .wr
    if s.queueOut then s.upd (fun c => { c with held := true }) |> .next
    else match s.checkHandle handle hk with
      | .error f => s.accTrap f hk 0 handle 0#64
      | .ok b =>
        let s := s.notePage b
        if op = .qinit ∧ initBad handle v = true then s.accTrap ⟨0x0B#8, 0#64⟩ hk 0 handle 0#64
        else if op.producer && !s.releaseReady s.core.id s.core.cur.seq 3 then s.holdUnchecked
        else if op.moves && code != 0 && decide (code ≤ 9) then
          match s.bufferPieces bk v (2 ^ code) with
          | .error e => s.accTrap e.2 bk 0 e.1 0#64
          | .ok ps =>
            let s := ps.foldl (fun s p => s.notePage p.2) s
            if op.producer then
              unchecked (s.gather ps [] fun s bs => s.sendWhenFree op handle b.loc bs (.entry s.core.cur.seq q k []))
            else if ps.any fun p => s.accessHeld p.1 p.2.loc 8 true || s.ownWait p.2.loc 8 then s.holdUnchecked
            else s.sendWhenFree op handle b.loc [] (.entry s.core.cur.seq q k (ps.map (·.2.loc)))
        else s.sendWhenFree op handle b.loc (if op.producer || op == .qinit then word v else []) (.entry s.core.cur.seq q k [])

def execQinit (o : OpSQ) (s : State) : Out := s.queueOp .qinit o.g o.p o.q 0#3
def execEnq (o : OpSQ) (s : State) : Out := s.queueOp .enq o.g o.p o.q 0#3
def execDeq (o : OpSQ) (s : State) : Out := s.queueOp .deq o.g o.p o.q 0#3
def execEnqn (o : OpSQK) (s : State) : Out := s.queueOp .enqn o.g o.p o.q o.k
def execDeqn (o : OpSQK) (s : State) : Out := s.queueOp .deqn o.g o.p o.q o.k
def execQpeek (o : OpSQ) (s : State) : Out := s.queueOp .qpeek o.g o.p o.q 0#3
def execQstat (o : OpSQ) (s : State) : Out := s.queueOp .qstat o.g o.p o.q 0#3
def execQclose (o : OpS1) (s : State) : Out := s.queueOp .qclose o.g o.p 0#6 0#3

end Sys2Proof.Machine
end

