-- ==== Sys2Proof/Machine/Frames.lean ====
section
/-! DEFINITION. The frame engine (R329 to R359): the frame map, reference counts and the Pod, the frame instructions at
their acceptance, what each operation does when it performs, and the lookahead. -/

namespace Sys2Proof.Machine

/-! ### What a check finds (R342, R343) -/

/-- Why the frame engine turns an operation away: trap 0x18 or 0x19 with its reason, TINFO2 and HTOK; or an uncorrectable
error in what it reads (R356). -/
inductive FrErr where
  | trap (cause : BitVec 8) (reason pa htok : Nat)
  | consume (pa : Nat)
  deriving DecidableEq, Repr

def fr18 (reason pa : Nat) : FrErr := .trap 0x18#8 reason pa 0
def fr19 (reason pa htok : Nat) : FrErr := .trap 0x19#8 reason pa htok

/-- A condition that must hold. -/
def demand (p : Bool) (e : FrErr) : Except FrErr Unit := if p then .ok () else .error e

/-! ### The frame map (R331, R332) -/

def State.histRaw (s : State) (e : FrEntry) : List Nat := (List.range e.hcount).map fun i => s.num (e.hlist + 4 * i) 4
def State.hist (s : State) (e : FrEntry) : List Nat := (s.histRaw e).map pageOf

/-- R332. -/
def State.malformed (s : State) (e : FrEntry) : Bool :=
  e.e0 / 2 ^ 3 % 2 != 0 || e.e0 / 2 ^ 8 % 2 ^ 8 != 0 || e.e0 / 2 ^ 48 != 0 || e.e1 % 2 ^ 6 != 0 || e.e1 / 2 ^ 46 % 4 != 0
    || decide (12 < e.npg) || (e.slots.drop e.npg).any (· != 0) || (e.slots.take e.npg).any badPage
    || decide (e.hcap < e.hcount) || (s.histRaw e).any badPage

/-- R329, R331: the entry that a register names, at a privilege level. -/
def State.frName (s : State) (sup : Bool) (x : Word32) : Except FrErr FrEntry := do
  demand (x.toNat / 2 ^ 22 == 0) (fr18 1 0)
  let da := s.dirAt x.toNat
  demand (!s.poisoned da 8) (.consume da)
  let d := s.num da 8
  demand (d % 2 == 1 && d / 4 % 2 ^ 10 == 0 && d / 2 ^ 46 == 0 && (sup || d / 2 % 2 == 1)) (fr18 1 da)
  let pa := d / 2 ^ 12 % 2 ^ 34 * 4096 + 64 * (x.toNat % 64)
  demand (!s.poisoned pa 64) (.consume pa)
  .ok (s.readEntry pa)

/-- R332, R356: the entry is well formed and its history can be read. -/
def State.frGood (s : State) (e : FrEntry) : Except FrErr Unit := do
  if !decide (e.hcap < e.hcount) then demand (!s.poisoned e.hlist (4 * e.hcount)) (.consume e.hlist)
  demand (!s.malformed e) (fr18 4 e.pa)

/-- A live frame, `snap` saying whether it must be or must not be a snapshot. -/
def State.frLive (s : State) (x : Word32) (snap : Option Bool) : Except FrErr FrEntry := do
  let e ← s.frName s.core.sup x
  demand e.v (fr18 2 e.pa)
  demand (match snap with | some b => e.snap == b | none => true) (fr18 8 e.pa)
  s.frGood e
  .ok e

/-! ### Counts (R333) -/

def State.countAt (s : State) (pn : Nat) : Nat := bitsOf (s.devGet 0x121) 16 30 * 65536 + pn
def State.count (s : State) (pn : Nat) : Nat := s.num (s.countAt pn) 1

/-- What happens to the count of a page: 4 × PN, + 0 raised, + 1 lowered, + 2 set to 1. -/
def cntUp (pn : Nat) : Nat := 4 * pn
def cntDown (pn : Nat) : Nat := 4 * pn + 1
def cntNew (pn : Nat) : Nat := 4 * pn + 2

/-- The counts that some acts would leave, and the pages that reach 0; or the first that cannot. A count that is 0 before the
operation cannot be lowered, whatever the operation raises before (R349). -/
def State.tally (s : State) : List Nat → List (Nat × Nat) → List Nat → Except FrErr (List Nat)
  | [], _, back => .ok back.reverse
  | a :: t, now, back =>
    let pn := a / 4
    let c := (now.lookup pn).getD (s.count pn)
    if s.poisoned (s.countAt pn) 1 then .error (.consume (s.countAt pn))
    else match a % 4 with
      | 0 => if 255 ≤ c then .error (fr18 6 (s.countAt pn)) else s.tally t ((pn, c + 1) :: now) back
      | 1 =>
        if c = 0 ∨ s.count pn = 0 then .error (fr18 7 (s.countAt pn))
        else s.tally t ((pn, c - 1) :: now) (if c = 1 then pn :: back else back)
      | _ => s.tally t ((pn, 1) :: now) back

/-! ### The Pod (R334, R335) -/

/-- The Pod's block and its elements under FMPT; or TINFO2 of trap 0x18 reason 0x0C. A block that fails R366 is poisoned
and its waiters are released. -/
def State.podOpen (s : State) : State × Except Nat (Nat × Nat) :=
  let root := s.devGet 0x122
  match s.placeVA (cluster s.core.id) root true (bitsOf (s.devGet 0x123) 6 42 * 64) .wr with
  | .error _ => (s, .error 0)
  | .ok p =>
    let s := match p.page with | some g => s.fillTlb (cluster s.core.id) root g | none => s
    let pa := p.loc
    if !isRaw pa then (s, .error 0)
    else
      let reason := s.qcbReason pa
      if reason = 1 then (s, .error pa)
      else if reason ≠ 0 then ((s.poisonBlock pa).release pa (fun _ => true) false, .error pa)
      else
        let b := s.qcb pa
        if b.code ≠ 0 then (s, .error pa)
        else
          let page := s.translate (cluster s.core.id) root b.base
          let s := match page with | .ok g => s.fillTlb (cluster s.core.id) root g | .error _ => s
          match areaUnder page true b true with
          | .error _ => (s, .error pa)
          | .ok data => (s.peekAgain pa, .ok (pa, data))

/-- R334: pages that were lost. -/
def State.losePages (s : State) (n : Nat) : State := s.devPut 0x124 (BitVec.ofNat 64 (((s.devGet 0x124).toNat + n) % 2 ^ 32))

/-- R334: `k` pages taken in one step, in queue order. -/
def State.podTake (s : State) (k : Nat) : State × Except FrErr (List Nat) :=
  if k = 0 then (s, .ok [])
  else match s.podOpen with
    | (s, .error pa) => (s, .error (fr18 0xC pa))
    | (s, .ok (pa, data)) =>
      let b := s.qcb pa
      let at' (i : Nat) : Nat := data + 8 * ((b.head + i) % b.capacity)
      if b.capacity - b.free < k then (s, .error (fr18 5 0))
      else match (List.range k).find? fun i => s.poisoned (at' i) 8 with
        | some i => (s, .error (.consume (at' i)))
        | none =>
          let vs := (List.range k).map fun i => s.num (at' i) 8
          let t := ((s.setQcb pa fun b => { b with head := (b.head + k) % 2 ^ 32, free := b.free + k }).chargeQueue pa).wakeAfter
            pa false 4
          match (List.range k).find? fun i => badPage (s.num (at' i) 8) with
          | some i => (t.losePages k, .error (fr18 0xC (at' i)))
          | none => (t, .ok vs)

/-- R334: a page whose count has reached 0 returns to the Pod's tail. -/
def State.podReturn (s : State) (pn : Nat) : State :=
  match s.podOpen with
  | (s, .error _) => s.losePages 1
  | (s, .ok (pa, data)) =>
    let b := s.qcb pa
    if b.free = 0 ∨ b.closed = true then s.losePages 1
    else
      let s := s.performWrite (some s.core.launchKey) (data + 8 * (b.tail % b.capacity)) (leBytes 8 pn)
      (((s.setQcb pa fun b => { b with tail := (b.tail + 1) % 2 ^ 32, free := b.free - 1 }).chargeQueue pa).wakeAfter pa true 4)

/-- R335, R342: an operation that will return pages can reach the Pod. -/
def State.podReady (s : State) (back : List Nat) : State × Except FrErr Unit :=
  match back with
  | [] => (s, .ok ())
  | _ => (match s.podOpen with | (s, .ok _) => (s, .ok ()) | (s, .error pa) => (s, .error (fr18 0xC pa)))

/-- A count changed when its operation performs, the page returned when it reaches 0. -/
def State.countAct (s : State) (a : Nat) : State :=
  let pn := a / 4
  let c := s.count pn
  let put (v : Nat) : State := s.performWrite (some s.core.launchKey) (s.countAt pn) (leBytes 1 v)
  match a % 4 with
  | 0 => put (if 255 ≤ c then 255 else c + 1)
  | 1 => if c = 0 then s else if c = 1 then (put 0).podReturn pn else put (c - 1)
  | _ => put 1

/-! ### Performing -/

/-- Bytes moved with their poison (R356), at the home slices or in a scratchpad. -/
def State.movePage (s : State) (o : EngineOp) (g : Seg) : State :=
  let s := s.note s.core.id o.seq g.dst g.n
  let s := if isPhys g.dst then s.dropDecoded g.dst g.n else s
  let bs := s.bytesOver o.old g.src g.n
  let s := s.copyBytes g.src g.dst g.n
  let s := match o.old with | [] => s | _ => { s with mem := Cells.putN 0#8 s.mem g.dst bs }
  if isPhys g.dst then (s.markBytes (some s.core.launchKey) g.dst g.n).digestNote s.core.launchKey g.dst g.n else s.noteSpad g.dst g.n

/-- R356: the operations whose reads consume an error. -/
def readsConsume : Instr → Bool
  | .frst _ | .hpapp _ => true
  | _ => false

/-- R344: an operation queued after another loads a bank of its core. -/
def CoreState.loadsLater (c : CoreState) (o : EngineOp) (b : Bool) : Bool :=
  c.ops.any fun p => decide (o.uid < p.uid)
    && (match p.instr with | .frld _ => true | .frsw _ => true | _ => false) && p.extra.head? == some (if b then 1 else 0)

/-- R344: a load of a bank is complete, unless the bank has been given up, or a later load awaits. -/
def State.loaded (s : State) (o : EngineOp) (b : Bool) : State := s.upd fun c =>
  if (c.bank b).state = 1 ∧ c.loadsLater o b = false then c.setBank b { c.bank b with state := 2 } else c

/-- R351: F is unbound in the banks of the issuing core's gang, but for a bank that a later operation loads. -/
def State.unbind (s : State) (o : EngineOp) (f : Nat) : State :=
  let lead := s.core.gang.lead
  let one (b : Bool) (s : State) : State :=
    let d := (s.coreAt lead).bank b
    if d.state ≠ 0 ∧ d.frame.toNat = f ∧ (s.coreAt lead).loadsLater o b = false then s.updCore lead (·.setBank b .empty) else s
  one true (one false s)

/-- R23: an FRSW has performed: no FRST of this use of a frame has. -/
def CoreState.useAgain (c : CoreState) (f : Nat) (b : Bool) : CoreState :=
  if (c.bank b).frame.toNat = f then c.setBank b { c.bank b with stored := false } else c

/-- What is left to do when the bytes, counts and entries of an operation are there. -/
def State.frAfter (s : State) (o : EngineOp) : State :=
  match o.instr, o.extra with
  | .frld _, w :: _ => s.loaded o (w == 1)
  | .frsw _, ex =>
    let s := match ex with | w :: _ => s.loaded o (w == 1) | [] => s
    s.upd fun c => (c.useAgain (o.addrs.headD 0) false).useAgain (o.addrs.headD 0) true
  | .frst _, w :: ps => s.upd fun c =>
      let d := c.bank (w == 1)
      c.setBank (w == 1) { d with
        storing := c.ops.any fun p => decide (o.uid < p.uid) && (match p.instr with | .frst _ => p.extra.head? == some w | _ => false)
        stored := true, dirty := ps.foldl (fun m p => m &&& ~~~BitVec.ofNat 12 (2 ^ p)) d.dirty }
  | .rback i, _ =>
      let s := s.unbind o (o.addrs.headD 0)
      if i.free then s.unbind o (o.addrs[1]?.getD 0) else s
  | .frel _, _ => s.unbind o (o.addrs.headD 0)
  | .hpmap i, _ => (match i.cnt with
      | some b => s.updCore s.core.gang.lead (·.addBar b.toNat (o.segs.map (·.n)).sum)
      | none => s)
  | _, _ => s

/-- R342: a frame operation performs: its bytes, its counts, its entries. -/
def State.performFrame (s : State) (o : EngineOp) : State :=
  let t := o.segs.foldl (fun s g => s.movePage o g) s
  let t := o.regs.foldl (fun s a => s.countAct a) t
  let t := o.writes.foldl (fun s w => (s.note s.core.id o.seq w.1 w.2.length).performWrite (some s.core.launchKey) w.1 w.2) t
  (((t.frAfter o).endOp o).charge s.core.launchKey 7 (((o.segs.map (·.n)).sum + 63) / 64)).charge s.core.launchKey 10
    (o.segs.map fun g => if g.zero then 0 else s.fetchUnits g.src g.n).sum

/-! ### Acceptance (R341 to R343) -/

/-- R343: what a check found, as a trap or a consumed error of the entry being issued. -/
def State.frTrap (s : State) (f f2 : Nat) (e : FrErr) : Out :=
  match e with
  | .trap cause reason pa htok =>
    s.trap cause (BitVec.ofNat 64 (s.core.cur.slot + 256 * reason)) (BitVec.ofNat 64 (f % 2 ^ 22 + f2 % 2 ^ 22 * 2 ^ 32))
      (BitVec.ofNat 64 pa) (BitVec.ofNat 64 htok)
  | .consume pa => .next (s.consume s.core.cur.seq s.core.cur.pc 8 0 (BitVec.ofNat 64 pa))

/-- R352: an operation of another core that names one of some frames or changes one of some pages has not performed. -/
def State.frShares (s : State) (names pages : List Nat) : Bool :=
  s.parked.any fun c => c.ops.any fun o => o.eng == 4
    && (o.addrs.any names.contains || o.regs.any (fun a => pages.contains (a / 4))
      || o.segs.any fun g => (isPhys g.src && pages.contains (g.src / 65536)) || (isPhys g.dst && pages.contains (g.dst / 65536)))

/-- R342: the state as the frame operations that the core has queued will leave it. -/
def State.framesAhead (s : State) : State := (s.core.queue 4).foldl State.performFrame s

/-- The issue of a frame instruction: its guard, a gated unit, a place in the queue of 8, FMROOT.EN (R336) and the banks
(R341). It goes on with the state its check reads; `f` and `f2` are the frames its registers name. -/
def State.frOpen (s : State) (g : BitVec 4) (banks : Bool) (f f2 : Nat) (k : State → Out) : Out :=
  s.whenOn g <|
    match s.wakeHold with
    | some o => o
    | none =>
      if 8 ≤ (s.core.queue 4).length then s.holdUnchecked
      else if !(s.devGet 0x120).getLsbD 0 then s.frTrap f f2 (fr18 1 0)
      else if banks && (s.core.gang.lead != s.core.id || bankPages (s.core.crGet 0x00E) == 0) then s.frTrap f f2 (fr18 0xA 0)
      else k s.framesAhead

/-- The outcome of a check: its trap; or what follows, held while another core's operation shares a frame or a page (R352). -/
def State.frAccept {α : Type} (s : State) (f f2 : Nat) (r : Except FrErr α) (names : List Nat) (pages : α → List Nat) (k : α → Out) : Out :=
  match r with
  | .error e => s.frTrap f f2 e
  | .ok a => if s.frShares names (pages a) then s.holdUnchecked else k a

/-- R342: `n` pages taken at acceptance; with too few in the Pod the operation waits for those that earlier operations will
return. -/
def State.frTake (s : State) (f : Nat) (n : Nat) (k : State → List Nat → Out) : Out :=
  match s.podTake n with
  | (t, .error e) => if e = fr18 5 0 ∧ s.core.queue 4 ≠ [] then s.holdUnchecked else t.frTrap f 0 e
  | (t, .ok new) => k t new

/-- An operation accepted: the frames it names, the counts it changes, the bytes it moves and writes. -/
def State.pushFr (s : State) (i : Instr) (names acts : List Nat) (segs : List Seg) (writes : List (Nat × List Byte))
    (busy : List (Nat × Nat)) (extra : List Nat) : State :=
  let (u, s) := s.fresh
  let c := s.core
  let o : EngineOp := ⟨u, c.cur.seq, 4, c.cur.pc, c.slackNow, i, 1, 0#128, names, acts, [], busy, segs, extra, c.cur.oldMem, writes⟩
  s.upd fun c => { c with ops := c.ops ++ [o] }

/-- A page, or part of one, from one place to another. -/
def pageMove (src dst n : Nat) : Seg := ⟨src, dst, n, false, src, dst, 0, 0, 0, [], none⟩
def CoreState.act' (c : CoreState) : Bool := (c.crGet 0x00E).getLsbD 16

/-- R343: the address of F's entry. -/
def State.entryPa (s : State) (f : Nat) : Nat := s.num (s.dirAt f) 8 / 2 ^ 12 % 2 ^ 34 * 4096 + 64 * (f % 64)

/-- R344: FRLD's check of F in the state `v`, and the load of the idle bank `w` begun. -/
def State.beginLoad (s v : State) (i : Instr) (x : Word32) (comp w : Bool) (done : State → State) : Out :=
  let f := x.toNat
  let r : Except FrErr FrEntry := do
    let e ← v.frLive x (some false)
    demand (decide (e.npg ≤ bankPages (s.core.crGet 0x00E))) (fr18 4 e.pa)
    demand (e.comp == comp) (fr18 9 e.pa)
    .ok e
  s.frAccept f 0 r [f] (·.live) fun e =>
    if (s.core.bank w).storing then s.holdUnchecked
    else
      let s := (s.abandonLook w).upd (·.setBank w { BankDesc.empty with frame := BitVec.ofNat 32 f, state := 1, comp := e.comp, npg := e.npg })
      .next (done (s.pushFr i [f] [] (e.live.zipIdx.map fun p => pageMove (pagePa p.1) (s.bankAt w p.2) 65536) [] []
        [if w then 1 else 0]))

/-- FRLD (R344). -/
def execFrld (o : OpFrld) (s : State) : Out :=
  let x := s.core.xVal o.xf
  s.frOpen o.g true x.toNat 0 fun v => s.beginLoad v (.frld o) x o.c (!s.core.act') id

/-- FRSW (R345): F already in the active bank, or in the idle one, or loaded into it. -/
def execFrsw (o : OpFrsw) (s : State) : Out :=
  let c := s.core
  let x := c.xVal o.xf
  let f := x.toNat
  let w := !c.act'
  let addr (b : Bool) : Word32 := BitVec.ofNat 32 (bankBase (c.crGet 0x00E) b)
  let turn (s : State) : State := s.upd fun c =>
    let c := c.setBank (!w) { c.bank (!w) with left := true }
    let c := c.setBank w { c.bank w with left := false, stored := false, peeked := none }
    (c.crPut 0x00E (setBits (c.crGet 0x00E) 16 1 (if w then 1 else 0))).setX o.xo (addr w)
  s.frOpen o.g true f 0 fun v =>
    let a := v.core.bank (!w)
    let i := v.core.bank w
    let same (d : BankDesc) : Except FrErr Unit := demand (d.comp == o.c) (fr18 9 (v.entryPa f))
    if a.state = 2 ∧ a.frame.toNat = f then
      s.frAccept f 0 (same a) [f] (fun _ => []) fun _ =>
        let s := if i.frame.toNat = f ∧ i.state ≠ 0 then (s.abandonLook w).upd (·.setBank w .empty) else s
        .next ((s.pushFr (.frsw o) [f] [] [] [] [] []).upd fun c => (c.setBank (!w) { c.bank (!w) with stored := false }).setX o.xo (addr (!w)))
    else if i.state ≠ 0 ∧ i.frame.toNat = f then
      s.frAccept f 0 (same i) [f] (fun _ => []) fun _ => .next (turn (s.pushFr (.frsw o) [f] [] [] [] [] []))
    else s.beginLoad v (.frsw o) x o.c w turn

/-- FRST (R346). -/
def execFrst (o : OpFrst) (s : State) : Out :=
  let b := s.core.act'
  s.frOpen o.g true 0 0 fun v =>
    let a := v.core.bank b
    let r : Except FrErr FrEntry := do
      demand (a.state == 2) (fr18 0xB 0)
      let e ← v.frLive a.frame (some false)
      demand (e.npg == a.npg && e.comp == a.comp) (fr18 4 e.pa)
      .ok e
    s.frAccept 0 0 r [a.frame.toNat] (·.live) fun e =>
      let ps := (List.range e.npg).filter fun p => o.all || a.dirty.getLsbD p
      let slot (p : Nat) : Nat := pageOf (e.slots[p]?.getD 0)
      let shared := ps.filter fun p => decide (1 < v.count (slot p))
      s.frTake 0 shared.length fun s new =>
        let to' (p : Nat) : Nat := match shared.idxOf? p with | some j => new[j]?.getD 0 | none => slot p
        let acts := shared.flatMap fun p => [cntNew (to' p), cntDown (slot p)]
        let slots := e.slots.zipIdx.map fun q => if ps.contains q.2 then to' q.2 else q.1
        .next ((s.upd fun c => c.setBank b { c.bank b with storing := true }).pushFr (.frst o) [a.frame.toNat] acts
          (ps.map fun p => pageMove (s.bankAt b p) (pagePa (to' p)) 65536)
          [(e.pa + 16, slots.flatMap (leBytes 4))] [] ((if b then 1 else 0) :: ps))

/-- R348: the pages that D shares after FORK or SNAP of `e`, and the writes that make D. -/
def State.shareWrites (s : State) (e d : FrEntry) (snap : Bool) : List (Nat × List Byte) :=
  let e0 := e.e0 - (if e.snap then 4 else 0) + (if snap then 4 else 0)
  [(d.hlist, (s.hist e).flatMap (leBytes 4)), (d.pa + 16, e.slots.flatMap (leBytes 4)), (d.pa, leBytes 8 e0)]

/-- FORK and SNAP (R348). -/
def State.forkOp (s : State) (i : Instr) (o : OpFr2) (snap : Bool) : Out :=
  let x := s.core.xVal o.xf
  let y := s.core.xVal o.xo
  s.frOpen o.g false x.toNat y.toNat fun v =>
    let r : Except FrErr (FrEntry × FrEntry) := do
      let e ← v.frLive x none
      let d ← v.frName s.core.sup y
      demand (!d.v) (fr18 3 d.pa)
      v.frGood d
      demand (decide (e.hcount ≤ d.hcap)) (fr19 4 d.pa d.htok)
      let _ ← v.tally ((e.live ++ v.hist e).map cntUp) [] []
      .ok (e, d)
    let ups (p : FrEntry × FrEntry) : List Nat := p.1.live ++ v.hist p.1
    s.frAccept x.toNat y.toNat r [x.toNat, y.toNat] ups fun p =>
      .next (s.pushFr i [x.toNat, y.toNat] ((ups p).map cntUp) [] (v.shareWrites p.1 p.2 snap) [] [])

def execSnap (o : OpFr2) (s : State) : Out := s.forkOp (.snap o) o true
def execFork (o : OpFr2) (s : State) : Out := s.forkOp (.fork o) o false

/-- R350: what a released entry holds: V, COMP, SNAP, NPG, HTOK and the slots 0. -/
def FrEntry.released (e : FrEntry) : List (Nat × List Byte) :=
  [(e.pa + 16, List.replicate 48 0#8), (e.pa, leBytes 8 0)]

/-- R335, R342: what follows a check that lowers counts: the Pod must be there for the pages that will return. -/
def State.frReturns (s : State) (f f2 : Nat) (back : List Nat) (k : State → Out) : Out :=
  match s.podReady back with
  | (s, .error e) => s.frTrap f f2 e
  | (s, .ok _) => k s

/-- RBACK (R349). -/
def execRback (o : OpRback) (s : State) : Out :=
  let x := s.core.xVal o.xf
  let y := s.core.xVal o.xo
  s.frOpen o.g false x.toNat y.toNat fun v =>
    let acts (e d : FrEntry) : List Nat :=
      (d.live ++ v.hist d).map cntUp ++ (e.live ++ v.hist e).map cntDown ++ (if o.free then (d.live ++ v.hist d).map cntDown else [])
    let r : Except FrErr (FrEntry × FrEntry × List Nat) := do
      let e ← v.frLive x (some false)
      let d ← v.frLive y (some true)
      demand (e.comp == d.comp) (fr18 9 e.pa)
      demand (decide (d.hcount ≤ e.hcap)) (fr19 4 e.pa e.htok)
      let back ← v.tally (acts e d) [] []
      .ok (e, d, back)
    s.frAccept x.toNat y.toNat r [x.toNat, y.toNat] (fun p => (acts p.1 p.2.1).map (· / 4)) fun (e, d, back) =>
      s.frReturns x.toNat y.toNat back fun s =>
        .next (s.pushFr (.rback o) [x.toNat, y.toNat] (acts e d) []
          (v.shareWrites d e false ++ if o.free then d.released else []) [] [])

/-- FREL (R350). -/
def execFrel (o : OpFrel) (s : State) : Out :=
  let x := s.core.xVal o.xf
  s.frOpen o.g false x.toNat 0 fun v =>
    let r : Except FrErr (FrEntry × List Nat) := do
      let e ← v.frLive x none
      let back ← v.tally ((e.live ++ v.hist e).map cntDown) [] []
      .ok (e, back)
    s.frAccept x.toNat 0 r [x.toNat] (fun p => p.1.live ++ v.hist p.1) fun (e, back) =>
      s.frReturns x.toNat 0 back fun s =>
        .next (s.pushFr (.frel o) [x.toNat] ((e.live ++ v.hist e).map cntDown) [] e.released [] [])

/-- R123, R125, R343: an own-cluster scratchpad operand of a frame instruction. -/
def State.frSpad (s : State) (x : Word32) (n : Nat) (write : Bool) (k : Nat → Out) : Out :=
  let a := x.toNat
  let bad (cause : BitVec 8) : Out := s.accTrap ⟨cause, 0#64⟩ (if write then .wr else .rd) 0 (BitVec.ofNat 64 a) 0#64
  if a % 128 ≠ 0 then bad 0x0A#8
  else if a / 2 ^ 22 ≠ 0 ∨ s.core.ownsSpad a n = false then bad 0x0B#8
  else k (Loc.spad (cluster s.core.id) a)

/-- HPAPP (R353). -/
def execHpapp (o : OpFr2) (s : State) : Out :=
  let x := s.core.xVal o.xf
  s.frOpen o.g false x.toNat 0 fun v =>
    s.frSpad (s.core.xVal o.xo) 4096 false fun row =>
      let r : Except FrErr FrEntry := do
        let e ← v.frLive x (some false)
        demand (e.hcap != 0) (fr19 3 e.pa e.htok)
        demand (e.htok != 2 ^ 32 - 1 && !(e.htok % 16 == 0 && decide (e.hcap ≤ e.htok / 16))) (fr19 2 e.pa e.htok)
        .ok e
      let at' (e : FrEntry) : Nat := e.hlist + 4 * (e.htok / 16)
      let page (e : FrEntry) : Nat := pageOf (v.num (at' e) 4)
      s.frAccept x.toNat 0 r [x.toNat] (fun e => if e.htok % 16 = 0 then [] else [page e]) fun e =>
        let t := e.htok % 16
        let cur := page e
        let shared := t != 0 && decide (1 < v.count cur)
        s.frTake x.toNat (if t = 0 ∨ shared = true then 1 else 0) fun s new =>
          let n := new.headD cur
          let acts := if t = 0 then [cntNew n] else if shared then [cntNew n, cntDown cur] else []
          let moves := (if shared then [pageMove (pagePa cur) (pagePa n) (4096 * t)] else []) ++ [pageMove row (pagePa n + 4096 * t) 4096]
          let writes := (if new.isEmpty then [] else [(at' e, leBytes 4 n)]) ++ [(e.pa + 2, leBytes 4 (e.htok + 1))]
          .next (s.pushFr (.hpapp o) [x.toNat] acts moves writes [] [])

/-- HPMAP (R354). -/
def execHpmap (o : OpHpmap) (s : State) : Out :=
  let x := s.core.xVal o.xf
  let n := o.n.toNat + 1
  let t0 := (s.core.xVal (o.xf + 1#4)).toNat
  s.frOpen o.g false x.toNat 0 fun v =>
    s.frSpad (s.core.xVal o.xo) (4096 * n) true fun dst =>
      let r : Except FrErr FrEntry := do
        let e ← v.frLive x none
        demand (decide (t0 + n ≤ e.htok)) (fr19 1 e.pa e.htok)
        .ok e
      let page (e : FrEntry) (t : Nat) : Nat := pageOf (v.num (e.hlist + 4 * (t / 16)) 4)
      s.frAccept x.toNat 0 r [x.toNat] (fun e => (List.range n).map fun i => page e (t0 + i)) fun e =>
        if s.bankWait dst (4096 * n) true then s.holdUnchecked
        else .next (s.pushFr (.hpmap o) [x.toNat] [] ((List.range n).map fun i =>
          pageMove (pagePa (page e (t0 + i)) + 4096 * ((t0 + i) % 16)) (dst + 4096 * i) 4096) [] [] [])

/-- R355: a bank descriptor in 16 bytes. -/
def BankDesc.bytes (d : BankDesc) : List Byte :=
  let bit (b : Bool) (n : Nat) : Nat := if b then 2 ^ n else 0
  leBytes 16 (d.frame.toNat % 2 ^ 22 + d.state * 2 ^ 22 + bit d.storing 24 + bit d.comp 25 + bit d.la 26 + d.dirty.toNat * 2 ^ 32
    + d.npg % 16 * 2 ^ 44)

/-- R355: the 128 bytes of FRSTAT. -/
def State.frstatBytes (s : State) (e : Option FrEntry) : List Byte :=
  let lead := s.coreAt s.core.gang.lead
  let banks := if bankPages (lead.crGet 0x00E) = 0 then List.replicate 32 0#8 else lead.bank0.bytes ++ lead.bank1.bytes
  let top := match e with
    | none => List.replicate 80 0#8
    | some e =>
      let cnt (raw : Nat) : Nat := if pageOf raw < 0xC00000 then s.count (pageOf raw) else 0
      let slots := (List.range 12).map fun p => if p < e.npg then cnt (e.slots[p]?.getD 0) else 0
      let last := if 0 < e.htok ∧ e.hcount ≤ e.hcap then cnt (s.num (e.hlist + 4 * (e.hcount - 1)) 4) else 0
      s.bytes e.pa 64 ++ slots.flatMap (leBytes 1) ++ leBytes 1 last ++ leBytes 1 (if s.malformed e then 1 else 0) ++ List.replicate 2 0#8
  top ++ banks ++ List.replicate 16 0#8

/-- FRSTAT (R355): it runs whatever FMROOT.EN holds (R336), and a name that cannot be reached reads as zeros. -/
def execFrstat (o : OpFr2) (s : State) : Out :=
  let x := s.core.xVal o.xf
  let a := (s.core.xVal o.xo).toNat
  s.whenOn o.g <|
    match s.wakeHold with
    | some r => r
    | none =>
      if 8 ≤ (s.core.queue 4).length then s.holdUnchecked
      else if a % 128 ≠ 0 then s.accTrap ⟨0x0A#8, 0#64⟩ .wr 0 (BitVec.ofNat 64 a) 0#64
      else if !s.core.storeOk a 128 then s.storeTrap true a
      else if s.frShares [x.toNat] [] || s.storeWait (some 4) [] [(a, 128)] then s.holdUnchecked
      else
        let v := s.framesAhead
        let go (e : Option FrEntry) : Out :=
          .next (s.pushFr (.frstat o) [x.toNat] [] [] [(s.st a, v.frstatBytes e)] [(a, 128)] [])
        match v.frName s.core.sup x with
        | .ok e => go (some e)
        | .error (.consume pa) => s.frTrap x.toNat 0 (.consume pa)
        | .error _ => go none

/-- FRAME_OPERATION_DONE (R342, R346, R356): pages on their way return to the Pod; then the oldest operation of the core
performs. -/
def execFrameOperationDone (s : State) : Out :=
  let s := s.podBack.foldl (fun s pn => s.podReturn pn) { s with podBack := [] }
  match s.core.queue 4 with
  | [] => .next s
  | o :: _ =>
    match (if readsConsume o.instr then o.segs.find? fun g => s.poisoned g.src g.n else none) with
    | some g => .next (s.opConsume o 8 0 (BitVec.ofNat 64 (g.src % 2 ^ 46)))
    | none => .next (s.performFrame o)

/-! ### Lookahead (R22 to R24, R340, R367) -/

/-- The idle bank may be filled: it is empty or has been left, and no FRST reads it. -/
def BankDesc.mayFill (d : BankDesc) : Bool := (d.state == 0 || (d.state == 2 && d.left)) && !d.storing

/-- R22, R367, R369: the head element of the inbound queue as a background read gives it, with its block and HEAD count; or the
block that failed. The engine is no core: its translations are those of a supervisor. -/
def State.peekHead (s : State) : Except (Option Nat) (Option (Nat × Nat × Nat)) :=
  let c := s.core
  let root := c.crGet 0x018
  match s.placeVA (cluster c.id) root true (bitsOf (c.crGet 0x00F) 6 42 * 64) .rd with
  | .error _ => .error none
  | .ok p =>
    if !isRaw p.loc then .error none
    else if s.peekBad.contains (p.loc, root) then .ok none
    else if s.qcbReason p.loc ≠ 0 then .error (some p.loc)
    else
      let b := s.qcb p.loc
      match s.dataArea p.loc root true false with
      | .error _ => .error (some p.loc)
      | .ok data =>
        if b.free = b.capacity then .ok none
        else
          let at' := data + b.esize * (b.head % b.capacity)
          if s.poisoned at' b.esize then .ok none else .ok (some (s.num at' 2, p.loc, b.head))

/-- LOOKAHEAD_PEEK (R22, R23, R340): the frame that the head of the inbound queue names starts to load into the idle
bank. -/
def execLookaheadPeek (s : State) : Out :=
  let c := s.core
  let w := !c.act'
  let a := c.bank (!w)
  if c.mode != .running || !(c.crGet 0x00F).getLsbD 63 || c.gang.lead != c.id || bankPages (c.crGet 0x00E) == 0
    || !(c.bank w).mayFill || !(c.queue 4).isEmpty || !(s.devGet 0x120).getLsbD 0 then .next s
  else match s.peekHead with
    | .error none => .next s
    | .error (some pa) => .next { s with peekBad := s.peekBad ++ [(pa, c.crGet 0x018)] }
    | .ok none => .next s
    | .ok (some (session, pa, head)) =>
      let f := 64 * session + bitsOf (c.crGet 0x00F) 48 6
      if a.state ≠ 0 ∧ a.frame.toNat = f ∧ (a.stored = false ∨ a.storing = true) then .next s
      else match s.frLive (BitVec.ofNat 32 f) (some false) with
        | .error _ => .next s
        | .ok e =>
          if bankPages (c.crGet 0x00E) < e.npg then .next s
          else .next (s.upd (·.setBank w { BankDesc.empty with
            frame := BitVec.ofNat 32 f, state := 1, comp := e.comp, npg := e.npg, la := true, peeked := some (pa, head) }))

/-- LOOKAHEAD_LOAD_DONE (R340): the bank that the lookahead fills is ready; a frame that is gone leaves it empty. -/
def execLookaheadLoadDone (s : State) : Out :=
  let c := s.core
  match [false, true].find? fun b => (c.bank b).state == 1 && (c.bank b).la with
  | none => .next s
  | some b =>
    match s.frLive (c.bank b).frame (some false) with
    | .error _ => .next ((s.abandonLook b))
    | .ok e =>
      if e.npg ≠ (c.bank b).npg then .next (s.abandonLook b)
      else
        let t := e.live.zipIdx.foldl (fun s p => s.copyBytes (pagePa p.1) (s.bankAt b p.2) 65536) s
        .next (((t.upd fun c => c.setBank b { c.bank b with state := 2 }).charge c.launchKey 7 (1024 * e.npg)).charge c.launchKey 10
          (e.live.map fun p => s.fetchUnits (pagePa p) 65536).sum)

end Sys2Proof.Machine
end

