-- ==== Sys2Proof/Machine/Scalar.lean ====
section
/-! DEFINITION. The scalar unit's register instructions (R202 to R210, R215, R216, R218, R219). -/

namespace Sys2Proof.Machine

/-- NOP (R30). -/
def execNop (s : State) : Out := .next s

/-! ### Register arithmetic (R202, R203) -/

def execAdd (o : OpSA) (s : State) : Out := s.alu o fun a b => a + b
def execSub (o : OpSA) (s : State) : Out := s.alu o fun a b => a - b
def execMul (o : OpSA) (s : State) : Out := s.alu o fun a b => a * b
def execMulh (o : OpSA) (s : State) : Out := s.alu o mulHigh
def execMulhu (o : OpSA) (s : State) : Out := s.alu o mulHighU
def execDiv (o : OpSA) (s : State) : Out := s.div64 o BitVec.sdiv
def execDivu (o : OpSA) (s : State) : Out := s.div64 o BitVec.udiv
def execRem (o : OpSA) (s : State) : Out := s.div64 o BitVec.srem
def execRemu (o : OpSA) (s : State) : Out := s.div64 o BitVec.umod
def execAnd (o : OpSA) (s : State) : Out := s.alu o fun a b => a &&& b
def execOr (o : OpSA) (s : State) : Out := s.alu o fun a b => a ||| b
def execXor (o : OpSA) (s : State) : Out := s.alu o fun a b => a ^^^ b
def execShl (o : OpSA) (s : State) : Out := s.alu o fun a b => a <<< amount64 b
def execShr (o : OpSA) (s : State) : Out := s.alu o fun a b => a >>> amount64 b
def execSar (o : OpSA) (s : State) : Out := s.alu o fun a b => a.sshiftRight (amount64 b)
def execRotr (o : OpSA) (s : State) : Out := s.alu o fun a b => a.rotateRight (amount64 b)

def execAddS32 (o : OpSA) (s : State) : Out := s.alu32 o fun a b => a + b
def execSubS32 (o : OpSA) (s : State) : Out := s.alu32 o fun a b => a - b
def execMulS32 (o : OpSA) (s : State) : Out := s.alu32 o fun a b => a * b
def execMulhS32 (o : OpSA) (s : State) : Out := s.alu32 o mulHigh
def execMulhuS32 (o : OpSA) (s : State) : Out := s.alu32 o mulHighU
def execDivS32 (o : OpSA) (s : State) : Out := s.div32 o BitVec.sdiv
def execDivuS32 (o : OpSA) (s : State) : Out := s.div32 o BitVec.udiv
def execRemS32 (o : OpSA) (s : State) : Out := s.div32 o BitVec.srem
def execRemuS32 (o : OpSA) (s : State) : Out := s.div32 o BitVec.umod
def execAndS32 (o : OpSA) (s : State) : Out := s.alu32 o fun a b => a &&& b
def execOrS32 (o : OpSA) (s : State) : Out := s.alu32 o fun a b => a ||| b
def execXorS32 (o : OpSA) (s : State) : Out := s.alu32 o fun a b => a ^^^ b
def execShlS32 (o : OpSA) (s : State) : Out := s.alu32 o fun a b => a <<< amount32 b
def execShrS32 (o : OpSA) (s : State) : Out := s.alu32 o fun a b => a >>> amount32 b
def execSarS32 (o : OpSA) (s : State) : Out := s.alu32 o fun a b => a.sshiftRight (amount32 b)
def execRotrS32 (o : OpSA) (s : State) : Out := s.alu32 o fun a b => a.rotateRight (amount32 b)

/-! ### Bits, minimum and maximum (R204) -/

def execMin (o : OpSA) (s : State) : Out := s.alu o fun a b => if a.slt b then a else b
def execMinu (o : OpSA) (s : State) : Out := s.alu o fun a b => if a.ult b then a else b
def execMax (o : OpSA) (s : State) : Out := s.alu o fun a b => if a.slt b then b else a
def execMaxu (o : OpSA) (s : State) : Out := s.alu o fun a b => if a.ult b then b else a
def execClz (o : OpSU) (s : State) : Out := s.aluUn o clz64
def execCtz (o : OpSU) (s : State) : Out := s.aluUn o ctz64
def execPopc (o : OpSU) (s : State) : Out := s.aluUn o popc64
def execBswap (o : OpSU) (s : State) : Out := s.aluUn o bswap64
def execAndn (o : OpSA) (s : State) : Out := s.alu o fun a b => a &&& ~~~b
def execOrn (o : OpSA) (s : State) : Out := s.alu o fun a b => a ||| ~~~b

/-! ### Immediates (R205, R206) -/

def execAddi (o : OpSI) (s : State) : Out := s.aluImm o fun a i => a + i
def execAndi (o : OpSI) (s : State) : Out := s.aluImm o fun a i => a &&& i
def execOri (o : OpSI) (s : State) : Out := s.aluImm o fun a i => a ||| i
def execXori (o : OpSI) (s : State) : Out := s.aluImm o fun a i => a ^^^ i
def execMuli (o : OpSI) (s : State) : Out := s.aluImm o fun a i => a * i
def execShli (o : OpShift) (s : State) : Out := s.aluShift o fun a k => a <<< k
def execShri (o : OpShift) (s : State) : Out := s.aluShift o fun a k => a >>> k
def execSari (o : OpShift) (s : State) : Out := s.aluShift o fun a k => a.sshiftRight k

/-- MOVI (R206). -/
def execMovi (o : OpMovi) (s : State) : Out := s.whenOn o.g (.next (s.putS o.d (o.imm.signExtend 64)))

/-- MOVH (R206): bits 31 to 13 from the immediate, 12 to 0 from s[a]; the word's sign extended. -/
def execMovh (o : OpSI) (s : State) : Out :=
  s.whenOn o.g (.next (s.putS o.d ((o.imm ++ (s.core.sVal o.a).setWidth 13 : Word32).signExtend 64)))

/-! ### Compares, guards, selection (R207 to R210) -/

def execCmp (o : OpCmp) (s : State) : Out :=
  s.whenOn o.g (.next (s.upd fun c => c.setG o.k (allLanes (cond64 o.c.toNat (c.sVal o.a) (c.sVal o.b)))))

def execCmpi (o : OpCmpi) (s : State) : Out :=
  s.whenOn o.g
    (.next (s.upd fun c => c.setG o.k (allLanes (cond64 (condImm o.c) (c.sVal o.a) (o.imm.signExtend 64)))))

def execGand (o : OpGuard) (s : State) : Out := s.guardOp o fun a b => a &&& b
def execGor (o : OpGuard) (s : State) : Out := s.guardOp o fun a b => a ||| b
def execGxor (o : OpGuard) (s : State) : Out := s.guardOp o fun a b => a ^^^ b
def execGandn (o : OpGuard) (s : State) : Out := s.guardOp o fun a b => a &&& ~~~b

def execGset (o : OpGset) (s : State) : Out :=
  s.whenOn o.g (.next (s.upd fun c => c.setG o.d ((c.sVal o.a).setWidth 32)))

def execGget (o : OpGget) (s : State) : Out :=
  s.whenOn o.g (.next (s.putS o.d ((s.core.gVal o.a).setWidth 64)))

def execSel (o : OpSel) (s : State) : Out :=
  s.whenOn o.g
    (.next (s.putS o.d (if (s.core.gVal o.k).getLsbD 0 != o.neg then s.core.sVal o.a else s.core.sVal o.b)))

/-! ### Address registers, views, shadow shapes, slack (R215, R216, R218, R219) -/

def execXset (o : OpXset) (s : State) : Out :=
  s.whenOn o.g (.next (s.upd fun c => c.setX o.k ((c.sVal o.a).setWidth 32)))

def execXadd (o : OpXadd) (s : State) : Out :=
  s.whenOn o.g (.next (s.upd fun c => c.setX o.k (c.xVal o.k + o.imm.signExtend 32)))

/-- R74: whether a value is valid for view register n, 1 to 7. -/
def viewValid (n : Nat) (v : Word64) : Bool :=
  let base := vwBase v
  let hi := vwBase v + vwSize v
  vwKind v == (if n ≤ 3 then n else 4)
    && !v.getLsbD 31 && bitsOf v 52 12 == 0
    && (vwSize v == 0 || base / 0x80000 == (hi - 1) / 0x80000)
    && decide (hi ≤ 2 ^ 20)
    && (!vwSplit v || (decide (n ≤ 3) && decide (hi ≤ 0x80000)))
    && (n != 2 || (vwRows v != 0 && vwRowb v != 0))
    && (vwSize v == 0 || decide (512 ≤ base))

/-- VIEW (R74, R216). -/
def execView (o : OpView) (s : State) : Out :=
  s.whenOn o.g
    (if viewValid o.n.toNat (s.core.sVal o.p) then
      .next (s.upd fun c => c.crPut (0x010 + o.n.toNat) (c.sVal o.p))
    else s.trap0B)

/-- R80: place and width of a shape field. -/
def shapeField (f : Nat) : Nat × Nat :=
  match f with
  | 0 => (0, 4) | 1 => (4, 3) | 2 => (7, 1) | 3 => (8, 6) | 4 => (14, 4) | 5 => (18, 2) | 6 => (32, 32) | 7 => (64, 32)
  | 8 => (96, 16) | _ => (112, 16)

/-- A field of a 128-bit shape replaced. -/
def setShape (v : BitVec 128) (f x : Nat) : BitVec 128 :=
  let (lo, n) := shapeField f
  BitVec.ofNat 128 (v.toNat - bitsOf v lo n * 2 ^ lo + x % 2 ^ n * 2 ^ lo)

/-- SHW (R81, R218): one field of a shadow. -/
def execShw (o : OpShw) (s : State) : Out :=
  s.whenOn o.g
    (.next (s.upd fun c => { c with
      shadows := Cells.put Shape.reset c.shadows (4 * o.slot.toNat + o.h.toNat)
        (setShape (c.shadowAt o.slot.toNat o.h.toNat) o.f.toNat (c.sVal o.p).toNat) }))

/-- SLK (R219). -/
def execSlk (o : OpSlk) (s : State) : Out :=
  s.whenOn o.g (.next (s.upd fun c => { c with slack := Cells.put 0#10 c.slack o.e.toNat o.v }))

end Sys2Proof.Machine
end

