-- ==== Sys2Proof/Machine/Context.lean ====
section
/-! DEFINITION. Save areas (R198 to R200, R282, R327, R428): what is written at which offset, what a load takes back,
and the instructions CTXSV and CTXLD. -/

namespace Sys2Proof.Machine

/-! ### What is saved (R199) -/

/-- A table of the first `n` words. -/
def tableOf {w : Nat} (d : BitVec w) (n : Nat) (f : Nat → Nat) : Cells w :=
  (List.range n).foldl (fun m i => Cells.put d m i (BitVec.ofNat w (f i))) []

/-- The control registers that a save area keeps. -/
def savedCrs : List Nat :=
  [0x000, 0x009, 0x00A, 0x00D] ++ (List.range 7).map (0x011 + ·) ++ (List.range 32).map (0x020 + ·)
    ++ (List.range 10).map (0x040 + ·) ++ [0x04C, 0x050, 0x051, 0x052, 0x053, 0x058, 0x059, 0x05A, 0x05B, 0x05C]

/-- R6: the bits of a saved register that are not reserved. -/
def savedBits (n : Nat) : Word64 :=
  if n = 0x000 then field 0 6
  else if n = 0x00D then field 0 6
  else if 0x020 ≤ n ∧ n ≤ 0x031 then field 0 31
  else if 0x032 ≤ n ∧ n ≤ 0x03F then 0#64
  else if n = 0x040 ∨ n = 0x041 then field 0 18
  else if n = 0x042 ∨ n = 0x044 then field 0 3
  else if n = 0x045 then 0#64
  else if n = 0x046 then field 3 63
  else if n = 0x047 then field 0 9 ||| field 32 63
  else if n = 0x048 then field 0 31
  else if n = 0x049 then field 0 5
  else if n = 0x04C then field 0 7
  else if n = 0x053 then field 0 52
  else if n = 0x058 then field 0 14 ||| field 16 24
  else if n = 0x05C then field 0 47
  else field 0 63

/-- The value a save area holds for a register. -/
def CoreState.savedCr (c : CoreState) (n : Nat) : Nat :=
  (if n = 0x020 then c.vsf 0 else if n = 0x021 then c.vsf 1 else if n = 0x045 then c.lstat else c.crGet n).toNat

/-- The views a save area keeps: those that are not empty. -/
def CoreState.savedViews (c : CoreState) : List Nat :=
  ((List.range 7).map (· + 1)).filter fun w => vwSize (c.viewReg w) != 0

/-- R426, R428: the granules that some views cover, in part or whole. -/
def granules (views : List Word64) : List Nat :=
  let ws := (views.flatMap viewWindows).filter fun w => w.2 != 0
  (List.range 1024).filter fun g => ws.any fun w => runsMeet w.1 w.2 (1024 * g) 1024

/-- R72, R199: the image of a granule: below byte 512 it is s0 to s63. -/
def State.granuleBytes (s : State) (g : Nat) : List Byte :=
  if g = 0 then ((List.range 64).flatMap fun i => leBytes 8 (Cells.get 0#64 s.core.s i).toNat) ++ s.bytes (s.st 512) 512
  else s.bytes (s.st (1024 * g)) 1024

/-- R72: a granule taken from its image: the bytes of the scalar window are s0 to s63, which offset 0x100 gives. -/
def State.putGranule (s : State) (g : Nat) (bs : List Byte) : State :=
  if g = 0 then s.write (s.st 512) (bs.drop 512) else s.write (s.st (1024 * g)) bs

/-- A LOOP or RPT level in 16 bytes. -/
def LoopLevel.bytes (l : LoopLevel) : List Byte :=
  leBytes 8 (l.start.toNat + (l.last - l.start).toNat / 32 % 64 * 2 ^ 48 + (if l.rpt then 2 ^ 54 else 0)
      + (if l.issued then 2 ^ 55 else 0)) ++ leBytes 8 (l.left % 2 ^ 32)

/-- A loop-nest level in 32 bytes. -/
def Binding.bytes (b : Binding) : List Byte := leBytes 8 (b.k.toNat + (if b.on then 16 else 0) + b.stride.toNat * 2 ^ 32)
def NestLevel.bytes (v : NestLevel) : List Byte :=
  leBytes 8 (v.bound.toNat + v.count.toNat * 2 ^ 32) ++ v.b0.bytes ++ v.b1.bytes ++ leBytes 8 0

/-- R281, R282: the rows of a copy that pre-emption stops: its channel and the 40 bytes of its entry. -/
structure Remainder where
  ch : Nat
  src : Nat
  dst : Nat
  ssp : Nat
  dsp : Nat
  rows : Nat
  cols : Nat
  ty : Nat
  bar : Option (BitVec 8)
  unit : Bool
  stride0 : Word32
  stride1 : Word32
  deriving DecidableEq, Repr

def Remainder.bytes (r : Remainder) : List Byte :=
  leBytes 8 (r.src % 2 ^ 48 + r.ssp * 2 ^ 48) ++ leBytes 8 (r.dst % 2 ^ 48 + r.dsp * 2 ^ 48)
    ++ leBytes 8 (r.rows + r.cols * 2 ^ 16 + r.ty * 2 ^ 32 + 2 ^ 36
        + (match r.bar with | some b => 2 ^ 37 + b.toNat * 2 ^ 38 | none => 0) + (if r.unit then 2 ^ 46 else 0))
    ++ leBytes 8 (r.stride0.toNat + r.stride1.toNat * 2 ^ 32)

/-- What a save area of some version holds, by offset, beside the store image: everything else below 0x1_0000 is zero. -/
def CoreState.saveArea (c : CoreState) (version : Nat) (pc : BitVec 48) (rem : List Remainder) : List (Nat × List Byte) :=
  let words (n k : Nat) (f : Nat → Nat) : List Byte := (List.range n).flatMap fun i => leBytes k (f i)
  [(0x0000, leBytes 8 (0x5CB7 + version * 2 ^ 16 + ((c.savedViews.map (2 ^ ·)).sum) * 2 ^ 32)),
   (0x0008, leBytes 8 pc.toNat), (0x0010, word c.status), (0x0018, leBytes 8 c.fseq.toNat), (0x0020, leBytes 8 (c.gang.k % 128)),
   (0x0100, words 64 8 fun i => (Cells.get 0#64 c.s i).toNat), (0x0300, words 16 4 fun i => (Cells.get 0#32 c.x i).toNat),
   (0x0340, leBytes 4 0xFFFFFFFF ++ words 7 4 fun i => (Cells.get 0#32 c.g (i + 1)).toNat),
   (0x0360, words 16 2 fun i => (Cells.get 0#10 c.slack i).toNat),
   (0x0380, leBytes 4 c.gen.a.toNat ++ leBytes 4 c.gen.b.toNat ++ leBytes 4 c.gen.c.toNat ++ leBytes 4 c.gen.d.toNat),
   (0x0390, leBytes 8 c.cupQ.length), (0x03C0, c.cupQ.flatMap fun w => leBytes 4 w.toNat)]
    ++ savedCrs.map (fun n => (0x0400 + 8 * n, leBytes 8 (c.savedCr n)))
    ++ (List.range 6).map (fun i => (0x0800 + 128 * i,
        words 4 16 (fun n => (c.shapeAt i n).toNat) ++ words 4 16 fun n => (c.shadowAt i n).toNat))
    ++ [(0x0B00, c.loops.reverse.flatMap LoopLevel.bytes), (0x0B40, c.nest.flatMap NestLevel.bytes),
        (0x0C00, c.cont.reverse.flatMap fun r => leBytes 8 (r.handler.toNat + r.depth % 8 * 2 ^ 48) ++ leBytes 8 0),
        (0x0C40, word c.segExp)]
    ++ (List.range 32).map (fun n => (0x1000 + 64 * n, word (c.crGet (0x080 + n)) ++ word (c.crGet (0x0A0 + n))))
    ++ rem.map (fun r => (0x1010 + 64 * r.ch, r.bytes))
    ++ [(0x1800, words 256 8 fun b => (Cells.get 0#32 c.barExp b).toNat + (Cells.get 0#31 c.barCnt b).toNat * 2 ^ 32
          + (Cells.get 0#1 c.barOvr b).toNat * 2 ^ 63),
        (0x2000, word (c.crGet 0x01F) ++ word (c.crGet 0x01E))]
    ++ (List.range 8).map fun k => (0x2100 + 256 * k,
        words 32 4 (fun i => (c.carry (BitVec.ofNat 3 k) i).hi) ++ words 32 4 fun i => (c.carry (BitVec.ofNat 3 k) i).lo)

/-! ### What a load takes back -/

/-- R101: the state of the Cup one step before. -/
def Cup.prev (u : Cup) : Cup :=
  let y := u.d ^^^ u.c ^^^ (u.c >>> 19)
  let k := y ^^^ (y >>> 8) ^^^ (y >>> 16) ^^^ (y >>> 24)
  ⟨k ^^^ (k <<< 11) ^^^ (k <<< 22), u.a, u.b, u.c⟩

/-- R253: the state that follows the most recently drawn word, from the generator's and the number of words queued. -/
def Cup.back (u : Cup) : Nat → Cup
  | 0 => u
  | n + 1 => u.prev.back n

/-- The core after every item of a save area is loaded; `get o n` is the number in `n` bytes at offset `o`. -/
def CoreState.loadArea (c : CoreState) (get : Nat → Nat → Nat) : CoreState :=
  let gen : Cup := ⟨BitVec.ofNat 32 (get 0x380 4), BitVec.ofNat 32 (get 0x384 4), BitVec.ofNat 32 (get 0x388 4),
    BitVec.ofNat 32 (get 0x38C 4)⟩
  let queued := get 0x390 1 % 32
  let level (i : Nat) : LoopLevel :=
    let a := get (0x0B00 + 16 * i) 8
    let start := BitVec.ofNat 48 a
    ⟨start, ahead start (a / 2 ^ 48 % 64), get (0x0B08 + 16 * i) 4, a / 2 ^ 54 % 2 == 1, 0, a / 2 ^ 55 % 2 == 1⟩
  let bind (o : Nat) : Binding := ⟨BitVec.ofNat 4 (get o 1), get o 1 / 16 % 2 == 1, BitVec.ofNat 32 (get (o + 4) 4)⟩
  let nestAt (i : Nat) : NestLevel :=
    let o := 0x0B40 + 32 * i
    ⟨BitVec.ofNat 32 (get o 4), BitVec.ofNat 32 (get (o + 4) 4), bind (o + 8), bind (o + 16)⟩
  let contAt (i : Nat) : ContLevel :=
    let a := get (0x0C00 + 16 * i) 8
    ⟨BitVec.ofNat 48 a, a / 2 ^ 48 % 8⟩
  let depth := get 0x400 1 / 16 % 8
  let levels := get (0x400 + 8 * 0x045) 1 % 8
  let c := c.crPuts (savedCrs.filterMap fun n =>
    if n = 0x020 ∨ n = 0x021 then none else some (n, BitVec.ofNat 64 (get (0x400 + 8 * n) 8) &&& savedBits n))
  let c := c.crPuts ((List.range 32).flatMap fun n =>
    [(0x080 + n, BitVec.ofNat 64 (get (0x1000 + 64 * n) 8)),
     (0x0A0 + n, BitVec.ofNat 64 (get (0x1008 + 64 * n) 8) &&& (field 0 19 ||| field 32 63))])
  let c := c.crPuts [(0x01F, BitVec.ofNat 64 (get 0x2000 8) &&& field 0 9),
    (0x01E, BitVec.ofNat 64 (get 0x2008 8) &&& (field 0 6 ||| field 32 63))]
  { c with
    s := tableOf 0#64 64 fun i => get (0x100 + 8 * i) 8
    x := tableOf 0#32 16 fun i => get (0x300 + 4 * i) 4
    g := tableOf 0#32 8 fun i => if i = 0 then 0 else get (0x340 + 4 * i) 4
    slack := tableOf 0#10 16 fun i => get (0x360 + 2 * i) 2
    gen := gen, drawn := gen.back queued
    cupQ := (List.range (if queued ≤ 16 then queued else 16)).map fun i => BitVec.ofNat 32 (get (0x3C0 + 4 * i) 4)
    shapes := tableOf Shape.reset 24 fun i => get (0x800 + 128 * (i / 4) + 16 * (i % 4)) 16
    shadows := tableOf Shape.reset 24 fun i => get (0x840 + 128 * (i / 4) + 16 * (i % 4)) 16
    loops := ((List.range (if levels ≤ 4 then levels else 4)).map level).reverse
    nest := (List.range 6).map nestAt
    cont := ((List.range (if depth ≤ 4 then depth else 4)).map contAt).reverse
    fseq := BitVec.ofNat 32 (get 0x018 4), fences := [], segExp := BitVec.ofNat 64 (get 0xC40 8), marks := []
    barExp := tableOf 0#32 256 fun b => get (0x1800 + 8 * b) 4
    barCnt := tableOf 0#31 256 fun b => get (0x1804 + 8 * b) 4
    barOvr := tableOf 0#1 256 fun b => get (0x1804 + 8 * b) 4 / 2 ^ 31
    carries := tableOf 0#64 256 fun i =>
      let o := 0x2100 + 256 * (i / 32) + 4 * (i % 32)
      get o 4 + get (o + 128) 4 * 2 ^ 32
    gang := { c.gang with k := get 0x020 1 % 128 }, icache := [], group := .start, bundles := [], past := []
    held := false, trapReq := none, replay := 0#8, replays := [], redo := [], redos := [], slacks := [], stalled := false, fired := 0#8,
    drain := false, yielded := false
    pc := BitVec.ofNat 48 (get 0x008 8) &&& 0xFFFFFFFFFFE0#48 }

/-- R172: the slot that the head of an RPT body repeats, read from its header where it can be. -/
def State.headSlot (s : State) (l : LoopLevel) : Nat :=
  let c := s.core
  match s.placeVA (cluster c.id) (c.crGet 0x018) c.sup l.start.toNat .fe with
  | .error _ => 0
  | .ok p => if isPhys p.loc && !isRaw p.loc then 0 else match hdRp (s.num p.loc 4) with | 1 => 4 | 2 => 5 | _ => 0

/-- The slots that repeat in the levels just loaded. -/
def State.headSlots (s : State) : State :=
  s.upd fun c => { c with loops := c.loops.map fun l => if l.rpt && l.issued then { l with eng := s.headSlot l } else l }

/-! ### CTXSV and CTXLD -/

/-- R198: the bytes of a save area. -/
def areaSize : Nat := 0x110000

/-- R272: the area lies at or above a watermark. -/
def State.areaHeld (s : State) (a : Word64) : Bool := s.core.wmWait 0 a.toNat areaSize

/-- R198: the pages of a save area, checked in ascending order. -/
def State.areaPages (s : State) (a : Word64) (k : AccKind) : Nat → Nat → Except (Word64 × AccFault) (List Place)
  | 0, _ => .ok []
  | n + 1, i =>
    let va := a + BitVec.ofNat 64 (65536 * i)
    match s.place va 65536 1 k with
    | .error f => .error (va, f)
    | .ok p => (match s.areaPages a k n (i + 1) with | .error e => .error e | .ok t => .ok (p :: t))

/-- R198: the checks of the address. -/
def State.areaCheck (s : State) (a : Word64) (k : AccKind) : Except (Word64 × AccFault) (List Place) :=
  if a.toNat % 65536 ≠ 0 then .error (a, ⟨0x0A#8, 0#64⟩)
  else if a.toNat / 2 ^ 48 ≠ 0 then .error (a, ⟨0x0A#8, 0#64⟩)
  else s.areaPages a k (areaSize / 65536) 0

/-- The location of an offset of a save area. -/
def areaLoc (ps : List Nat) (o : Nat) : Nat := ps[o / 65536]?.getD 0 + o % 65536

/-- A piece of a save area written by the core; bytes of a remote window go out as a store. -/
def State.putArea (s : State) (ps : List Nat) (o : Nat) (bs : List Byte) : State :=
  let loc := areaLoc ps o
  if isRemote loc then
    (List.range ((bs.length + 255) / 256)).foldl (fun s i =>
      let d := (bs.drop (256 * i)).take 256
      let (u, s) := s.fresh
      s.send ⟨u, .core s.core.id, s.core.cur.pc, s.core.cur.seq, 1, .store, [⟨loc + 256 * i, 0#64, d.length, 0, d⟩], false, s.entryTag⟩) s
  else s.performOwn loc bs

/-- CTXSV (R198). -/
def execCtxsv (o : OpS1) (s : State) : Out :=
  s.whenOn o.g <|
    let a := s.core.sVal o.p
    match s.areaCheck a .wr with
    | .error e => s.accTrap e.2 .wr 0 e.1 0#64
    | .ok places =>
      let s := places.foldl State.notePage s
      let ps := places.map (·.loc)
      let c := s.core
      let gs := granules (c.savedViews.map c.viewReg)
      if !s.quiet true || s.areaHeld a then s.hold
      else match gs.find? fun g => s.poisoned (s.st (1024 * g)) 1024 with
        | some g => s.consumeHere (s.st (1024 * g)) (BitVec.ofNat 64 (1024 * g))
        | none =>
          let t := s.putArea ps 0 (List.replicate 65536 0#8)
          let t := (c.saveArea 1 c.cur.next []).foldl (fun s p => s.putArea ps p.1 p.2) t
          let t := gs.foldl (fun s g => s.putArea ps (0x10000 + 1024 * g) (s.granuleBytes g)) t
          .next (t.charge c.launchKey 13 (1024 + 16 * gs.length))

/-- R137: the line of a remote window that the entry being issued has read. -/
def State.farLine (s : State) (loc : Nat) : Option FarRead :=
  s.core.farReads.find? fun f => f.seq == s.core.cur.seq && f.slot == s.core.cur.slot && f.loc == loc / 256 * 256

/-- R119, R138: a byte of a save area as its home slice, or the far side of a window, has returned it. -/
def State.areaByte (s : State) (ps : List Nat) (o : Nat) : Byte :=
  let loc := areaLoc ps o
  if isRemote loc then ((((s.farLine loc).bind (·.got)).map (·.1)).getD [])[loc % 256]?.getD 0#8
  else ((s.sliceBytes loc 1).getD []).headD 0#8

/-- R137: the first line of a save area in a remote window that is not there yet. -/
def State.areaFar (s : State) (ps : List Nat) : Option Nat :=
  ((ps.filter isRemote).flatMap fun p => (List.range 256).map fun i => p + 256 * i).find? fun l => ((s.farLine l).bind (·.got)).isNone

def State.areaNum (s : State) (ps : List Nat) (o n : Nat) : Nat := leNat ((List.range n).map fun i => s.areaByte ps (o + i))

/-- R200: the header, up to offset 0x100, and the seven view registers, which R199 saves whatever VMASK names. A view that
was never set is saved with its reset value, which loads (log entry 26). -/
def State.areaBad (s : State) (ps : List Nat) : Bool :=
  let h := s.areaNum ps 0 8
  h % 2 ^ 24 != 0x015CB7 || h / 2 ^ 24 % 2 ^ 9 != 0 || h / 2 ^ 40 != 0 || s.areaNum ps 0x1C 4 != 0
    || s.areaNum ps 0x20 8 / 128 != 0 || s.areaNum ps 0x28 216 != 0
    || (List.range 7).any fun i =>
      let v := BitVec.ofNat 64 (s.areaNum ps (0x400 + 8 * (0x011 + i)) 8)
      !(viewValid (i + 1) v || v == Cr.reset (0x011 + i))

/-- The lines of the decoded view that some pages need and the cache does not hold. -/
def State.areaMissing (s : State) (ps : List Nat) : List Nat :=
  (ps.filter isDecoded).flatMap fun p =>
    ((List.range 256).map (p / 256 + ·)).filter fun l => !s.decoded.any (·.line == l)

/-- R119: the first of some ranges (offset and length, within a page) that carries an error. -/
def State.areaPoison (s : State) (ps : List Nat) (rs : List (Nat × Nat)) : Option Nat :=
  (rs.map fun r => (areaLoc ps r.1, r.2)).findSome? fun r =>
    if (if isRemote r.1 then s.core.farReads.any fun f => runsMeet f.loc 256 r.1 r.2 && (f.got.map (·.2)).getD false
      else if isDecoded r.1 then s.decoded.any fun d => runsMeet (256 * d.line) 256 r.1 r.2 && d.bad else s.poisoned r.1 r.2) then some r.1
    else none

/-- R259, R281: a remainder of a save area reissued on its unit, its shape and its rows checked anew; the trap code where the check
faults. -/
def State.reissue (s : State) (r : Remainder) : State × Option (BitVec 8) :=
  let eng := if r.unit then 3 else 2
  let shape : BitVec 128 := BitVec.ofNat 128 (r.ty + 32 * 2 ^ 8 + r.stride0.toNat * 2 ^ 32 + r.stride1.toNat * 2 ^ 64
    + r.rows * 2 ^ 96 + r.cols * 2 ^ 112)
  let i : Instr := .cpy ⟨0#4, BitVec.ofNat 5 r.ch, 0#4, 0#4, 0#2, false, BitVec.ofNat 2 r.ssp, BitVec.ofNat 2 r.dsp, r.bar, true⟩
  let at' (code a : Nat) : Int → Nat := spaceAddr code (BitVec.ofNat 32 a) (a / 2 ^ 32)
  let t := s.upd fun c => { c with
    cur := { Issue.none with seq := c.nextSeq, pc := c.pc, slot := eng + 4, slack := Cells.get 0#10 c.slack 0 }
    nextSeq := c.nextSeq + 1 }
  if !(shapeClean shape && tileOk shape) then (s, some 0x0B#8)
  else match t.checkMoves ⟨r.ssp, rowAlign shape, fun m => [(r.dsp, m.dst)], false, false, .wr⟩
    (plainRows shape (at' r.ssp r.src) (at' r.dsp r.dst)) with
  | .error e => (s, some e.fault.cause)
  | .ok (segs, _) => (t.pushCopy i shape segs [] [], none)

/-- The remainders of a save area, by channel. -/
def remaindersOf (get : Nat → Nat → Nat) : List Remainder :=
  (List.range 32).filterMap fun ch =>
    let o := 0x1010 + 64 * ch
    let a := get o 8
    let b := get (o + 8) 8
    let v := get (o + 16) 8
    if v / 2 ^ 36 % 2 = 0 then none
    else some ⟨ch, a % 2 ^ 48, b % 2 ^ 48, a / 2 ^ 48 % 4, b / 2 ^ 48 % 4, v % 2 ^ 16, v / 2 ^ 16 % 2 ^ 16, v / 2 ^ 32 % 16,
      if v / 2 ^ 37 % 2 = 1 then some (BitVec.ofNat 8 (v / 2 ^ 38)) else none, v / 2 ^ 46 % 2 == 1,
      BitVec.ofNat 32 (get (o + 24) 4), BitVec.ofNat 32 (get (o + 28) 4)⟩

/-- R281: the remainders reissued in turn; a faulting one is dropped with its launch tainted. -/
def State.reissueAll (s : State) (rs : List Remainder) : State :=
  rs.foldl (fun s r => match s.reissue r with
    | (t, none) => t
    | (t, some cause) => (t.upd (·.taint)).taintLaunch t.core.launchKey cause) s

/-- CTXLD (R200). What it reads is there once the core's own accesses have performed (R140). -/
def execCtxld (o : OpS1) (s : State) : Out :=
  s.whenOn o.g <|
    let a := s.core.sVal o.p
    match s.areaCheck a .rd with
    | .error e => s.accTrap e.2 .rd 0 e.1 0#64
    | .ok places =>
      let s := places.foldl State.notePage s
      let ps := places.map (·.loc)
      if !s.quiet true || s.areaHeld a then s.holdUnchecked
      else match s.areaFar ps, s.areaMissing ps with
      | some l, _ => unchecked (s.farRead a l 256 fun s _ => .next s)
      | none, _ :: _ => ((s.areaMissing ps).foldl State.missed s).holdUnchecked
      | none, [] =>
        if s.areaBad ps then s.accTrap ⟨0x0B#8, 0#64⟩ .rd 0 a 0#64
        else
          let get := s.areaNum ps
          let vs := ((List.range 7).filter fun i => get 0 8 / 2 ^ (33 + i) % 2 = 1).map fun i => BitVec.ofNat 64 (get (0x488 + 8 * i) 8)
          let gs := granules vs
          match s.areaPoison ps ((0, 65536) :: gs.map fun g => (0x10000 + 1024 * g, 1024)) with
          | some p => s.consumeHere p a
          | none =>
            let t := gs.foldl (fun t g => t.putGranule g ((List.range 1024).map fun i => s.areaByte ps (0x10000 + 1024 * g + i))) s
            let t := t.upd fun c =>
              let c := c.loadArea get
              { (c.crPut 0x000 (c.status &&& 0xFFFFFFFFFFFFFFFD#64)).wakeM with shadow := none }
            .next (((t.l1Clear.headSlots.reissueAll (remaindersOf get)).ticked).charge s.core.launchKey 13 (1024 + 16 * gs.length))

end Sys2Proof.Machine
end

