-- ==== Sys2Proof/Machine/Replies.lean ====
section
/-! DEFINITION. The return of a value to its core (R137, R213, R391, R393, R403, R464). -/

namespace Sys2Proof.Machine

/-- R137: the bytes of a window for the entry, or the fetch, that reads them. -/
def CoreState.farArrive (c : CoreState) (uid : Nat) (bs : List Byte) (bad : Bool) : CoreState :=
  { c with farReads := c.farReads.map fun f => if f.uid = uid then { f with got := some (bs, bad) } else f }

/-- R137: bytes of a window reach the segment of a copy, or the entry, that asked for them. -/
def State.takeOutside (s : State) (uid : Nat) (bs : List Byte) (bad : Bool) : State :=
  (s.segReply uid true bs bad).upd (·.farArrive uid bs bad)

/-- R213, R464: a reply reaches the core whose turn it is. -/
def State.takeReply (s : State) (r : Reply) : State :=
  match r.parts, r.dest with
  | _, .queue q a => (match q.dest with
    | .entry seq d k buf => s.answerEntry q seq d k buf a
    | .launchRec seq => s.answerLaunch q seq a
    | _ => s)
  | ps, .outside => s.takeOutside r.uid (ps.flatMap (·.data)) r.poisoned
  | [], _ => s
  | p :: _, dest =>
    if r.poisoned then
      let s := match dest with | .acq .. => s.upd (·.retireEntry r.seq r.slot) | _ => s
      s.consume r.seq r.pc r.slot r.src p.va
    else match dest with
      | .sreg d ty => s.upd (·.lateS r.seq d (slValue ty p.value))
      | .acq d ty =>
        if s.core.bundles.any fun b => b.seq == r.seq && b.entries.any (·.slot == r.slot) then
          s.l1Clear.upd fun c => (c.lateS r.seq d (slValue ty p.value)).retireEntry r.seq r.slot
        else s
      | .lanes a => s.lateLanes r.seq a r.parts
      | _ => s

/-- R403: the reply that arrives next: the first that has been granted its channel and has no earlier one of its site to its core and
line before it. -/
def State.nextReply (s : State) : Option Reply :=
  s.replies.find? fun r => r.granted && (s.replies.takeWhile fun q => !(q.uid == r.uid)).all fun q =>
    !(q.site == r.site && q.core == r.core && (partLines r.parts).any (partLines q.parts).contains)

/-- LOAD_REPLY_ARRIVAL (R213, R391, R403, R440, R464): a reply on its way reaches its core. -/
def execLoadReplyArrival (s : State) : Out :=
  match s.nextReply with
  | none => .next s
  | some r =>
    let t := State.asCore { s with replies := s.replies.erase r } r.core fun s => s.takeReply r
    .next (t.charge (s.coreAt r.core).launchKey 11 (1 + ((r.parts.map (·.n)).sum + 63) / 64))

end Sys2Proof.Machine
end

