-- ==== Sys2Proof/Machine/Issue.lean ====
section
/-! DEFINITION. Which entry may issue (R44, R46, R84, R139, R156, R159), the cycles of the issuing core (R160, R161),
and the two events that hang on them: dispatch, and the whole-core stall. -/

namespace Sys2Proof.Machine

/-! ### What an entry of a synchronous slot will access -/

/-- R139, R140: the bytes an entry of the S slot or a V slot will read or write, by location. -/
def State.reach (s : State) (b : Bundle) (e : Entry) : List (Nat × Nat) :=
  let t := s.upd (·.begin b e)
  let c := t.core
  let reached (k : AccKind) (n : Nat) (a : Word64) : List (Nat × Nat) := match t.place a n 1 k with | .ok p => [(p.loc, n)] | .error _ => []
  let at' := reached .rd
  let pieces (n : Nat) (a : Word64) : List (Nat × Nat) := (List.range n).flatMap fun i => at' 8 (a + BitVec.ofNat 64 (8 * i))
  let block (p : BitVec 6) : List (Nat × Nat) := at' 64 (BitVec.ofNat 64 ((c.sVal p).toNat / 64 * 64))
  let moved (p q : BitVec 6) : List (Nat × Nat) :=
    block p ++ (let code := bitsOf (c.sVal p) 0 4; if code = 0 ∨ 9 < code then [] else pieces (2 ^ code) (c.sVal q))
  let lanes (g : BitVec 4) (sh : BitVec 2) (swap : Bool) : List Nat := c.lanesOn g (c.activeShape sh swap)
  let near (x : Word32) : List (Nat × Nat) := [(t.st x.toNat, 4)]
  let index (r : BitVec 9) (i : Nat) : Word32 := match c.vAddr r with | some a => BitVec.ofNat 32 (t.laneSync a i) | none => 0#32
  match e.instr with
  | .ld o | .ldacq o | .st o | .strel o => if c.on o.g then at' (slWidth o.ty) (slAddr c o) else []
  | .atom64 o => if c.on o.g then at' 8 (c.sVal o.a) else []
  | .atom32 o => if c.on o.g then at' 4 (c.sVal o.a) else []
  | .atomn o => if c.on o.g then at' 1 (c.sVal o.a) else []
  | .vld o | .vst o =>
    (lanes o.g o.sh o.swap).flatMap fun i =>
      let a := c.vmAddr o + BitVec.ofNat 64 (4 * i)
      if o.mode then near (a.setWidth 32) else at' 4 a
  | .vgth o | .vsct o =>
    (lanes o.g o.sh o.swap).flatMap fun i =>
      if o.mode then near (c.xVal (o.base.setWidth 4) + index o.i i) else at' 4 (c.sVal o.base + (index o.i i).signExtend 64)
  | .vatom o => (lanes o.g o.sh o.swap).flatMap fun i => at' 4 (c.sVal o.base + (index o.i i).signExtend 64)
  | .enq o | .deq o | .qpeek o => if c.on o.g then moved o.p o.q else []
  | .enqn o | .deqn o => if c.on o.g then moved o.p o.q else []
  | .qinit o | .qstat o => if c.on o.g then block o.p else []
  | .qclose o => if c.on o.g then block o.p else []
  | .launch o => if c.on o.g then block o.p ++ pieces 16 (c.sVal o.q) else []
  | .segOpen o => reached .fe 8 (c.crGet 0x046 + BitVec.ofNat 64 (8 * o.i.toNat))
  | .digest o =>
    if c.on o.g then (List.range (if (c.sVal o.q).toNat ≤ 65536 then (c.sVal o.q).toNat else 0)).flatMap fun i => at' 256 (c.sVal o.p + BitVec.ofNat 64 (256 * i))
    else []
  | _ => []

/-- R139, R140: two entries access a byte in common. -/
def State.meetsEarlier (s : State) (p : Bundle) (q : Entry) (b : Bundle) (e : Entry) : Bool :=
  let memory (i : Instr) : Bool := readsMemory i || writesMemory i
  memory q.instr && memory e.instr
    && (let ys := s.reach b e
        (s.reach p q).any fun x => ys.any fun y => runsMeet x.1 x.2 y.1 y.2)

/-! ### Which entry may issue -/

/-- R44, R46, R84, R139, R140, R147 to R151, R175: an entry of bundle `b` is not held back by the bundles before it. -/
def State.outerReady (s : State) (before : List Bundle) (b : Bundle) (e : Entry) : Bool :=
  let c := s.core
  let mine := touched c e.slot e.instr
  let st := storeInstr e.instr && e.slot != 1
  before.all (fun p => !p.sync && p.entries.all fun q =>
    q.checked && q.slot != e.slot && !(st && q.slot != 1 && storeInstr q.instr)
      && !(q.slot == 1 && holdsLater q.instr e.slot e.instr) && !dependent (touched c q.slot q.instr) mine
      && !s.meetsEarlier p q b e)
    && !dependent (s.loadItems b.seq) mine

/-- R40, R58, R60, R139, R192: an entry waits for another entry of its own bundle: a write of memory for the reads, a plain
write for the atomics too, the overwriting of a view or control register for its readers, V1 for V0 when both use the Cup,
a frame instruction of C1 for one of C0, TRAP for all. -/
def innerReady (c : CoreState) (others : List Entry) (e : Entry) : Bool :=
  !(writesMemory e.instr && others.any fun q => readsMemory q.instr || (isAtomic q.instr && !isAtomic e.instr))
    && !(e.slot == 3 && cupOp e.instr && others.any fun q => q.slot == 2 && cupOp q.instr)
    && !(e.slot == 7 && isFrame e.instr && others.any fun q => q.slot == 6 && isFrame q.instr)
    && !(others.any fun q => !(isFrame e.instr && isFrame q.instr) && overwrites (touched c e.slot e.instr) (touched c q.slot q.instr))
    && match e.instr with | .trap _ => others.isEmpty | _ => true

/-- The other entries of a bundle. -/
def Bundle.others (b : Bundle) (e : Entry) : List Entry := b.entries.filter (·.slot != e.slot)

/-- An entry that neither earlier bundles nor its own hold back, and that has not been found held. -/
def State.ready (s : State) (before : List Bundle) (b : Bundle) (e : Entry) : Bool :=
  !e.waiting && innerReady s.core (b.others e) e && s.outerReady before b e

/-- An entry that something outside its bundle holds, or that was found held. -/
def State.stuck (s : State) (before : List Bundle) (b : Bundle) (e : Entry) : Bool := e.waiting || !s.outerReady before b e

/-- The first entry, oldest bundle first, that may issue, slots `but` left out; of a SYNC bundle none does while one is held
(R44). -/
def State.nextFrom (s : State) (but : BitVec 8) (before : List Bundle) : List Bundle → Option (Bundle × Entry)
  | [] => none
  | b :: t =>
    match if b.sync && b.entries.any (s.stuck before b) then none
      else b.entries.find? fun e => !but.getLsbD e.slot && s.ready before b e with
    | some e => some (b, e)
    | none => s.nextFrom but (before ++ [b]) t

/-- R157: the entry that issues next in this cycle, and the one that would if a cycle began now. -/
def State.nextNow (s : State) : Option (Bundle × Entry) := s.nextFrom s.core.fired [] s.core.bundles
def State.nextEntry (s : State) : Option (Bundle × Entry) := s.nextFrom 0#8 [] s.core.bundles

/-- R159: the head entry of a slot is held: it was found held, an earlier bundle holds it back, or it waits for an entry of
its own bundle that is held; in a SYNC bundle, when any entry is. -/
def State.headHeld (s : State) (before : List Bundle) (b : Bundle) (e : Entry) : Bool :=
  s.stuck before b e || !innerReady s.core ((b.others e).filter (s.stuck before b)) e || (b.sync && b.entries.any (s.stuck before b))

/-- R159, R160: some slot's head entry is held; in a slot of which an entry has issued in this cycle the head at its start was
not. -/
def State.heldFrom (s : State) (before : List Bundle) : List Bundle → Bool
  | [] => false
  | b :: t =>
    let heads := b.entries.filter fun e => !s.core.fired.getLsbD e.slot && !before.any fun p => p.entries.any (·.slot == e.slot)
    heads.any (s.headHeld before b) || s.heldFrom (before ++ [b]) t

def State.anyHeld (s : State) : Bool := s.heldFrom [] s.core.bundles

/-- R160: the margin is used up and an entry is held: the cycle is a whole-core stall. -/
def State.stalls (s : State) : Bool := s.core.crGet 0x040 == 0#64 && s.anyHeld

/-- After its execution: a held entry stays and waits; an issued one leaves its bundle, and a bundle without entries
retires. -/
def CoreState.finish (c : CoreState) : CoreState :=
  if c.held then
    { c.updBundle c.cur.seq (fun b => { b with
        redo := if c.cur.redo = 0#64 then b.redo else (c.cur.slot, c.cur.redo) :: b.redo
        entries := b.entries.map fun e => if e.slot = c.cur.slot then { e with waiting := true } else e }) with
      held := false, cur := { c.cur with old := [], oldMem := [], pass := [] } }
  else
    let c := c.updBundle c.cur.seq fun b => { b with
      entries := b.entries.filter (·.slot != c.cur.slot), old := c.cur.old, cup0 := c.cur.cup0
      done := b.done ||| BitVec.ofNat 8 (2 ^ (c.cur.slot - 1)) }
    let c := c.sweep
    { c with
      farReads := c.farReads.filter fun f => !(f.seq == c.cur.seq && f.slot == c.cur.slot)
      cur := { c.cur with old := [], oldMem := [], pass := [] }
      fired := c.fired ||| BitVec.ofNat 8 (2 ^ c.cur.slot)
      bundles := c.bundles.map fun b => { b with entries := b.entries.map fun e => { e with waiting := false } } }

/-- R47, R191: a trap that waits is taken once every earlier entry has been checked, the watchdog's once the engines have
drained. -/
def CoreState.trapDue (c : CoreState) : Bool :=
  match c.trapReq with
  | none => false
  | some t => c.bundles.all (fun b => b.entries.all (·.checked)) && (t.cause != 0x39#8 || c.drained)

/-- The entry of a slot of a bundle was found held. -/
def State.foundHeld (s : State) (seq slot : Nat) : Bool :=
  s.core.bundles.any fun b => b.seq == seq && b.entries.any fun e => e.slot == slot && e.waiting

/-- R44: what is left of a SYNC bundle after its cycle issues as it can. -/
def State.unsync (s : State) (seq : Nat) : State := s.upd fun c => c.updBundle seq fun b => { b with sync := false }

/-! ### Checks ahead of issue (R156) -/

/-- Instructions whose elements perform while it is checked (R133). -/
def byElement : Instr → Bool
  | .vld _ | .vst _ | .vgth _ | .vsct _ | .vatom _ => true
  | _ => false

/-- R156: the check of an instruction reads bytes of the store: the index vector, CPYG's list (R268). -/
def checksStore : Instr → Bool
  | .vgth _ | .vsct _ | .vatom _ | .cpyg _ => true
  | _ => false

/-- R156: what the check of an entry reads: its registers, of the store what `checksStore` says, and the channel of a WMARK
(R270). -/
def checkReads (c : CoreState) (e : Entry) : List Nm :=
  (touched c e.slot e.instr).filter (fun n => !n.write && (checksStore e.instr || decide (n.hi < 4096)))
    ++ match e.instr with
      | .wmark o => [.rd (200 + o.ch.toNat)]
      | _ => []

/-- R156: the entries whose check can take place although they do not issue: the check ends in the core, those of every earlier
bundle have passed, and what it reads is there, through an address register too (R84). -/
def State.nextChecks (s : State) (before : List Bundle) : List Bundle → List (Bundle × Entry)
  | [] => []
  | b :: t =>
    let may (e : Entry) : Bool :=
      let reads := checkReads s.core e
      !e.checked && !e.waiting && checksAhead e.instr && !isAtomic e.instr && !dependent (s.loadItems b.seq) reads
        && before.all fun p => p.entries.all fun q =>
          q.checked && !dependent ((touched s.core q.slot q.instr).filter (·.write)) reads
            && !(checksStore e.instr && q.slot != 1 && storeInstr q.instr)
    (b.entries.filter may).map (fun e => (b, e)) ++ s.nextChecks (before ++ [b]) t

/-! ### Cycles (R159 to R161) -/

/-- R161: DRIFT at the end of a cycle: the bundles with an entry left and those after the oldest of them, whose NOPs wait behind it,
and the largest such number since launch. -/
def CoreState.tally (c : CoreState) : CoreState :=
  let n := match c.bundles with | [] => 0 | _ => c.bundles.length + c.past.length
  let most := bitsOf (c.crGet 0x00B) 8 5
  c.crPut 0x00B (BitVec.ofNat 64 (n + 256 * (if most < n then n else most)))

/-- R155, R160: one cycle charged to exhausted margin; the first of a region sets EVPEND.MARGIN. -/
def State.countMargin (s : State) : State :=
  let t := s.upd fun c => { (c.crPut 0x009 (c.crGet 0x009 + 1#64)) with stalled := true }
  if s.core.stalled then t else t.setEvent s.core.id 0

/-- R160: C0 has taken, in this cycle, the last place of the frame queue or the last copy in flight, and C1 waits for it. -/
def State.contended (s : State) : Bool :=
  s.core.fired.getLsbD 6 && (decide (8 ≤ (s.core.queue 4).length) || s.core.copiesFull)
    && s.core.bundles.any fun b => b.entries.any fun e => e.slot == 7 && e.waiting

/-- R160: a cycle with a held entry takes one cycle of bounded margin; where none is left, a contention is counted. -/
def State.chargeMargin (s : State) : State :=
  let m := s.core.crGet 0x040
  if m = 0#64 then (if s.contended then s.countMargin else s)
  else if m != 0x7FFFF#64 && s.anyHeld then s.upd (·.crPut 0x040 (m - 1#64))
  else s

/-- R191: a cycle ends without a dispatch while the watchdog counts. -/
def CoreState.countIdle (c : CoreState) : CoreState :=
  if c.mode == .running && !c.inTrap && c.crGet 0x04A != 0#64 && !c.fired.getLsbD 0 then { c with wdCount := c.wdCount + 1 } else c

/-- The end of a cycle, and with it the start of the next. -/
def State.endCycle (s : State) : State := s.chargeMargin.upd fun c => { c.countIdle.tally with fired := 0#8 }

/-! ### Instruction fetch (R463) -/

/-- R463: a line joins its set of four ways; which of four it replaces is open (log entry 3). -/
def CoreState.fillLine (c : CoreState) (way line : Nat) (bs : List Byte) : CoreState :=
  let set := (c.icache.map (·.1)).filter fun l => l / 256 % 32 == line / 256 % 32
  let kept := if set.length < 4 then c.icache else c.icache.filter fun e => some e.1 != set[way % 4]?
  { c with icache := (line, bs) :: kept }

/-- A line fetched, and its translation noted (R130). -/
def State.fetched (s : State) (line : Nat) (bs : List Byte) : State :=
  let t := s.ticked.upd fun c => c.fillLine (Config.freeNat s.tick) line bs
  match s.placeVA (cluster s.core.id) (s.core.crGet 0x018) s.core.sup s.core.pc.toNat .fe with
  | .ok ⟨_, some p⟩ => t.fillTlb (cluster s.core.id) (s.core.crGet 0x018) p
  | _ => t

/-- R119: a fetch has read a line with an error: once the entries before it have passed their checks it is consumed, with the
slot number that R132 gives a fetch. -/
def State.fetchBad (s : State) (line : Nat) : State :=
  if s.core.bundles.all fun b => b.entries.all (·.checked) then
    s.consume s.core.nextSeq s.core.pc 8 (sourceCode line) (s.core.pc.setWidth 64)
  else s

/-- R137: a line of a remote window is asked for, and fills the instruction cache once it is back. -/
def State.fetchFar (s : State) (line : Nat) : State :=
  match s.core.farReads.find? fun f => f.slot == 8 && f.loc == line with
  | some f => (match f.got with
    | none => s
    | some (bs, bad) =>
      let s := s.upd fun c => { c with farReads := c.farReads.filter fun f => !(f.slot == 8 && f.loc == line) }
      if bad then s.fetchBad line else s.fetched line bs)
  | none =>
    let (u, s) := s.fresh
    let c := s.core
    let t := s.send ⟨u, .core c.id, c.pc, c.nextSeq, 8, .load .outside, [⟨line, c.pc.setWidth 64, 256, 0, []⟩], false, s.tag (Cells.get 0#10 c.slack 0).toNat⟩
    t.upd fun c => { c with farReads := ⟨c.nextSeq, 8, line, 256, none, u⟩ :: c.farReads }

/-- FETCH_MISS_FILL (R119, R137, R463): the line of a fetch miss is read at its home slice, which forwards it where it lies in a
remote window, and fills the instruction cache. A line executes as it stood when it was filled, whatever
is stored at its addresses later (R164 gives no other; log entry 46). -/
def execFetchMissFill (s : State) : Out :=
  match s.fetch with
  | .miss line =>
    if isRemote line then .next (s.fetchFar line)
    else if isDecoded line then
      match s.decoded.find? fun d => d.line == line / 256 with
      | none => .next (s.missed (line / 256))
      | some d => .next (if d.bad then s.fetchBad line else s.fetched line d.data)
    else .next (if s.poisoned line 256 then s.fetchBad line else s.fetched line (s.bytes line 256))
  | _ => .next s

/-- BUNDLE_DISPATCH (R28 to R47, R160, R163, R177): the bundle at the program counter is fetched, checked and dispatched,
or waits. -/
def execBundleDispatch (s : State) : Out :=
  if !s.core.mayDispatch || s.stalls || s.core.watchdogDue then .next s
  else match s.fetch with
    | .miss _ => .next s
    | .fault f =>
      .next (s.requestTrap ⟨f.cause, s.core.pc, 0x28#64, s.core.pc.setWidth 64, 0#64, f.info⟩)
    | .bytes bs => .next (s.dispatchBytes bs)

/-- WHOLE_CORE_STALL (R155, R160, R191): one cycle charged to exhausted margin, without a dispatch. -/
def execWholeCoreStall (s : State) : Out := .next (if s.stalls then s.countMargin.upd (·.countIdle) else s)

end Sys2Proof.Machine
end

