-- ==== Sys2Proof/Machine/Records.lean ====
section
/-! DEFINITION. Launch records and launch images (R417 to R421): their fields, what the controller reads under a record's
root, and why a launch is refused. -/

namespace Sys2Proof.Machine

/-! ### Fields -/

/-- `n` bytes at an offset of a record or an image, as a number. -/
def numAt (bs : List Byte) (o n : Nat) : Nat := leNat ((bs.drop o).take n)

/-- R419: 8-byte word i of a launch record, and its fields. -/
def recWord (r : List Byte) (i : Nat) : Nat := numAt r (8 * i) 8
def recBit (r : List Byte) (k : Nat) : Bool := recWord r 0 / 2 ^ k % 2 == 1
def recEntry (r : List Byte) : Nat := recWord r 0 % 2 ^ 48
def recTail (r : List Byte) : Bool := recBit r 48
def recOverlap (r : List Byte) : Bool := recBit r 49
def recKeep (r : List Byte) : Bool := recBit r 50
def recSup (r : List Byte) : Bool := recBit r 51
def recDg (r : List Byte) : Bool := recBit r 52
def recRoot (r : List Byte) : Word64 := BitVec.ofNat 64 (recWord r 1)
def recImage (r : List Byte) : Nat := recWord r 2 % 2 ^ 48
def recTenant (r : List Byte) : Nat := numAt r 24 2
def recSlack (r : List Byte) : Nat := recWord r 3 / 2 ^ 16 % 2 ^ 10
def recTag (r : List Byte) : Nat := numAt r 28 2
def recEvq (r : List Byte) : Nat := recWord r 4
def recCq (r : List Byte) : Nat := recWord r 5
def recStatw (r : List Byte) : Nat := recWord r 6
def recDeps (r : List Byte) : List Nat := [recWord r 7, recWord r 8].filter (· != 0)
def recArg (r : List Byte) (i : Nat) : Word64 := BitVec.ofNat 64 (recWord r (9 + i))
/-- R419: the parent's key (die × 2^16 + LID), when there is one. -/
def recParent (r : List Byte) : Option Nat := if recWord r 11 / 2 ^ 17 % 2 = 1 then some (recWord r 11 % 2 ^ 17) else none

/-- R420: the fields of an image. -/
def imgGangs (im : List Byte) : Nat := numAt im 0 8 / 2 ^ 16 % 64 + 1
def imgDrn (im : List Byte) : Nat := numAt im 0 8 / 2 ^ 24 % 2 ^ 16
def imgView (im : List Byte) (n : Nat) : Word64 := BitVec.ofNat 64 (numAt im (0x40 + 8 * (n - 1)) 8)
def imgBound (im : List Byte) (d : Nat) : Nat := numAt im (0x10 + 2 * d) 2
def imgDims (im : List Byte) : Nat := numAt im 0x18 8 / 2 ^ 32 % 8
def imgPerm (im : List Byte) (d : Nat) : Nat := numAt im 0x18 8 / 2 ^ (35 + 3 * d) % 8
/-- R18: the tile count; 0 without a nest. -/
def imgTiles (im : List Byte) : Nat :=
  if imgDims im = 0 then 0 else (List.range (imgDims im)).foldl (fun t d => t * imgBound im d) 1

/-- R420: a gang descriptor. -/
structure GangDesc where
  core : Nat
  size : Nat
  fuse : Bool
  pbase : Nat
  psize : Nat
  banks : Nat
  frlq : Nat
  deriving DecidableEq, Repr

def gangDesc (im : List Byte) (j : Nat) : GangDesc :=
  let a := numAt im (0x400 + 16 * j) 8
  ⟨a % 128, a / 2 ^ 7 % 4 + 1, a / 2 ^ 9 % 2 == 1, a / 2 ^ 10 % 64, a / 2 ^ 16 % 128, a / 2 ^ 32 % 2 ^ 16, numAt im (0x408 + 16 * j) 8⟩

/-- A gang put before the first of a higher core. -/
def GangDesc.insert (d : GangDesc) : List GangDesc → List GangDesc
  | [] => [d]
  | e :: t => if d.core ≤ e.core then d :: e :: t else e :: d.insert t

/-- R17: the gangs in increasing order of their lowest core. -/
def imgDescs (im : List Byte) : List GangDesc := (List.range (imgGangs im)).foldr (fun j l => (gangDesc im j).insert l) []

def GangDesc.cores (d : GangDesc) : List Nat := (List.range d.size).map (d.core + ·)

/-- R17, R420: the gangs of an image, their logical numbers counted through. -/
def gangsOf (k : Nat) : List GangDesc → List Gang
  | [] => []
  | d :: t =>
    { home := BitVec.ofNat 7 d.core, cores := d.cores.map (BitVec.ofNat 7), k0 := k, fuse := d.fuse, pbase := d.pbase
      psize := d.psize, banks := BitVec.ofNat 16 d.banks, frlq := BitVec.ofNat 64 d.frlq, placed := true, saved := none
      halted := [], since := 0, billed := 0, parkedOn := [], kept := [] } :: gangsOf (k + d.size) t

/-! ### Reading under a root (R369, R419) -/

/-- R119: a byte of physical memory as its home slice returns it; a byte of a remote window comes from outside. -/
def State.physByte (s : State) (pa i : Nat) : Byte :=
  if isRemote pa then Config.freeByte s.tick i
  else if isDecoded pa then
    match s.tileOf pa with
    | none => 0#8
    | some (r, t) =>
      match (s.decoded ++ s.decodeTile r t).find? fun d => d.line == pa / 256 with
      | some d => d.data[pa % 256]?.getD 0#8
      | none => 0#8
  else s.byte pa

/-- R428: what a controller reads at a physical address: outside LPDDR-6 and the decoded view the bytes are open (log
entry 37). -/
def State.deviceBytes (s : State) (pa n : Nat) : List Byte :=
  if isRaw pa then s.bytes pa n
  else (List.range n).map fun i => if isDecoded (pa + i) then s.physByte (pa + i) i else Config.freeByte s.tick (pa + i)

def State.deviceNum (s : State) (pa n : Nat) : Nat := leNat (s.deviceBytes pa n)

/-- R138: a write to a remote window by a die's controller, line by line. -/
def State.sendLines (s : State) (die : Bool) (sl : Nat) : Nat → Nat → List Byte → State
  | 0, _, _ => s
  | fuel + 1, pa, bs =>
    let n := 256 - pa % 256
    let (u, t) := s.fresh
    let t : State := { t with reqs := t.reqs ++ [⟨u, .controller die, 0#48, 0, 0, .store, [⟨pa, 0#64, (bs.take n).length, 0, bs.take n⟩], false, t.tag sl⟩] }
    if bs.isEmpty then s else t.sendLines die sl fuel (pa + n) (bs.drop n)

/-- R120, R138, R428, R459: what a controller writes at a physical address: in a remote window it goes out, and where there
is no storage it goes nowhere (log entry 37). -/
def State.deviceWrite (s : State) (die : Bool) (sl pa : Nat) (bs : List Byte) : State :=
  if isRaw pa then s.performWrite none pa bs
  else if isRemote pa then s.sendLines die sl (bs.length / 256 + 2) pa bs
  else s

/-- R369: a virtual address under a root, at supervisor level: its physical address. -/
def State.rootPa (s : State) (root : Word64) (va : Nat) : Option Nat :=
  if 2 ^ 48 ≤ va then none
  else match s.walk root va with | .ok p => some (p.pa + (va - p.va)) | .error _ => none

/-- `n` bytes from a virtual address under a root; none when a page does not translate. -/
def State.rootBytes (s : State) (root : Word64) (va : Nat) : Nat → Option (List Byte)
  | 0 => some []
  | n + 1 =>
    match s.rootPa root va, s.rootBytes root (va + 1) n with
    | some pa, some t => some (s.physByte pa va :: t)
    | _, _ => none

/-- R420: the image of a record, its gang descriptors with it. -/
def State.readImage (s : State) (r : List Byte) : Option (List Byte) :=
  match s.rootBytes (recRoot r) (recImage r) 0x400 with
  | none => none
  | some h => (s.rootBytes (recRoot r) (recImage r + 0x400) (16 * imgGangs h)).map (h ++ ·)

/-! ### Refusal (R421) -/

/-- A queue handle of code 3, aligned. -/
def handle3 (h : Nat) : Bool := h == 0 || (h % 64 == 3 && decide (h < 2 ^ 48))

/-- R421 cause 0x01, of the record alone. -/
def recBad (s : State) (r : List Byte) : Bool :=
  let va (a : Nat) : Bool := a == 0 || (s.rootPa (recRoot r) a).isSome
  recWord r 0 / 2 ^ 53 != 0 || recWord r 1 / 2 ^ 46 != 0 || recWord r 2 / 2 ^ 48 != 0 || recWord r 3 / 2 ^ 26 % 64 != 0
    || recWord r 3 / 2 ^ 48 != 0 || recWord r 11 / 2 ^ 18 != 0 || numAt r 96 32 != 0
    || recEntry r % 32 != 0 || recImage r % 1024 != 0 || recStatw r % 8 != 0 || (recDeps r).any (· % 8 != 0)
    || !handle3 (recEvq r) || !handle3 (recCq r)
    || (s.rootPa (recRoot r) (recEntry r)).isNone
    || !(va (recEvq r / 64 * 64) && va (recCq r / 64 * 64) && va (recStatw r) && (recDeps r).all va)

/-- R73, R80, R421 cause 0x01, of the image. -/
def imageBad (im : List Byte) : Bool :=
  numAt im 0 2 != 0x51A7 || numAt im 0 8 / 2 ^ 22 % 4 != 0 || numAt im 0 8 / 2 ^ 40 != 0 || numAt im 8 8 % 8 != 0
    || numAt im 0x18 8 / 2 ^ 53 != 0 || (List.range 16).any (fun i => numAt im (0x20 + 2 * i) 2 / 2 ^ 10 != 0)
    || numAt im 0x78 8 / 2 ^ 7 != 0 || numAt im 0x3E0 32 != 0
    || (List.range 7).any (fun i => (imgView im (i + 1)).getLsbD 31 || (imgView im (i + 1)).toNat / 2 ^ 52 != 0)
    || (List.range 48).any (fun i => numAt im (0x80 + 16 * i) 4 / 2 ^ 20 != 0)
    || (List.range (imgGangs im)).any fun j =>
        let a := numAt im (0x400 + 16 * j) 8
        let f := numAt im (0x408 + 16 * j) 8
        a / 2 ^ 23 % 2 ^ 9 != 0 || a / 2 ^ 48 != 0 || f % 64 != 0 || f / 2 ^ 54 % 2 ^ 9 != 0

/-- No number twice in a list. -/
def distinct : List Nat → Bool
  | [] => true
  | a :: t => !t.contains a && distinct t

/-- R421 cause 0x02 (R15, R460). -/
def coresBad (s : State) (die : Bool) (ds : List GangDesc) : Bool :=
  !distinct (ds.flatMap GangDesc.cores)
    || ds.any fun d => (d.core / 64 == 1) != die || decide (4 < d.core % 4 + d.size)
        || d.cores.any fun c => s.coreGone (BitVec.ofNat 7 c)

/-- R421 cause 0x03 (R16, R18, R154). -/
def nestBad (im : List Byte) : Bool :=
  let n := imgDims im
  let ps := (List.range n).map (imgPerm im)
  n == 7 || !distinct ps || ps.any (fun p => decide (n ≤ p))
    || (List.range (6 - n)).any (fun i => imgPerm im (n + i) != 0 || imgBound im (n + i) != 0)
    || decide (2 ^ 32 ≤ imgTiles im)

/-- R88: the image is silent on a view that it gives as zero or as the reset value. -/
def silentView (n : Nat) (v : Word64) : Bool := v == 0#64 || v == Cr.reset (0x010 + n)

/-- R337: a gang's banks overlap or leave its partition. -/
def banksBad (d : GangDesc) : Bool :=
  let z := d.banks / 2 ^ 12
  let b0 := d.banks % 64
  let b1 := d.banks / 64 % 64
  z != 0 && (decide (12 < z) || (decide (b0 < b1 + z) && decide (b1 < b0 + z))
    || decide (b0 < d.pbase) || decide (b1 < d.pbase) || decide (d.pbase + d.psize < b0 + z) || decide (d.pbase + d.psize < b1 + z))

/-- Two gangs of one cluster whose partitions overlap. -/
def GangDesc.meets (d e : GangDesc) : Bool :=
  d.psize != 0 && e.psize != 0 && d.core / 4 == e.core / 4 && decide (d.pbase < e.pbase + e.psize) && decide (e.pbase < d.pbase + d.psize)

def anyMeet : List GangDesc → Bool
  | [] => false
  | d :: t => t.any d.meets || anyMeet t

/-- R421 cause 0x04. -/
def partsBad (im : List Byte) (ds : List GangDesc) : Bool :=
  (List.range 7).any (fun i => !(silentView (i + 1) (imgView im (i + 1)) || viewValid (i + 1) (imgView im (i + 1))))
    || ds.any (fun d => decide (64 < d.pbase + d.psize) || banksBad d) || anyMeet ds

/-- R426: the pre-emption cost of a launch, in cycles. -/
def preemptCost (im : List Byte) (ds : List GangDesc) : Nat :=
  let v := 1024 * (granules (((List.range 7).map fun i => imgView im (i + 1)).filter fun v => vwSize v != 0)).length
  let b := ds.foldl (fun m d => Nat.max m (v + (d.psize * 65536 + d.size - 1) / d.size)) 0
  imgDrn im + (b + 84) / 85 + 300

/-- R421: the refusal cause of a record and its image on a die, from a queue of some priority; 0 for none. -/
def State.refusal (s : State) (die : Bool) (prio : Nat) (r : List Byte) (image : Option (List Byte)) : Nat :=
  if recBad s r then 1
  else match image with
    | none => 1
    | some im =>
      let ds := imgDescs im
      if imageBad im then 1
      else if coresBad s die ds then 2
      else if nestBad im || ds.any (fun d => d.fuse && d.size != 4) then 3
      else if partsBad im ds then 4
      else if prio < 7 ∧ 3000 < preemptCost im ds then 5
      else 0

end Sys2Proof.Machine
end

