-- ==== Sys2Proof/Machine/Preempt.lean ====
section
/-! DEFINITION. Pre-emption and resume (R281, R310, R311, R358, R426 to R429, R462): the request, the drain, the save
slot, the restore. -/

namespace Sys2Proof.Machine

/-! ### Gangs and what they hold (R422) -/

/-- The resources of a gang on some cores: the cores, and each 64 KiB of the partition in their cluster. -/
def resourcesOf (cores : List (BitVec 7)) (pbase psize : Nat) : List Nat :=
  cores.map (·.toNat)
    ++ (match cores with | [] => [] | c :: _ => (List.range psize).map fun i => 128 + 64 * cluster c + pbase + i)

def Gang.resources (g : Gang) : List Nat := resourcesOf g.cores g.pbase g.psize

/-- The gangs that hold some of the resources. -/
def State.holders (s : State) (rs : List Nat) : List (Launch × Gang) :=
  s.standing.flatMap fun l => (l.gangs.filter fun g => g.placed && g.resources.any rs.contains).map fun g => (l, g)

/-- R190, R193: a core of a gang has ended: it has halted, or a double trap stopped it and its engines have drained. -/
def State.ended (s : State) (g : Gang) (id : BitVec 7) : Bool :=
  g.halted.contains id
    || (g.placed && (s.coreAt id).mode == .dead && (s.coreAt id).drained && (s.pendingOf id).isEmpty && s.replies.all (·.core != id))

/-- R427: a pre-emption of the gang has been asked for. -/
def State.draining (s : State) (g : Gang) : Bool := g.placed && g.cores.any fun k => ((s.coreAt k).crGet 0x0C4).getLsbD 0

/-- R428: the save slots in use or about to be, of both dies; and how many there are. -/
def State.slotsTaken (s : State) : Nat :=
  (s.launches.flatMap fun l => l.gangs.filter fun g => g.saved.isSome || s.draining g).length
def State.slots (s : State) : Nat := bitsOf (s.devGet 0x0CA) 48 8 + 1

/-- R428: the first slot no gang is in. -/
def State.freeSlot (s : State) : Option Nat :=
  (List.range s.slots).find? fun i => !s.launches.any fun l => l.gangs.any fun g => g.saved == some i

/-- R428: the address of core k's part of a slot. -/
def State.slotAt (s : State) (slot k : Nat) : Nat := bitsOf (s.devGet 0x0CA) 24 22 * 2 ^ 24 + slot * 2 ^ 24 + areaSize * k

/-! ### Taint (R435) -/

/-- R435: a gang with a core whose STATUS.TAINT is set taints its launch; where the launch has no cause yet, it is open (log entry
40). -/
def State.noteTaint (s : State) (l : Launch) (g : Gang) : State :=
  if g.placed && g.cores.any fun k => (s.coreAt k).status.getLsbD 3 then
    (s.taintLaunch l.key ((Config.freeWord s.tick).setWidth 8)).ticked else s

/-! ### The request (R281, R427 step 1) -/

/-- R427 step 1: LPRE[0] sets in the cores of a gang; a gang whose cores have all ended gives up its resources at
once, its time charged and its taint noted. -/
def State.askPreempt (s : State) (l : Launch) (g : Gang) : State :=
  if s.draining g then s
  else if g.cores.all (s.ended g) then
    (s.flush.noteTaint l g).updGang l.key g.k0 fun g => { g with placed := false, halted := g.cores }
  else
    let t := g.cores.foldl (fun s k => s.updCore k fun c => c.crPut 0x0C4 (c.crGet 0x0C4 ||| 1#64)) s
    t.updGang l.key g.k0 fun g => { g with since := s.cycle }

/-! ### The drain (R427 steps 2 and 3) -/

/-- R427 step 2: what is left of the core whose turn it is waits: nothing can issue, no trap is due, nothing wakes or fills,
and no PREEMPT of its own waits for another launch. -/
def State.settled (s : State) : Bool :=
  let c := s.core
  let own := (s.launchOf c).any (·.stopped)
  c.mode != .running
    || ((s.nextEntry.isNone || s.stalls) && !c.trapDue && c.wake == 0 && c.cupQ.length == 16
      && !c.bundles.any fun b => b.entries.any fun e => e.slot == 1 && e.rep == 0 && !own)

/-- R427 step 3: every operation of the core whose turn it is has performed but the rows that R281 leaves, no access is on its
way, and no window of its launch waits for it. -/
def State.drained (s : State) : Bool :=
  let c := s.core
  c.drained && (s.pendingOf c.id).isEmpty && s.replies.all (·.core != c.id)
    && !s.windows.any fun w => w.launch == c.launchKey && w.waits == some c.gang.k

/-! ### The save (R427 steps 4 and 5, R428) -/

/-- R281: what a save area keeps of a copy that stopped. -/
def EngineOp.remainder (o : EngineOp) : Option Remainder :=
  match o.instr, o.segs with
  | .cpy i, g :: _ =>
    some ⟨i.ch.toNat, g.sva, g.dva, i.ssp.toNat, i.dsp.toNat, shRows o.shape - g.row, shCols o.shape, shType o.shape, i.cnt,
      o.eng == 3, shStride0 o.shape, shStride1 o.shape⟩
  | _, _ => none

/-- R427 step 4: the core as its sequencer stood before the resume bundle, and the resume point. -/
def CoreState.rewound (c : CoreState) : CoreState × BitVec 48 :=
  match c.bundles with
  | [] => (c, c.pc)
  | b :: _ =>
    ({ (c.crPuts [(0x047, b.segst), (0x048, b.segcrc), (0x040, b.mrem), (0x041, b.mlim)]) with
        loops := b.loopsNow, segExp := b.segexp, nest := c.nestBefore b.seq }, b.pc)

/-- R427 step 4, R462: the replay masks of the resume bundle and the 15 after it. -/
def CoreState.saveMasks (c : CoreState) : List Byte :=
  let ms := match c.bundles with
    | [] => c.replay :: c.replays
    | b :: _ => (List.range (c.nextSeq - b.seq)).map (fun i => c.doneMask (b.seq + i)) ++ (c.replay :: c.replays)
  (ms ++ List.replicate 16 0#8).take 16

/-- R21, R133, R188, R219, R338: what the core keeps beside its save area. -/
def CoreState.keptNow (c : CoreState) : KeptCore :=
  let lo := match c.bundles with | [] => c.nextSeq | b :: _ => b.seq
  ⟨[0x002, 0x003, 0x004, 0x005, 0x006, 0x007, 0x00B, 0x018, 0x04B].map fun n => (n, c.crGet n), c.shadow, c.bank0, c.bank1, c.redosAfter lo, c.slacksAfter lo⟩

/-- Bytes of the machine copied to a place in it, poison with them. -/
def State.moveBytes (s : State) (src dst n : Nat) : State :=
  let t := s.performWrite none dst (s.bytes src n)
  { t with poison := Cells.copy 0#1 t.poison src dst n }

/-- R428: storage of a core or cluster copied to a save slot. -/
def State.slotSave (s : State) (die : Bool) (sl src pa n : Nat) : State :=
  if isRaw pa then s.moveBytes src pa n else s.deviceWrite die sl pa (s.bytes src n)

/-- R429: storage of a core or cluster loaded from a save slot. -/
def State.slotLoad (s : State) (pa dst n : Nat) : State :=
  if isRaw pa then s.moveBytes pa dst n else (s.performWrite none dst (s.deviceBytes pa n)).ticked

/-- R72, R199: the image of a granule copied to a save slot; the bytes of the scalar window are s0 to s63. -/
def State.granuleSave (s : State) (die : Bool) (sl base g : Nat) : State :=
  if g = 0 then (s.deviceWrite die sl base ((s.granuleBytes 0).take 512)).slotSave die sl (s.st 512) (base + 512) 512
  else s.slotSave die sl (s.st (1024 * g)) (base + 1024 * g) 1024

def State.granuleLoad (s : State) (base g : Nat) : State :=
  if g = 0 then s.slotLoad (base + 512) (s.st 512) 512 else s.slotLoad (base + 1024 * g) (s.st (1024 * g)) 1024

/-- R428: the core whose turn it is written to its part of a save slot at `base`, then idle. -/
def State.saveCore (s : State) (die : Bool) (base : Nat) : State :=
  let s := (s.abandonLook false).abandonLook true
  let s := s.upd fun c => c.crPut 0x0C4 (setBits (c.crGet 0x0C4) 32 32 (bitsOf (c.crGet 0x0C4) 32 32 + 1))
  let c := s.core
  let (r, pc) := c.rewound
  let s := s.withdrawParked c.id
  let s := { s with released := s.released.filter fun q => q.agent != Agent.core c.id }
  let sl := s.coreSlack c
  let put (s : State) (p : Nat × List Byte) : State := s.deviceWrite die sl (base + p.1) p.2
  let t := put s (0, List.replicate 65536 0#8)
  let t := (r.saveArea 2 pc (c.ops.filterMap (·.remainder))).foldl put t
  let t := [(0x3000, word c.mstat ++ word (c.crGet 0x01C) ++ word (c.crGet 0x01D)), (0x3018, word (c.crGet 0x127)),
    (0x3020, word s.frbnk ++ word (c.crGet 0x00F)), (0x3030, leBytes 8 pc.toNat), (0x3038, c.saveMasks),
    (0x3048, leBytes 8 (bitsOf (c.crGet 0x0C0) 0 23 + bitsOf (c.crGet 0x0C4) 0 2 * 2 ^ 23 + bitsOf (c.crGet 0x0C4) 32 32 * 2 ^ 32)),
    (0x3050, c.bank0.bytes ++ c.bank1.bytes)].foldl put t
  let gs := granules (c.savedViews.map c.viewReg)
  let t := gs.foldl (fun s g => s.granuleSave die sl (base + 0x10000) g) t
  let t := t.charge c.launchKey 13 (1024 + 16 * gs.length)
  t.upd fun c => { (c.crPut 0x0C4 (c.crGet 0x0C4 &&& ~~~1#64)) with
    mode := .idle, bundles := [], past := [], ops := [], held := false, trapReq := none, replay := 0#8, replays := [], redo := [], redos := [], slacks := []
    fired := 0#8, drain := false, yielded := false, stalled := false, group := .start, shadow := none, fences := [], bank0 := .empty, bank1 := .empty }

/-- Where the bytes of a gang's partition lie. -/
def Gang.partAt (g : Gang) : Nat := Loc.spad (match g.cores with | [] => 0 | c :: _ => cluster c) (65536 * g.pbase)

/-- R427 step 5, R428: a drained gang is saved in a slot and gives up its resources. -/
def State.saveGang (s : State) (l : Launch) (g : Gang) (slot : Nat) : State :=
  let used := s.cycle - g.since
  let s := s.flush.noteTaint l g
  let parked := (s.waiters.filter fun w => g.cores.any fun k => w.agent == .core k).map (·.qpa)
  let done := g.cores.filter (s.ended g)
  let kept := g.cores.map fun k => (s.coreAt k).keptNow
  let t := s.slotSave l.die (imageSlack l.image) g.partAt (s.slotAt slot 0 + 0x440000) (65536 * g.psize)
  let t := t.charge l.key 13 (1024 * g.psize)
  let t := (List.range g.cores.length).foldl (fun s k => s.asCore (g.cores[k]?.getD 0#7) (·.saveCore l.die (s.slotAt slot k))) t
  let t := t.updGang l.key g.k0 fun g =>
    { g with placed := false, saved := some slot, halted := done, parkedOn := parked, kept := kept }
  let t := t.updLaunch l.key fun l => { l with preempts := l.preempts + 1, overrun := l.overrun || decide (l.drn < used) }
  if used ≤ l.drn then t
  else t.sendLaunch (BitVec.ofNat 64 (recEvq l.record)) (recRoot l.record) (imageSlack l.image) 5 l.lid.toNat g.home.toNat l.die (leBytes 8 used)

/-- PREEMPTION (R426 to R428): the gang of a core, if its pre-emption has been asked for: once nothing of it can issue its
engines drain, and once they have it is saved, if a slot is free. -/
def execPreemption (core : BitVec 7) (s : State) : Out :=
  match s.launches.findSome? fun l => (l.gangs.find? fun g => g.cores.contains core && s.draining g).map fun g => (l, g) with
  | none => .next s
  | some (l, g) =>
    if (s.ctl l.die).stopped || !g.cores.all fun k => (s.focus k).settled then .next s
    else
      let s := g.cores.foldl (fun s k => s.updCore k (·.beginDrain)) s
      if !g.cores.all fun k => (s.focus k).drained then .next s
      else match s.freeSlot with
        | none => .next s
        | some slot => .next (s.saveGang l g slot)

/-! ### Resume (R311, R429) -/

/-- The sublists of `n` elements of a list, those with its first elements first. -/
def sublistsOf {α : Type} : Nat → List α → List (List α)
  | 0, _ => [[]]
  | _ + 1, [] => []
  | n + 1, x :: t => (sublistsOf n t).map (x :: ·) ++ sublistsOf (n + 1) t

/-- R429: the sets of `n` cores of one cluster of a die, lowest core first. -/
def coreSets (die : Bool) (n : Nat) : List (List (BitVec 7)) :=
  (List.range 16).flatMap fun cl => sublistsOf n ((List.range 4).map fun i => BitVec.ofNat 7 ((if die then 64 else 0) + 4 * cl + i))

/-- R429: the placement class of a core. -/
def State.pclass (s : State) (k : BitVec 7) : Nat := bitsOf ((s.coreAt k).crGet 0x0C5) 0 8

/-- R429: a gang may resume on these cores. -/
def State.qualifies (s : State) (reserved : List Nat) (g : Gang) (cs : List (BitVec 7)) : Bool :=
  let rs := resourcesOf cs g.pbase g.psize
  (match cs with | [] => false | c :: _ => cs.all fun k => cluster k == cluster c)
    && (cs.zip g.cores).all (fun p => p.1 == p.2 || (s.pclass p.1 == s.pclass p.2 && s.pclass p.2 != 0))
    && cs.all (fun k => !s.coreGone k) && !rs.any reserved.contains && (s.holders rs).isEmpty

/-- R429: the cores a gang resumes on: its own, or the set with the lowest core that qualifies, its cores in the order of their numbers
(log entry 25). -/
def State.resumeCores (s : State) (die : Bool) (reserved : List Nat) (g : Gang) : Option (List (BitVec 7)) :=
  (g.cores :: coreSets die g.cores.length).find? (s.qualifies reserved g)

/-- R311: a stationary buffer loaded again from the resuming core's deck. -/
def State.refill (s : State) (b : Nat) : State :=
  let v := s.core.mbrec b
  if !recValid v then s
  else
    let (u, s) := s.fresh
    s.performMbld
      { uid := u, seq := s.core.nextSeq, eng := 0, pc := s.core.pc, slack := Cells.get 0#10 s.core.slack 0, instr := .mbsw ⟨0#4⟩, rep := 1
        shape := BitVec.ofNat 128 (recType v + recGroup v * 2 ^ 18), addrs := [recOff v], regs := [], locks := [], busy := []
        segs := [], extra := [b], old := [], writes := [] }

/-- R22, R355, R358: the descriptor in 16 bytes, with what else the frame engine noted of the bank; what the lookahead loaded is
discarded if its record has been taken meanwhile, and is otherwise peeked for again. -/
def BankDesc.load (was : BankDesc) (v : Nat) : BankDesc :=
  let d := { was with
    frame := BitVec.ofNat 32 (v % 2 ^ 22), state := v / 2 ^ 22 % 4, storing := v / 2 ^ 24 % 2 == 1, comp := v / 2 ^ 25 % 2 == 1
    la := v / 2 ^ 26 % 2 == 1, dirty := BitVec.ofNat 12 (v / 2 ^ 32), npg := v / 2 ^ 44 % 16 }
  if d.la && was.state == 0 then .empty else if was.peeked.isSome then { d with left := true } else d

/-- What a core that was never saved keeps: nothing. -/
def KeptCore.none : KeptCore := ⟨[], .none, .empty, .empty, [], []⟩

/-- R199, R428, R429: the core whose turn it is restored from its part of a save slot at `base`, as core `k` of a gang. -/
def State.restoreCore (s : State) (l : Launch) (g : Gang) (k base : Nat) : State :=
  let get (o n : Nat) : Nat := s.deviceNum (base + o) n
  let kept := g.kept[k]?.getD .none
  let lpre := get 0x3048 8
  let ended := g.halted.contains s.core.id
  let vs := ((List.range 7).filter fun i => get 0 8 / 2 ^ (33 + i) % 2 = 1).map fun i => BitVec.ofNat 64 (get (0x488 + 8 * i) 8)
  let t := (granules vs).foldl (fun t g => t.granuleLoad (base + 0x10000) g) (s.zeroBytes (s.st 0) (2 ^ 20))
  let t := t.upd fun c =>
    let c := c.loadArea get
    let c := (c.crPuts [(0x018, recRoot l.record), (0x01A, BitVec.ofNat 64 (g.pbase + g.psize * 64)),
      (0x01B, BitVec.ofNat 64 (get 0x3000 8) &&& (field 0 0 ||| field 8 14)), (0x01C, BitVec.ofNat 64 (get 0x3008 8) &&& field 0 22),
      (0x01D, BitVec.ofNat 64 (get 0x3010 8) &&& field 0 22), (0x127, BitVec.ofNat 64 (get 0x3018 8) &&& field 0 31),
      (0x00E, BitVec.ofNat 64 (get 0x3020 8 % 2 ^ 17)), (0x00F, BitVec.ofNat 64 (get 0x3028 8) &&& crWritable 0x00F),
      (0x0C0, BitVec.ofNat 64 (lpre % 2 ^ 23)), (0x0C1, BitVec.ofNat 64 (recTenant l.record)), (0x0C2, BitVec.ofNat 64 (recEvq l.record)),
      (0x0C4, BitVec.ofNat 64 (2 + lpre / 2 ^ 32 * 2 ^ 32))]).crPuts kept.crs
    let ms := (List.range 16).map fun i => BitVec.ofNat 8 (get (0x3038 + i) 1)
    { c with
      mode := if ended then .halted else .running
      gang := ⟨g.cores.headD 0#7, g.cores.length, g.fuse, g.k0 + k, recTenant l.record + 1⟩
      shadow := if c.inTrap then kept.shadow else none
      mbuf0 := .empty, mbuf1 := .empty, ops := [], wake := 0, wdCount := 0
      bank0 := if k = 0 then kept.bank0.load (get 0x3050 16) else .empty
      bank1 := if k = 0 then kept.bank1.load (get 0x3060 16) else .empty
      replay := ms.headD 0#8, replays := trimMasks (ms.drop 1), redo := kept.redos.headD [], redos := kept.redos.drop 1, slacks := kept.slacks }
  let t := ((t.headSlots.l1Clear.ticked).refill 0).refill 1
  (t.reissueAll (remaindersOf get)).charge l.key 13 (1024 + 16 * (granules vs).length)

/-- R429: a saved gang resumes on some cores. -/
def State.resumeGang (s : State) (l : Launch) (g : Gang) (slot : Nat) (cs : List (BitVec 7)) : State :=
  let halted := (g.cores.zip cs).filterMap fun p => if g.halted.contains p.1 then some p.2 else none
  let g' := { g with cores := cs, halted := halted, placed := true, saved := none, since := 0, billed := s.cycle, parkedOn := [], kept := [] }
  let t := s.updGang l.key g.k0 fun _ => g'
  let t := t.slotLoad (s.slotAt slot 0 + 0x440000) g'.partAt (65536 * g.psize)
  let t := t.charge l.key 13 (1024 * g.psize)
  (List.range cs.length).foldl (fun s k => s.asCore (cs[k]?.getD 0#7) fun s => s.restoreCore l { g' with kept := g.kept } k (s.slotAt slot k)) t

end Sys2Proof.Machine
end

