-- ==== Sys2Proof/Machine/Placement.lean ====
section
/-! DEFINITION. The stream controllers (R15 to R20, R26, R88, R89, R417 to R425, R429, R435, R436): launch queues, the
placement decision, the DEQ of a record, and the start of a launch. -/

namespace Sys2Proof.Machine

/-! ### Launch queues (R367, R417, R418) -/

/-- R367, R417: what a background read of a queue's head gives: its HEAD count and record, none when it is empty; the
reason why it is skipped, 0 for an unused queue. -/
def State.queueHead (s : State) (die : Bool) (n : Nat) : Except Nat (Option (Nat × List Byte)) :=
  let pa := s.queuePa die n
  if !(isRaw pa && isRaw (pa + 63)) || (s.bytes pa 64).all (· == 0#8) then .error 0
  else
    let reason := s.qcbReason pa
    let b := s.qcb pa
    if reason ≠ 0 then .error reason
    else if b.code ≠ 4 then .error 0x11
    else match s.dataArea pa (s.devGet 0x122) true false with
      | .error _ => .error 0x0B
      | .ok data => if b.free = b.capacity then .ok none else .ok (some (b.head, (s.headElem pa data).1))

/-- R417, R418: the controller sees the head of a queue, or reports once why it skips the queue. -/
def State.seeHead (s : State) (die : Bool) (n : BitVec 6) : State :=
  match s.queueHead die n.toNat with
  | .error 0 => s.updLq die n fun q => { q with head := none }
  | .error why =>
    let t := s.updLq die n fun q => { q with head := none, failing := true }
    if (s.lq die n).failing then t
    else t.sendHost 6 0 die (leBytes 8 (1 + why * 2 ^ 8 + n.toNat * 2 ^ 16 + (if die then 2 ^ 22 else 0)))
  | .ok none => s.updLq die n fun q => { q with head := none, failing := false }
  | .ok (some (h, r)) => s.updLq die n fun q =>
      { q with
        failing := false
        head := match q.head with
          | some (h', c) => if h' = h ∧ c.record = r then some (h', c) else some (h, s.queued r none none)
          | none => some (h, s.queued r none none) }

/-- BACKGROUND_HEAD_READ (R367, R417, R418). -/
def execBackgroundHeadRead (die : Bool) (queue : BitVec 6) (s : State) : Out :=
  .next (if (s.ctl die).stopped then s else s.seeHead die queue)

/-- R418, R430: the record a queue offers. -/
def LaunchQueue.candidate (q : LaunchQueue) : Option QueuedRecord :=
  match q.held with
  | c :: _ => some c
  | [] => q.head.map (·.2)

/-- The offered record changed. -/
def LaunchQueue.updCandidate (q : LaunchQueue) (f : QueuedRecord → QueuedRecord) : LaunchQueue :=
  match q.held with
  | c :: t => { q with held := f c :: t }
  | [] => { q with head := q.head.map fun p => (p.1, f p.2) }

/-! ### Controllers -/

/-- R434: the next LID of a die. -/
def State.takeLid (s : State) (die : Bool) : BitVec 16 × State :=
  ((s.ctl die).nextLid, s.updCtl die fun c => { c with nextLid := c.nextLid + 1#16 })

/-- R445, R459: a controller that stands still or is to sleep places nothing. -/
def Controller.places (c : Controller) : Bool := !c.stopped && c.asked.isNone && c.asleep == 0

/-! ### Status words (R435) -/

/-- R389: the slack of what launch logic sends for a record. -/
def State.recordSlack (s : State) (r : List Byte) : Nat := imageSlack ((s.readImage r).getD [])

/-- R435: a status word written by STREL at the address of a record, where that can be written. -/
def State.putStatus (s : State) (r : List Byte) (v : Nat) : State :=
  let a := recStatw r
  if a = 0 ∨ 2 ^ 48 ≤ a then s
  else match s.walk (recRoot r) a with
    | .error _ => s
    | .ok p =>
      let pa := p.pa + (a - p.va)
      if !p.w then s
      else if isRaw pa then s.performWrite none pa (leBytes 8 v)
      else if isRemote pa then
        let (u, s) := s.fresh
        { s with reqs := s.reqs ++ [⟨u, .controller false, 0#48, 0, 0, .store, [⟨pa, 0#64, 8, 0, leBytes 8 v⟩], false, s.tag (s.recordSlack r)⟩] }
      else s

/-! ### Candidates (R422, R423, R436) -/

/-- R422: a DEP word, read as LDACQ reads it. -/
def State.depWord (s : State) (r : List Byte) (a : Nat) : Nat :=
  match s.rootBytes (recRoot r) a 8 with | some bs => leNat bs | none => 0

/-- R422: every DEP word shows done. -/
def State.depsDone (s : State) (r : List Byte) : Bool := (recDeps r).all fun a => s.depWord r a / 2 ^ 18 % 2 == 1

/-- R436: the first DEP address that reads done with verdict tainted or refused. -/
def State.depBad (s : State) (r : List Byte) : Option Nat :=
  (recDeps r).find? fun a => s.depWord r a / 2 ^ 18 % 2 == 1 && decide (2 ≤ s.depWord r a / 2 ^ 16 % 4)

/-- R423, R430: the launches of the queue that stand before a record allow it. -/
def State.orderAllows (s : State) (die : Bool) (n : BitVec 6) (c : QueuedRecord) : Bool :=
  c.tailPrio.isSome
    || s.launches.all fun l => l.die != die || l.queue != n
        || (recOverlap c.record && (l.phase == .running || (l.phase == .retired && (l.tail.isNone || l.tailStarted))))

/-- R422: a candidate: a record of a queue, or a gang that stands pre-empted. -/
inductive What where
  | record (c : QueuedRecord)
  | gang (lid : BitVec 16) (k0 slot : Nat)
  deriving DecidableEq, Repr

structure Candidate where
  die : Bool
  n : BitVec 6
  prio : BitVec 3
  slack : Nat
  what : What
  deriving DecidableEq, Repr

/-- R422: effective slack. -/
def State.effSlack (s : State) (slack since : Nat) : Nat := slack - (s.cycle - since) / 16

/-- R424: the order of candidates: priority, resumed gangs first, effective slack, queue number after the last placed. -/
def Candidate.rank (c : Candidate) (lastQ : BitVec 6) : Nat :=
  ((7 - c.prio.toNat) * 2 + (match c.what with | .gang .. => 0 | .record _ => 1)) * 2 ^ 16 + c.slack * 64
    + (c.n.toNat + 63 - lastQ.toNat) % 64

def Candidate.insert (c : Candidate) (lastQ : BitVec 6) : List Candidate → List Candidate
  | [] => [c]
  | d :: t => if c.rank lastQ ≤ d.rank lastQ then c :: d :: t else d :: c.insert lastQ t

/-- The priority of a queue's offered record. -/
def State.candPrio (s : State) (die : Bool) (n : BitVec 6) (c : QueuedRecord) : BitVec 3 :=
  c.tailPrio.getD (BitVec.ofNat 3 (s.qcb (s.queuePa die n.toNat)).prio)

/-- R421: why an offered record is refused, 0 when it is not. -/
def State.candRefusal (s : State) (die : Bool) (n : BitVec 6) (c : QueuedRecord) : Nat :=
  s.refusal die (s.candPrio die n c).toNat c.record (s.readImage c.record)

/-- The eligible record of a queue; a record to be refused is eligible at once. -/
def State.recordCandidate (s : State) (die : Bool) (n : BitVec 6) : Option Candidate :=
  let q := s.lq die n
  match q.deciding, q.candidate with
  | none, some c =>
    if !c.stopped && !c.waiting
      && (s.candRefusal die n c != 0 || (s.depsDone c.record && s.orderAllows die n c)) then
      some ⟨die, n, s.candPrio die n c, s.effSlack (recSlack c.record) c.since, .record c⟩
    else none
  | _, _ => none

/-- The saved gangs that may resume. -/
def State.gangCandidates (s : State) (die : Bool) : List Candidate :=
  (s.launches.filter fun l => l.die == die && l.phase == .running && !l.stopped).flatMap fun l =>
    l.gangs.filterMap fun g => g.saved.map fun slot => ⟨die, l.queue, l.prio, s.effSlack (recSlack l.record) l.since, .gang l.lid g.k0 slot⟩

/-- The queues of a die, in number order. -/
def queueNumbers : List (BitVec 6) := (List.range 64).map (BitVec.ofNat 6)

/-- R424: the candidates of a die in the order of a decision. -/
def State.candidates (s : State) (die : Bool) : List Candidate :=
  (s.gangCandidates die ++ queueNumbers.filterMap (s.recordCandidate die)).foldr
    (fun c l => c.insert (s.ctl die).lastQ l) []

/-! ### The decision (R421, R424, R436) -/

/-- R436: a record whose DEP word reads tainted or refused is held: its LID is given, its status word shows it held, and a
class-4 record is sent. -/
def State.holdRecord (s : State) (die : Bool) (n : BitVec 6) : State :=
  let q := s.lq die n
  match q.candidate with
  | none => s
  | some c =>
    if c.waiting || c.freed || q.deciding.isSome || s.candRefusal die n c != 0 then s
    else match s.depBad c.record with
      | none => s
      | some a =>
        let (lid, s) := match c.lid with | some l => (l, s) | none => s.takeLid die
        let s := s.updLq die n (·.updCandidate fun c => { c with waiting := true, lid := some lid })
        let s := s.putStatus c.record (lid.toNat + 2 ^ 20)
        s.sendLaunch (BitVec.ofNat 64 (recEvq c.record)) (recRoot c.record) (s.recordSlack c.record) 4 lid.toNat 0 die (leBytes 8 a)

/-- A launch of a record, not yet dequeued or started. -/
def State.newLaunch (s : State) (c : Candidate) (r : QueuedRecord) (image : List Byte) (gangs : List Gang) (cause : Nat) : Launch :=
  { die := c.die, lid := r.lid.getD 0#16, queue := c.n, prio := c.prio
    meter := BitVec.ofNat 8 (s.qcb (s.queuePa c.die c.n.toNat)).meter, record := r.record, image := image, gangs := gangs
    phase := if cause = 0 then .starting else .retired, children := 0, childrenDone := 0, childWorst := 0#2, tail := none
    tailStarted := false, tailDone := false, verdict := if cause = 0 then 0#2 else 3#2
    cause := if cause = 0 then (if r.freed then 0x43#8 else 0#8) else BitVec.ofNat 8 cause
    started := none, picojoule := 0, preempts := 0, stopped := false, overrun := false, digestFull := false, digest := 0#64
    drn := imgDrn image, since := r.since }

/-- A chosen record: a held one is a launch at once, the head waits for its DEQ. -/
def State.chooseRecord (s : State) (c : Candidate) (r : QueuedRecord) (l : Launch) : State :=
  let fromHead := (s.lq c.die c.n).held.isEmpty
  if fromHead then s.updLq c.die c.n fun q => { q with deciding := some l }
  else
    let (lid, s) := match r.lid with | some l => (l, s) | none => s.takeLid c.die
    let s := if r.tailPrio.isSome then
        (match recParent r.record with | some k => s.updLaunch k fun p => { p with tailStarted := true } | none => s) else s
    { s.updLq c.die c.n (fun q => { q with held := q.held.drop 1 }) with launches := s.launches ++ [{ l with lid := lid }] }

/-- R424: the resources reserved for other candidates. -/
def State.reservedFor (s : State) (c : Candidate) : List Nat :=
  ((s.ctl c.die).reserved.filter fun p => match c.what with | .gang .. => true | .record _ => p.2 != c.n).map (·.1)

/-- R424: resources reserved for another candidate of a lesser priority: a candidate that may pre-empt for them reserves them in its
place. -/
def State.outranked (s : State) (c : Candidate) : List Nat :=
  ((s.ctl c.die).reserved.filter fun p => p.2 != c.n && match (s.lq c.die p.2).candidate with
    | some r => decide ((s.candPrio c.die p.2 r).toNat < c.prio.toNat)
    | none => true).map (·.1)

/-- R424: one candidate considered: placed when every resource is free and not reserved; where every occupied one is held by gangs of
lesser priority, they are reserved, but for those of a candidate that does not yield them, and the gangs are pre-empted. -/
def State.consider (s : State) (c : Candidate) : State :=
  match c.what with
  | .gang lid k0 slot =>
    (match s.launches.find? fun l => l.die == c.die && l.lid == lid with
    | none => s
    | some l =>
      match l.gangs.find? (·.k0 == k0) with
      | none => s
      | some g =>
        match s.resumeCores c.die (s.reservedFor c) g with
        | none => s
        | some cs => s.resumeGang l g slot cs)
  | .record r =>
    let image := (s.readImage r.record).getD []
    let cause := s.candRefusal c.die c.n r
    if cause ≠ 0 then s.chooseRecord c r (s.newLaunch c r image [] cause)
    else
      let gs := gangsOf 0 (imgDescs image)
      let rs := gs.flatMap (·.resources)
      let hs := s.holders rs
      if hs.isEmpty && !rs.any (s.reservedFor c).contains then
        let s := s.updCtl c.die fun k => { k with lastQ := c.n, reserved := k.reserved.filter fun p => p.2 != c.n }
        s.chooseRecord c r (s.newLaunch c r image gs 0)
      else if hs.all (fun p => decide (p.1.prio.toNat < c.prio.toNat) && p.1.phase == .running)
        && decide (s.slotsTaken + (hs.filter fun p => !s.draining p.2 && !p.2.cores.all (s.ended p.2)).length ≤ s.slots) then
        let weak := s.outranked c
        let mine := rs.filter fun x => weak.contains x || !(s.reservedFor c).contains x
        let s := s.updCtl c.die fun k =>
          { k with reserved := (k.reserved.filter fun p => p.2 != c.n && !mine.contains p.1) ++ mine.map fun x => (x, c.n) }
        hs.foldl (fun s p => s.askPreempt p.1 p.2) s
      else s

/-- R424: the candidates of priority 7 - i considered, in the order that the queue last placed gives now. -/
def State.considerAt (die : Bool) (cs : List Candidate) (s : State) (i : Nat) : State :=
  ((cs.filter fun c => c.prio.toNat == 7 - i).foldr (fun c l => c.insert (s.ctl die).lastQ l) []).foldl State.consider s

/-- PLACEMENT_DECISION (R421 to R424, R429, R436). -/
def execPlacementDecision (die : Bool) (s : State) : Out :=
  if !(s.ctl die).places then .next s
  else
    let s := queueNumbers.foldl (fun s n => (s.seeHead die n).holdRecord die n) s
    let cs := s.candidates die
    let s := s.updCtl die fun k => { k with
      reserved := k.reserved.filter fun p => cs.any fun c => c.n == p.2 && match c.what with | .record _ => true | .gang .. => false }
    .next ((List.range 8).foldl (State.considerAt die cs) s)

/-! ### The DEQ (R418) -/

/-- R418: the head of a launch queue dequeued, if it is there. -/
def State.dequeueRecord (s : State) (die : Bool) (n : BitVec 6) : State × Option (List Byte) :=
  let pa := s.queuePa die n.toNat
  let r : QReq := ⟨0, .controller die, .deqn, BitVec.ofNat 64 (pa + 4), pa, s.devGet 0x122, true, [], .record false, 0, 0#48, 0, 0, s.cycle⟩
  match (s.purge pa).acceptQueue r with
  | (s, .elem bs _) => (s.wakeAfter pa false 4, some bs)
  | (s, _) => (s, none)

/-- R372, R389, R391: a request that waits at the slice of a launch queue goes before the DEQ of the controller, whose slack is
that of the launch. -/
def State.deqWaits (s : State) (die : Bool) (n : BitVec 6) (sl : Nat) : Bool :=
  s.contenders.any fun x => s.point x.2 == s.sliceAt (s.queuePa die n.toNat) && keyLess x.1 ((s.tag sl).key s.cycle (Agent.controller die).port)

/-- LAUNCH_RECORD_DEQUEUED (R372, R418, R421): a DEQ performs, once no request at its slice goes before it, and returns. Another record than the one decided for is held; nothing dequeued
places nothing. -/
def execLaunchRecordDequeued (die : Bool) (s : State) : Out :=
  match s.launchQueues.findSome? fun q => if q.die == die then q.deciding.map fun l => (q.n, l) else none with
  | none => .next s
  | some (n, l) =>
    let lid? := (s.lq die n).head.bind (·.2.lid)
    if (s.ctl die).stopped || s.deqWaits die n (imageSlack l.image) then .next s
    else
    let s := s.updLq die n fun q => { q with deciding := none, head := none }
    match s.dequeueRecord die n with
    | (s, none) => .next s
    | (s, some r) =>
      if r = l.record then
        let (lid, s) := match lid? with | some k => (k, s) | none => s.takeLid die
        .next { s with launches := s.launches ++ [{ l with lid := lid }] }
      else
        let (lid, s) := s.takeLid die
        .next (s.updLq die n fun q => { q with held := q.held ++ [s.queued r (some lid) none] })

/-! ### The start (R88, R89) -/

/-- R19: the first tile of logical core k of p. -/
def firstTile (tiles p k : Nat) : Nat := k * tiles / p

/-- R88, R102, R196, R308, R309, R326, R337, R359, R446: a core as the launch leaves it, core `k` of a gang of a launch of `p` cores;
`keep` when KEEP takes effect (R89). -/
def CoreState.launched (c : CoreState) (l : Launch) (g : Gang) (k p : Nat) (keep : Bool) : CoreState :=
  let c := if (c.crGet 0x049).getLsbD 2 then c.wakeM else c
  let im := l.image
  let r := l.record
  let f := CoreState.reset c.id
  let lk := g.k0 + k
  let t0 := firstTile (imgTiles im) p lk
  let word (o : Nat) : Word64 := BitVec.ofNat 64 (numAt im o 8)
  let view (n : Nat) : Word64 := if imgView im n = 0#64 then Cr.reset (0x010 + n) else imgView im n
  let seed := Cup.seed 0#64 lk
  let kept := if keep then [(0x01B, setBits 0#64 0 1 (bitsOf c.mstat 0 1)), (0x01C, c.crGet 0x01C), (0x01D, c.crGet 0x01D), (0x01F, c.crGet 0x01F)] else []
  let act := if keep ∧ k = 0 then bitsOf (c.crGet 0x00E) 16 1 else 0
  let base := { f with s := if keep then c.s else [] }
  let base := (base.setS 1#6 (recArg r 0)).setS 2#6 (recArg r 1)
  let base := base.crPuts ([(0x000, BitVec.ofNat 64 ((if recSup r then 1 else 0) + if keep then 4 else 0)), (0x001, c.crGet 0x001),
    (0x04A, c.crGet 0x04A), (0x0C5, c.crGet 0x0C5), (0x018, recRoot r), (0x01A, BitVec.ofNat 64 (g.pbase + g.psize * 64)),
    (0x00E, BitVec.ofNat 64 (g.banks.toNat + act * 2 ^ 16)), (0x00F, if k = 0 then g.frlq else 0#64), (0x046, word 0x08),
    (0x050, BitVec.ofNat 64 t0), (0x051, BitVec.ofNat 64 (firstTile (imgTiles im) p (lk + 1) - t0)), (0x052, word 0x10),
    (0x053, word 0x18), (0x00D, word 0x78),
    (0x0C0, BitVec.ofNat 64 (l.lid.toNat + l.queue.toNat * 2 ^ 16 + if l.die then 2 ^ 22 else 0)),
    (0x0C1, BitVec.ofNat 64 (recTenant r)), (0x0C2, BitVec.ofNat 64 (recEvq r))]
    ++ ((List.range 7).map fun i => (0x011 + i, view (i + 1))) ++ kept)
  { base with
    mode := .running, pc := BitVec.ofNat 48 (recEntry r), cur := .none
    x := tableOf 0#32 16 fun i => numAt im (0x380 + 4 * i) 4
    g := tableOf 0#32 8 fun i => if i = 0 then 0 else numAt im (0x3C0 + 4 * i) 4
    shapes := tableOf Shape.reset 24 fun i => numAt im (0x80 + 128 * (i / 4) + 16 * (i % 4)) 16
    shadows := tableOf Shape.reset 24 fun i => numAt im (0xC0 + 128 * (i / 4) + 16 * (i % 4)) 16
    slack := tableOf 0#10 16 fun i => numAt im (0x20 + 2 * i) 2
    gen := seed.next, drawn := seed, cupQ := [seed.next.d]
    mbuf0 := if keep then c.mbuf0 else .empty, mbuf1 := if keep then c.mbuf1 else .empty
    carries := if keep then c.carries else []
    bank0 := if keep ∧ k = 0 then c.bank0 else .empty, bank1 := if keep ∧ k = 0 then c.bank1 else .empty
    gang := ⟨g.cores.headD 0#7, g.cores.length, g.fuse, lk, recTenant r + 1⟩, nextSeq := c.nextSeq }

/-- R26, R88: a launch begins on its cores. Whether its kernel was assembled with `keep` stands in no record: a free
choice (log entry 3). -/
def State.startLaunch (s : State) (l : Launch) : State :=
  let cores := l.gangs.flatMap (·.cores)
  let keep := recKeep l.record && Config.freeBool s.tick && cores.all fun k => (s.coreAt k).gang.tenant == recTenant l.record + 1
  let s := s.ticked
  let s := l.gangs.foldl (fun s g => (List.range g.cores.length).foldl (fun s k =>
    let id := g.cores[k]?.getD 0#7
    let s := if keep then s else s.zeroBytes (Loc.store id.toNat 0) (2 ^ 20)
    let s := s.updCore id fun c => c.launched l g k cores.length keep
    s.asCore id State.l1Clear) (if keep then s else s.zeroBytes g.partAt (65536 * g.psize))) s
  let s := s.updLaunch l.key fun m =>
    { m with phase := .running, gangs := m.gangs.map fun g => { g with billed := s.cycle } }
  s.putStatus l.record (l.lid.toNat + 2 ^ 19)

/-- LAUNCH_START (R17, R19, R88, R89, R435, R459): the first placed launch of a controller that has not stopped starts. -/
def execLaunchStart (s : State) : Out :=
  match s.launches.find? fun l => l.phase == .starting && !(s.ctl l.die).stopped with
  | none => .next s
  | some l => .next (s.startLaunch l)

end Sys2Proof.Machine
end

