-- ==== Sys2Proof/Machine/Stream.lean ====
section
/-! DEFINITION. Launches from the device and their end (R387, R430 to R446): LAUNCH, CHWAIT, PREEMPT, RESUME, EMRD, DIGEST,
SLEEP; retirement, digests, the completion record; meters; sleep. -/

namespace Sys2Proof.Machine

/-! ### Digests (R437 to R439) -/

/-- R437: the hash of line `line`, whose bytes are given. -/
def lineHash (line : Nat) (bs : List Byte) : Nat :=
  (List.range 32).foldl (fun x i =>
    let y := (x ^^^ numAt bs (8 * i) 8) * 0xBF58476D1CE4E5B9 % 2 ^ 64
    y ^^^ (y / 2 ^ 29)) (line * 0x9E3779B97F4A7C15 % 2 ^ 64)

/-- R438: the addresses of every entry of the digest area. -/
def State.digestEntries (s : State) : List Nat :=
  (List.range 64).flatMap fun p => let (base, n) := s.digestPart p; (List.range n).map fun i => base + 8 * i

/-- R438: the sum over a launch's entries, which are freed. -/
def State.collectDigest (s : State) (key : Nat) : State × Nat :=
  s.digestEntries.foldl (fun (t : State × Nat) a =>
    let e := t.1.num a 8
    let line := e % 2 ^ 38
    if e / 2 ^ 55 % 2 = 1 ∧ e % 2 ^ 55 = digestTag line key then
      (t.1.performWrite none a (leBytes 8 (e - 2 ^ 55 + (if e / 2 ^ 56 % 2 = 1 then 0 else 2 ^ 56))),
        (t.2 + lineHash line (t.1.bytes (256 * line) 256)) % 2 ^ 64)
    else t) (s, 0)

/-- R439: the lines of a DIGEST, each checked in turn. -/
def State.digestPlaces (s : State) (a : Word64) (i : Nat) : Nat → Except (Nat × Word64 × AccFault) (List (Word64 × Place))
  | 0 => .ok []
  | n + 1 =>
    let va := a + BitVec.ofNat 64 (256 * i)
    if va.toNat / 2 ^ 60 ≠ 0 then .error (i, va, ⟨0x0B#8, 0#64⟩)
    else match s.place va 256 256 .rd with
      | .error f => .error (i, va, f)
      | .ok p =>
        match s.digestPlaces a (i + 1) n with
        | .error e => .error e
        | .ok ps => .ok ((va, p) :: ps)

/-- R439: the sum over lines read at their home slices. -/
def State.digestRead (s : State) (ps : List (Word64 × Place)) (acc : Nat) (k : State → Nat → Out) : Out :=
  match ps with
  | [] => k s acc
  | (a, p) :: t => s.directRead a p.loc 256 fun s bs => s.digestRead t ((acc + lineHash (p.loc / 256) bs) % 2 ^ 64) k

/-- DIGEST (R439). -/
def execDigest (o : OpSQ) (s : State) : Out :=
  s.whenOn o.g <|
    let a := s.core.sVal o.p
    let n := (s.core.sVal o.q).toNat
    if n = 0 ∨ 65536 < n then s.trap0B
    else match s.digestPlaces a 0 n with
      | .error (i, va, f) => s.accTrap f .rd i va 0#64
      | .ok ps =>
        let s := ps.foldl (fun s p => s.notePage p.2) s
        s.digestRead ps 0 fun s v => .next (s.putS o.q (BitVec.ofNat 64 v))

/-! ### LAUNCH and CHWAIT (R432, R433) -/

/-- R432: the 8-byte pieces of a record. -/
def State.recordPieces (s : State) (a : Word64) : Nat → Except (Word64 × AccFault) (List (Word64 × Place))
  | 0 => .ok []
  | n + 1 =>
    match s.place a 8 8 .rd with
    | .error f => .error (a, f)
    | .ok p => (match s.recordPieces (a + 8#64) n with | .error e => .error e | .ok ps => .ok ((a, p) :: ps))

/-- R432: PLID, PDIE and PV written into a record. -/
def CoreState.withParent (c : CoreState) (r : List Byte) : List Byte :=
  splice r 88 (leBytes 8 (recWord r 11 / 2 ^ 18 * 2 ^ 18 + 2 ^ 17 + c.launchKey))

/-- R417: a block is a launch queue of either die. -/
def State.isLaunchQueue (s : State) (pa : Nat) : Bool :=
  [false, true].any fun die => (List.range 64).any fun n => pa == s.queuePa die n

/-- LAUNCH, its record read. -/
def State.launchWith (s : State) (h : Word64) (r : List Byte) : Out :=
  let c := s.core
  let bad := s.accTrap ⟨0x0B#8, 0#64⟩ .wr 0 h 0#64
  if !c.sup && (recSup r || recRoot r != c.crGet 0x018 || recTenant r != bitsOf (c.crGet 0x0C1) 0 16) then
    s.trap 0x05#8 s.slotInfo 0#64 0#64 0#64
  else if recTail r then
    if h ≠ 0#64 ∨ (s.launchOf c).any (·.tail.isSome) = true then bad
    else if !s.releaseReady c.id c.cur.seq 3 then s.holdUnchecked
    else .next (s.updLaunch c.launchKey fun l => { l with tail := some (c.withParent r), children := l.children + 1 })
  else if bitsOf h 0 6 ≠ 4 ∨ 2 ^ 48 ≤ h.toNat then bad
  else match s.checkHandle h .wr with
    | .error f => s.accTrap f .wr 0 h 0#64
    | .ok b =>
      if !s.isLaunchQueue b.loc then bad
      else if !s.releaseReady c.id c.cur.seq 3 then s.holdUnchecked
      else (s.notePage b).sendWhenFree .enq h b.loc (c.withParent r) (.launchRec c.cur.seq)

/-- LAUNCH (R432). -/
def execLaunch (o : OpSQ) (s : State) : Out :=
  s.whenOn o.g <|
    if s.queueOut then s.upd (fun c => { c with held := true }) |> .next
    else match s.recordPieces (s.core.sVal o.q) 16 with
      | .error e => s.accTrap e.2 .rd 0 e.1 0#64
      | .ok ps =>
        unchecked ((ps.foldl (fun s p => s.notePage p.2) s).gather ps [] fun s r => s.launchWith (s.core.sVal o.p) r)

/-- CHWAIT (R433). -/
def execChwait (o : OpS1) (s : State) : Out :=
  s.whenOn o.g <|
    match s.launchOf s.core with
    | none => .next (s.l1Clear.putS o.p 0#64)
    | some l =>
      if l.children % 2 ^ 32 ≠ 0 then s.hold
      else .next (s.l1Clear.putS o.p (BitVec.ofNat 64 (l.childrenDone % 2 ^ 32 + l.childWorst.toNat * 2 ^ 32)))

/-! ### Retirement and completion (R387, R430, R433 to R435) -/

/-- R430: every core of the launch has ended and every non-tail child is complete. -/
def State.mayRetire (s : State) (l : Launch) : Bool :=
  l.phase == .running && l.gangs.all (fun g => g.cores.all (s.ended g))
    && l.children == (if l.tail.isSome && !l.tailDone then 1 else 0)

/-- R430, R435: a launch retires: its resources and slots are free, a tainted core taints it, its tail child becomes the
head of its queue. -/
def State.retireLaunch (s : State) (l : Launch) : State :=
  let s := l.gangs.foldl (fun s g => s.noteTaint l g) s.flush
  (s.tailToHead l.key).updLaunch l.key fun l => { l with
    phase := .retired, gangs := l.gangs.map fun g => { g with placed := false, saved := none, halted := g.cores } }

/-- R434: the 64 bytes of a completion record. -/
def Launch.completion (l : Launch) (time : Word64) : List Byte :=
  leBytes 8 (l.lid.toNat + l.queue.toNat * 2 ^ 16 + (if l.die then 2 ^ 22 else 0) + l.verdict.toNat * 2 ^ 23
      + (if l.tail.isSome then 2 ^ 25 else 0) + (if l.digestFull then 2 ^ 26 else 0) + (if l.overrun then 2 ^ 27 else 0)
      + l.childrenDone % 2 ^ 32 * 2 ^ 32)
    ++ word time ++ word (l.started.getD 0#64) ++ leBytes 8 (l.picojoule / 1000) ++ word l.digest
    ++ leBytes 8 (l.preempts % 2 ^ 32 + recTag l.record * 2 ^ 32) ++ leBytes 8 l.cause.toNat ++ leBytes 8 0

/-- R433: a child's completion counted for its parent, if that stands. -/
def State.countChild (s : State) (l : Launch) : State :=
  match recParent l.record with
  | none => s
  | some k =>
    let s := s.updLaunch k fun p => { p with
      children := p.children - 1, childrenDone := p.childrenDone + 1
      childWorst := if p.childWorst.toNat < l.verdict.toNat then l.verdict else p.childWorst
      tailDone := p.tailDone || recTail l.record }
    if 2 ≤ l.verdict.toNat then s.taintLaunch k 0x41#8 else s

/-- R434: the completion record on its way to CQ, as ENQ enqueues. -/
def State.sendCompletion (s : State) (l : Launch) : State :=
  let h := BitVec.ofNat 64 (recCq l.record)
  if h = 0#64 then s
  else if bitsOf h 0 4 ≠ 3 then s.lostRecord
  else
    let (u, s) := s.fresh
    let q : QReq := ⟨u, .controller l.die, .enq, h, 0, recRoot l.record, true, l.completion s.time, .record false,
      imageSlack l.image, 0#48, 0, 0, s.cycle⟩
    { s with reqs := s.reqs ++ [⟨u, .controller l.die, 0#48, 0, 0, .queue q, [], false, s.tag (imageSlack l.image)⟩] }

/-- R434: a retired launch whose tail child is complete, in the order given there. -/
def State.complete (s : State) (l : Launch) : State :=
  let s := s.flush
  let l := (s.launches.find? fun m => m.key == l.key).getD l
  let (s, digest) := if l.dg && l.verdict != 3#2 then s.collectDigest l.key else (s, 0)
  let l := { l with digest := BitVec.ofNat 64 digest }
  let s := s.countChild l
  let s := { s with launches := s.launches.filter fun m => m.key != l.key }
  let s := s.putStatus l.record (l.lid.toNat + l.verdict.toNat * 2 ^ 16 + 2 ^ 18 + (if l.gangs.isEmpty then 0 else 2 ^ 19))
  s.sendCompletion l

/-- LAUNCH_COMPLETE (R387, R430, R434): a launch whose cores have ended retires, once its open windows are closed; a
retired one whose tail child is complete becomes complete. -/
def execLaunchComplete (die : Bool) (lid : BitVec 16) (s : State) : Out :=
  let find (s : State) : Option Launch := s.launches.find? fun l => l.die == die && l.lid == lid
  match find s with
  | none => .next s
  | some l =>
    if (s.ctl die).stopped || (l.phase != .retired && !s.mayRetire l) then .next s
    else if s.windows.any (·.launch == l.key) then
      .next { s with windows := s.windows.map fun w => if w.launch = l.key then { w with closing := true, waits := none } else w }
    else
      let s := if l.phase == .retired then s else s.retireLaunch l
      match find s with
      | none => .next s
      | some l => if l.tail.isSome && !l.tailDone then .next s else .next (s.complete l)

/-! ### Meters (R440 to R442) -/

/-- METER_UPDATE (R441). -/
def execMeterUpdate (s : State) : Out := .next s.flush

/-- R442: a meter after a read; a read that clears leaves it zero. -/
def State.meterRead (s : State) (v : Nat) : State :=
  if v / 128 = 1 then { s with meters := Cells.put 0#64 s.meters (v % 128) 0#64, charged := Cells.put 0#96 s.charged (v % 128) 0#96 } else s

/-- EMRD (R442). -/
def execEmrd (o : OpSQ) (s : State) : Out :=
  s.whenOn o.g <|
    let v := (s.core.sVal o.p).toNat
    let m := v % 128
    let own := (s.launchOf s.core).any fun l => l.meter.toNat == m
    if v / 256 ≠ 0 then s.trap0B
    else if !s.core.sup && (v / 128 == 1 || !own) then s.trap 0x05#8 s.slotInfo 0#64 0#64 0#64
    else
      .next ((s.meterRead v).putS o.q (Cells.get 0#64 s.meters m))

/-! ### PREEMPT and RESUME (R444) -/

/-- The launch that a selector names. -/
def State.selLaunch (s : State) (v : Nat) : Option Launch := s.launches.find? fun l => l.key == v % 2 ^ 17

/-- The queue whose offered record a selector names. -/
def State.selQueue (s : State) (v : Nat) : Option (LaunchQueue × QueuedRecord) :=
  s.launchQueues.findSome? fun q => q.candidate.bind fun c =>
    if q.deciding.isNone ∧ q.die = (v / 2 ^ 16 % 2 == 1) ∧ c.lid = some (BitVec.ofNat 16 v) then some (q, c) else none

/-- R436, R444: an unplaced record ends: it is dequeued, and will complete as tainted with cause 0x42. -/
def State.cancelRecord (s : State) (q : LaunchQueue) (r : QueuedRecord) : State × Bool :=
  let lid := r.lid.getD 0#16
  let l := { s.newLaunch ⟨q.die, q.n, s.candPrio q.die q.n r, 0, .record r⟩ r [] [] 1 with verdict := 2#2, cause := 0x42#8, lid := lid }
  let add (s : State) : State := { s with launches := s.launches ++ [l] }
  match q.held with
  | _ :: t => (add (s.updLq q.die q.n fun q => { q with held := t }), true)
  | [] =>
    match (s.updLq q.die q.n fun q => { q with head := none }).dequeueRecord q.die q.n with
    | (s, none) => (s, false)
    | (s, some b) =>
      if b = r.record then (add s, true)
      else
        let (k, s) := s.takeLid q.die
        (s.updLq q.die q.n fun q => { q with held := q.held ++ [s.queued b (some k) none] }, false)

/-- A result of PREEMPT or RESUME. -/
def State.result (s : State) (q : BitVec 6) (v : Nat) : Out := .next (s.putS q (BitVec.ofNat 64 v))

/-- The S entry has begun and waits. -/
def State.begun (s : State) : State := s.upd fun c => c.updBundle c.cur.seq fun b =>
  { b with entries := b.entries.map fun e => if e.slot = c.cur.slot then { e with rep := 0 } else e }

/-- The gangs of a launch that still hold their cores and run. -/
def State.runningGangs (s : State) (l : Launch) : List Gang := l.gangs.filter fun g => g.placed && !g.cores.all (s.ended g)

/-- What a launch instruction with a selector comes to: an invalid selector, a wait that changed nothing yet, a wait for the saves it
has asked for, or its end with the value of s[q]. -/
inductive Selected where
  | bad
  | wait
  | begun (s : State)
  | done (s : State) (v : Nat)

/-- R444: PREEMPT of a selector; `begun` once it has asked. -/
def State.preempt (s : State) (begun : Bool) (v : Nat) : Selected :=
  if v / 2 ^ 18 ≠ 0 then .bad
  else if begun then
    (match s.selLaunch v with
    | some l => if (s.runningGangs l).isEmpty then .done s 0 else .wait
    | none => .done s 0)
  else match s.selLaunch v with
    | some l =>
      if v / 2 ^ 17 = 1 then (if l.phase = .retired then .done s 2 else .done (s.endLaunch l.key 0x42#8) 0)
      else if l.stopped || l.phase == .retired then .done s 2
      else if l.phase = .starting ∨ s.slots < s.slotsTaken + ((s.runningGangs l).filter fun g => !s.draining g).length then .wait
      else
        let t := l.gangs.foldl (fun s g => if g.placed then s.askPreempt l g else s) s
        let t := t.updLaunch l.key fun l => { l with stopped := true }
        if (s.runningGangs l).isEmpty then .done t 0 else .begun t
    | none =>
      match s.selQueue v with
      | none => .done s 1
      | some (q, r) =>
        if v / 2 ^ 17 = 1 then (let c := s.cancelRecord q r; .done c.1 (if c.2 then 0 else 1))
        else if r.stopped then .done s 2
        else .done (s.updLq q.die q.n (·.updCandidate fun r => { r with stopped := true })) 0

/-- R436, R444: RESUME of a selector. -/
def State.resume (s : State) (v : Nat) : Selected :=
  if v / 2 ^ 17 ≠ 0 then .bad
  else match s.selLaunch v with
    | some l => if l.stopped then .done (s.updLaunch l.key fun l => { l with stopped := false }) 0 else .done s 2
    | none =>
      match s.selQueue v with
      | none => .done s 1
      | some (q, r) =>
        let set (f : QueuedRecord → QueuedRecord) : Selected := .done (s.updLq q.die q.n (·.updCandidate f)) 0
        if r.stopped then set fun r => { r with stopped := false }
        else if r.waiting then set fun r => { r with waiting := false, freed := true }
        else .done s 2

/-- The same at the S entry of a core. -/
def State.selected (s : State) (q : BitVec 6) (r : Selected) : Out :=
  match r with
  | .bad => s.trap0B
  | .wait => s.hold
  | .begun t => t.begun.hold
  | .done t v => t.result q v

/-- PREEMPT (R444). Its entry stays until every save has performed. -/
def execPreempt (o : OpSQ) (s : State) : Out :=
  s.whenOn o.g (s.selected o.q (s.preempt (s.core.cur.rep == 0) (s.core.sVal o.p).toNat))

/-- RESUME (R436, R444). -/
def execResume (o : OpSQ) (s : State) : Out := s.whenOn o.g (s.selected o.q (s.resume (s.core.sVal o.p).toNat))

/-! ### Sleep (R445, R457, R458) -/

/-- R445: a controller is asked to sleep; none for an invalid selector. -/
def State.askSleep (s : State) (die : Bool) (v : Nat) : Option State :=
  if v % 4 = 3 ∨ v / 4 % 64 ≠ 0 ∨ v / 2 ^ 11 ≠ 0 then none
  else some (s.updCtl die fun c =>
    { c with asked := some (BitVec.ofNat 2 v, BitVec.ofNat 3 (v / 256)), wakePrio := BitVec.ofNat 3 (v / 256) })

/-- R445: the only unissued S entry of a core is parked on a queue. -/
def State.onlyParked (s : State) (id : BitVec 7) : Bool :=
  ((s.coreAt id).bundles.flatMap fun b => b.entries.filter (·.slot == 1)).length == 1 && s.waiters.any (·.agent == .core id)

/-- Every byte of a range becomes a free byte, without an error. -/
def State.freeBytes (s : State) (lo n : Nat) : State :=
  { s with
    mem := (List.range n).foldl (fun m i => Cells.put 0#8 m (lo + i) (Config.freeByte s.tick (lo + i))) s.mem
    poison := Cells.clear s.poison lo n }

/-- R457: what retention loses: the bytes of the die's stores and scratchpads, all of which become free bytes (log entry 35), L1, and
what its slices hold, the lines, whose masked bytes go back before (R136, R440), and the updates in their Racks; its links go
down. -/
def State.powerDown (s : State) (die : Bool) : State :=
  let half : Nat := if die then 1 else 0
  let mine (line : Nat) : Bool := homeSlice (line * 256) / 32 == half
  let s := (s.lines.filter fun l => mine l.line).foldl (fun s l => s.chargeBack l.line) s
  let s := (s.freeBytes (Loc.spad (16 * half) 0) (16 * 2 ^ 22)).freeBytes (Loc.store (64 * half) 0) (64 * 2 ^ 20)
  let s : State := { s with
    heldUpds := s.heldUpds.filter fun u => !(u.slice.toNat / 32 == half && u.spot.isNone)
    l1 := s.l1.filter fun e => dieOf e.owner != die
    lines := s.lines.filter fun l => !mine l.line
    decoded := s.decoded.filter fun d => !mine d.line
    reserved := s.reserved.filter fun p => !p.delivers fun d => mine d.line
    links := s.links.map fun l => if l.n.getLsbD 7 == die then { l with up := 0#2, lost := [], acked := l.sent } else l
    tick := s.tick + 1 }
  (s.links.filter fun l => !l.inward && l.n.getLsbD 7 == die).foldl (fun s l => s.unlink l.n) s

/-- SLEEP_STATE_ENTRY (R445): once every core of the die is free, or holds a gang that waits on a queue, those gangs are
pre-empted, and then the state is entered. -/
def execSleepStateEntry (die : Bool) (s : State) : Out :=
  match (s.ctl die).asked with
  | none => .next s
  | some (st, _) =>
    let gs := s.launches.flatMap fun l => if l.die = die then ((s.runningGangs l).map fun g => (l, g)) else []
    if (s.ctl die).stopped || s.launches.any (fun l => l.die == die && l.phase == .starting)
      || s.launchQueues.any (fun q => q.die == die && q.deciding.isSome) then .next s
    else if gs.isEmpty then
      (let t := s.updCtl die fun c => { c with asked := none, asleep := st.toNat + 1 }
      .next (if st = 0#2 then t else t.powerDown die))
    else if gs.all (fun p => s.draining p.2 || p.2.cores.all fun k => s.ended p.2 k || s.onlyParked k)
      && decide (s.slotsTaken + (gs.filter fun p => !s.draining p.2).length ≤ s.slots) then
      .next (gs.foldl (fun s p => s.askPreempt p.1 p.2) s)
    else .next s

/-- WAKE (R445, R457, R458): once any entry under way is complete, the controller places again, and the links of its die that
were in service train; its pre-empted gangs resume by its decisions. -/
def execWake (die : Bool) (s : State) : Out :=
  let c := s.ctl die
  if c.stopped || !c.waking || c.asked.isSome then .next s
  else
    let t := s.updCtl die fun c => { c with asleep := 0, waking := false }
    if c.asleep ≤ 1 then .next t
    else .next { t with links := t.links.map fun l =>
      if l.enabled && l.up == 0#2 && l.n.getLsbD 7 == die then { l with up := 1#2, replay := 0#32 } else l }

end Sys2Proof.Machine
end

