-- ==== Sys2Proof/Machine/Fabric.lean ====
section
/-! DEFINITION. The light fabric (R389 to R405): keys, the Pip of a channel and its bursts, arrival, acknowledgement,
resending, lost packets, and the reset notice. -/

namespace Sys2Proof.Machine

/-! ### The queue of a site (R391, R392, R396) -/

/-- The host slot that a request's answer goes to. -/
def Req.hostSlot (r : Req) : Option (BitVec 8) :=
  match r.kind with | .queue q => (match q.dest with | .hostSlot n => some n | _ => none) | _ => none

/-- R458: a host packet has left the attachment: memory does not refresh itself. A core's packet has left its outbound queue
(R400). -/
def State.atSite (s : State) (p : Packet) : Bool :=
  match p.agent with
  | .host => !(s.east.asleep == 3 && s.west.asleep == 3)
  | _ => !p.out

/-- What bids for a channel at a site (R391, R396): a packet with a request, a reply or another transit (`kind` 0, 1, 2), its agent,
key, flits and lines. -/
structure Bid where
  kind : Nat
  uid : Nat
  agent : Agent
  src : Nat
  key : List Nat
  flits : Nat
  lines : List Nat
  deriving DecidableEq, Repr

def Packet.flits (p : Packet) : Nat := match p.payload with | some r => r.flits | none => 1

def Packet.bid (now : Nat) (p : Packet) : Bid :=
  ⟨0, p.uid, p.agent, p.src, p.tag.key now p.src, p.flits, match p.payload with | some r => r.lines | none => []⟩

/-- R402: the flits of a reply. -/
def Reply.flits (r : Reply) : Nat :=
  flitsOf (match r.dest with
    | .queue _ (.elem bs _) => bs.length
    | .queue .. => 8
    | _ => (r.parts.map (·.data.length)).sum)

def Reply.bid (now : Nat) (r : Reply) : Bid := ⟨1, r.uid, .core r.core, r.site, r.tag.key now r.site, r.flits, partLines r.parts⟩

/-- R392: a miss's request to memory, and its fill, carry the least key of the requests merged into it. -/
def State.mergedKey (s : State) (line site : Nat) (k : List Nat) : List Nat :=
  (s.reqs.filter fun r => s.missing.contains r.uid && r.lines.contains line).foldl (fun k r =>
    let q := r.tag.key s.cycle site
    if keyLess q k then q else k) k

def State.transitBid (s : State) (t : Transit) : Bid :=
  let key := t.tag.key s.cycle t.src
  let none' : Bid := ⟨2, t.uid, .host, t.src, key, 1, []⟩
  match t.what with
  | .out u => (match s.remotes.find? (·.uid == u) with
    | some m => ⟨2, t.uid, m.req.agent, t.src, key, m.flits, m.req.lines⟩
    | none => none')
  | .back u data _ => (match s.remotes.find? (·.uid == u) with
    | some m => ⟨2, t.uid, m.req.agent, t.src, key, flitsOf data.length, m.req.lines⟩
    | none => none')
  | .peer u => (match s.peerOut.find? (·.uid == u) with
    | some a => ⟨2, t.uid, .peer a.inlink, t.src, key, flitsOf a.data.length, []⟩
    | none => none')
  | .ask line => ⟨2, t.uid, .gone 0#5, t.src, s.mergedKey line t.src key, 1, [line]⟩
  | .fill line => ⟨2, t.uid, .gone 0#5, t.src, s.mergedKey line t.src key, 5, [line]⟩

/-- R396: what waits at a site for a channel. -/
def State.bids (s : State) (ch site : Nat) : List Bid :=
  ((s.packets.filter fun p => p.chan == ch && p.src == site && !p.granted && s.atSite p).map (Packet.bid s.cycle))
    ++ ((s.replies.filter fun r => 64 + cluster r.core == ch && r.site == site && !r.granted).map (Reply.bid s.cycle))
    ++ (s.transits.filter fun t => t.chan == ch && t.src == site && !t.granted).map s.transitBid

/-- R392, R396: the queue of a site for a channel, in the order it is served. -/
def State.siteQueue (s : State) (ch site : Nat) : List (List Nat × Bid) :=
  granting (·.key) (fun p q => p.kind == q.kind && p.agent == q.agent && p.lines.any q.lines.contains) (s.bids ch site)

/-! ### The Pip (R397, R398) -/

/-- R397: flits per revolution. -/
def channelFlits (ch : Nat) : Nat := if ch < 64 then 24 else 48

/-- R398: the packets of a burst after the first: whole packets within the budget, none whose key is greater than the
least losing bid. -/
def burst (left : Nat) (lose : Option (List Nat)) : List (List Nat × Bid) → List Bid
  | [] => []
  | (k, p) :: t =>
    if left < p.flits ∨ (match lose with | some l => keyLess l k | none => false) = true then []
    else p :: burst (left - p.flits) lose t

/-- The least of some bids. -/
def leastBid : List (List Nat) → Option (List Nat)
  | [] => none
  | k :: t => match leastBid t with | some l => if keyLess l k then some l else some k | none => some k

/-- R390, R394, R440: a packet is granted its channel. -/
def State.grantPacket (s : State) (p : Packet) : State :=
  let t := p.tag.settle s.cycle
  let s : State := { s with packets := s.packets.map fun q => if q.uid = p.uid then { q with granted := true, tag := t } else q }
  let s := s.countOverdue p.agent p.tag t
  match p.payload with | some r => s.chargeFor r 11 p.flits | none => s

/-- The same of a reply, and with it its permit is back (R401). -/
def State.grantReply (s : State) (r : Reply) : State :=
  let t := r.tag.settle s.cycle
  State.countOverdue { s with replies := s.replies.map fun q => if q.uid = r.uid then { q with granted := true, tag := t } else q }
    (.core r.core) r.tag t

/-- The agent on whose behalf a transit moves. -/
def State.transitAgent (s : State) (t : Transit) : Agent := (s.transitBid t).agent

/-- The same of another transit. -/
def State.grantTransit (s : State) (x : Transit) : State :=
  let t := x.tag.settle s.cycle
  State.countOverdue { s with transits := s.transits.map fun q => if q.uid = x.uid then { q with granted := true, tag := t } else q }
    (s.transitAgent x) x.tag t

/-- A bid is granted its channel. -/
def State.grant (s : State) (b : Bid) : State :=
  match b.kind with
  | 0 => (match s.packets.find? fun p => p.uid == b.uid && !p.granted with | some p => s.grantPacket p | none => s)
  | 1 => (match s.replies.find? fun r => r.uid == b.uid && !r.granted with | some r => s.grantReply r | none => s)
  | _ => (match s.transits.find? fun t => t.uid == b.uid with | some t => s.grantTransit t | none => s)

/-- R402: the flits of a packet of the reserved class: a line is four data flits. -/
def ReservedPacket.flits (p : ReservedPacket) : Nat := match p.load with | .notice _ => 1 | _ => 5

/-- R399: the reserved packets that bid for a channel, oldest injection first. -/
def State.reservedQueue (s : State) (ch : Nat) : List ReservedPacket :=
  (s.reserved.filter fun p => p.chan == ch && !p.granted).foldl (fun q p =>
    q.takeWhile (fun x => decide (x.its ≤ p.its)) ++ p :: q.dropWhile fun x => decide (x.its ≤ p.its)) []

/-- The packets of a queue that fit a budget of flits. -/
def fitting (left : Nat) : List ReservedPacket → List ReservedPacket
  | [] => []
  | p :: t => if left < p.flits then [] else p :: fitting (left - p.flits) t

/-- R399: the burst of the reserved winner. -/
def State.grantReserved (s : State) (ch : Nat) (p : ReservedPacket) : State :=
  let mine := (s.reservedQueue ch).filter fun q => q.src == p.src && q.uid != p.uid
  let won := p.uid :: (fitting (channelFlits ch - p.flits) mine).map (·.uid)
  { s with reserved := s.reserved.map fun q => if won.contains q.uid then { q with granted := true } else q }

/-- R399: the revolution after the one that ends now has a number divisible by 8 (R398: a revolution takes 18 cycles). -/
def State.eighth (s : State) : Bool := (s.cycle / 18 + 1) % 8 == 0

/-- PIP_REVOLUTION (R391, R392, R396 to R400): the site with the least bid sends a burst, or the reserved winner does. -/
def execPipRevolution (channel : Nat) (s : State) : Out :=
  let s := s.takePermits
  let bids := (List.range 32).filterMap fun site => (s.siteQueue channel site).head?
  let slack : State :=
    match leastBid (bids.map (·.1)) with
    | none => s
    | some k =>
      match bids.find? (·.1 == k) with
      | none => s
      | some (_, p) =>
        let lose := leastBid ((bids.filter fun b => b.2.src != p.src).map (·.1))
        let rest := burst (channelFlits channel - p.flits) lose ((s.siteQueue channel p.src).drop 1)
        (p :: rest).foldl State.grant s
  match s.reservedQueue channel with
  | p :: _ => .next (if s.eighth || bids.isEmpty then s.grantReserved channel p else slack)
  | [] => .next slack

/-- R392, R403: two packets carry requests to a common line. -/
def Packet.sameLine (p q : Packet) : Bool :=
  match p.payload, q.payload with
  | some a, some b => a.sameLine b
  | _, _ => false

/-- R403: no earlier packet of its source to one of its lines is still to arrive. -/
def State.inOrder (s : State) (p : Packet) : Bool :=
  (s.packets.takeWhile fun q => q.uid != p.uid).all fun q => !(q.src == p.src && p.sameLine q)

/-- R400: the separate input queue of a slice for requests that need no permit has room for one more. -/
def State.roomFor (s : State) (p : Packet) : Bool :=
  match p.agent with
  | .core _ | .gone _ => true
  | _ => decide ((s.reqs.filter fun r => s.point r == p.chan && match r.agent with | .core _ | .gone _ => false | _ => true).length < 32)

/-- R362, R363: a packet of the reserved class arrives: a decoded line is installed, or goes to those it is for, masked bytes are in
memory; a notice waits for RESET_NOTICE_ARRIVAL. -/
def State.reservedArrival (s : State) (id : Nat) : State :=
  match s.reserved.find? fun p => p.uid == id && p.granted with
  | none => s
  | some p =>
    let t := { s with reserved := s.reserved.filter (·.uid != id) }
    match p.load with
    | .notice _ => s
    | .writeBack _ => t
    | .delivery d => { t with decoded := d :: t.decoded.filter (·.line != d.line), misses := t.misses.filter (· != d.line) }
    | .answer d ids => ids.foldl (fun s i => s.giveLine d i) { t with misses := t.misses.filter (· != d.line) }

/-- The parts of a request with the bytes an answer brings. -/
def fillParts : List Part → List Byte → List Part
  | [], _ => []
  | p :: t, bs => { p with data := bs.take p.n } :: fillParts t (bs.drop p.n)

/-- R411, R412, R464: a remote access performs. -/
def State.remoteDone (s : State) (r : Req) (data : List Byte) (bad : Bool) : State :=
  let ask (dest : LoadDest) : State :=
    match r.agent, dest with
    | .core k, _ => s.replyTo r k dest (if bad then r.parts else fillParts r.parts data) bad r.source (siteOf r.loc)
    | .peer n, _ => s.answerPeer n r.va (some (siteOf r.loc)) data bad r.tag
    | .controller die, .outside => s.updCtl die fun k => { k with cpu := k.cpu.farArrive r.uid data bad }
    | _, _ => s
  match r.kind with
  | .load d => ask d
  | .atom _ _ d => ask d
  | _ =>
    match r.agent with
    | .core k => s.asCore k fun s => s.segReply r.uid false [] false
    | .peer n => s.answerPeer n r.va (some (siteOf r.loc)) [] false r.tag
    | _ => s

/-- A remote access that has performed is gone; the accesses to its line that wait may take their link. -/
def State.finishRemote (s : State) (m : Remote) (data : List Byte) (bad : Bool) : State :=
  (State.remoteDone { s with remotes := s.remotes.filter (·.uid != m.uid) } m.req data bad).assign

/-- R450: what a request to the host window asks of the host, if it waits for an answer. -/
def Req.hostRead (r : Req) : Option HostRead :=
  match r.parts, r.kind with
  | p :: _, .load _ => some ⟨.read ((r.parts.map (·.n)).sum), p.loc - 0x10000000000, []⟩
  | p :: _, .atom e cmp _ =>
    let k : RemoteKind := if e.op = 6 then .swap else if e.op = 7 then .cas else .add
    some ⟨k, p.loc - 0x10000000000, if e.op = 7 then p.data ++ leBytes p.n cmp.toNat else p.data⟩
  | _, _ => none

/-- R450: reads and AtomicOps leave through the attachment in the order in which they were handed to it, behind the writes before
them. -/
def State.hostLeave (s : State) : State :=
  let out (s : State) (m : Remote) : State :=
    let t := s.updRemote m.uid fun m => { m with stage := .sent }
    { t with hostReads := t.hostReads ++ m.req.hostRead.toList }
  ((s.remotes.filter fun m => m.peer == 16 && m.stage == .port).takeWhile (·.req.asks)).foldl out s

/-- A remote access reaches its port, behind what is there. -/
def State.atPort (s : State) (u : Nat) (t : Tag) : State :=
  match s.remotes.find? (·.uid == u) with
  | none => s
  | some m =>
    let s := { s with remotes := (s.remotes.filter fun m : Remote => m.uid != u) ++ [{ m with stage := .port, req := { m.req with tag := t } }] }
    match m.link with
    | some n => s.transmit n
    | none => s.hostLeave

/-- R391, R392: a request that a memory controller serves now: none that has arrived at its queue has a lesser key. -/
def State.served (s : State) (x : Transit) : Bool :=
  match x.what with
  | .ask line =>
    let key (t : Transit) (l : Nat) : List Nat := s.mergedKey l t.src (t.tag.key s.cycle t.src)
    s.transits.all fun t => match t.what with
      | .ask l => !t.granted || t.uid == x.uid || controllerNo (s.missLine l) != controllerNo (s.missLine line) || !keyLess (key t l) (key x line)
      | _ => true
  | _ => true

/-- R390, R397, R410, R411: a granted transit arrives: a remote access, or an answer for a peer, at its port; the answer of a remote
access at its slice, where it performs; a miss's request at its memory controller, whose fill enters that site's queue; a fill at
its slice. -/
def State.transitArrival (s : State) (id : Nat) : State :=
  match s.transits.find? fun t => t.uid == id && t.granted && s.served t with
  | none => s
  | some x =>
    let t := { s with transits := s.transits.filter (·.uid != id) }
    let enter := x.tag.enter s.cycle 2
    match x.what with
    | .out u => t.atPort u enter
    | .peer u =>
      let t := t.updPeerOut u fun a => { a with stage := .port, tag := enter }
      (match (t.peerOut.find? (·.uid == u)).bind (·.link) with | some n => t.transmit n | none => t)
    | .back u data bad =>
      (match t.remotes.find? (·.uid == u) with
      | some m => t.finishRemote { m with req := { m.req with tag := x.tag } } data bad
      | none => t)
    | .ask line =>
      if isDecoded (line * 256) then t else t.dispatch (controllerSite line) (s.sliceAt (256 * line)) 6 x.tag (.fill line)
    | .fill _ => t

/-- PACKET_ARRIVAL (R362, R400, R403): a granted packet is accepted by its destination. -/
def execPacketArrival (id : Nat) (s : State) : Out :=
  match s.packets.find? (·.uid == id) with
  | some p =>
    match p.payload with
    | some r =>
      if p.granted && s.inOrder p && s.roomFor p then
        .next { s with
          packets := s.packets.map fun q => if q.uid = id then { q with payload := none } else q
          reqs := s.reqs ++ [{ r with tag := { p.tag with since := s.cycle + if p.chan < 64 then 2 else 1 } }] }
      else .next s
    | none => .next s
  | none => .next ((s.reservedArrival id).transitArrival id)

/-- END_TO_END_ACK (R403): the source drops its copy of an accepted packet. -/
def execEndToEndAck (id : Nat) (s : State) : Out :=
  .next { s with packets := s.packets.filter fun p => !(p.uid == id && p.granted && p.payload.isNone) }

/-! ### Overdue packets (R394) -/

/-- R394: the slack of a wait has run out, and this has not been noted. -/
def Tag.due (t : Tag) (now : Nat) : Bool := !t.ovd && t.left now == 0

/-- The tag so noted; its wait goes on. -/
def Tag.mark (t : Tag) (now : Nat) : Tag := if t.due now then { t.settle now with since := t.since } else t

/-- Where a remote access counts down: at its slice for want of a link, and in a transmit queue (R390, R410). -/
def Remote.waits (m : Remote) : Bool := m.stage == .slice || m.stage == .port

/-- R394: the same of replies and other transits. -/
def State.overdueOther (s : State) (id : Nat) : State :=
  let now := s.cycle
  match s.replies.find? fun r => r.uid == id && !r.granted && r.tag.due now with
  | some r =>
    State.countOverdue { s with replies := s.replies.map fun x => if x.uid = id then { x with tag := x.tag.mark now } else x }
      (.core r.core) r.tag (r.tag.mark now)
  | none =>
    match s.transits.find? fun x => x.uid == id && !x.granted && x.tag.due now with
    | some x =>
      State.countOverdue { s with transits := s.transits.map fun y => if y.uid = id then { y with tag := y.tag.mark now } else y }
        (s.transitAgent x) x.tag (x.tag.mark now)
    | none => s

/-- PACKET_OVERDUE (R373, R390, R394): a packet that waits at its site, at its slice or for a link, a parked request, a reply or
another transit has no slack left. -/
def execPacketOverdue (id : Nat) (s : State) : Out :=
  let now := s.cycle
  match s.packets.find? fun p => p.uid == id && !p.granted && p.tag.due now with
  | some p =>
    .next (State.countOverdue { s with packets := s.packets.map fun q => if q.uid = id then { q with tag := q.tag.mark now } else q }
      p.agent p.tag (p.tag.mark now))
  | none =>
    let mark (r : Req) : Req := if r.uid = id then { r with tag := r.tag.mark now } else r
    match (s.reqs ++ (s.remotes.filter Remote.waits).map (·.req)).find? fun r => r.uid == id && r.tag.due now with
    | some r =>
      .next (State.countOverdue { s with
        reqs := s.reqs.map mark, remotes := s.remotes.map fun m => { m with req := mark m.req } } r.agent r.tag (r.tag.mark now))
    | none =>
      match s.waiters.find? fun w => w.uid == id && w.slack != 0 && s.slackLeft w == 0 with
      | some w =>
        let t := s.tag 1
        .next (State.countOverdue { s with waiters := s.waiters.map fun x => if x.uid = id then { x with slack := 0 } else x }
          w.agent t { t with ovd := true })
      | none => .next (s.overdueOther id)

/-! ### Lost packets (R404, R413) -/

/-- R396, R443: a link event record, from a site. -/
def State.linkRecord (s : State) (site : Nat) (kind : Word64) (time : Word64) (flits : Nat) : State :=
  s.sendHost 3 site (decide (16 ≤ site)) (word kind ++ word time ++ leBytes 8 flits)

/-- R404, R413: the record of a lost packet; the spec does not say what its link fields hold: they are free. -/
def State.lostPacket (s : State) (site : Nat) : State :=
  (s.linkRecord site (5#64 ||| (Config.freeWord s.tick &&& (field 8 16 ||| field 32 52))) s.time 0).ticked

/-- R404: a lost write taints its core and its launch. -/
def State.lostWrite (s : State) (a : Agent) : State :=
  match a with
  | .core k => (s.updCore k (·.taint)).taintLaunch (s.coreAt k).launchKey 0x40#8
  | _ => s

/-- R404: an error in place of a value is at its core's site. -/
def State.lostReply (s : State) (r : Req) (k : BitVec 7) (dest : LoadDest) : State :=
  let t := s.replyTo r k dest r.parts true 0 (cluster k)
  { t with replies := t.replies.map fun x => if x.uid = r.uid then { x with granted := true } else x }

/-- R404: what becomes of a lost request. -/
def State.lostReq (s : State) (r : Req) : State :=
  let ask (dest : LoadDest) : State :=
    match r.agent, dest with
    | .core k, _ => s.lostReply r k dest
    | .peer n, _ => s.answerPeer n r.va (some (siteOf r.loc)) [] true r.tag
    | .host, _ => { s with answers := s.answers ++ [(barAt 4 r.va, [])] }
    | .controller die, .outside => s.updCtl die fun k => { k with cpu := k.cpu.farArrive r.uid [] true }
    | _, _ => s
  match r.kind with
  | .load d => ask d
  | .atom _ _ d => ask d
  | .queue q =>
    (match q.agent, q.dest with
    | .core k, .entry seq d g b => s.asCore k fun s => s.answerEntry q seq d g b (.elem [] true)
    | .core k, .launchRec seq => s.asCore k fun s => s.answerEntry q seq 0#6 0#3 [] (.elem [] true)
    | _, _ => s.answer q (.elem [] true))
  | _ =>
    let s := s.lostWrite r.agent
    match r.agent with
    | .core k => s.asCore k fun s => s.segReply r.uid false [] false
    | _ => s

/-- R404: a request that was accepted, and whose answer has not come. -/
def State.lostAccepted (s : State) (p : Packet) : State :=
  if !p.asks then s.lostWrite p.agent
  else match (s.reqs ++ s.remotes.map (·.req)).find? (·.uid == p.uid) with
    | some r => State.lostReq { s with reqs := s.reqs.filter (·.uid != p.uid), remotes := s.remotes.filter (·.uid != p.uid) } r
    | none =>
      match s.waiters.find? (·.uid == p.uid) with
      | some w => (s.unpark w).lostReq ⟨w.uid, w.agent, w.pc, 0, 1, .queue w, [], false, p.tag⟩
      | none => { s with replies := s.replies.map fun r => if r.uid = p.uid then { r with poisoned := true, src := 0 } else r }

/-- R389, R403: a copy resent, of a packet injected at `sent`: its slack is the first slack less its age, and it counts nothing if it
is overdue. -/
def Tag.resent (t : Tag) (now sent : Nat) : Tag :=
  let left := t.first - (now - sent) / 16
  { t with
    slack := left, since := now + 2, ovd := t.ovd || left == 0, ovdt := if t.ovd then t.ovdt else if left = 0 then now else 0, mute := true }

/-- Something injected at `sent` unacknowledged for the `n`-th time. -/
def timedOut (now sent n : Nat) : Bool := decide (4096 * (n + 1) ≤ now - sent)

/-- The launch of an agent is corrected at least (R435). -/
def State.correctFor (s : State) (a : Agent) : State :=
  match a with | .core k => s.correctLaunch (s.coreAt k).launchKey | _ => s

/-- R404: a transit that is lost takes with it what it carries: the remote access or its answer; a miss asks again. -/
def State.lostTransit (s : State) (x : Transit) : State :=
  let s := { s with transits := s.transits.filter (·.uid != x.uid) }
  let remote (u : Nat) : State :=
    match s.remotes.find? (·.uid == u) with
    | some m => (State.lostReq { s with remotes := s.remotes.filter (·.uid != u) } m.req).assign
    | none => s
  match x.what with
  | .out u => remote u
  | .back u .. => remote u
  | .peer u => { s with peerOut := s.peerOut.filter (·.uid != u) }
  | .ask line => { s with misses := s.misses.filter (· != line) }
  | .fill line => { s with misses := s.misses.filter (· != line) }

/-- R403, R411: a reply, a remote access out on a link, another transit or a reserved packet has not been acknowledged: it is resent,
and is lost after the fourth time. -/
def State.resendOther (s : State) (id : Nat) : State :=
  let now := s.cycle
  match s.replies.find? (·.uid == id), s.remotes.find? (fun m => m.uid == id && m.stage == .sent), s.transits.find? (·.uid == id),
    s.reserved.find? (·.uid == id) with
  | some r, _, _, _ =>
    if !timedOut now r.sent r.resends then s
    else if r.resends < 4 then
      State.correctFor { s with replies := s.replies.map fun x => if x.uid = id then
        { x with resends := x.resends + 1, granted := false, tag := x.tag.resent now x.sent } else x } (.core r.core)
    else
      State.lostPacket { s with replies := s.replies.map fun x => if x.uid = id then { x with poisoned := true, src := 0, granted := true } else x } r.site
  | none, some m, _, _ =>
    if !timedOut now m.sent m.resends then s
    else if m.resends < 4 then
      (s.correctFor m.req.agent).updRemote id (fun m => { m with
        resends := m.resends + 1, link := none, stage := .slice, since := now, req := { m.req with tag := m.req.tag.resent now m.sent } }) |>.assign
    else (State.lostReq { s with remotes := s.remotes.filter (·.uid != id) } m.req).assign.lostPacket (homeSlice m.req.loc / 2)
  | none, none, some x, _ =>
    if !timedOut now x.sent x.resends then s
    else if x.resends < 4 then
      { s with transits := s.transits.map fun y => if y.uid = id then
        { y with resends := y.resends + 1, granted := false, tag := y.tag.resent now y.sent } else y }
    else (s.lostTransit x).lostPacket x.src
  | none, none, none, some p =>
    if !timedOut now p.its p.resends then s
    else if p.resends < 4 then
      { s with reserved := s.reserved.map fun q => if q.uid = id then { q with resends := q.resends + 1, granted := false } else q }
    else State.lostPacket { s with reserved := s.reserved.filter (·.uid != id) } p.src
  | none, none, none, none => s

/-- RESEND_TIMEOUT (R389, R403, R404, R411): a packet that has not been acknowledged is resent, and is lost after the fourth time. -/
def execResendTimeout (id : Nat) (s : State) : Out :=
  let now := s.cycle
  match s.packets.find? (·.uid == id) with
  | some p =>
    if !timedOut now p.tag.its p.resends then .next s
    else if p.resends < 4 then
      .next (State.correctFor { s with packets := s.packets.map fun q =>
        if q.uid = id then { q with granted := false, resends := q.resends + 1, tag := q.tag.resent now q.tag.its } else q } p.agent)
    else
      let t : State := { s with packets := s.packets.filter (·.uid != id) }
      let t := match p.payload with | some r => t.lostReq r | none => t.lostAccepted p
      .next (t.lostPacket p.src)
  | none => .next (s.resendOther id)

/-! ### Cluster reset (R405) -/

/-- R405: the packets that carry a cluster's notice to the slices of a site. -/
def ReservedPacket.notifies (p : ReservedPacket) (cl site : BitVec 5) : Bool := p.load == .notice cl && p.chan / 2 == site.toNat

/-- R399: a notice whose packets have their channels. -/
def State.noticed (s : State) (cl site : BitVec 5) : Bool :=
  s.notices.contains (cl, site) && !s.reserved.any fun p => p.notifies cl site && !p.granted

/-- RESET_NOTICE_ARRIVAL (R405): the slices of a site restore the permits of the cluster's cores, drop its parked requests and clear
their sequence state for its sources. -/
def execResetNoticeArrival (cluster : BitVec 5) (site : BitVec 5) (s : State) : Out :=
  if !s.noticed cluster site then .next s
  else
    let t := { s with
      notices := s.notices.erase (cluster, site), reserved := s.reserved.filter fun p => !p.notifies cluster site
      resetPermits := s.resetPermits.filter fun p => !(p.1.toNat / 4 == cluster.toNat && p.2 / 2 == site.toNat)
      esns := Cells.put 0#16 (Cells.put 0#16 s.esns ((cluster.toNat * 32 + site.toNat) * 2) 0#16) ((cluster.toNat * 32 + site.toNat) * 2 + 1) 0#16 }
    .next ((s.waiters.filter fun w => w.agent == .gone cluster && homeSlice w.qpa / 2 == site.toNat).foldl (fun s w => s.unpark w) t)

end Sys2Proof.Machine
end

