-- ==== Sys2Proof/Machine/Links.lean ====
section
/-! DEFINITION. The external links (R406 to R416, R465): loss and return of light, restriping, replay, training, remote accesses
and their answers, LINKST, LNKCFG, TALIGN; and the completions of the host window (R450). -/

namespace Sys2Proof.Machine

/-! ### Records and replacement (R396, R413, R460) -/

/-- R413: the event record of a link. -/
def State.linkEvent (s : State) (l : Link) (kind : Nat) (time : Word64) (flits : Nat) : State :=
  s.linkRecord (linkSite l.n) (BitVec.ofNat 64 (kind + l.n.toNat * 2 ^ 8 + (if l.inward then 2 ^ 16 else 0)
    + l.lit.toNat * 2 ^ 32 + l.width * 2 ^ 48)) time (flits % 2 ^ 32)

/-- R460: a replacement is asked for, for reason `b`. -/
def State.replacement (s : State) (b : Nat) : State :=
  (s.devPut 0x100 (s.devGet 0x100 ||| BitVec.ofNat 64 (4 + 2 ^ (12 + b)))).sendHost 6 0 false (leBytes 8 (2 + 2 ^ (16 + b)))

/-! ### Light (R406 to R409) -/

/-- R407: the flits sent and not acknowledged are sent again; the launches they belong to are corrected (R435). -/
def State.replayFlits (s : State) (inward : Bool) (n : BitVec 8) : State :=
  let l := s.link inward n
  let s := s.setLink { l with replay := l.replay + BitVec.ofNat 32 l.unacked }
  if inward then s
  else s.remotes.foldl (fun s r =>
    if r.link = some n ∧ r.stage = .sent ∧ l.acked < r.flit + r.flits then s.correctFor r.req.agent else s) s

/-- R408: the records of the losses that a link restripes after, with the flits replayed. -/
def State.lossRecords (s : State) (l : Link) (flits : Nat) : State := l.lost.foldl (fun s t => s.linkEvent l 1 t flits) s

/-- R408: a link fails: the records of its losses are sent, what it has not got through goes to other links, and a replacement is
asked for (R409). -/
def State.failLink (s : State) (l : Link) : State :=
  let s := s.lossRecords l 0
  let l := { l with up := 3#2, lost := [], acked := l.sent }
  let s := (s.setLink l).linkEvent l 3 s.time 0
  let s := if l.inward then s else s.unlink l.n
  s.replacement 0

/-- The comb quads without light (R406). -/
def darkQuad (lit : BitVec 16) (q : Nat) : Bool := bitsOf lit (4 * q) 4 == 0

/-- A link's light as it is now: quads that turn dark are timed from now, quads with light are reported no more. -/
def Link.seen (l : Link) (lit : BitVec 16) (now : Word64) : Link :=
  (List.range 4).foldl (fun l q =>
    if darkQuad lit q then (if darkQuad l.lit q then l else { l with darkAt := Cells.put 0#64 l.darkAt q now })
    else { l with dark := l.dark &&& ~~~BitVec.ofNat 4 (2 ^ q) }) l |> fun m => { m with lit := lit }

/-- LIGHT_LOST (R406, R408): wavelengths lose their light and leave the active set: an up link stops and restripes, or fails when
fewer than 4 are left. -/
def execLightLost (inward : Bool) (link : BitVec 8) (waves : BitVec 16) (s : State) : Out :=
  let l := s.link inward link
  if l.lit &&& waves = 0#16 then .next s
  else
    let l := l.seen (l.lit &&& ~~~waves) s.time
    let l := { l with active := l.active &&& l.lit }
    if l.up ≠ 2#2 then .next ((s.setLink l).linkEvent l 1 s.time 0)
    else
      let l := { l with lost := l.lost ++ [s.time] }
      if l.width < 4 then .next ((s.setLink l).failLink l) else .next (s.setLink l)

/-- RESTRIPE_DONE (R407, R408): the link goes on over its active set, with a replay, the records of its losses are sent, and it
sends what has waited. -/
def execRestripeDone (inward : Bool) (link : BitVec 8) (s : State) : Out :=
  let l := s.link inward link
  if l.up ≠ 2#2 ∨ l.lost = [] then .next s
  else
    let t := (((s.setLink { l with lost := [] }).replayFlits inward link).lossRecords l l.unacked)
    .next (if inward then t else t.transmit link)

/-- LIGHT_RESTORED (R408): wavelengths have light again; they rejoin the active set when CTL is next written. -/
def execLightRestored (inward : Bool) (link : BitVec 8) (waves : BitVec 16) (s : State) : Out :=
  let l := s.link inward link
  if waves &&& ~~~l.lit = 0#16 then .next s
  else
    let l := l.seen (l.lit ||| waves) s.time
    .next ((s.setLink l).linkEvent l 2 s.time 0)

/-- LINK_TRAINED (R407, R408, R415): a training link is up over its active set, with a replay, or has failed; the records of the
losses it had not restriped after are sent. -/
def execLinkTrained (inward : Bool) (link : BitVec 8) (s : State) : Out :=
  let l := s.link inward link
  if l.up ≠ 1#2 then .next s
  else
    let l := { l with awaiting := false }
    if l.width < 4 then .next (s.failLink l)
    else
      let t := (((s.setLink { l with up := 2#2, lost := [] }).replayFlits inward link).lossRecords l l.unacked).assign
      .next (if inward then t else t.transmit link)

/-- QUAD_DARK_TIMEOUT (R409, R460): a comb quad of a link has been dark for more than one second. -/
def execQuadDarkTimeout (inward : Bool) (link : BitVec 8) (quad : BitVec 2) (s : State) : Out :=
  let l := s.link inward link
  let q := quad.toNat
  if darkQuad l.lit q && !l.dark.getLsbD q
    && decide ((Cells.get 0#64 l.darkAt q).toNat + 1000000000 < s.time.toNat) then
    .next ((s.setLink { l with dark := l.dark ||| BitVec.ofNat 4 (2 ^ q) }).replacement 1)
  else .next s

/-! ### Flits (R407) -/

/-- FLIT_RECEIVED (R407): a flit arrives on an in link: the expected one is accepted, one that fails its check and every later
one wait for the replay, and one accepted before is dropped. -/
def execFlitReceived (link : BitVec 8) (seq : Nat) (crcOk : Bool) (s : State) : Out :=
  let l := s.link true link
  if l.up ≠ 2#2 then .next s
  else if !crcOk then .next (s.setLink { l with awaiting := true })
  else if seq = l.next then .next (s.setLink { l with next := l.next + 1, awaiting := false })
  else .next s

/-- LINK_REPLAY (R407): the far end tells of a failed flit. -/
def execLinkReplay (link : BitVec 8) (s : State) : Out :=
  if (s.link false link).up ≠ 2#2 then .next s else .next (s.replayFlits false link)

/-- LINK_ACK_RECEIVED (R407): the far end has accepted every flit before `seq`. -/
def execLinkAckReceived (link : BitVec 8) (seq : Nat) (s : State) : Out :=
  let l := s.link false link
  if l.acked < seq ∧ seq ≤ l.sent then .next (s.setLink { l with acked := seq }) else .next s

/-! ### Remote accesses (R404, R410 to R412, R450, R465) -/

/-- An answer of the right size for a request. -/
def Req.fits (r : Req) (data : List Byte) (bad : Bool) : Bool := bad || !r.asks || data.length == (r.parts.map (·.n)).sum

/-- R393: the fields with which an answer comes back: it has the slack that its request held at the far side, which is open but for
not being more than it left with (log entry 15). -/
def Tag.returned (t : Tag) (now tick : Nat) : Tag :=
  let left := if t.slack = 0 then 0 else Config.freeNat tick % (t.slack + 1)
  { t with slack := left, since := now + 2, ovd := t.ovd || left == 0, ovdt := if t.ovd then t.ovdt else now, mute := true }

/-- An answer enters at a site, on its way to the slice that forwarded the access. -/
def State.answerBack (s : State) (m : Remote) (site : Nat) (t : Tag) (data : List Byte) (bad : Bool) : State :=
  ((s.updRemote m.uid fun m => { m with stage := .answered }).dispatch site (s.sliceAt m.req.loc) 4 t (.back m.uid data bad)).ticked

/-- REMOTE_ACK_RETURN (R411, R412): the acknowledgement or the reply of a remote access comes in by a link, and goes on to its
slice. -/
def execRemoteAckReturn (id : Nat) (data : List Byte) (poisoned : Bool) (s : State) : Out :=
  match s.remotes.find? fun m => m.uid == id && m.stage == .sent && m.peer != 16 with
  | some m =>
    if m.req.fits data poisoned then
      .next (s.answerBack m (linkSite (m.link.getD 0#8)) (m.req.tag.returned s.cycle s.tick) data poisoned)
    else .next s
  | none => .next s

/-- REMOTE_WAIT_TIMEOUT (R404, R410): an access that has waited 2^20 cycles while no link to its peer is up is lost. -/
def execRemoteWaitTimeout (id : Nat) (s : State) : Out :=
  match s.remotes.find? fun m => m.uid == id && m.stage == .slice && (s.linkFor m.peer m.req.loc).isNone && decide (2 ^ 20 ≤ s.cycle - m.since) with
  | some m =>
    .next ((State.lostReq { s with remotes := s.remotes.filter (·.uid != id) } m.req).assign.lostPacket (homeSlice m.req.loc / 2))
  | none => .next s

/-- HOST_WINDOW_COMPLETION (R450): the attachment accepts the write that is first there, or the host completes a read or an atomic
that has left: its completion goes to the slice. -/
def execHostWindowCompletion (id : Nat) (data : List Byte) (failed : Bool) (s : State) : Out :=
  match s.remotes.find? fun m => m.uid == id && m.peer == 16 with
  | none => .next s
  | some m =>
    if m.req.asks then
      (if m.stage = .sent ∧ m.req.fits data failed = true then .next (s.answerBack m 0 m.req.tag data failed) else .next s)
    else if m.stage ≠ .port ∨ (s.remotes.find? fun e => e.peer == 16 && e.stage == .port) ≠ some m then .next s
    else
      .next (State.finishRemote { s with
        hostWrites := s.hostWrites ++ m.req.parts.map fun p => (p.loc - 0x10000000000, p.data) } m [] false).hostLeave

/-- The request that a peer's access is at the local home slice (R379, R412). -/
def peerReq (uid : Nat) (n : BitVec 8) (k : RemoteKind) (off loc : Nat) (data : List Byte) (t : Tag) : Req :=
  let half := data.length / 2
  let op (f : Nat) (w : Nat) : ElemOp := if w = 8 then atomOp f 3 3 true else atomOp f 1 2 false
  let part (w : Nat) (bs : List Byte) : List Part := [⟨loc, BitVec.ofNat 64 off, w, 0, bs⟩]
  let (kind, parts) : ReqKind × List Part :=
    match k with
    | .read m => (.load .outside, part m [])
    | .write => (.store, part data.length data)
    | .add => (.atom (op 0 data.length) 0#64 .outside, part data.length data)
    | .swap => (.atom (op 8 data.length) 0#64 .outside, part data.length data)
    | .cas => (.atom (op 9 half) (BitVec.ofNat 64 (leNat (data.drop half))) .outside, part half (data.take half))
  ⟨uid, .peer n, 0#48, 0, 0, kind, parts, false, t⟩

/-- REMOTE_ACCESS_ARRIVAL (R389, R411, R412, R465): an access of a peer chip, new to its end-to-end numbers, through an in link; what
it sends again the ingress drops, and is no such event. -/
def execRemoteAccessArrival (link : BitVec 8) (kind : RemoteKind) (slack : BitVec 10) (offset : Nat) (data : List Byte) (s : State) :
    Out :=
  let l := s.link true link
  if !(l.enabled && l.up == 2#2) then .next s
  else
    let loc := l.winBase + offset
    if l.winSize ≤ offset ∨ s.mapped loc = false then
      .next ((s.linkEvent l 4 s.time 0).answerPeer link offset none [] (kind != .write) (s.tag slack.toNat))
    else
      let (u, s) := s.fresh
      let t := s.tag slack.toNat
      .next (s.inject (linkSite link) (peerReq u link kind offset loc data { t with since := t.since + 2 }))

/-! ### LINKST and LNKCFG (R414, R415) -/

/-- R415: the selector names a link direction and nothing else. -/
def linkSelector (v : Nat) (most : Nat) : Bool := decide (v < 2 ^ most)

/-- LINKST (R415). -/
def execLinkst (o : OpSQ) (s : State) : Out :=
  s.whenOn o.g <|
    let v := (s.core.sVal o.p).toNat
    if !linkSelector v 9 then s.trap0B
    else .next (s.putS o.q (s.link (v / 256 == 1) (BitVec.ofNat 8 v)).status)

/-- R406, R408, R415: a write of CTL: out of service at once, or training over the wavelengths it allows that are lit. -/
def State.writeCtl (s : State) (l : Link) (v : Word64) : State :=
  let on := v.getLsbD 0
  let moved := !on || bitsOf v 1 4 != l.peer
  let s := if on then s else s.lossRecords l 0
  let m := { l with
    ctl := v, up := if on then 1#2 else 0#2, lost := if on then l.lost else [], replay := if l.up = 0#2 then 0#32 else l.replay
    acked := if moved then l.sent else l.acked }
  let s := s.setLink { m with active := m.allowed &&& m.lit }
  if moved && !l.inward then s.unlink l.n else s

/-- LNKCFG (R415). Its entry stays while the link trains. -/
def execLnkcfg (o : OpSQ) (s : State) : Out :=
  s.whenOn o.g <|
    let v := (s.core.sVal o.p).toNat
    let w := s.core.sVal o.q
    let l := s.link (v / 256 % 2 == 1) (BitVec.ofNat 8 v)
    if !linkSelector v 11 ∨ 2 ≤ v / 512 then s.trap0B
    else if v / 512 = 1 then
      (if l.inward = false ∨ w &&& field 32 63 ≠ 0#64 then s.trap0B else .next (s.setLink { l with win := w }))
    else if w &&& (field 22 31 ||| field 40 63) ≠ 0#64 then s.trap0B
    else if s.core.cur.rep = 0 then (if l.up = 1#2 then s.hold else .next s)
    else
      let t := s.writeCtl l w
      if w.getLsbD 0 then t.begun.hold else .next t

/-! ### TALIGN (R416) -/

/-- R416: both directions of link n are up with one peer, which is the time reference. -/
def State.mayAlign (s : State) (n : BitVec 8) : Bool :=
  let o := s.link false n
  let i := s.link true n
  o.up == 2#2 && i.up == 2#2 && o.peer == i.peer && i.ctl.getLsbD 21

/-- TALIGN (R416). Its entry stays until the timestamps are exchanged. -/
def execTalign (o : OpSQ) (s : State) : Out :=
  s.whenOn o.g <|
    let v := (s.core.sVal o.p).toNat
    let n : BitVec 8 := BitVec.ofNat 8 v
    if s.core.cur.rep = 0 then s.hold
    else if !linkSelector v 8 || !s.mayAlign n then s.trap0B
    else (State.begun { s with stamps := s.stamps ++ [⟨n, o.q, s.core.id, s.core.cur.seq⟩] }).hold

/-- R416: twice an offset in ns, rounded to the nearest ns, ties to even. -/
def roundHalf (x : Int) : Int := if x % 2 = 0 then x / 2 else if x / 2 % 2 = 0 then x / 2 else x / 2 + 1

/-- R416: TIME after an offset of x half ns. -/
def State.alignTime (s : State) (x : Int) : State :=
  if x ≤ 4 ∧ -4 ≤ x then s
  else if 4 < x then { s with time := s.time + BitVec.ofInt 64 (roundHalf x) }
  else { s with slowing := 2 * (roundHalf x).natAbs }

/-- TIMESTAMP_EXCHANGE (R416): the peer's timestamps for a TALIGN are back; with none waiting, the peer asks for this
device's. -/
def execTimestampExchange (link : BitVec 8) (t1 t2 t3 t4 : Nat) (s : State) : Out :=
  match s.stamps.find? (·.link == link) with
  | none => .next (s.answerPeer link 0 none (word s.time ++ word s.time) false (s.tag 1023))
  | some w =>
    let s := { s with stamps := s.stamps.erase w }
    let there := (s.coreAt w.core).bundles.any fun b => b.seq == w.seq && b.entries.any (·.slot == 1)
    if !there then .next s
    else
      let trim := (BitVec.ofNat 8 (bitsOf (s.link true link).ctl 32 8)).toInt
      let x : Int := ((t2 : Int) - t1) + ((t3 : Int) - t4) + 2 * trim
      .next ((s.alignTime x).asCore w.core fun s =>
        s.upd fun c => (c.lateS w.seq w.q (BitVec.ofInt 64 (roundHalf x))).retireEntry w.seq 1)

end Sys2Proof.Machine
end

