-- ==== Sys2Proof/Machine/Host.lean ====
section
/-! DEFINITION. The host attachment and housekeeping (R447 to R461): the BARs, the queue window, boot and attestation,
corrected and fatal errors, retirement of cores and slices, and the resets. -/

namespace Sys2Proof.Machine

/-! ### BAR0 (R447, R448, R451) -/

/-- R448: the registers of a core that its window shows. -/
def inWindow (n : Nat) : Bool := (decide (0x0C0 ≤ n) && decide (n ≤ 0x0C5)) || n == 0x127

/-- The 8 bytes at a BAR0 offset. A number no chapter assigns reads as zero. -/
def State.bar0 (s : State) (off : Nat) : Word64 :=
  let n := off / 8
  if off < 0x1000 then
    (if ((0x100 ≤ n ∧ n ≤ 0x1FF) ∨ (0x0C6 ≤ n ∧ n ≤ 0x0DF)) ∧ n ≠ 0x127 ∧ (crAccess n).isSome ∧ crAccess n ≠ some .wo
    then s.readDev n else 0#64)
  else if 0x080000 ≤ off ∧ off < 0x100000 then
    (let k : BitVec 7 := BitVec.ofNat 7 ((off - 0x080000) / 0x1000)
    let r := off % 0x1000 / 8
    if s.coreGone k || !inWindow r then 0#64
    else if r = 0x0C3 then s.lchld (s.coreAt k) else (s.coreAt k).crGet r)
  else if 0x100000 ≤ off ∧ off < 0x100800 then Cells.get 0#64 s.qwCfg (n - 0x20000)
  else if 0x200000 ≤ off ∧ off < 0x300000 then BitVec.ofNat 64 (leNat (Cells.getN 0#8 s.mailbox (off / 8 * 8 - 0x200000) 8))
  else if 0x300000 ≤ off ∧ off < 0x300400 then s.msixWord (n - 0x60000)
  else if 0x301000 ≤ off ∧ off < 0x301008 then fuseWord fun i => Cells.get 0#1 s.msixPending i == 1#1
  else 0#64

/-- An answer to the host. -/
def State.toHost (s : State) (bar off : Nat) (bs : List Byte) : State := { s with answers := s.answers ++ [(barAt bar off, bs)] }

/-! ### The queue window (R451, R452) -/

def State.slotCfg (s : State) (n : BitVec 8) : Word64 := Cells.get 0#64 s.qwCfg n.toNat
def State.putStatusOf (s : State) (n : BitVec 8) (v : Nat) : State :=
  { s with qwStatus := Cells.put 0#8 s.qwStatus n.toNat (BitVec.ofNat 8 v) }

/-- R451: the element size of a slot's queue. -/
def slotSize (cfg : Word64) : Nat := 8 * 2 ^ bitsOf cfg 0 4

/-- QUEUE_WINDOW_STAGING_WRITE (R451, R452): the bytes within the staging area are kept. -/
def execQueueWindowStagingWrite (slot : BitVec 8) (offset : Nat) (data : List Byte) (s : State) : Out :=
  .next { s.hostWake with qwStage := Cells.putN 0#8 s.qwStage (0x1000 * slot.toNat + offset) (data.take (0xFE0 - offset)) }

/-- R451, R452: an operation of a slot on its way, under FMPT, with the slot's slack. -/
def State.slotOp (s : State) (slot : BitVec 8) (cfg : Word64) (op : QOp) (elem : List Byte) : State :=
  let (u, s) := s.fresh
  let q : QReq := ⟨u, .host, op, BitVec.ofNat 64 (bitsOf cfg 0 48), 0, s.devGet 0x122, true, elem, .hostSlot slot, bitsOf cfg 48 10,
    0#48, 0, 0, s.cycle⟩
  match s.blockAt q true with
  | .error f => s.answer q (.fault f.cause 1 q.handle 0#64 f.info)
  | .ok pa => s.inject 0 ⟨u, .host, 0#48, 0, 0, .queue { q with qpa := pa }, [⟨pa, q.handle, 64, 0, []⟩], false, s.tag q.slack⟩

/-- R452: what of the host's comes before an operation of its slot: another of the slot, and for a commit every earlier write and
commit. -/
def State.hostBefore (s : State) (o : HostOp) : Bool :=
  (s.pending.any fun q => q.agent == .host && decide (q.uid < o.uid)
      && (q.hostSlot == some o.slot || (o.op == .enqn && (q.isWrite || q.queue.any (·.op == .enqn)))))
    || s.hostOps.any fun p => decide (p.uid < o.uid) && (p.slot == o.slot || (o.op == .enqn && p.op == .enqn))

/-- R451, R452: an operation of a slot starts: a disabled slot gives status 5, an element of a size that does not fit status 4. -/
def State.startOp (s : State) (o : HostOp) : State :=
  let none' (v : Nat) : State :=
    let t := s.putStatusOf o.slot v
    if o.op = .deqn then t.toHost 2 (0x1000 * o.slot.toNat + 0xFE8) [] else t
  if o.cfg.getLsbD 63 = false then none' 5
  else if (if o.op = .deqn then bitsOf o.cfg 0 4 ≠ 0 else 4064 < slotSize o.cfg) then none' 4
  else s.slotOp o.slot o.cfg o.op o.elem

/-- R452: the operations that wait in the attachment start, in order, as far as nothing of the host's comes before them. -/
def State.startOps (s : State) : State :=
  s.hostOps.foldl (fun s o => if s.hostBefore o then s else State.startOp { s with hostOps := s.hostOps.erase o } o) s

/-- R336, R452: what waits in the attachment goes on. -/
def State.hostTurn (s : State) : State := (s.lateWrites s.heldWrites).startOps

/-- An operation of a slot reaches the attachment. -/
def State.hostOp (s : State) (slot : BitVec 8) (op : QOp) (elem : List Byte) : State :=
  let (u, s) := s.fresh
  State.startOps { s with hostOps := s.hostOps ++ [⟨u, slot, op, s.slotCfg slot, elem⟩] }

/-- QUEUE_WINDOW_COMMIT (R451, R452): it takes the bytes that the staging writes have left. -/
def execQueueWindowCommit (slot : BitVec 8) (s : State) : Out :=
  let s := s.hostWake
  let n := slotSize (s.slotCfg slot)
  .next (s.hostOp slot .enqn (if 4064 < n then [] else Cells.getN 0#8 s.qwStage (0x1000 * slot.toNat) n))

/-- QUEUE_WINDOW_DEQN (R451, R452). -/
def execQueueWindowDeqn (slot : BitVec 8) (s : State) : Out := .next (s.hostWake.hostOp slot .deqn [])

/-! ### Host accesses (R447, R449) -/

/-- R142, R447: an access of the host, line by line, each at its home slice. -/
def State.hostLines (s : State) (write : Bool) : Nat → Nat → Nat → List Byte → State
  | 0, _, _, _ => s
  | fuel + 1, pa, off, data =>
    let n := 256 - pa % 256
    let (u, t) := s.fresh
    let part : Part := ⟨pa, BitVec.ofNat 64 off, (data.take n).length, 0, if write then data.take n else []⟩
    let t := t.inject 0 ⟨u, .host, 0#48, 0, 0, if write then .store else .load .outside, [part], false, t.tag (bitsOf (t.devGet 0x107) 0 10)⟩
    if data.length ≤ n then t else t.hostLines write fuel (pa + n) (off + n) (data.drop n)

/-- R449: BAR4 reaches raw LPDDR-6 from HMWIN on; elsewhere a read ends as an Unsupported Request and a write is dropped: the
attachment's record of either is all there is. -/
def State.bar4 (s : State) (write : Bool) (off : Nat) (data : List Byte) : State :=
  let pa := bitsOf (s.devGet 0x108) 0 10 * 2 ^ 30 + off
  let n := data.length
  if isRaw pa = false ∨ isRaw (pa + n - 1) = false then { s with aer := s.aer ++ [(write, off)] }
  else s.hostLines write (n / 256 + 2) pa off data

/-- HOST_MEMORY_ACCESS (R447, R449, R451): an access to BAR0, BAR2 or BAR4; for a read only the length of `data` counts. -/
def execHostMemoryAccess (bar : BitVec 3) (write : Bool) (offset : Nat) (data : List Byte) (s : State) : Out :=
  let s := s.hostWake
  let slot : BitVec 8 := BitVec.ofNat 8 (offset / 0x1000)
  let o := offset % 0x1000
  if bar = 4#3 then .next (s.bar4 write offset data)
  else if bar = 0#3 then
    (if write then
      (if 0x200000 ≤ offset ∧ offset < 0x300000 then
        .next { s with mailbox := Cells.putN 0#8 s.mailbox (offset - 0x200000) data }
      else if offset % 8 = 0 ∧ data.length = 8 ∧ offset / 8 < 2 ^ 19 then
        execRegisterWrite (BitVec.ofNat 19 (offset / 8)) (BitVec.ofNat 64 (leNat data)) s
      else .next s)
    else .next ((s.toHost 0 offset (((word (s.bar0 offset)).drop (offset % 8)).take data.length)).ticked))
  else if bar = 2#3 then
    (if write then
      (if o < 0xFE0 then execQueueWindowStagingWrite slot o data s
      else if o = 0xFF8 ∧ data.length = 8 then execQueueWindowCommit slot s
      else .next s)
    else if o = 0xFE8 ∧ data.length = 8 then execQueueWindowDeqn slot s
    else if o = 0xFF0 then
      .next (s.toHost 2 offset ((leBytes 8 (Cells.get 0#8 s.qwStatus slot.toNat).toNat).take data.length))
    else .next (s.toHost 2 offset []))
  else .next s

/-! ### Boot and attestation (R455, R456) -/

def imgField (i : BootImage) (o n : Nat) : List Byte := (i.header.drop o).take n
def imgNum (i : BootImage) (o n : Nat) : Nat := leNat (imgField i o n)
def bootKind (i : BootImage) : Nat := imgNum i 2 1
def keySlotOf (i : BootImage) : Nat := imgNum i 3 1 % 4

/-- R455: the first check of an image that fails, 0 when all pass. -/
def bootError (i : BootImage) : Nat :=
  let key := BitVec.ofNat 256 (imgNum i 0x18 32)
  if Config.sha512 (imgField i 0x18 32) ≠ Config.keySlot (keySlotOf i) then 1
  else if Config.slotRevoked (keySlotOf i) then 2
  else if imgNum i 4 4 < Config.svnFuse (bootKind i) then 3
  else if !Config.edVerify key (imgField i 0 0x38 ++ i.body) (BitVec.ofNat 512 (imgNum i 0x38 64)) then 4
  else 0

/-- R455: the bytes are an image at all. -/
def imageSound (i : BootImage) : Bool :=
  let n := i.body.length
  let pa := imgNum i 0x10 8
  i.header.length == 0x80 && imgNum i 0 2 == 0xB07A && imgNum i 3 1 / 4 == 0 && imgNum i 8 8 == n && decide (n ≤ 2 ^ 26)
    && pa % 4096 == 0 && isRaw pa && isRaw (pa + n - 1) && imgNum i 0x78 8 == 0

/-- R456: MEAS as 64 bytes. -/
def State.meas (s : State) : List Byte := (List.range 8).flatMap fun k => word (s.devGet (0x110 + k))

/-- R455: the stream-controller image is what both controllers' processors run, at supervisor level. -/
def State.startFirmware (s : State) (pa : Nat) : State :=
  let go (k : Controller) : Controller := { k with cpu := { k.cpu with mode := .running, pc := BitVec.ofNat 48 pa } }
  { s with east := go s.east, west := go s.west }

/-- R455, R456: an image offered to the ROM: the next in order is checked; accepted, it is loaded and measured, and the
third makes the device ready; otherwise BOOTERR says why. -/
def State.boot (s : State) (i : BootImage) : State :=
  if !imageSound i || bootKind i != s.bootNext || decide (3 < bootKind i) then s
  else
    let e := bootError i
    if e ≠ 0 then s.devPut 0x100 (setBits (s.devGet 0x100) 4 4 e)
    else
      let m := Config.sha512 (s.meas ++ leBytes 64 (Config.sha512 (i.header ++ i.body)).toNat)
      let s := s.performWrite none (imgNum i 0x10 8) i.body
      let s := (List.range 8).foldl (fun s k => s.devPut (0x110 + k) ((m >>> (64 * k)).setWidth 64)) s
      let s : State := { s with bootNext := s.bootNext + 1 }
      let s := if bootKind i = 2 then s.startFirmware (imgNum i 0x10 8) else s
      if s.bootNext = 4 then s.devPut 0x100 (s.devGet 0x100 ||| 1#64) else s

/-- BOOT_IMAGE_LOAD (R455, R456): the host's image. -/
def execBootImageLoad (image : BootImage) (s : State) : Out := .next (State.boot { s with imageCame := true } image)

/-- BOOT_FLASH_TIMEOUT (R455): no host image has come within 1 s; the image that flash holds is offered. -/
def execBootFlashTimeout (image : BootImage) (s : State) : Out :=
  if s.clock < 1000000000 ∨ s.imageCame = true then .next s else .next (s.boot image)

/-- ATTESTATION_COMMAND (R456): the public key, the serial number, MEAS and the signature, as the mailbox's answer. -/
def execAttestationCommand (nonce : List Byte) (s : State) : Out :=
  if nonce.length ≠ 32 then .next s
  else .next (s.toHost 0 0x200000
    (leBytes 32 (Config.edPublic Config.deviceSeed).toNat ++ word Config.serial ++ s.meas
      ++ leBytes 64 (Config.edSign Config.deviceSeed (s.meas ++ nonce ++ word Config.serial)).toNat))

/-! ### Errors (R459, R460) -/

/-- CORRECTED_ERROR (R435, R460): counted; past the threshold a replacement is asked for; the launch that read the data is
corrected. -/
def execCorrectedError (reader : Option (BitVec 7)) (s : State) : Out :=
  let old := (s.devGet 0x10A).toNat
  let new := (old + 1) % 2 ^ 32
  let limit := (s.devGet 0x10B).toNat
  let s := match reader with | some k => s.correctLaunch (s.coreAt k).launchKey | none => s
  let s := s.devPut 0x10A (BitVec.ofNat 64 new)
  .next (if limit ≠ 0 ∧ old ≤ limit ∧ limit < new then s.replacement 3 else s)

/-- R459: the dump's words for core k. -/
def State.dumpCore (s : State) (k : Nat) : List Byte :=
  let c := s.coreAt (BitVec.ofNat 7 k)
  word (c.crGet 0) ++ word (c.crGet 2) ++ word (c.crGet 3) ++ word (c.crGet 4) ++ word (c.crGet 0x0C0)
    ++ word (c.crGet 0x00B) ++ word (c.crGet 0x009) ++ word (c.crGet 0x00A)

/-- R459: the dump's words for slice k: waiting misses, parked requests, held updates in the Rack and in the spill area. -/
def State.dumpSlice (s : State) (k : Nat) : List Byte :=
  leBytes 8 (s.misses.countP fun l => s.sliceAt (l * 256) == k) ++ leBytes 8 (s.waiters.countP fun w => s.sliceAt w.qpa == k)
    ++ leBytes 8 (s.heldUpds.countP fun u => u.slice.toNat == k && u.spot.isNone)
    ++ leBytes 8 (s.heldUpds.countP fun u => u.slice.toNat == k && u.spot.isSome)

/-- R459: the pieces of the dump, by offset. -/
def State.dump (s : State) (cause : BitVec 8) : List (Nat × List Byte) :=
  let links (inward : Bool) : List Byte := (List.range 256).flatMap fun n => word (s.link inward (BitVec.ofNat 8 n)).status
  [(0x0000, leBytes 8 (0xDEAD + cause.toNat * 2 ^ 16) ++ word s.time ++ word (s.readDev 0x100)),
    (0x1000, (List.range 128).flatMap s.dumpCore), (0x3000, (List.range 64).flatMap s.dumpSlice),
    (0x3800, links false), (0x4000, links true)]

/-- R459: both controllers stop, the dump is written, FATAL sets, vector EVVEC[6] goes out. -/
def State.fatal (s : State) (cause : BitVec 8) : State :=
  let base := bitsOf (s.devGet 0x106) 20 26 * 2 ^ 20
  let s : State := { s with east := { s.east with stopped := true }, west := { s.west with stopped := true } }
  let s := (s.dump cause).foldl (fun s p => s.deviceWrite false 0 (base + p.1) p.2) s
  (s.devPut 0x100 (s.devGet 0x100 ||| 2#64)).sendMsix (BitVec.ofNat 6 (bitsOf (s.devGet 0x109) 30 6))

/-- FATAL_ERROR (R459). -/
def execFatalError (cause : BitVec 8) (s : State) : Out := .next (s.fatal cause)

/-- CORE_OR_SLICE_RETIRED (R460). -/
def execCoreOrSliceRetired (slice : Bool) (number : BitVec 7) (s : State) : Out :=
  let s : State := if slice then { s with retiredSlices := (number.setWidth 6) :: s.retiredSlices.filter (· != number.setWidth 6) }
    else { s with retiredCores := number :: s.retiredCores.filter (· != number) }
  .next (s.replacement 2)

/-! ### Resets (R5, R459) -/

/-- The machine after device reset; the schedule and the counter of free values go on, and what the host has received stays
with it. -/
def State.afterReset (s : State) : State :=
  { State.reset with agenda := s.agenda, turn := s.turn, picks := s.picks, tick := s.tick, hostWrites := s.hostWrites, hostReads := s.hostReads, answers := s.answers, msixSent := s.msixSent }

/-- DEVICE_RESET (R5): not out of the fatal state, which only a function-level reset leaves (R459). -/
def execDeviceReset (s : State) : Out := .next (if (s.devGet 0x100).getLsbD 1 then s else s.afterReset)

/-- FUNCTION_LEVEL_RESET (R459). -/
def execFunctionLevelReset (s : State) : Out := .next s.afterReset

end Sys2Proof.Machine
end

