-- ==== Sys2Proof/Machine/Firmware.lean ====
section
/-! DEFINITION. The processors of the stream controllers (R62, R431, R459): the bundles of their firmware are fetched, checked
and, as far as the spec says what they do there, executed. -/

namespace Sys2Proof.Machine

/-- R62, R431: the check of one slot on a controller. -/
def cpuSlotCheck (k : Nat) (r : Decoded) : Option DTrap :=
  match r with
  | .ok .nop => none
  | .error .illegalOpcode => some ⟨0x01#8, k, 0⟩
  | r =>
    if 2 ≤ k ∧ k ≤ 5 then some ⟨0x01#8, k, 0⟩
    else match r with
      | .error _ => some ⟨0x02#8, k, 0⟩
      | .ok (.launch _) | .ok (.chwait _) | .ok (.digest _) => some ⟨0x01#8, k, 0⟩
      | .ok (.sleep _) => none
      | .ok i => (levelCheck true i).map fun cause => ⟨cause, k, 0⟩

/-- R62, R64: the first rule that a bundle breaks on a controller. -/
def CoreState.cpuCheck (c : CoreState) (bs : List Byte) (rs : List (Nat × Decoded)) (mine : List NameItem) : Option DTrap :=
  match headerCheck bs rs with
  | some t => some t
  | none =>
    match rs.findSome? fun r => cpuSlotCheck r.1 r.2 with
    | some t => some t
    | none =>
      match bundleCheck c (slotWord bs 0) (okInstrs rs) with
      | some t => some t
      | none => groupCheck c mine

/-- The S and C instructions that need more of a core than a controller has (log entry 38): windows, contexts, the frame engine. They
do nothing here. -/
def cpuSkips : Instr → Bool
  | .rwopen _ | .rwclose _ | .ctxsv _ | .ctxld _ | .wmark _ => true
  | i => isFrame i

/-- The processor of a controller replaced. -/
def State.setCpu (s : State) (die : Bool) (c : CoreState) (begun : Bool) : State := s.updCtl die fun k => { k with cpu := c, begun := begun }

/-- R459: a trap of a controller; a double trap is fatal to the device. -/
def State.cpuTrap (s : State) (die : Bool) (c : CoreState) (t : DTrap) : State :=
  if c.inTrap then s.fatal 1#8
  else s.setCpu die (c.enterTrap ⟨t.cause, c.pc, BitVec.ofNat 64 t.t0, BitVec.ofNat 64 t.t1, 0#64, 0#64⟩ 0#8 none [] [] []) false

/-- SLEEP (R431, R445), as the controller of the die of the core whose turn it is executes it, with its own registers; a core's own
SLEEP traps at dispatch. -/
def execSleep (o : OpS1) (s : State) : Out :=
  let die := dieOf s.core.id
  let k := s.ctl die
  if k.stopped || k.cpu.mode != .running || !k.cpu.on o.g then .next s
  else match s.askSleep die (k.cpu.sVal o.p).toNat with
    | some t => .next t
    | none => .next (s.cpuTrap die k.cpu ⟨0x0B#8, 1, 0⟩)

/-! Below, `s` is the device with a processor in the place of the core whose turn it is. -/

/-- An access of a controller has passed its check: none of its addresses names a store, a scratchpad or a deck (log entry
38). -/
def State.cpuAt (s : State) (r : Except AccFault Place) (a : Word64) (k : AccKind) (go : Nat → Out) : Out :=
  match r with
  | .error f => s.accTrap f k 0 a 0#64
  | .ok p => if isPhys p.loc then go p.loc else s.accTrap ⟨0x0B#8, 0#64⟩ k 0 a 0#64

/-- A store of a controller: it performs as it issues, or its slice forwards it to a remote window. -/
def State.cpuWrite (s : State) (die : Bool) (a : Word64) (loc : Nat) (bs : List Byte) : State :=
  if isRemote loc then
    let (u, s) := s.fresh
    { s with reqs := s.reqs ++ [⟨u, .controller die, s.core.cur.pc, 0, 1, .store, [⟨loc, a, bs.length, 0, bs⟩], false, s.entryTag⟩] }
  else s.performWrite none loc bs

/-- An atomic of a controller; one on a remote window waits for its answer (R137). -/
def State.cpuAtom (s : State) (a : Word64) (n : Nat) (far : Bool) (e : ElemOp) (v cmp : Word64) (d : BitVec 6) (ty : BitVec 3) : Out :=
  s.cpuAt (s.placeAtom a n far (e.ty == 0)) a .at fun loc =>
    if isRemote loc then s.farWait a loc n (.atom e cmp .outside) (leBytes n v.toNat) fun s bs => .next (s.putS d (slValue ty (leNat bs)))
    else s.directRead a loc n fun s bs => .next ((s.applyElem none e loc n v.toNat cmp.toNat).putS d (slValue ty (leNat bs)))

/-- Loads, stores, atomics and the waiting for them: a controller's accesses have performed when its instruction has. -/
def State.cpuMemory (s : State) (die : Bool) (i : Instr) : Option Out :=
  match i with
  | .ld o | .ldacq o =>
    let (a, w) := (slAddr s.core o, slWidth o.ty)
    some <| s.whenOn o.g <| s.cpuAt (s.place a w w .rd) a .rd fun loc =>
      s.directRead a loc w fun s bs => .next (s.putS o.r (slValue o.ty (leNat bs)))
  | .st o | .strel o =>
    let (a, w) := (slAddr s.core o, slWidth o.ty)
    some <| s.whenOn o.g <| s.cpuAt (s.place a w w .wr) a .wr fun loc => .next (s.cpuWrite die a loc (storeBytes s.core o))
  | .atom64 o => some <| s.whenOn o.g <|
    s.cpuAtom (s.core.sVal o.a) 8 (atomFar o.f) (atomOp o.f.toNat 3 3 true) (s.core.sVal o.b) (s.core.sVal o.d) o.d 6#3
  | .atom32 o => some <| s.whenOn o.g <|
    s.cpuAtom (s.core.sVal o.a) 4 (atomFar o.f) (atomOp o.f.toNat 1 2 false) (s.core.sVal o.b) (s.core.sVal o.d) o.d 4#3
  | .atomn o => some <| s.whenOn o.g <|
    s.cpuAtom (s.core.sVal o.a) 1 false ⟨16 + 2 * o.o.toNat + (if o.n then 1 else 0), 2, false, false, 0⟩ (s.core.sVal o.b) 0#64 o.d 1#3
  | .fwait _ | .drain _ | .join _ => some (.next s)
  | _ => none

/-- What becomes of an instruction of a controller: it waits, with what it has asked for, or it has ended with a processor. -/
inductive CpuEnd where
  | wait (s : State)
  | done (s : State) (c : CoreState)

/-- A result that changes the processor only. -/
def cpuOnly (s : State) (o : Out) : CpuEnd :=
  match o with | .next t => if t.core.held then .wait s else .done s t.core.finish | _ => .wait s

/-- An instruction of a controller waits: what it has asked slices for goes to them as a controller's request (log entries 15 and 38);
the core whose turn it is was `s.core`. -/
def cpuWait (s t : State) (die : Bool) : CpuEnd :=
  let mine (p : Packet) : Bool := decide (s.uid ≤ p.uid)
  .wait (State.updCtl { t with
    core := s.core
    packets := t.packets.filter (!mine ·)
    reqs := t.reqs ++ (t.packets.filter mine).filterMap fun p => p.payload.map fun r => { r with agent := .controller die } }
    die fun k => { k with cpu := { k.cpu with farReads := t.core.farReads } })

/-- A result that changes the device as well; the core whose turn it is was `s.core`. -/
def cpuAll (s : State) (die : Bool) (o : Out) : CpuEnd :=
  match o with | .next t => if t.core.held then cpuWait s t die else .done { t with core := s.core } t.core.finish | _ => .wait s

/-- A queue instruction of a controller (R368 to R375): it waits where a core's request would be parked. -/
def State.cpuQueue (s t : State) (die : Bool) (op : QOp) (p q : BitVec 6) (k : BitVec 3) : CpuEnd :=
  let handle := t.core.sVal p
  let v := t.core.sVal q
  let code := bitsOf handle 0 4
  let hk : AccKind := match op with | .qstat | .qpeek => .rd | _ => .wr
  let bk : AccKind := if op.producer then .rd else .wr
  let trap (f : AccFault) (k : AccKind) (a : Word64) : CpuEnd := cpuOnly s (t.accTrap f k 0 a 0#64)
  match t.checkHandle handle hk with
  | .error f => trap f hk handle
  | .ok b =>
    if op = .qinit ∧ initBad handle v = true then trap ⟨0x0B#8, 0#64⟩ hk handle
    else match (if op.moves && code != 0 && decide (code ≤ 9) then t.bufferPieces bk v (2 ^ code) else .ok []) with
      | .error e => trap e.2 bk e.1
      | .ok ps =>
        match ps.find? fun x => !isPhys x.2.loc with
        | some x => trap ⟨0x0B#8, 0#64⟩ bk x.1
        | none =>
          let ask (u : State) (elem : List Byte) : CpuEnd :=
            let (n, w) := { u with core := s.core }.fresh
            let r : QReq := ⟨n, .controller die, op, handle, b.loc, t.core.crGet 0x018, t.core.sup, elem, .record false, 0, t.core.cur.pc, 0, 0, w.cycle⟩
            let (w, a) := (w.purge b.loc).acceptQueue r
            match a with
            | .parked => .wait s
            | .fault cause t0 t1 t2 t3 => cpuOnly w (t.trap cause (BitVec.ofNat 64 t0) t1 t2 t3)
            | .refused _ => .done w ((t.upd (·.lateG t.core.cur.seq k 0#32)).core.finish)
            | .status x => .done w ((t.upd (·.lateS t.core.cur.seq q x)).core.finish)
            | .elem bs bad =>
              let w := match op with | .enq | .enqn => w.wakeAfter b.loc true 4 | .deq | .deqn => w.wakeAfter b.loc false 4 | _ => w
              if bad then cpuOnly w (t.consumeHere b.loc handle)
              else
                let c := (t.upd (·.lateG t.core.cur.seq k 0xFFFFFFFF#32)).core
                if !op.returns then .done w c.finish
                else if ps.isEmpty then .done w (c.lateS t.core.cur.seq q (BitVec.ofNat 64 (leNat bs))).finish
                else .done (ps.zipIdx.foldl (fun w x => w.cpuWrite die x.1.1 x.1.2.loc ((bs.drop (8 * x.2)).take 8)) w) c.finish
          if !op.producer then ask t (if op == .qinit then word v else [])
          else if ps.isEmpty then ask t (word v)
          else match t.gather ps [] fun u bs => .next (u.upd fun c => { c with cur := { c.cur with oldMem := [(0, bs)] } }) with -- the bytes, handed on
            | .next u => if u.core.held then cpuWait s u die else match u.core.cur.oldMem with | (_, bs) :: _ => ask u bs | [] => cpuOnly s (.next u)
            | _ => .wait s

/-- What a queue instruction asks for. -/
def queueForm : Instr → Option (QOp × BitVec 4 × BitVec 6 × BitVec 6 × BitVec 3)
  | .qinit o => some (.qinit, o.g, o.p, o.q, 0#3)
  | .enq o => some (.enq, o.g, o.p, o.q, 0#3)
  | .deq o => some (.deq, o.g, o.p, o.q, 0#3)
  | .enqn o => some (.enqn, o.g, o.p, o.q, o.k)
  | .deqn o => some (.deqn, o.g, o.p, o.q, o.k)
  | .qpeek o => some (.qpeek, o.g, o.p, o.q, 0#3)
  | .qstat o => some (.qstat, o.g, o.p, o.q, 0#3)
  | .qclose o => some (.qclose, o.g, o.p, 0#6, 0#3)
  | _ => none

/-- A copy or barrier instruction of a controller: what its check lets it queue performs at once, from and to memory only; of the
barriers it has its own. -/
def cpuCopy (s t : State) (o : Out) : CpuEnd :=
  match o with
  | .next u =>
    match u.core.ops.find? fun p => decide (t.uid ≤ p.uid) with
    | none => cpuOnly s o
    | some p =>
      let c := { u.core with ops := t.core.ops }
      if p.segs.any fun g => (g.dsts ++ (if g.zero then [] else [g.src])).any fun l => !isPhys l then
        cpuOnly s (t.accTrap ⟨0x0B#8, 0#64⟩ .wr 0 0#64 0#64)
      else
        let v := (p.regs.drop 1).headD 0
        match p.instr with
        | .binit i => .done s (c.initBar i.b.toNat (BitVec.ofNat 32 v)).finish
        | .arrive i => .done s (c.addBar i.b.toNat v).finish
        | .badd i => .done s (c.addBar i.b.toNat v).finish
        | _ =>
          let c := match countBar p.instr with | some b => c.addBar b.toNat (p.segs.map fun (g : Seg) => g.n * g.dsts.length).sum | none => c
          .done { u.copied p with core := s.core } c.finish
  | _ => .wait s

/-- A launch instruction of a controller (R431, R444). -/
def cpuSelected (s t : State) (q : BitVec 6) (die : Bool) (r : Selected) : CpuEnd :=
  match r with
  | .bad => cpuOnly s (t.accTrap ⟨0x0B#8, 0#64⟩ .rd 0 0#64 0#64)
  | .wait => .wait s
  | .begun u => .wait (u.updCtl die fun k => { k with begun := true })
  | .done u v => .done u (t.putS q (BitVec.ofNat 64 v)).core.finish

/-- The instruction of an entry of a controller's bundle; `run` executes an instruction. -/
def State.cpuExec (run : Instr → State → Out) (s : State) (die : Bool) (c : CoreState) (b : Bundle) (e : Entry) : CpuEnd :=
  let t : State := { s with core := c.begin b e }
  let none' : CpuEnd := .done s t.core.finish
  match e.instr with
  | .preempt o => if c.on o.g then cpuSelected s t o.q die (s.preempt (s.ctl die).begun (c.sVal o.p).toNat) else none'
  | .resume o => if c.on o.g then cpuSelected s t o.q die (s.resume (c.sVal o.p).toNat) else none'
  | .sleep o =>
    if c.on o.g then (match s.askSleep die (c.sVal o.p).toNat with
      | none => cpuOnly s (t.accTrap ⟨0x0B#8, 0#64⟩ .rd 0 0#64 0#64)
      | some u => .done u t.core.finish) else none'
  | .emrd o =>
    let v := (c.sVal o.p).toNat
    if !c.on o.g then none'
    else if v / 256 ≠ 0 then cpuOnly s (t.accTrap ⟨0x0B#8, 0#64⟩ .rd 0 0#64 0#64)
    else .done (s.meterRead v) (t.putS o.q (Cells.get 0#64 s.meters (v % 128))).core.finish
  | .mtc o =>
    let n := o.c.toNat
    if !c.on o.g || !crOfDevice n then cpuOnly s (run e.instr t)
    else if s.writeWaits n (c.sVal o.a) then .wait s else .done (s.writeReg n (c.sVal o.a)) t.core.finish
  | .halt o => if c.on o.g then .done s { t.core.finish with mode := .halted } else none'
  | .linkst _ | .lnkcfg _ | .talign _ => cpuAll s die (run e.instr t)
  | i =>
    if cpuSkips i then none'
    else match t.cpuMemory die i with
      | some o => cpuAll s die o
      | none => match queueForm i with
        | some (op, g, p, q, k) => if c.on g then s.cpuQueue t die op p q k else none'
        | none => if 6 ≤ e.slot then cpuCopy s t (run i t) else cpuOnly s (run i t)

/-- The S entry of a bundle and those of the C slots, in turn; a trap ends them, and a wait takes back what the bundle has done. -/
def State.cpuEntries (run : Instr → State → Out) (s0 s : State) (die : Bool) (c : CoreState) : List Nat → State
  | [] => s.setCpu die { c with bundles := [], past := [] } false
  | k :: ks =>
    match c.bundles.head? with
    | none => s.setCpu die { c with past := [] } false
    | some b =>
      match b.entries.find? (·.slot == k) with
      | none => s.cpuEntries run s0 die c ks
      | some e =>
        match s.cpuExec run die c b e with
        | .wait u => if k = 1 then u else s0
        | .done u d => if d.mode = .dead then u.fatal 1#8 else u.cpuEntries run s0 die d ks

/-- R62: a controller's processor fetches its next bundle, checks it and executes its S and C slots. -/
def State.cpuStep (run : Instr → State → Out) (s : State) (die : Bool) : State :=
  let k := s.ctl die
  let c := k.cpu
  if k.stopped || k.asleep != 0 || c.mode != .running || !isRaw c.pc.toNat then s
  else
    let bs := s.bytes c.pc.toNat 32
    let rs := decodeBundle bs
    let is := okInstrs rs
    let mine := is.flatMap fun p => itemsOf c (slotWord bs 0) p.1 p.2
    match (c.cpuCheck bs rs mine).or (loopCheck c (slotWord bs 0) is) with
    | some t => s.cpuTrap die c t
    | none => s.cpuEntries run s die (c.place bs is mine) [1, 6, 7]

/-- Both controllers. -/
def State.firmware (run : Instr → State → Out) (s : State) : State := (s.cpuStep run false).cpuStep run true

end Sys2Proof.Machine
end

