-- ==== Sys2Proof/Machine/Dispatch.lean ====
section
/-! DEFINITION. The meaning of every instruction: one arm for each constructor, each a direct call of its meaning. -/

namespace Sys2Proof.Machine

def exec (i : Instr) (s : State) : Host.Outcome State Fault Refusal :=
  match i with
  | .nop => Sys2Proof.Machine.execNop s
  | .add o => Sys2Proof.Machine.execAdd o s
  | .sub o => Sys2Proof.Machine.execSub o s
  | .mul o => Sys2Proof.Machine.execMul o s
  | .mulh o => Sys2Proof.Machine.execMulh o s
  | .mulhu o => Sys2Proof.Machine.execMulhu o s
  | .div o => Sys2Proof.Machine.execDiv o s
  | .divu o => Sys2Proof.Machine.execDivu o s
  | .rem o => Sys2Proof.Machine.execRem o s
  | .remu o => Sys2Proof.Machine.execRemu o s
  | .and o => Sys2Proof.Machine.execAnd o s
  | .or o => Sys2Proof.Machine.execOr o s
  | .xor o => Sys2Proof.Machine.execXor o s
  | .shl o => Sys2Proof.Machine.execShl o s
  | .shr o => Sys2Proof.Machine.execShr o s
  | .sar o => Sys2Proof.Machine.execSar o s
  | .rotr o => Sys2Proof.Machine.execRotr o s
  | .addS32 o => Sys2Proof.Machine.execAddS32 o s
  | .subS32 o => Sys2Proof.Machine.execSubS32 o s
  | .mulS32 o => Sys2Proof.Machine.execMulS32 o s
  | .mulhS32 o => Sys2Proof.Machine.execMulhS32 o s
  | .mulhuS32 o => Sys2Proof.Machine.execMulhuS32 o s
  | .divS32 o => Sys2Proof.Machine.execDivS32 o s
  | .divuS32 o => Sys2Proof.Machine.execDivuS32 o s
  | .remS32 o => Sys2Proof.Machine.execRemS32 o s
  | .remuS32 o => Sys2Proof.Machine.execRemuS32 o s
  | .andS32 o => Sys2Proof.Machine.execAndS32 o s
  | .orS32 o => Sys2Proof.Machine.execOrS32 o s
  | .xorS32 o => Sys2Proof.Machine.execXorS32 o s
  | .shlS32 o => Sys2Proof.Machine.execShlS32 o s
  | .shrS32 o => Sys2Proof.Machine.execShrS32 o s
  | .sarS32 o => Sys2Proof.Machine.execSarS32 o s
  | .rotrS32 o => Sys2Proof.Machine.execRotrS32 o s
  | .min o => Sys2Proof.Machine.execMin o s
  | .minu o => Sys2Proof.Machine.execMinu o s
  | .max o => Sys2Proof.Machine.execMax o s
  | .maxu o => Sys2Proof.Machine.execMaxu o s
  | .clz o => Sys2Proof.Machine.execClz o s
  | .ctz o => Sys2Proof.Machine.execCtz o s
  | .popc o => Sys2Proof.Machine.execPopc o s
  | .bswap o => Sys2Proof.Machine.execBswap o s
  | .andn o => Sys2Proof.Machine.execAndn o s
  | .orn o => Sys2Proof.Machine.execOrn o s
  | .cmp o => Sys2Proof.Machine.execCmp o s
  | .cmpi o => Sys2Proof.Machine.execCmpi o s
  | .gand o => Sys2Proof.Machine.execGand o s
  | .gor o => Sys2Proof.Machine.execGor o s
  | .gxor o => Sys2Proof.Machine.execGxor o s
  | .gandn o => Sys2Proof.Machine.execGandn o s
  | .gset o => Sys2Proof.Machine.execGset o s
  | .gget o => Sys2Proof.Machine.execGget o s
  | .sel o => Sys2Proof.Machine.execSel o s
  | .addi o => Sys2Proof.Machine.execAddi o s
  | .andi o => Sys2Proof.Machine.execAndi o s
  | .ori o => Sys2Proof.Machine.execOri o s
  | .xori o => Sys2Proof.Machine.execXori o s
  | .shli o => Sys2Proof.Machine.execShli o s
  | .shri o => Sys2Proof.Machine.execShri o s
  | .sari o => Sys2Proof.Machine.execSari o s
  | .muli o => Sys2Proof.Machine.execMuli o s
  | .movi o => Sys2Proof.Machine.execMovi o s
  | .movh o => Sys2Proof.Machine.execMovh o s
  | .ld o => Sys2Proof.Machine.execLd o s
  | .st o => Sys2Proof.Machine.execSt o s
  | .ldacq o => Sys2Proof.Machine.execLdacq o s
  | .strel o => Sys2Proof.Machine.execStrel o s
  | .atom64 o => Sys2Proof.Machine.execAtom64 o s
  | .atom32 o => Sys2Proof.Machine.execAtom32 o s
  | .atomn o => Sys2Proof.Machine.execAtomn o s
  | .qinit o => Sys2Proof.Machine.execQinit o s
  | .enq o => Sys2Proof.Machine.execEnq o s
  | .deq o => Sys2Proof.Machine.execDeq o s
  | .enqn o => Sys2Proof.Machine.execEnqn o s
  | .deqn o => Sys2Proof.Machine.execDeqn o s
  | .qpeek o => Sys2Proof.Machine.execQpeek o s
  | .qstat o => Sys2Proof.Machine.execQstat o s
  | .qclose o => Sys2Proof.Machine.execQclose o s
  | .rwopen o => Sys2Proof.Machine.execRwopen o s
  | .rwclose o => Sys2Proof.Machine.execRwclose o s
  | .fence o => Sys2Proof.Machine.execFence o s
  | .fwait o => Sys2Proof.Machine.execFwait o s
  | .drain o => Sys2Proof.Machine.execDrain o s
  | .join o => Sys2Proof.Machine.execJoin o s
  | .xset o => Sys2Proof.Machine.execXset o s
  | .xadd o => Sys2Proof.Machine.execXadd o s
  | .view o => Sys2Proof.Machine.execView o s
  | .shw o => Sys2Proof.Machine.execShw o s
  | .slk o => Sys2Proof.Machine.execSlk o s
  | .mfc o => Sys2Proof.Machine.execMfc o s
  | .mtc o => Sys2Proof.Machine.execMtc o s
  | .br o => Sys2Proof.Machine.execBr o s
  | .jmp o => Sys2Proof.Machine.execJmp o s
  | .jmpi o => Sys2Proof.Machine.execJmpi o s
  | .call o => Sys2Proof.Machine.execCall o s
  | .ret o => Sys2Proof.Machine.execRet o s
  | .loop o => Sys2Proof.Machine.execLoop o s
  | .lnsetBound o => Sys2Proof.Machine.execLnsetBound o s
  | .lnsetBind o => Sys2Proof.Machine.execLnsetBind o s
  | .lnsetClear o => Sys2Proof.Machine.execLnsetClear o s
  | .loopn o => Sys2Proof.Machine.execLoopn o s
  | .rpt o => Sys2Proof.Machine.execRpt o s
  | .margin o => Sys2Proof.Machine.execMargin o s
  | .segOpen o => Sys2Proof.Machine.execSegOpen o s
  | .segClose o => Sys2Proof.Machine.execSegClose o s
  | .cont o => Sys2Proof.Machine.execCont o s
  | .endcont o => Sys2Proof.Machine.execEndcont o s
  | .trap o => Sys2Proof.Machine.execTrap o s
  | .tret o => Sys2Proof.Machine.execTret o s
  | .halt o => Sys2Proof.Machine.execHalt o s
  | .yield o => Sys2Proof.Machine.execYield o s
  | .waitev o => Sys2Proof.Machine.execWaitev o s
  | .gate o => Sys2Proof.Machine.execGate o s
  | .ctxsv o => Sys2Proof.Machine.execCtxsv o s
  | .ctxld o => Sys2Proof.Machine.execCtxld o s
  | .bwait o => Sys2Proof.Machine.execBwait o s
  | .wmwait o => Sys2Proof.Machine.execWmwait o s
  | .wmwaitAll o => Sys2Proof.Machine.execWmwaitAll o s
  | .launch o => Sys2Proof.Machine.execLaunch o s
  | .chwait o => Sys2Proof.Machine.execChwait o s
  | .preempt o => Sys2Proof.Machine.execPreempt o s
  | .resume o => Sys2Proof.Machine.execResume o s
  | .emrd o => Sys2Proof.Machine.execEmrd o s
  | .digest o => Sys2Proof.Machine.execDigest o s
  | .sleep o => Sys2Proof.Machine.execSleep o s
  | .linkst o => Sys2Proof.Machine.execLinkst o s
  | .lnkcfg o => Sys2Proof.Machine.execLnkcfg o s
  | .talign o => Sys2Proof.Machine.execTalign o s
  | .vadd o => Sys2Proof.Machine.execVadd o s
  | .vsub o => Sys2Proof.Machine.execVsub o s
  | .vmul o => Sys2Proof.Machine.execVmul o s
  | .vfma o => Sys2Proof.Machine.execVfma o s
  | .vmin o => Sys2Proof.Machine.execVmin o s
  | .vmax o => Sys2Proof.Machine.execVmax o s
  | .vabs o => Sys2Proof.Machine.execVabs o s
  | .vneg o => Sys2Proof.Machine.execVneg o s
  | .vdiv o => Sys2Proof.Machine.execVdiv o s
  | .vsqrt o => Sys2Proof.Machine.execVsqrt o s
  | .vrcp o => Sys2Proof.Machine.execVrcp o s
  | .vrsq o => Sys2Proof.Machine.execVrsq o s
  | .vexp2 o => Sys2Proof.Machine.execVexp2 o s
  | .vlog2 o => Sys2Proof.Machine.execVlog2 o s
  | .vcmp o => Sys2Proof.Machine.execVcmp o s
  | .vsel o => Sys2Proof.Machine.execVsel o s
  | .vand o => Sys2Proof.Machine.execVand o s
  | .vor o => Sys2Proof.Machine.execVor o s
  | .vxor o => Sys2Proof.Machine.execVxor o s
  | .vnot o => Sys2Proof.Machine.execVnot o s
  | .vshl o => Sys2Proof.Machine.execVshl o s
  | .vshr o => Sys2Proof.Machine.execVshr o s
  | .vsar o => Sys2Proof.Machine.execVsar o s
  | .vcvt o => Sys2Proof.Machine.execVcvt o s
  | .vpack o => Sys2Proof.Machine.execVpack o s
  | .vunpk o => Sys2Proof.Machine.execVunpk o s
  | .vperm o => Sys2Proof.Machine.execVperm o s
  | .vbcstLane o => Sys2Proof.Machine.execVbcstLane o s
  | .vbcstScalar o => Sys2Proof.Machine.execVbcstScalar o s
  | .vred o => Sys2Proof.Machine.execVred o s
  | .vcadd o => Sys2Proof.Machine.execVcadd o s
  | .vcacc o => Sys2Proof.Machine.execVcacc o s
  | .vfade o => Sys2Proof.Machine.execVfade o s
  | .vqdeq o => Sys2Proof.Machine.execVqdeq o s
  | .xmov o => Sys2Proof.Machine.execXmov o s
  | .vmov o => Sys2Proof.Machine.execVmov o s
  | .cupseed o => Sys2Proof.Machine.execCupseed o s
  | .cupstat o => Sys2Proof.Machine.execCupstat o s
  | .vld o => Sys2Proof.Machine.execVld o s
  | .vst o => Sys2Proof.Machine.execVst o s
  | .vgth o => Sys2Proof.Machine.execVgth o s
  | .vsct o => Sys2Proof.Machine.execVsct o s
  | .vatom o => Sys2Proof.Machine.execVatom o s
  | .mbld o => Sys2Proof.Machine.execMbld o s
  | .mbsw o => Sys2Proof.Machine.execMbsw o s
  | .mma o => Sys2Proof.Machine.execMma o s
  | .mmaz o => Sys2Proof.Machine.execMmaz o s
  | .mscl o => Sys2Proof.Machine.execMscl o s
  | .macc o => Sys2Proof.Machine.execMacc o s
  | .mzero o => Sys2Proof.Machine.execMzero o s
  | .mout o => Sys2Proof.Machine.execMout o s
  | .mtap o => Sys2Proof.Machine.execMtap o s
  | .lcfgSet o => Sys2Proof.Machine.execLcfgSet o s
  | .lcfgLoad o => Sys2Proof.Machine.execLcfgLoad o s
  | .lcfgSave o => Sys2Proof.Machine.execLcfgSave o s
  | .lcfgClear o => Sys2Proof.Machine.execLcfgClear o s
  | .lscan o => Sys2Proof.Machine.execLscan o s
  | .lscanc o => Sys2Proof.Machine.execLscanc o s
  | .lgate o => Sys2Proof.Machine.execLgate o s
  | .lmat o => Sys2Proof.Machine.execLmat o s
  | .cpy o => Sys2Proof.Machine.execCpy o s
  | .cpyh o => Sys2Proof.Machine.execCpyh o s
  | .cpym o => Sys2Proof.Machine.execCpym o s
  | .cpyr o => Sys2Proof.Machine.execCpyr o s
  | .cpyg o => Sys2Proof.Machine.execCpyg o s
  | .cpyd o => Sys2Proof.Machine.execCpyd o s
  | .wmark o => Sys2Proof.Machine.execWmark o s
  | .binit o => Sys2Proof.Machine.execBinit o s
  | .arrive o => Sys2Proof.Machine.execArrive o s
  | .badd o => Sys2Proof.Machine.execBadd o s
  | .frld o => Sys2Proof.Machine.execFrld o s
  | .frst o => Sys2Proof.Machine.execFrst o s
  | .frsw o => Sys2Proof.Machine.execFrsw o s
  | .snap o => Sys2Proof.Machine.execSnap o s
  | .fork o => Sys2Proof.Machine.execFork o s
  | .rback o => Sys2Proof.Machine.execRback o s
  | .frel o => Sys2Proof.Machine.execFrel o s
  | .hpapp o => Sys2Proof.Machine.execHpapp o s
  | .hpmap o => Sys2Proof.Machine.execHpmap o s
  | .frstat o => Sys2Proof.Machine.execFrstat o s
  | .bundleDispatch => Sys2Proof.Machine.execBundleDispatch s
  | .fetchMissFill => Sys2Proof.Machine.execFetchMissFill s
  | .trapEntry => Sys2Proof.Machine.execTrapEntry s
  | .wholeCoreStall => Sys2Proof.Machine.execWholeCoreStall s
  | .watchdogExpiry => Sys2Proof.Machine.execWatchdogExpiry s
  | .timerEvent => Sys2Proof.Machine.execTimerEvent s
  | .loadReplyArrival => Sys2Proof.Machine.execLoadReplyArrival s
  | .cupGenerate => Sys2Proof.Machine.execCupGenerate s
  | .engineWakeDone engine => Sys2Proof.Machine.execEngineWakeDone engine s
  | .copyCompletion unit index => Sys2Proof.Machine.execCopyCompletion unit index s
  | .mOperationDone => Sys2Proof.Machine.execMOperationDone s
  | .nOperationDone => Sys2Proof.Machine.execNOperationDone s
  | .frameOperationDone => Sys2Proof.Machine.execFrameOperationDone s
  | .lookaheadPeek => Sys2Proof.Machine.execLookaheadPeek s
  | .lookaheadLoadDone => Sys2Proof.Machine.execLookaheadLoadDone s
  | .queueRequest => Sys2Proof.Machine.execQueueRequest s
  | .withdrawalNotice => Sys2Proof.Machine.execWithdrawalNotice s
  | .backgroundHeadRead die queue => Sys2Proof.Machine.execBackgroundHeadRead die queue s
  | .sliceReadRequest => Sys2Proof.Machine.execSliceReadRequest s
  | .sliceWriteRequest => Sys2Proof.Machine.execSliceWriteRequest s
  | .sliceAtomicRequest => Sys2Proof.Machine.execSliceAtomicRequest s
  | .missFill line => Sys2Proof.Machine.execMissFill line s
  | .tileDecodeDone region tile => Sys2Proof.Machine.execTileDecodeDone region tile s
  | .lineEviction line => Sys2Proof.Machine.execLineEviction line s
  | .heldUpdateArrival => Sys2Proof.Machine.execHeldUpdateArrival s
  | .windowOpenAtSlice slice => Sys2Proof.Machine.execWindowOpenAtSlice slice s
  | .windowCloseAtSlice slice => Sys2Proof.Machine.execWindowCloseAtSlice slice s
  | .packetOverdue id => Sys2Proof.Machine.execPacketOverdue id s
  | .pipRevolution channel => Sys2Proof.Machine.execPipRevolution channel s
  | .packetArrival id => Sys2Proof.Machine.execPacketArrival id s
  | .endToEndAck id => Sys2Proof.Machine.execEndToEndAck id s
  | .resendTimeout id => Sys2Proof.Machine.execResendTimeout id s
  | .resetNoticeArrival cluster site => Sys2Proof.Machine.execResetNoticeArrival cluster site s
  | .flitReceived link seq crcOk => Sys2Proof.Machine.execFlitReceived link seq crcOk s
  | .linkReplay link => Sys2Proof.Machine.execLinkReplay link s
  | .lightLost inward link waves => Sys2Proof.Machine.execLightLost inward link waves s
  | .restripeDone inward link => Sys2Proof.Machine.execRestripeDone inward link s
  | .lightRestored inward link waves => Sys2Proof.Machine.execLightRestored inward link waves s
  | .linkTrained inward link => Sys2Proof.Machine.execLinkTrained inward link s
  | .remoteAccessArrival link kind slack offset data => Sys2Proof.Machine.execRemoteAccessArrival link kind slack offset data s
  | .remoteAckReturn id data poisoned => Sys2Proof.Machine.execRemoteAckReturn id data poisoned s
  | .remoteWaitTimeout id => Sys2Proof.Machine.execRemoteWaitTimeout id s
  | .quadDarkTimeout inward link quad => Sys2Proof.Machine.execQuadDarkTimeout inward link quad s
  | .placementDecision die => Sys2Proof.Machine.execPlacementDecision die s
  | .launchRecordDequeued die => Sys2Proof.Machine.execLaunchRecordDequeued die s
  | .launchStart => Sys2Proof.Machine.execLaunchStart s
  | .preemption core => Sys2Proof.Machine.execPreemption core s
  | .launchComplete die lid => Sys2Proof.Machine.execLaunchComplete die lid s
  | .meterUpdate => Sys2Proof.Machine.execMeterUpdate s
  | .sleepStateEntry die => Sys2Proof.Machine.execSleepStateEntry die s
  | .wake die => Sys2Proof.Machine.execWake die s
  | .hostMemoryAccess bar write offset data => Sys2Proof.Machine.execHostMemoryAccess bar write offset data s
  | .hostWindowCompletion id data failed => Sys2Proof.Machine.execHostWindowCompletion id data failed s
  | .queueWindowStagingWrite slot offset data => Sys2Proof.Machine.execQueueWindowStagingWrite slot offset data s
  | .queueWindowCommit slot => Sys2Proof.Machine.execQueueWindowCommit slot s
  | .queueWindowDeqn slot => Sys2Proof.Machine.execQueueWindowDeqn slot s
  | .doorbellWrite value => Sys2Proof.Machine.execDoorbellWrite value s
  | .hrstWrite value => Sys2Proof.Machine.execHrstWrite value s
  | .formatRegionWrite number value => Sys2Proof.Machine.execFormatRegionWrite number value s
  | .tbinvWrite value => Sys2Proof.Machine.execTbinvWrite value s
  | .frameRegisterWrite number value => Sys2Proof.Machine.execFrameRegisterWrite number value s
  | .sliceRegisterWrite number value => Sys2Proof.Machine.execSliceRegisterWrite number value s
  | .controllerRegisterWrite number value => Sys2Proof.Machine.execControllerRegisterWrite number value s
  | .vectorStatusAccess number value => Sys2Proof.Machine.execVectorStatusAccess number value s
  | .matrixStatusAccess number value => Sys2Proof.Machine.execMatrixStatusAccess number value s
  | .ladderStatusAccess number value => Sys2Proof.Machine.execLadderStatusAccess number value s
  | .evpendClear value => Sys2Proof.Machine.execEvpendClear value s
  | .frlqWrite value => Sys2Proof.Machine.execFrlqWrite value s
  | .registerWrite number value => Sys2Proof.Machine.execRegisterWrite number value s
  | .correctedError reader => Sys2Proof.Machine.execCorrectedError reader s
  | .fatalError cause => Sys2Proof.Machine.execFatalError cause s
  | .deviceReset => Sys2Proof.Machine.execDeviceReset s
  | .functionLevelReset => Sys2Proof.Machine.execFunctionLevelReset s
  | .bootImageLoad image => Sys2Proof.Machine.execBootImageLoad image s
  | .bootFlashTimeout image => Sys2Proof.Machine.execBootFlashTimeout image s
  | .attestationCommand nonce => Sys2Proof.Machine.execAttestationCommand nonce s
  | .linkAckReceived link seq => Sys2Proof.Machine.execLinkAckReceived link seq s
  | .timestampExchange link t1 t2 t3 t4 => Sys2Proof.Machine.execTimestampExchange link t1 t2 t3 t4 s
  | .coreOrSliceRetired slice number => Sys2Proof.Machine.execCoreOrSliceRetired slice number s
  | .releasedRequestReturn => Sys2Proof.Machine.execReleasedRequestReturn s

end Sys2Proof.Machine
end

