-- ==== Sys2Proof/Machine/Schedule.lean ====
section
/-! DEFINITION. The default schedule (log entry 2): which event comes next when no schedule is given and the core
whose turn it is has nothing to issue or to dispatch; the turn; and the passing of time. -/

namespace Sys2Proof.Machine

/-- Every entry found held may be tried again. -/
def CoreState.retry (c : CoreState) : CoreState :=
  { c with bundles := c.bundles.map fun b => { b with entries := b.entries.map fun e => { e with waiting := false } } }

/-- The same on every core with dispatched bundles. -/
def State.retryAll (s : State) : State :=
  { s with
    core := s.core.retry
    parked := s.parked.map fun c => match c.bundles with | [] => c | _ => c.retry }

/-- The turn goes to the next core that runs or has operations in its engines. -/
def State.rotate (s : State) : State :=
  match s.parked.find? fun c => c.mode == .running || !c.ops.isEmpty with
  | some c => { s with core := c, parked := s.parked.filter (·.id != c.id) ++ [s.core] }
  | none => s

/-! ### What may happen next -/

/-- `i` when `b`. -/
def also (b : Bool) (i : Instr) : List Instr := if b then [i] else []

/-- Events of the core whose turn it is. -/
def State.coreEvents (s : State) : List Instr :=
  let c := s.core
  let runs := c.mode == .running
  let misses := match s.fetch with | .miss _ => runs | _ => false
  let copies (eng : Nat) (unit : Bool) : List Instr :=
    match (c.unitItems eng).length with
    | 0 => []
    | 1 => [.copyCompletion unit 0]
    | n => [.copyCompletion unit 0, .copyCompletion unit (s.picks / 3 % n)]
  also misses .fetchMissFill
    ++ also (runs && decide (c.cupQ.length < 16)) .cupGenerate
    ++ (List.range 6).flatMap (fun i => also (c.wake / 2 ^ i % 2 == 1) (.engineWakeDone (BitVec.ofNat 3 i)))
    ++ also (!(c.queue 0).isEmpty) .mOperationDone ++ also (!(c.queue 1).isEmpty) .nOperationDone
    ++ copies 2 false ++ copies 3 true
    ++ also (!(c.queue 4).isEmpty || !s.podBack.isEmpty) .frameOperationDone
    ++ also (runs && (c.crGet 0x00F).getLsbD 63) .lookaheadPeek
    ++ also ((c.bank0.state == 1 && c.bank0.la) || (c.bank1.state == 1 && c.bank1.la)) .lookaheadLoadDone
    ++ also c.watchdogDue .watchdogExpiry
    ++ also (c.crGet 0x043 != 0#64 && decide ((c.crGet 0x043).toNat ≤ s.time.toNat) && !(c.crGet 0x042).getLsbD 2) .timerEvent

/-- Events of the fabric and the links. -/
def State.fabricEvents (s : State) : List Instr :=
  let first (f : Packet → Bool) (g : Packet → Instr) : List Instr := match s.packets.find? f with | some p => [g p] | none => []
  first (fun p => p.granted && p.payload.isNone) (fun p => .endToEndAck p.uid)
    ++ first (fun p => p.granted && match p.payload with | some _ => s.inOrder p && s.roomFor p | none => false) (fun p => .packetArrival p.uid)
    ++ first (fun p => !p.granted && (s.atSite p || (p.out && match p.payload with | some r => s.permitted r | none => false)))
      (fun p => .pipRevolution p.chan)
    ++ (match s.replies.find? (!·.granted) with | some r => [.pipRevolution (64 + cluster r.core)] | none => [])
    ++ (match s.transits.find? (!·.granted) with | some t => [.pipRevolution t.chan] | none => [])
    ++ (match s.transits.find? fun t => t.granted && s.served t with | some t => [.packetArrival t.uid] | none => [])
    ++ (match s.reserved.find? fun p => !p.granted with | some p => [.pipRevolution p.chan] | none => [])
    ++ (match s.reserved.find? fun p => p.granted && match p.load with | .notice _ => false | _ => true with
      | some p => [.packetArrival p.uid] | none => [])
    ++ (match s.notices.find? fun n => s.noticed n.1 n.2 with | some n => [.resetNoticeArrival n.1 n.2] | none => [])
    ++ (match s.links.find? (·.up == 1#2) with | some l => [.linkTrained l.inward l.n] | none => [])
    ++ (match s.links.find? fun l => !l.lost.isEmpty with | some l => [.restripeDone l.inward l.n] | none => [])
    ++ (match s.waiters.find? fun w => w.slack != 0 && s.slackLeft w == 0 with | some w => [.packetOverdue w.uid] | none => [])

/-- Events of the slices and the memory controllers. -/
def State.sliceEvents (s : State) : List Instr :=
  let slices : List (BitVec 6) := (List.range 64).map (BitVec.ofNat 6)
  also s.nextReply.isSome .loadReplyArrival
    ++ (match s.misses.find? fun l => !s.awaited l && !s.filling l with | some l => [.missFill l] | none => [])
    ++ (match s.decodes with | [] => [] | d :: _ => [.tileDecodeDone (BitVec.ofNat 4 d.region) d.tile])
    ++ also (s.reqs.any fun r => match r.kind with | .load _ => true | _ => false) .sliceReadRequest
    ++ also (s.reqs.any fun r => match r.kind with | .store => true | _ => false) .sliceWriteRequest
    ++ also (s.reqs.any fun r => match r.kind with | .atom .. => true | .update _ => !s.heldReq r | _ => false) .sliceAtomicRequest
    ++ also (s.reqs.any s.heldReq) .heldUpdateArrival
    ++ also (s.reqs.any (·.queue.isSome)) .queueRequest
    ++ also (!s.withdrawals.isEmpty) .withdrawalNotice ++ also (!s.released.isEmpty) .releasedRequestReturn
    ++ (match slices.find? fun k => s.windows.any fun w => !w.opened.getLsbD k.toNat with
      | some k => [.windowOpenAtSlice k] | none => [])
    ++ (match slices.find? fun k => s.windows.any fun w => w.closing && !w.closed.getLsbD k.toNat with
      | some k => [.windowCloseAtSlice k] | none => [])

/-- Events of a die's controller. -/
def State.dieEvents (s : State) (die : Bool) : List Instr :=
  let c := s.ctl die
  let used := s.devGet (if die then 0x0C9 else 0x0C8) != 0#64
  also (c.places && (used || s.launches.any (·.die == die) || s.launchQueues.any (·.die == die))) (.placementDecision die)
    ++ also (s.launchQueues.any fun q => q.die == die && q.deciding.isSome) (.launchRecordDequeued die)
    ++ also c.asked.isSome (.sleepStateEntry die) ++ also (c.waking && c.asked.isNone) (.wake die)

/-- Events of the launches. -/
def State.launchEvents (s : State) : List Instr :=
  also (s.launches.any (·.phase == .starting)) .launchStart
    ++ s.launches.flatMap (fun l => (l.gangs.filter s.draining).flatMap fun g => (g.cores.take 1).map fun k => .preemption k)
    ++ (s.launches.find? fun l => l.phase == .retired && (l.tail.isNone || l.tailDone)).toList.map (fun l => .launchComplete l.die l.lid)
    ++ (s.launches.find? s.mayRetire).toList.map (fun l => .launchComplete l.die l.lid)
    ++ also (!s.launches.isEmpty && s.turn % 4096 == 0) .meterUpdate

/-- Everything that may happen outside the slots, now. -/
def State.events (s : State) : List Instr :=
  s.coreEvents ++ s.fabricEvents ++ s.sliceEvents ++ s.dieEvents false ++ s.dieEvents true ++ s.launchEvents

/-- The next event of the default schedule: those that may happen take turns, the order shifting so that no event
waits for ever while the list grows and shrinks. -/
def State.nextEvent (s : State) : Option Instr :=
  match s.events with
  | [] => none
  | es => es[(s.picks + s.picks / es.length) % es.length]?

/-- R90: TIME goes on, by an amount that is timing (log entry 10), by one ns every 2 ns while TALIGN has it lose time (R416). -/
def State.passTime (s : State) : State :=
  let d := Config.freeNat s.tick
  match s.slowing with
  | 0 => { s with tick := s.tick + 1, clock := s.clock + d, time := s.time + BitVec.ofNat 64 d }
  | k =>
    let lose := (k + 1) / 2 - (k - d + 1) / 2
    { s with tick := s.tick + 1, clock := s.clock + d, time := s.time + BitVec.ofNat 64 (d - lose), slowing := k - d }

end Sys2Proof.Machine
end

