-- ==== Sys2Proof/Machine/Step.lean ====
section
/-! DEFINITION. One step of the device: the event that the schedule names, or what the default schedule does next; and
the placing of one instruction where the next step fetches. -/

namespace Sys2Proof.Machine

/-- One entry issues: it is made current, its instruction is executed, and the queue record follows. -/
def issueEntry (s : State) (b : Bundle) (e : Entry) : Out :=
  match exec e.instr (s.upd fun c => c.begin b e) with
  | .next t => .next (t.upd CoreState.finish)
  | o => o

/-- R165: the S entry of the bundle just dispatched, if it is resolved at dispatch. -/
def State.resolvedNow (s : State) : Option (Bundle × Entry) :=
  match s.core.bundles.getLast? with
  | none => none
  | some b =>
    if b.seq + 1 = s.core.nextSeq then (b.entries.find? fun e => e.slot == 1 && atDispatch e.instr).map fun e => (b, e)
    else none

/-- A bundle is dispatched, and with it the counted-loop instruction it holds. -/
def dispatchStep (s : State) : Out :=
  match exec .bundleDispatch s with
  | .next t =>
    if t.core.nextSeq = s.core.nextSeq then .next t
    else match t.resolvedNow with
      | some (b, e) => issueEntry t b e
      | none => .next t
  | o => o

/-! ### Issue (R44, R157) -/

/-- R44: the first entry of a SYNC bundle that cannot issue now, tried. -/
def syncHeld (s : State) (b : Bundle) : List Entry → Option Out
  | [] => none
  | e :: t =>
    match issueEntry s b e with
    | .next u => if u.foundHeld b.seq e.slot then some (.next u) else syncHeld s b t
    | o => some o

/-- R44: the entries of a bundle in turn, as far as they go; what its own entries keep back issues later. -/
def issueAll (s : State) (seq : Nat) : Nat → Out
  | 0 => .next (s.unsync seq)
  | n + 1 =>
    match s.core.bundles.find? (·.seq == seq) with
    | none => .next s
    | some b =>
      match b.entries.find? fun e => !e.waiting && innerReady s.core (b.others e) e with
      | none => .next (s.unsync seq)
      | some e => match issueEntry s b e with
        | .next t => issueAll t seq n
        | o => o

/-- The oldest entry that may issue in this cycle, issued; of a SYNC bundle all entries. -/
def issueStep (s : State) : Option Out :=
  s.nextNow.map fun p =>
    if p.1.sync then (match syncHeld s p.1 p.1.entries with | some o => o | none => issueAll s p.1.seq 14)
    else issueEntry s p.1 p.2

/-- R160: what is held at the start of a cycle: the head entries that nothing keeps back are tried, and those found held
stay so. -/
def probe (s : State) : State :=
  s.core.bundles.foldl (fun s b => b.entries.foldl (fun s e =>
    if !s.ready (s.core.bundles.filter fun p => decide (p.seq < b.seq)) b e then s
    else match issueEntry s b e with
      | .next t => if t.foundHeld b.seq e.slot then t else s
      | _ => s) s) s

/-- R160: with the margin used up, held entries are looked for. -/
def startCycle (s : State) : State := if s.core.crGet 0x040 = 0#64 then probe s else s

/-- The core with every engine awake, as a check sees it: an engine wakes for an instruction that issues (R196). -/
def CoreState.ungated (c : CoreState) : CoreState := c.crPut 0x049 0#64

/-- R156: the check of an entry ahead of its issue: it passes, waits, or takes its trap. A read of an error, or a trap that
arises as the instruction performs, is no check (R114, R181). Where elements perform as they are checked (R133), and one
fails, the entry has to issue: then nothing is said here. -/
def checkEntry (s : State) (b : Bundle) (e : Entry) : Option Out :=
  let mark (f : Entry → Entry) : Option Out := some (.next (s.upd fun c => c.updBundle b.seq fun b => { b with
    entries := b.entries.map fun q => if q.slot = e.slot then f q else q }))
  let begun := (s.upd fun c => (c.crPut 0x000 (c.status &&& ~~~2#64)).ungated.begin b e)
  match exec e.instr begun with
  | .next t =>
    match t.core.bundles.find? (·.seq == b.seq) with
    | some b' =>
      if t.core.held && !(b'.entries.any fun q => q.slot == e.slot && q.checked) then
        (if byElement e.instr then none else mark fun q => { q with waiting := true })
      else mark fun q => { q with checked := true, pass := t.core.cur.pass }
    | none =>
      if t.core.cdepth ≠ begun.core.cdepth ∨ t.core.crGet 0x002 = 0x29#64 ∨ t.core.crGet 0x002 = 0x31#64 then
        mark fun q => { q with checked := true, pass := t.core.cur.pass }
      else if byElement e.instr then (if s.ready (s.core.bundles.filter fun p => decide (p.seq < b.seq)) b e then some (issueEntry s b e) else none)
      else some (match issueEntry (s.upd (·.ungated)) b e with
        | .next t => .next (t.upd fun c => c.crPut 0x049 (s.core.crGet 0x049))
        | o => o)
  | o => some o

/-- The first check that can be made ahead of its entry's issue. -/
def checkStep (s : State) : Option Out := (s.nextChecks [] s.core.bundles).findSome? fun p => checkEntry s p.1 p.2

/-- R427 step 2: the entries of the core whose turn it is that can issue do, cycle after cycle. -/
def settle (s : State) : Nat → State
  | 0 => s
  | n + 1 =>
    match issueStep s with
    | some (.next t) => settle t n
    | some _ => s
    | none =>
      if s.core.fired ≠ 0#8 then (let t := startCycle s.endCycle; if t.stalls then t else settle t n)
      else match checkStep s with
        | some (.next t) => settle t n
        | _ => s

/-- The same on every running core of the gang of a core, before the gang is looked at. -/
def settleGang (k : BitVec 7) (s : State) : State :=
  let cores := (s.launches.findSome? fun l => (l.gangs.find? (·.cores.contains k)).map (·.cores)).getD []
  (cores.foldl (fun s k => let t := s.focus k; if t.core.mode == .running && !t.core.trapDue then settle t 1024 else t) s).focus s.core.id

/-- An event outside the slots: afterwards every held entry may be tried again. -/
def eventStep (i : Instr) (s : State) : Out :=
  let run (s : State) : Out :=
    match exec i s with
    | .next t => .next t.retryAll.hostTurn
    | o => o
  match i with
  | .bundleDispatch => dispatchStep (startCycle (if s.core.fired = 0#8 then s else s.endCycle))
  | .preemption k => run (settleGang k s)
  | _ => run s

/-- The default schedule's own event, after a bundle of each controller's firmware, and the turn. -/
def backgroundStep (s : State) : Out :=
  let s := s.firmware exec
  match s.nextEvent with
  | none => .next s.rotate
  | some i =>
    match eventStep i { s with picks := s.picks + 1 } with
    | .next t => .next t.rotate
    | o => o

/-- A bundle dispatched, and its first entry issued. -/
def dispatchAndIssue (s : State) : Out :=
  match dispatchStep s with
  | .next t =>
    if t.core.nextSeq = s.core.nextSeq then .next t
    else (issueStep t).getD (.next t)
  | o => o

/-- A cycle begins (R157, R160): a whole-core stall, a dispatch with what issues in its cycle, an issue, or nothing. -/
def cycleStep (s : State) : Out :=
  match checkStep s with
  | some o => o
  | none =>
    let s := startCycle s
    let idle : Out := (issueStep s).getD (backgroundStep s.endCycle)
    if s.stalls then
      match exec .wholeCoreStall s with
      | .next t => backgroundStep t
      | o => o
    else if s.core.mayDispatch then
      match s.fetch with
      | .miss _ => idle
      | _ =>
        match dispatchAndIssue s with
        | .next t => if t.core.nextSeq = s.core.nextSeq && t.core.trapReq.isNone then idle else .next t
        | o => o
    else idle

/-- A step of the core whose turn it is: the present cycle goes on while an entry may issue, then the next begins. -/
def coreStep (s : State) : Out :=
  if s.core.watchdogDue then exec .watchdogExpiry s
  else if s.core.mode != .running then backgroundStep s
  else if s.core.trapDue then exec .trapEntry s
  else if s.core.fired = 0#8 then cycleStep s
  else (issueStep s).getD (cycleStep s.endCycle)

/-- What a schedule may name: the events, and the SLEEP of a controller's firmware (R431, R445). -/
def mayStand (i : Instr) : Bool := match i with | .sleep _ => true | i => i.slotClass.isNone

/-- One step. -/
def step (s : State) : Host.Outcome State Fault Refusal :=
  match s.agenda with
  | i :: rest =>
    if mayStand i then eventStep i { s with agenda := rest, tick := s.tick + 1 } else .next { s with agenda := rest }
  | [] =>
    let s := State.passTime { s with turn := s.turn + 1 }
    if s.turn % 64 = 0 then backgroundStep s else coreStep s

/-- The 32 bytes of a bundle whose only word is `w`, in the first slot of a class, its header allotting three read
ports to that slot (R32). -/
def bundleBytes (k : SlotClass) (w : Nat) : List Byte :=
  let word (j : SlotClass) : List Byte := leBytes 4 (if j = k then w else 0)
  let header := match k with | .s => 0 | .v => 3 * 2 ^ 28 | .m => 3 * 2 ^ 24 | .n => 3 * 2 ^ 22 | .c => 3 * 2 ^ 20
  leBytes 4 header ++ word .s ++ word .v ++ leBytes 4 0 ++ word .m ++ word .n ++ word .c ++ leBytes 4 0

/-- The state with a bundle placed where the next step fetches, as a launch leaves a core (log entry 1): the current
core runs, a page table maps the program counter, the bundle lies in memory and in the instruction cache, and nothing
waits. -/
def State.withBundle (s : State) (bs : List Byte) : State :=
  let pc := s.core.pc.toNat
  let pa := pc % 2 ^ 30
  let t := if pa < 0x10000 then 0x10000 else 0x1000
  let s := s.writeNum (t + 8 * (pc / 2 ^ 39 % 512)) 8 (t + 0x1001)
  let s := s.writeNum (t + 0x1000 + 8 * (pc / 2 ^ 30 % 512)) 8 0x1F
  let s := s.write pa bs
  let line := pa / 256 * 256
  { s with
    agenda := [], turn := 0, tlb := []
    core := { (s.core.crPut 0x018 (BitVec.ofNat 64 t)) with
      mode := .running, loops := [], group := .start, bundles := [], trapReq := none, replay := 0#8, redo := [], fired := 0#8
      icache := [(line, s.bytes line 256)] } }

/-- The word placed as the only instruction of the next bundle, in the slot whose map holds it (log entry 6). -/
def State.withFetchWord (s : State) (_nbits w : Nat) : State :=
  match decodeAny (BitVec.ofNat 32 w) with
  | some (k, _) => s.withBundle (bundleBytes k w)
  | none => s.withBundle (bundleBytes .s w)

end Sys2Proof.Machine
end

