-- ==== Sys2Proof/Safety.lean ====
section
/-! DEFINITION. What counts as a safe run of the device, and the terms the statements are made in: what an instruction
changes of the state while it leaves everything else as it is. -/

namespace Sys2Proof

/-- The step from a state gives a next state: no fault and no refusal. -/
def Safe (s : Machine.State) : Prop := ∃ t, Machine.step s = .next t

/-- `n` steps from a state give next states throughout. -/
def SafeFor (s : Machine.State) : Nat → Prop
  | 0 => True
  | n + 1 => ∃ t, Machine.step s = .next t ∧ SafeFor t n

namespace Machine

/-! ### Registers as they stand -/

/-- s[n] as it stands. -/
def CoreState.sReg (c : CoreState) (n : BitVec 6) : Word64 := Cells.get 0#64 c.s n.toNat

/-- x[n] as it stands. -/
def CoreState.xReg (c : CoreState) (n : BitVec 4) : Word32 := Cells.get 0#32 c.x n.toNat

/-- R79: g[n] as it stands; g0 reads all ones. -/
def CoreState.gReg (c : CoreState) (n : BitVec 3) : Word32 :=
  if n = 0#3 then 0xFFFFFFFF#32 else Cells.get 0#32 c.g n.toNat

/-! ### What an instruction changes

Each of these says of two states that the second holds a new value in the place named and is otherwise the first, the
whole of memory and every other register included. The only other field that moves is `cur.old`, the note of the values
from before the bundle, which the other entries of the bundle still read (R40): what they read stays as it was. -/

/-- R40: an entry of the same bundle reads every register as before. -/
def SameReads (c d : CoreState) : Prop :=
  (∀ n, d.sVal n = c.sVal n) ∧ (∀ n, d.xVal n = c.xVal n) ∧ ∀ n, d.gVal n = c.gVal n

/-- s[d] := v. -/
def WritesS (s t : State) (d : BitVec 6) (v : Word64) : Prop :=
  (∀ n, t.core.sReg n = if n = d then v else s.core.sReg n) ∧ SameReads s.core t.core
    ∧ t = { s with core := { s.core with s := t.core.s, cur := { s.core.cur with old := t.core.cur.old } } }

/-- x[d] := v. -/
def WritesX (s t : State) (d : BitVec 4) (v : Word32) : Prop :=
  (∀ n, t.core.xReg n = if n = d then v else s.core.xReg n) ∧ SameReads s.core t.core
    ∧ t = { s with core := { s.core with x := t.core.x, cur := { s.core.cur with old := t.core.cur.old } } }

/-- g[d] := v; a write of g0 is lost (R79). -/
def WritesG (s t : State) (d : BitVec 3) (v : Word32) : Prop :=
  (∀ n, t.core.gReg n = if n = d ∧ d ≠ 0#3 then v else s.core.gReg n) ∧ SameReads s.core t.core
    ∧ t = { s with core := { s.core with g := t.core.g, cur := { s.core.cur with old := t.core.cur.old } } }

/-- Some control registers of the core take new values, later pairs of the list first; every other field of the core
and the device stands. -/
def WritesCr (s t : State) (l : List (Nat × Word64)) : Prop :=
  (∀ n, t.core.crGet n = (l.reverse.lookup n).getD (s.core.crGet n))
    ∧ t = { s with core := { s.core with cr := t.core.cr } }

/-- Nothing changes but what the core has noted of the entry: it is held and will be tried again (R159). -/
def Holds (s t : State) : Prop :=
  t = { s with core := { s.core with bundles := t.core.bundles, held := true } }
    ∧ t.core.bundles.map (fun (b : Bundle) => { b with entries := b.entries.map fun (e : Entry) => { e with checked := true, pass := [] } })
      = s.core.bundles.map fun (b : Bundle) => { b with entries := b.entries.map fun (e : Entry) => { e with checked := true, pass := [] } }

/-! ### The arithmetic of R202, in whole numbers -/

/-- R202: t of the operation fn of OP 0x01 and 0x02 on operands of W bits. -/
def arithNumber {W : Nat} (fn : Nat) (a b : BitVec W) : Int :=
  let k := b.toNat % W
  match fn with
  | 0 => a.toNat + b.toNat
  | 1 => a.toNat - b.toNat
  | 2 => a.toNat * b.toNat
  | 3 => a.toInt * b.toInt / (2 ^ W : Nat)
  | 4 => a.toNat * b.toNat / 2 ^ W
  | 5 => a.toInt.tdiv b.toInt
  | 6 => a.toNat / b.toNat
  | 7 => a.toInt - b.toInt * a.toInt.tdiv b.toInt
  | 8 => a.toNat - b.toNat * (a.toNat / b.toNat)
  | 9 => (a &&& b).toNat
  | 10 => (a ||| b).toNat
  | 11 => (a ^^^ b).toNat
  | 12 => a.toNat * 2 ^ k
  | 13 => a.toNat / 2 ^ k
  | 14 => a.toInt / (2 ^ k : Nat)
  | _ => a.toNat / 2 ^ k + a.toNat * 2 ^ (W - k)

/-- R202: s[d] := sext(t mod 2^W, W), and nothing else, whenever the instruction is on. -/
def Arith64 (i : OpSA → Instr) (fn : Nat) : Prop :=
  ∀ o s, s.core.on o.g = true →
    ∃ t, exec (i o) s = .next t ∧ WritesS s t o.d (BitVec.ofInt 64 (arithNumber fn (s.core.sVal o.a) (s.core.sVal o.b)))

/-- The same for OP 0x02. -/
def Arith32 (i : OpSA → Instr) (fn : Nat) : Prop :=
  ∀ o s, s.core.on o.g = true →
    ∃ t, exec (i o) s = .next t ∧ WritesS s t o.d
      ((BitVec.ofInt 32 (arithNumber fn ((s.core.sVal o.a).setWidth 32) ((s.core.sVal o.b).setWidth 32))).signExtend 64)

/-- R202, R203: a division by a divisor other than zero writes its result; by zero it takes trap 0x30, with the slot in
TINFO0. -/
def Division64 (i : OpSA → Instr) (fn : Nat) : Prop :=
  ∀ o s, s.core.on o.g = true →
    (s.core.sVal o.b ≠ 0#64 →
      ∃ t, exec (i o) s = .next t ∧ WritesS s t o.d (BitVec.ofInt 64 (arithNumber fn (s.core.sVal o.a) (s.core.sVal o.b))))
    ∧ (s.core.sVal o.b = 0#64 →
      exec (i o) s = .next (s.takeTrap ⟨0x30#8, s.core.cur.pc, BitVec.ofNat 64 s.core.cur.slot, 0#64, 0#64, 0#64⟩))

/-- The same for OP 0x02: the divisor is the low half of s[b]. -/
def Division32 (i : OpSA → Instr) (fn : Nat) : Prop :=
  ∀ o s, s.core.on o.g = true →
    let a := (s.core.sVal o.a).setWidth 32
    let b := (s.core.sVal o.b).setWidth 32
    (b ≠ 0#32 → ∃ t, exec (i o) s = .next t ∧ WritesS s t o.d ((BitVec.ofInt 32 (arithNumber fn a b)).signExtend 64))
    ∧ (b = 0#32 →
      exec (i o) s = .next (s.takeTrap ⟨0x30#8, s.core.cur.pc, BitVec.ofNat 64 s.core.cur.slot, 0#64, 0#64, 0#64⟩))

/-- R204, R205: an instruction that is on writes to its destination what a relation of its sources and that value
allows, and nothing else. -/
def Selects (i : OpSA → Instr) (r : Word64 → Word64 → Word64 → Prop) : Prop :=
  ∀ o s, s.core.on o.g = true →
    ∃ t v, exec (i o) s = .next t ∧ r (s.core.sVal o.a) (s.core.sVal o.b) v ∧ WritesS s t o.d v

def Counts (i : OpSU → Instr) (r : Word64 → Word64 → Prop) : Prop :=
  ∀ o s, s.core.on o.g = true →
    ∃ t v, exec (i o) s = .next t ∧ r (s.core.sVal o.a) v ∧ WritesS s t o.d v

def WithImmediate (i : OpSI → Instr) (f : Word64 → BitVec 19 → Word64) : Prop :=
  ∀ o s, s.core.on o.g = true →
    ∃ t, exec (i o) s = .next t ∧ WritesS s t o.d (f (s.core.sVal o.a) o.imm)

def WithShift (i : OpShift → Instr) (f : Word64 → Nat → Word64) : Prop :=
  ∀ o s, s.core.on o.g = true →
    ∃ t, exec (i o) s = .next t ∧ WritesS s t o.d (f (s.core.sVal o.a) o.k.toNat)

/-- R209: guard logic writes each bit of its guard from those of its sources, and nothing else. -/
def GuardLogic (i : OpGuard → Instr) (f : Bool → Bool → Bool) : Prop :=
  ∀ o s, s.core.on o.g = true →
    ∃ t v, exec (i o) s = .next t
      ∧ (∀ j < 32, v.getLsbD j = f ((s.core.gVal o.a).getLsbD j) ((s.core.gVal o.b).getLsbD j)) ∧ WritesG s t o.d v

/-- R50: an instruction whose guard is off leaves everything as it is. -/
def Inert (i : Instr) (g : BitVec 4) : Prop := ∀ s : State, s.core.on g = false → exec i s = .next s

/-- R50: a V instruction with no lane on leaves everything as it is, but for the energy of its issue (R440) and V0's turn at the Cup. -/
def Quiet (i : Instr) (g : BitVec 4) : Prop :=
  ∀ s : State, s.core.guard g = 0#32 → (s.core.cur.slot = 3 → s.core.cur.cup0 = false) →
    ∃ t, exec i s = .next t
      ∧ t = { s with core := { s.core with cur := { s.core.cur with cup0 := t.core.cur.cup0 } }, launches := t.launches, charged := t.charged }
      ∧ t.launches.map (fun l => { l with picojoule := 0 }) = s.launches.map fun l => { l with picojoule := 0 }

/-- R56: the conditions by number, in whole numbers. -/
def condHolds (c : Nat) (a b : Word64) : Prop :=
  match c with
  | 0 => a = b
  | 1 => a ≠ b
  | 2 => a.toInt < b.toInt
  | 3 => a.toInt ≤ b.toInt
  | 4 => b.toInt < a.toInt
  | 5 => b.toInt ≤ a.toInt
  | 6 => a.toNat < b.toNat
  | 7 => a.toNat ≤ b.toNat
  | 8 => b.toNat < a.toNat
  | _ => b.toNat ≤ a.toNat

/-! ### Traps and transfers -/

/-- R188: what trap entry leaves: the record in the trap registers, the old STATUS in TSTAT, PRIV and INTRAP set, the
levels gone, a new margin region without a bound, and dispatch at TVB. Registers, storage and the other cores stand. -/
def EntersTrap (s t : State) (r : Trap) : Prop :=
  t.core.crGet 0x002 = r.cause.setWidth 64 ∧ t.core.crGet 0x003 = r.tpc.setWidth 64
    ∧ t.core.crGet 0x004 = r.tinfo0 ∧ t.core.crGet 0x005 = r.tinfo1 ∧ t.core.crGet 0x006 = r.tinfo2 ∧ t.core.crGet 0x007 = r.tinfo3
    ∧ t.core.crGet 0x04B = s.core.crGet 0 ∧ t.core.crGet 0 = s.core.crGet 0 ||| 3#64
    ∧ t.core.crGet 0x040 = 0x7FFFF#64 ∧ t.core.crGet 0x041 = 0x7FFFF#64
    ∧ t.core.loops = [] ∧ t.core.group = .start
    ∧ t.core.pc = (s.core.crGet 1).setWidth 48 &&& 0xFFFFFFFFFFE0#48
    ∧ t.core.s = s.core.s ∧ t.core.x = s.core.x ∧ t.core.g = s.core.g ∧ t.core.shapes = s.core.shapes
    ∧ t.core.shadows = s.core.shadows ∧ t.core.cont = s.core.cont ∧ t.core.carries = s.core.carries ∧ t.core.ops = s.core.ops
    ∧ t = { s with core := t.core }

/-- R162: where a transfer goes, with what it writes: a target in place is taken, every level ends and a group starts;
one that is misaligned or out of range takes trap 0x0A. -/
def Transfers (i : Instr) (s : State) (t : Word64) (link : Bool) : Prop :=
  (t.toNat % 32 = 0 ∧ t.toNat < 2 ^ 48 → ∃ u, exec i s = .next u
      ∧ u.core.pc = t.setWidth 48 ∧ u.core.loops = [] ∧ u.core.group = .start
      ∧ (∀ n, u.core.sReg n = if link = true ∧ n = 63#6 then s.core.cur.pc.setWidth 64 + 32#64 else s.core.sReg n)
      ∧ u.core.bundles = (s.core.bundles.map fun b =>
          if b.seq = s.core.cur.seq then { b with done := b.done ||| 0x80#8 } else b)
      ∧ u = { s with core := { s.core with
          s := u.core.s, pc := u.core.pc, loops := u.core.loops, group := u.core.group, bundles := u.core.bundles
          cur := { s.core.cur with old := u.core.cur.old } } })
    ∧ (¬(t.toNat % 32 = 0 ∧ t.toNat < 2 ^ 48) → exec i s =
        .next (s.takeTrap ⟨0x0A#8, s.core.cur.pc, BitVec.ofNat 64 s.core.cur.slot, t, 0#64, 0#64⟩))

/-- R166, R171: opening a level, or stepping over a body that runs no pass. -/
def OpensLevel (i : OpLoop → Instr) (rpt : Bool) : Prop :=
  ∀ o s, ∃ t, exec (i o) s = .next t ∧ t.core.group = .start
    ∧ t = { s with core := { s.core with loops := t.core.loops, pc := t.core.pc, group := t.core.group } }
    ∧ (let n := if o.n = 0#19 then (s.core.sVal o.a).toNat % 2 ^ 32 else o.n.toNat
      let pc := s.core.cur.pc
      let len := BitVec.ofNat 48 (32 * (o.l.toNat + 1))
      (n ≠ 0 → t.core.loops = ⟨pc + 32#48, pc + len, n, rpt, 0, false⟩ :: s.core.loops ∧ t.core.pc = s.core.pc)
        ∧ (n = 0 → t.core.loops = s.core.loops
          ∧ (s.core.cur.next = pc + 32#48 → t.core.pc = pc + 32#48 + len)
          ∧ (s.core.cur.next ≠ pc + 32#48 → t.core.pc = s.core.pc)))

/-! ### Page tables (R128, R129) -/

/-- R129: the table of a level lies wholly in raw memory. -/
def TableLies (lv t : Nat) : Prop := isRaw t = true ∧ isRaw (t + (if lv = 3 then 255 else 4095)) = true

/-- R129: the lowest bit and the number of the bits of an address that index a level's table. -/
def indexBits (lv : Nat) : Nat × Nat := if lv = 3 then (16, 5) else (39 - 9 * lv, 9)

/-- R129: the entry of a level for an address. -/
def State.pte (s : State) (va lv t : Nat) : Nat := s.num (t + 8 * (va / 2 ^ (indexBits lv).1 % 2 ^ (indexBits lv).2)) 8

/-- R128: ADDR of an entry, as an address. -/
def pteAddr (e : Nat) : Nat := e / 2 ^ 8 % 2 ^ 38 * 256

/-- R128, R129: the entry points to the next table. -/
def Points (s : State) (va lv t next : Nat) : Prop :=
  let e := s.pte va lv t
  lv < 3 ∧ TableLies lv t ∧ e % 4 = 1 ∧ e / 4 % 64 = 0 ∧ e / 2 ^ 46 = 0 ∧ next = pteAddr e ∧ (lv ≤ 1 → next % 4096 = 0)

/-- R128, R129: the entry maps a page of its level's size. -/
def LeafAt (s : State) (va lv t : Nat) (p : Page) : Prop :=
  let e := s.pte va lv t
  let size := 2 ^ (indexBits lv).1
  1 ≤ lv ∧ lv ≤ 3 ∧ TableLies lv t ∧ e % 4 = 3 ∧ e / 2 ^ 6 % 4 = 0 ∧ e / 2 ^ 46 = 0 ∧ pteAddr e % size = 0
    ∧ s.mapped (pteAddr e + va % size) = true
    ∧ p = ⟨va / size * size, pteAddr e, size, e.testBit 2, e.testBit 3, e.testBit 4, e.testBit 5⟩

/-- R129, R132: the walk fails at a level, with TINFO3: an invalid entry, a malformed one or a table out of raw memory (4), a page that
is not mapped (8). -/
def WalkFails (s : State) (va lv t why : Nat) : Prop :=
  let e := s.pte va lv t
  let size := 2 ^ (indexBits lv).1
  let sound := e / 2 ^ 6 % 4 = 0 ∧ e / 2 ^ 46 = 0
  (¬TableLies lv t ∧ why = lv + 4)
    ∨ (TableLies lv t ∧ e % 2 = 0 ∧ why = lv)
    ∨ (TableLies lv t ∧ e % 2 = 1 ∧ why = lv + 4
      ∧ (¬sound ∨ (e / 2 % 2 = 1 ∧ (lv = 0 ∨ pteAddr e % size ≠ 0))
        ∨ (e / 2 % 2 = 0 ∧ (lv = 3 ∨ e / 4 % 16 ≠ 0 ∨ (lv ≤ 1 ∧ pteAddr e % 4096 ≠ 0)))))
    ∨ (TableLies lv t ∧ e % 4 = 3 ∧ sound ∧ lv ≠ 0 ∧ pteAddr e % size = 0 ∧ s.mapped (pteAddr e + va % size) = false
      ∧ why = lv + 8)

/-! ### Atomics and requests -/

/-- R376: the result of the integer operations of ATOM by fn, on numbers of `w` bits; `c` is what CAS compares. -/
def atomNumber (w f m v c : Nat) : Nat :=
  let si (x : Nat) : Int := if 2 ^ w ≤ 2 * x then (x : Int) - (2 ^ w : Nat) else x
  match f with
  | 0 => (m + v) % 2 ^ w
  | 1 => m &&& v
  | 2 => m ||| v
  | 3 => m ^^^ v
  | 4 => if si v < si m then v else m
  | 5 => if si m < si v then v else m
  | 6 => if v < m then v else m
  | 7 => if m < v then v else m
  | 8 => v
  | _ => if m = c then v else m

/-- R377: the new value of a nibble. -/
def nibbleNumber (f x v : Nat) : Nat :=
  match f with
  | 0 => v
  | 1 => (x + v) % 16
  | 2 => if v < x then v else x
  | _ => if x < v then v else x

/-- The bytes of a number at a place, every other byte of storage as before. -/
def StoresOnly (s t : State) (loc n v : Nat) : Prop :=
  (∀ k < n, t.byte (loc + k) = BitVec.ofNat 8 (v / 256 ^ k)) ∧ ∀ l, l < loc ∨ loc + n ≤ l → t.byte l = s.byte l

/-- One scalar register written, the other registers as before. -/
def OnlyScalar (s t : State) (d : BitVec 6) (v : Word64) : Prop :=
  (∀ n, t.core.sReg n = if n = d then v else s.core.sReg n) ∧ t.core.x = s.core.x ∧ t.core.g = s.core.g
    ∧ t.core.cr = s.core.cr ∧ t.core.shapes = s.core.shapes ∧ t.core.shadows = s.core.shadows ∧ t.core.loops = s.core.loops
    ∧ t.core.pc = s.core.pc

/-- One more request is on its way, and neither a register nor a byte of storage has changed. -/
def Asks (s t : State) (r : Req) : Prop :=
  t.packets.filterMap (·.payload) = s.packets.filterMap (·.payload) ++ [r] ∧ r.agent = .core s.core.id
    ∧ r.pc = s.core.cur.pc ∧ r.seq = s.core.cur.seq
    ∧ t.mem = s.mem ∧ t.core.s = s.core.s ∧ t.core.x = s.core.x ∧ t.core.g = s.core.g ∧ t.core.cr = s.core.cr
    ∧ t.parked = s.parked ∧ t.reqs = s.reqs ∧ t.replies = s.replies ∧ t.launches = s.launches

/-! ### Vector instructions -/

/-- What a V instruction needs to run (R49, R58, R75, R83, R86, R103, R196): a V slot, a lane on (unless the guard only
selects), an engine that is not gated, a clean shape of a type the instruction takes, registers that exist and that no engine
operation, watermark or load holds, no error in what it reads, a word in the Cup queue if it draws and no CUPSEED beside it, and no
enabled floating-point trap. -/
structure VecReady (s : State) (g : BitVec 4) (sh : BitVec 2) (swap always draws : Bool) (types : BitVec 128 → Bool)
    (reads : List (Option Nat × Bool)) (writes : List (Option Nat)) : Prop where
  slot : s.core.cur.slot = 2 ∨ s.core.cur.slot = 3
  on : always = true ∨ s.core.guard g ≠ 0#32
  awake : (s.core.crGet 0x049).getLsbD (s.core.cur.slot - 2) = false
  clean : shapeClean (s.core.activeShape sh swap) = true
  typed : types (s.core.activeShape sh swap) = true
  sources : ∀ r ∈ reads, r.1.isSome = true
  targets : ∀ w ∈ writes, w.isSome = true
  free : s.storeWait none (reads.filterMap fun r => r.1.map fun a => (a, 128)) (writes.filterMap fun w => w.map fun a => (a, 128))
    = false
  good : s.badRead (reads.filterMap fun r => r.1.map fun a => (a, r.2))
    (if always = true then (List.range 32).filter fun i => decide (i < shLanes (s.core.activeShape sh swap))
      else s.core.lanesOn g (s.core.activeShape sh swap)) = none
  drawn : draws = true → shRound (s.core.activeShape sh swap) = 4 →
    s.core.cupQ ≠ [] ∧ ¬(s.core.cur.slot = 3 ∧ s.core.cur.cup0 = true)
      ∧ ∀ b, s.core.curBundle = some b → ∀ e ∈ b.entries, e.slot + s.core.cur.slot = 5 → ∀ p, e.instr ≠ .cupseed p
  quiet : s.core.crGet 0x00D = 0#64

/-- The word a V instruction works with: the head of the Cup queue if it draws, else zero. -/
def drawnWord (s : State) (shape : BitVec 128) (draws : Bool) : Nat :=
  if draws = true ∧ shRound shape = 4 then (s.core.cupQ.headD 0#32).toNat else 0

/-- What a V instruction leaves besides its results (R82, R226): scalar, address and guard registers and the program counter
stand; the shape register is exchanged with its shadow if the swap bit says so; the flags of the lanes are gathered in the
unit's lane masks; of the other control registers only CUPDRAW may count. -/
def VecRest (s t : State) (sh : BitVec 2) (swap : Bool) (lanes : List Nat) (fl : Nat → Flags) : Prop :=
  t.core.s = s.core.s ∧ t.core.x = s.core.x ∧ t.core.g = s.core.g ∧ t.core.pc = s.core.pc
    ∧ t.core.shapes = (s.core.swapped sh swap).shapes ∧ t.core.shadows = (s.core.swapped sh swap).shadows
    ∧ (∀ f < 7, ∀ i < 64, (t.core.crGet (0x022 + 8 * (s.core.cur.slot - 2) + f)).getLsbD i
      = ((s.core.crGet (0x022 + 8 * (s.core.cur.slot - 2) + f)).getLsbD i || (decide (i ∈ lanes) && (fl i).getLsbD f)))
    ∧ ∀ n, n ≠ 0x031 → (∀ f < 7, n ≠ 0x022 + 8 * (s.core.cur.slot - 2) + f) → t.core.crGet n = s.core.crGet n

/-- Lanes of the register at a store address take values, and no other byte of storage changes. -/
def LanesOnly (s t : State) (d : Nat) (lanes : List Nat) (v : Nat → Nat) : Prop :=
  (∀ i ∈ lanes, t.num (s.st (d + 4 * i)) 4 = v i % 2 ^ 32)
    ∧ ∀ l, (∀ i ∈ lanes, l < s.st (d + 4 * i) ∨ s.st (d + 4 * i) + 4 ≤ l) → t.byte l = s.byte l

/-- A lane instruction of two, three or one sources: every participating lane takes the value of a lane function, with its
flags, and nothing else changes. -/
def Lanewise3 (i : OpVA → Instr) (useD draws : Bool) (types : BitVec 128 → Bool)
    (f : BitVec 128 → Nat → Nat → Nat → Nat → Nat → FRes) : Prop :=
  ∀ o s, let c := s.core
    let shape := c.activeShape o.sh o.swap
    let lanes := c.lanesOn o.g shape
    VecReady s o.g o.sh o.swap false draws types
      ([(c.vAddr o.a, false), (c.vAddr o.b, false)] ++ if useD then [(c.vAddr o.d, false)] else []) [c.vAddr o.d] →
    ∃ t, exec (i o) s = .next t
      ∧ (let v := fun j => f shape (drawnWord s shape draws) j (s.laneSync ((c.vAddr o.a).getD 0) j)
            (s.laneSync ((c.vAddr o.b).getD 0) j) (s.laneSync ((c.vAddr o.d).getD 0) j)
        LanesOnly s t ((c.vAddr o.d).getD 0) lanes (fun j => (v j).bits) ∧ VecRest s t o.sh o.swap lanes (fun j => (v j).flags))

def Lanewise2 (i : OpVA → Instr) (draws : Bool) (types : BitVec 128 → Bool)
    (f : BitVec 128 → Nat → Nat → Nat → Nat → FRes) : Prop :=
  Lanewise3 i false draws types fun sh w j a b _ => f sh w j a b

def Lanewise1 (i : OpVU → Instr) (draws : Bool) (types : BitVec 128 → Bool) (f : BitVec 128 → Nat → Nat → Nat → FRes) : Prop :=
  ∀ o s, let c := s.core
    let shape := c.activeShape o.sh o.swap
    let lanes := c.lanesOn o.g shape
    VecReady s o.g o.sh o.swap false draws types [(c.vAddr o.a, false)] [c.vAddr o.d] →
    ∃ t, exec (i o) s = .next t
      ∧ (let v := fun j => f shape (drawnWord s shape draws) j (s.laneSync ((c.vAddr o.a).getD 0) j)
        LanesOnly s t ((c.vAddr o.d).getD 0) lanes (fun j => (v j).bits) ∧ VecRest s t o.sh o.swap lanes (fun j => (v j).flags))

/-! ### Vector memory -/

/-- What a vector memory instruction needs to reach its lanes (R49, R75, R83, R196): a lane of its guard on, an engine that is not
gated, a clean shape of a type the instruction takes, registers that exist; and none of its lanes has been done before (R133). -/
structure VmReady (s : State) (g : BitVec 4) (shape : BitVec 128) (types : BitVec 128 → Bool) (regs : List (Option Nat)) : Prop where
  on : s.core.guard g ≠ 0#32
  awake : (s.core.crGet 0x049).getLsbD (s.core.cur.slot - 2) = false
  clean : shapeClean shape = true
  typed : types shape = true
  there : ∀ r ∈ regs, r.isSome = true
  first : s.core.cur.redo = 0#64

/-- Every lane's address passes its checks and leads to a location where the lane is not held: no watermark, frame bank or
earlier access of the core. -/
def LanesReach (s : State) (k : AccKind) (lanes : List Nat) (A : Nat → Word64) (loc : Nat → Nat) (pg : Nat → Option Page) : Prop :=
  ∀ j ∈ lanes, s.place (A j) 4 4 k = .ok ⟨loc j, pg j⟩ ∧ s.accessHeld (A j) (loc j) 4 k.write = false
    ∧ s.ownWait (loc j) 4 = false

/-- A vector memory instruction leaves scalar and guard registers and the program counter, and exchanges the shape register with
its shadow if the swap bit says so (R82). -/
def VmRest (s t : State) (sh : BitVec 2) (swap : Bool) : Prop :=
  t.core.s = s.core.s ∧ t.core.g = s.core.g ∧ t.core.pc = s.core.pc ∧ t.core.loops = s.core.loops
    ∧ t.core.shapes = (s.core.swapped sh swap).shapes ∧ t.core.shadows = (s.core.swapped sh swap).shadows

/-- New requests, one at most for a line, that hold between them exactly the parts given. -/
def AsksFor (s t : State) (kind : ReqKind) (parts : List Part) : Prop :=
  ∃ rs, t.packets.filterMap (·.payload) = s.packets.filterMap (·.payload) ++ rs
    ∧ (∀ r ∈ rs, r.kind = kind ∧ r.agent = .core s.core.id ∧ r.pc = s.core.cur.pc ∧ r.release = false
      ∧ ∀ p ∈ r.parts, ∀ q ∈ r.parts, p.loc / 256 = q.loc / 256)
    ∧ ∀ p, (∃ r ∈ rs, p ∈ r.parts) ↔ p ∈ parts

/-- R249, R250: lanes loaded through tagged addresses: from own storage the lanes of the register take their bytes, from elsewhere
(no sector of L1 holding them) requests go out for them and the register stands. -/
def LoadsLanes (i : Instr) (s : State) (sh : BitVec 2) (swap : Bool) (d : Nat) (lanes : List Nat) (A : Nat → Word64) : Prop :=
  ∀ loc pg, LanesReach s .rd lanes A loc pg → s.storeWait none [] [(d, 128)] = false →
    ((∀ j ∈ lanes, s.ownStorage (loc j) = true ∧ s.poisoned (loc j) 4 = false) → s.loadsOut s.core.cur.slot < 8 →
      ∃ t, exec i s = .next t ∧ LanesOnly s t d lanes (fun j => leNat (s.readSync (loc j) 4)) ∧ VmRest s t sh swap
        ∧ t.core.x = s.core.x ∧ t.core.cr = s.core.cr ∧ t.packets = s.packets)
    ∧ ((∀ j ∈ lanes, s.ownStorage (loc j) = false ∧ s.l1Sector s.core (loc j) = none) →
      s.loadsOut s.core.cur.slot < 8 →
      ∃ t, exec i s = .next t ∧ AsksFor s t (.load (.lanes d)) (lanes.map fun j => ⟨loc j, A j, 4, j, []⟩) ∧ t.mem = s.mem
        ∧ VmRest s t sh swap ∧ t.core.x = s.core.x ∧ t.core.cr = s.core.cr)

/-- R249, R250: lanes stored through tagged addresses: into own storage at once, where of lanes that meet the highest stays, and
elsewhere in requests that carry them. -/
def StoresLanes (i : Instr) (s : State) (sh : BitVec 2) (swap : Bool) (d : Nat) (lanes : List Nat) (A : Nat → Word64) : Prop :=
  ∀ loc pg, LanesReach s .wr lanes A loc pg → s.storeWait none [(d, 128)] [] = false →
    (∀ j ∈ lanes, s.poisoned (s.st (d + 4 * j)) 4 = false) →
    ((∀ j ∈ lanes, s.ownStorage (loc j) = true) → s.storesOut s.core.cur.slot < 16 →
      ∃ t, exec i s = .next t
        ∧ (∀ j ∈ lanes, (∀ k ∈ lanes, j < k → loc k ≠ loc j) → t.num (loc j) 4 = s.laneSync d j)
        ∧ (∀ l, (∀ j ∈ lanes, l < loc j ∨ loc j + 4 ≤ l) → t.byte l = s.byte l) ∧ VmRest s t sh swap
        ∧ t.core.x = s.core.x ∧ t.core.cr = s.core.cr ∧ t.packets = s.packets)
    ∧ ((∀ j ∈ lanes, s.ownStorage (loc j) = false) → s.storesOut s.core.cur.slot < 16 →
      ∃ t, exec i s = .next t
        ∧ AsksFor s t .store (lanes.map fun j => ⟨loc j, A j, 4, j, s.readSync (s.st (d + 4 * j)) 4⟩) ∧ t.mem = s.mem
        ∧ VmRest s t sh swap ∧ t.core.x = s.core.x ∧ t.core.cr = s.core.cr)

/-- R78, R248: the same in the register store, lane j at store address `A j` within reach of the unit: the base x register
advances by the shape's STRIDE0. -/
def MovesInStore (i : Instr) (s : State) (write : Bool) (sh : BitVec 2) (swap : Bool) (base : BitVec 6) (shape : BitVec 128) (d : Nat)
    (lanes : List Nat) (A : Nat → Nat) : Prop :=
  let ranges := lanes.map fun j => (A j, 4)
  (∀ j ∈ lanes, A j % 4 = 0 ∧ s.core.nearOk (s.core.cur.slot - 2) (A j) 4 = true ∧ s.core.wmWait 3 (A j) 4 = false
    ∧ s.poisoned (s.st (if write = true then d + 4 * j else A j)) 4 = false) →
  s.storeWait none (if write = true then [(d, 128)] else ranges) (if write = true then ranges else [(d, 128)]) = false →
  ∃ t, exec i s = .next t ∧ VmRest s t sh swap ∧ t.packets = s.packets ∧ t.core.cr = s.core.cr
    ∧ (∀ n, t.core.xReg n = s.core.xReg n + (if n = base.setWidth 4 then shStride0 shape else 0#32))
    ∧ (write = false → LanesOnly s t d lanes fun j => leNat (s.readSync (s.st (A j)) 4))
    ∧ (write = true → (∀ j ∈ lanes, (∀ k ∈ lanes, j < k → A k ≠ A j) → t.num (s.st (A j)) 4 = s.laneSync d j)
      ∧ ∀ l, (∀ j ∈ lanes, l < s.st (A j) ∨ s.st (A j) + 4 ≤ l) → t.byte l = s.byte l)

/-! ### Engines -/

/-- What an instruction of the M or N slot needs to enter its queue (R49, R83, R86, R196, R292, R314): it is on, its engine is not
gated, its shape is clean and of a kind it takes, the queue has room, and what it reads and writes is free. -/
structure EngReady (s : State) (g : BitVec 4) (shape : BitVec 128) (ok : BitVec 128 → Bool) (eng : Nat) (reads writes : List (Nat × Nat)) :
    Prop where
  on : s.core.on g = true
  awake : (s.core.crGet 0x049).getLsbD (s.core.cur.slot - 2) = false
  clean : shapeClean shape = true
  typed : ok shape = true
  room : s.engWait eng reads writes = false

/-- An operation has joined an engine queue with its operands as its entry read them. Memory, the scalar and guard registers and
the device stand; the shape register is exchanged if the swap bit says so (R82), and address and control registers change as
given. -/
def Enqueues (s t : State) (o : EngineOp) (i : Instr) (eng : Nat) (shape : BitVec 128) (sh : BitVec 2) (swap : Bool)
    (x : BitVec 4 → Word32) (cr : List (Nat × Word64)) : Prop :=
  t.core.ops = s.core.ops ++ [o] ∧ o.instr = i ∧ o.eng = eng ∧ o.seq = s.core.cur.seq ∧ o.pc = s.core.cur.pc ∧ o.rep = s.core.cur.rep
    ∧ o.shape = shape ∧ o.uid = s.uid
    ∧ t.core.shapes = (s.core.swapped sh swap).shapes ∧ t.core.shadows = (s.core.swapped sh swap).shadows
    ∧ (∀ n, t.core.xReg n = s.core.xReg n + x n) ∧ (∀ n, t.core.crGet n = (cr.lookup n).getD (s.core.crGet n))
    ∧ t = { s with uid := t.uid, core := { s.core with
        ops := t.core.ops, shapes := t.core.shapes, shadows := t.core.shadows, x := t.core.x, cr := t.core.cr
        cur := { s.core.cur with old := t.core.cur.old } } }

/-- The movement of one address register. -/
def moveX (on : Bool) (k : BitVec 4) (by' : Word32) (n : BitVec 4) : Word32 := if on = true ∧ n = k then by' else 0#32

/-- R294, R298, R300, R301: an instruction of the array joins the queue with the A rows of all its repetitions and its
accumulators. -/
def QueuesMma (i : Instr) (s : State) (g : BitVec 4) (sh : BitVec 2) (swap : Bool) (ok : BitVec 128 → Bool) (r0 : Nat)
    (accs : List (BitVec 3)) (base step pitch : Word32) (x : BitVec 4 → Word32) : Prop :=
  let shape := s.core.activeShape sh swap
  let n := s.core.cur.rep
  let feeds := feedRows base step pitch n (shRows shape)
  let as := accs.map fun a => (s.core.aAddr a).getD 0
  let busy := as.map fun a => accRows a r0 (n * shRows shape)
  EngReady s g shape ok 0 feeds busy → rowsFit shape r0 n = true → (∀ a ∈ accs, (s.core.aAddr a).isSome = true) →
  (∀ r ∈ feeds, s.core.storeOk r.1 r.2 = true) →
  ∃ t o, exec i s = .next t ∧ Enqueues s t o i 0 shape sh swap x [] ∧ o.addrs = feeds.map (·.1) ∧ o.regs = as ∧ o.locks = feeds
    ∧ o.busy = busy ∧ o.extra = [s.core.act, r0]

/-- R316, R317: an instruction of the Ladder joins the queue with its rows in every repetition. One register named twice advances by
both strides. -/
def QueuesRows (i : Instr) (s : State) (g : BitVec 4) (sh : BitVec 2) (swap pi : Bool) (xa xb : BitVec 4) (ok : BitVec 128 → Bool)
    (acc : List (Nat × Nat)) (rows : Word32 → Word32 → List RowUse) : Prop :=
  let shape := s.core.activeShape sh swap
  let n := s.core.cur.rep
  let st0 := if pi = true then shStride0 shape else 0#32
  let st1 := if pi = true then shStride1 shape else 0#32
  let pa := if xa = xb then st0 + st1 else st0
  let pb := if xa = xb then st0 + st1 else st1
  let bases := (List.range n).map fun k => (s.core.xVal xa + BitVec.ofNat 32 k * pa, s.core.xVal xb + BitVec.ofNat 32 k * pb)
  let us := bases.flatMap fun b => rows b.1 b.2
  let reads := (us.filter fun u => u.out == false).map fun u => (u.a, u.n)
  let writes := acc ++ (us.filter fun u => u.out == true).map fun u => (u.a, u.n)
  EngReady s g shape ok 1 (reads ++ acc) writes → (∀ u ∈ us, u.a % 4 = 0 ∧ s.core.storeOk u.a u.n = true) →
  ∃ t o, exec i s = .next t
    ∧ Enqueues s t o i 1 shape sh swap
      (fun k => moveX pi xa (BitVec.ofNat 32 n * shStride0 shape) k + moveX pi xb (BitVec.ofNat 32 n * shStride1 shape) k) []
    ∧ o.addrs = bases.flatMap (fun b => [b.1.toNat, b.2.toNat]) ∧ o.regs = acc.map (·.1) ∧ o.locks = reads ∧ o.busy = writes
    ∧ o.extra = [s.core.nconf]

/-- The operation at the head of an engine queue can perform: the bytes it reads hold no error and are those now in
storage, and no floating-point trap is enabled. -/
structure Performs (s : State) (eng : Nat) (o : EngineOp) (reads : List (Nat × Nat)) : Prop where
  head : (s.core.ops.filter (·.eng == eng)).head? = some o
  good : ∀ r ∈ reads, s.poisoned (s.st r.1) r.2 = false
  same : o.old = []
  quiet : s.core.crGet 0x00D = 0#64

/-- It has performed: it has left the queue; registers and the program counter stand, and of the control registers only one
status register may have changed. -/
def Performed (s t : State) (o : EngineOp) (status : Nat) : Prop :=
  t.core.ops.map (·.uid) = (s.core.ops.filter (·.uid != o.uid)).map (·.uid) ∧ t.core.s = s.core.s ∧ t.core.x = s.core.x
    ∧ t.core.g = s.core.g ∧ t.core.pc = s.core.pc ∧ t.core.shapes = s.core.shapes
    ∧ ∀ n, n ≠ status → t.core.crGet n = s.core.crGet n

/-- Rows of 256 elements of an accumulator take values. -/
def PutsRows (s t : State) (a r0 n : Nat) (v : Nat → Nat → Nat) : Prop :=
  (∀ r < n, ∀ c < 256, t.num (s.st (a + 1024 * (r0 + r) + 4 * c)) 4 = v r c % 2 ^ 32)
    ∧ ∀ l, l < s.st (a + 1024 * r0) ∨ s.st (a + 1024 * (r0 + n)) ≤ l → t.byte l = s.byte l

/-! ### Copies, barriers and frames -/

/-- R259 to R263: a copy whose shape is a tile it takes, whose rows pass their checks and which nothing holds joins its unit's queue
with the segments that the checks found. No byte and no scalar, address or guard register changes. -/
def QueuesCopy (i : Instr) (s : State) (g : BitVec 4) (sh : BitVec 2) (swap : Bool) (ok : BitVec 128 → Bool) (f : CopyForm)
    (moves : List RowMove) (list : List (Nat × Nat)) (cr : List (Nat × Word64)) : Prop :=
  let shape := s.core.activeShape sh swap
  ∀ segs pages, s.core.on g = true → (s.core.crGet 0x049).getLsbD (s.core.cur.slot - 2) = false → shapeClean shape = true →
    tileOk shape = true → ok shape = true → s.checkMoves f moves = .ok (segs, pages) → s.copyHeld f.ssp segs list = false →
    ∃ t o, exec i s = .next t ∧ t.core.ops = s.core.ops ++ [o] ∧ o.instr = i ∧ o.eng = s.core.cur.slot - 4 ∧ o.seq = s.core.cur.seq
      ∧ o.pc = s.core.cur.pc ∧ o.segs = segs ∧ o.shape = shape ∧ t.mem = s.mem ∧ t.packets = s.packets
      ∧ t.core.s = s.core.s ∧ t.core.x = s.core.x ∧ t.core.g = s.core.g ∧ t.core.pc = s.core.pc
      ∧ t.core.shapes = (s.core.swapped sh swap).shapes ∧ t.core.shadows = (s.core.swapped sh swap).shadows
      ∧ ∀ n, t.core.crGet n = (cr.lookup n).getD (s.core.crGet n)

/-- The fields of one barrier of a core: expected, count, overrun. -/
def CoreState.barrier (c : CoreState) (b : BitVec 8) : Nat × Nat × Bool :=
  ((Cells.get 0#32 c.barExp b.toNat).toNat, (Cells.get 0#31 c.barCnt b.toNat).toNat, Cells.get 0#1 c.barOvr b.toNat == 1#1)

/-- An operation of the frame engine is accepted: it joins the engine's queue, and no byte of memory and no register but those
given changes. -/
def FrAccepted (s t : State) (i : Instr) (names acts : List Nat) (segs : List Seg) (writes : List (Nat × List Byte)) : Prop :=
  ∃ o, t.core.ops = s.core.ops ++ [o] ∧ o.instr = i ∧ o.eng = 4 ∧ o.seq = s.core.cur.seq ∧ o.addrs = names ∧ o.regs = acts
    ∧ o.segs = segs ∧ o.writes = writes ∧ t.mem = s.mem ∧ t.core.s = s.core.s ∧ t.core.g = s.core.g ∧ t.core.pc = s.core.pc

/-- What a frame instruction needs to be considered (R336, R341, R342, R352): it is on, the engine is not gated and has room in its
queue; no other core has an operation that names one of its frames or moves or counts one of its pages; FMROOT is enabled; and for
the instructions of the banks, the core leads its gang and has banks. -/
structure FrReady (s : State) (g : BitVec 4) (banks : Bool) (names pages : List Nat) : Prop where
  on : s.core.on g = true
  awake : (s.core.crGet 0x049).getLsbD (s.core.cur.slot - 2) = false
  room : (s.core.queue 4).length < 8
  alone : s.frShares names pages = false
  enabled : (s.devGet 0x120).getLsbD 0 = true
  leads : banks = true → s.core.gang.lead = s.core.id ∧ bankPages (s.core.crGet 0x00E) ≠ 0

/-! ### Links -/

/-- One direction of a link takes a new value and every other keeps its own. -/
def LinkBecomes (s t : State) (inward : Bool) (n : BitVec 8) (l : Link) : Prop :=
  t.link inward n = l ∧ ∀ i m, ¬(i = inward ∧ m = n) → t.link i m = s.link i m

/-- The trap of an instruction's check that forms no address (R75, R415): the slot alone in TINFO0. -/
def TrapsWith (i : Instr) (s : State) (cause : BitVec 8) : Prop :=
  exec i s = .next (s.takeTrap ⟨cause, s.core.cur.pc, BitVec.ofNat 64 s.core.cur.slot, 0#64, 0#64, 0#64⟩)

/-- R416: an offset of x half nanoseconds rounded to the nearest nanosecond, ties to even. -/
def RoundsHalf (x r : Int) : Prop := (2 * r - x ≤ 1 ∧ x - 2 * r ≤ 1) ∧ ((2 * r - x = 1 ∨ x - 2 * r = 1) → r % 2 = 0)

/-- R460: a replacement is asked for, for a reason by number. -/
def AsksReplacement (t : State) (why : Nat) : Prop :=
  (t.devGet 0x100).getLsbD 2 = true ∧ (t.devGet 0x100).getLsbD (12 + why) = true

/-- The number of wavelengths in a set. -/
def wavesIn (m : BitVec 16) : Nat := ((List.range 16).map fun i => (m.getLsbD i).toNat).sum

/-! ### The invariant -/

/-- The byte storage and the poison marks (R119) are in their canonical form, so that equal storage is equal data. -/
def State.Inv (s : State) : Prop := Memory.wf s.mem = true ∧ Cells.wf 0#1 s.poison = true

/-! ### Launches and save areas -/

/-- R198: the 17 pages of a save area at an address pass their checks and lie in raw memory, apart from each other. -/
def AreaLies (s : State) (a : Word64) (k : AccKind) (page : Nat → Nat) : Prop :=
  a.toNat % 65536 = 0 ∧ a.toNat < 2 ^ 48
    ∧ (∀ i < 17, isRaw (page i) = true ∧ isRaw (page i + 65535) = true
      ∧ ∃ pg, s.place (a + BitVec.ofNat 64 (65536 * i)) 65536 1 k = .ok ⟨page i, pg⟩)
    ∧ ∀ i < 17, ∀ j < 17, i ≠ j → page i + 65536 ≤ page j ∨ page j + 65536 ≤ page i

/-- R432: a record of 128 bytes that LAUNCH reads piece by piece, none of them held or in error. -/
def RecordReads (s : State) (a : Word64) (r : List Byte) (loc : Nat → Nat) (pg : Nat → Option Page) : Prop :=
  r = (List.range 16).flatMap (fun i => s.readSync (loc i) 8)
    ∧ ∀ i < 16, let ai := a + BitVec.ofNat 64 (8 * i)
      s.place ai 8 8 .rd = .ok ⟨loc i, pg i⟩ ∧ (isRaw (loc i) = true ∨ isPhys (loc i) = false)
        ∧ s.accessHeld ai (loc i) 8 false = false ∧ s.ownWait (loc i) 8 = false ∧ s.poisoned (loc i) 8 = false

/-- R432: the record as the queue or the tail slot takes it: PLID, PDIE and PV name the parent, all else stands. -/
def WithParent (c : CoreState) (r r' : List Byte) : Prop :=
  (∀ i, i < 88 ∨ 96 ≤ i → r'[i]? = r[i]?) ∧ leNat ((r'.drop 88).take 8) % 2 ^ 18 = 2 ^ 17 + c.launchKey
    ∧ leNat ((r'.drop 88).take 8) / 2 ^ 18 = leNat ((r.drop 88).take 8) / 2 ^ 18

/-- R444: the launch that a selector names. -/
def NamesLaunch (s : State) (v : Nat) (l : Launch) : Prop := s.launches.find? (fun l => l.key == v % 2 ^ 17) = some l

end Machine

end Sys2Proof
end

