-- ==== Sys2Proof/Certificates/Slice0/Obligations.lean ====
section
/-! DEFINITION. The statements for the provers, each a proposition about the machine. -/

open Sys2Proof Sys2Proof.Machine

/-! ### The scalar unit (R201 to R220) -/

/-- R202, R203: ADD to ROTR at 64 and at 32 bits: the result as whole-number arithmetic gives it, wrapped, and at 32 bits
sign-extended, also that of the unsigned operations; the divisions for every divisor but zero (the overflow case included), and
trap 0x30 for zero. -/
def Obligations.ScalarArithmeticWraps : Prop :=
  ((Arith64 .add 0 ∧ Arith64 .sub 1 ∧ Arith64 .mul 2 ∧ Arith64 .mulh 3 ∧ Arith64 .mulhu 4 ∧ Arith64 .and 9 ∧ Arith64 .or 10
    ∧ Arith64 .xor 11 ∧ Arith64 .shl 12 ∧ Arith64 .shr 13 ∧ Arith64 .sar 14 ∧ Arith64 .rotr 15)
    ∧ (Arith32 .addS32 0 ∧ Arith32 .subS32 1 ∧ Arith32 .mulS32 2 ∧ Arith32 .mulhS32 3 ∧ Arith32 .mulhuS32 4 ∧ Arith32 .andS32 9
    ∧ Arith32 .orS32 10 ∧ Arith32 .xorS32 11 ∧ Arith32 .shlS32 12 ∧ Arith32 .shrS32 13 ∧ Arith32 .sarS32 14
    ∧ Arith32 .rotrS32 15))
    ∧ ((Division64 .div 5 ∧ Division64 .divu 6 ∧ Division64 .rem 7 ∧ Division64 .remu 8)
    ∧ Division32 .divS32 5 ∧ Division32 .divuS32 6 ∧ Division32 .remS32 7 ∧ Division32 .remuS32 8)

/-- R204 to R206: the smaller and the larger of two numbers; ANDN and ORN; leading and trailing zero bits, one bits, and the bytes in
reverse; the instructions with an immediate, extended to 64 bits; the shifts by an immediate amount; MOVI; MOVH, which sets bits 31
to 13 of a word and extends it. -/
def Obligations.CountsAndImmediates : Prop :=
  ((Selects .min (fun a b v => (v = a ∨ v = b) ∧ v.toInt ≤ a.toInt ∧ v.toInt ≤ b.toInt)
    ∧ Selects .minu (fun a b v => (v = a ∨ v = b) ∧ v.toNat ≤ a.toNat ∧ v.toNat ≤ b.toNat)
    ∧ Selects .max (fun a b v => (v = a ∨ v = b) ∧ a.toInt ≤ v.toInt ∧ b.toInt ≤ v.toInt)
    ∧ Selects .maxu (fun a b v => (v = a ∨ v = b) ∧ a.toNat ≤ v.toNat ∧ b.toNat ≤ v.toNat)
    ∧ Selects .andn (fun a b v => ∀ i < 64, v.getLsbD i = (a.getLsbD i && !b.getLsbD i))
    ∧ Selects .orn (fun a b v => ∀ i < 64, v.getLsbD i = (a.getLsbD i || !b.getLsbD i)))
    ∧ (Counts .clz (fun a v => v.toNat ≤ 64 ∧ a.toNat < 2 ^ (64 - v.toNat) ∧ (v.toNat < 64 → 2 ^ (63 - v.toNat) ≤ a.toNat))
    ∧ Counts .ctz (fun a v => v.toNat ≤ 64 ∧ (∀ i < v.toNat, a.getLsbD i = false) ∧ (v.toNat < 64 → a.getLsbD v.toNat = true))
    ∧ Counts .popc (fun a v => v.toNat = ((List.range 64).map fun i => (a.getLsbD i).toNat).sum)
    ∧ Counts .bswap (fun a v => ∀ i < 8, bitsOf v (8 * (7 - i)) 8 = bitsOf a (8 * i) 8)))
    ∧ (WithImmediate .addi (fun a i => BitVec.ofInt 64 (a.toInt + i.toInt))
    ∧ WithImmediate .muli (fun a i => BitVec.ofInt 64 (a.toInt * i.toInt))
    ∧ WithImmediate .andi (fun a i => a &&& BitVec.ofInt 64 i.toInt)
    ∧ WithImmediate .ori (fun a i => a ||| BitVec.ofInt 64 i.toInt)
    ∧ WithImmediate .xori (fun a i => a ^^^ BitVec.ofInt 64 i.toInt)
    ∧ WithShift .shli (fun a k => BitVec.ofNat 64 (a.toNat * 2 ^ k))
    ∧ WithShift .shri (fun a k => BitVec.ofNat 64 (a.toNat / 2 ^ k))
    ∧ WithShift .sari (fun a k => BitVec.ofInt 64 (a.toInt / (2 ^ k : Nat)))
    ∧ (∀ o s, s.core.on o.g = true → ∃ t, exec (.movi o) s = .next t ∧ WritesS s t o.d (BitVec.ofInt 64 o.imm.toInt))
    ∧ WithImmediate .movh (fun a i => BitVec.ofInt 64 (BitVec.ofNat 32 (i.toNat * 2 ^ 13 + a.toNat % 2 ^ 13)).toInt))

/-- R79, R207 to R210: the compares write all lanes of their guard; guard logic; GSET and GGET; SEL; and g0 reads all ones in
every state, also as the guard of an instruction. A write of g0, which no accepted encoding holds (R63), would be lost. -/
def Obligations.ComparesGuardsSelection : Prop :=
  ((∀ o s, s.core.on o.g = true → o.c.toNat < 10 → ∃ t v, exec (.cmp o) s = .next t ∧ WritesG s t o.k v
      ∧ (condHolds o.c.toNat (s.core.sVal o.a) (s.core.sVal o.b) → v = 0xFFFFFFFF#32)
      ∧ (¬condHolds o.c.toNat (s.core.sVal o.a) (s.core.sVal o.b) → v = 0#32))
    ∧ (∀ o s, s.core.on o.g = true → ∃ t v, exec (.cmpi o) s = .next t ∧ WritesG s t o.k v
      ∧ (let c := if o.c = 7#3 then 9 else o.c.toNat
        (condHolds c (s.core.sVal o.a) (BitVec.ofInt 64 o.imm.toInt) → v = 0xFFFFFFFF#32)
          ∧ (¬condHolds c (s.core.sVal o.a) (BitVec.ofInt 64 o.imm.toInt) → v = 0#32)))
    ∧ GuardLogic .gand (fun a b => a && b) ∧ GuardLogic .gor (fun a b => a || b) ∧ GuardLogic .gxor (fun a b => a != b)
    ∧ GuardLogic .gandn (fun a b => a && !b)
    ∧ (∀ o s, s.core.on o.g = true →
      ∃ t, exec (.gset o) s = .next t ∧ WritesG s t o.d (BitVec.ofNat 32 ((s.core.sVal o.a).toNat % 2 ^ 32)))
    ∧ (∀ o s, s.core.on o.g = true →
      ∃ t, exec (.gget o) s = .next t ∧ WritesS s t o.d (BitVec.ofNat 64 (s.core.gVal o.a).toNat))
    ∧ ∀ o s, s.core.on o.g = true → ∃ t, exec (.sel o) s = .next t
      ∧ WritesS s t o.d (if ((s.core.gVal o.k).getLsbD 0 ^^ o.neg) = true then s.core.sVal o.a else s.core.sVal o.b))
    ∧ (∀ c : CoreState, c.gVal 0#3 = 0xFFFFFFFF#32 ∧ c.on 0#4 = true ∧ c.on 8#4 = false
    ∧ ∀ (v : Word32) (n : BitVec 3), (c.setG 0#3 v) = c ∧ (n ≠ 0#3 → (c.setG n v).gReg n = v))

/-- R72 to R74, R215, R216, R218, R219: XSET and XADD write an address register, SHW one field of one shadow shape, SLK one
entry of the slack table, and nothing else changes; VIEW stores a valid value in its view register and nothing else, and an invalid
one takes trap 0x0B and leaves the register. The conditions of R74 are written out here. -/
def Obligations.SmallRegisterWrites : Prop :=
  ((∀ o s, s.core.on o.g = true →
      ∃ t, exec (.xset o) s = .next t ∧ WritesX s t o.k (BitVec.ofNat 32 ((s.core.sVal o.a).toNat % 2 ^ 32)))
    ∧ (∀ o s, s.core.on o.g = true →
      ∃ t, exec (.xadd o) s = .next t ∧ WritesX s t o.k (BitVec.ofInt 32 ((s.core.xVal o.k).toNat + o.imm.toInt)))
    ∧ (∀ o s, s.core.on o.g = true → o.f.toNat < 10 → ∃ t, exec (.shw o) s = .next t
      ∧ t = { s with core := { s.core with shadows := t.core.shadows } }
      ∧ (∀ i h, 4 * i + h ≠ 4 * o.slot.toNat + o.h.toNat → t.core.shadowAt i h = s.core.shadowAt i h)
      ∧ (let f := shapeField o.f.toNat
        let old := s.core.shadowAt o.slot.toNat o.h.toNat
        let new := t.core.shadowAt o.slot.toNat o.h.toNat
        ∀ j < 128, new.getLsbD j =
          if f.1 ≤ j ∧ j < f.1 + f.2 then (s.core.sVal o.p).getLsbD (j - f.1) else old.getLsbD j))
    ∧ ∀ o s, s.core.on o.g = true → ∃ t, exec (.slk o) s = .next t
      ∧ t = { s with core := { s.core with slack := t.core.slack } }
      ∧ ∀ n, Cells.get 0#10 t.core.slack n = if n = o.e.toNat then o.v else Cells.get 0#10 s.core.slack n)
    ∧ ∀ o s, s.core.on o.g = true →
    let v := s.core.sVal o.p
    let n := o.n.toNat
    let lo := 128 * bitsOf v 0 13
    let hi := lo + 128 * bitsOf v 13 14
    let valid := bitsOf v 27 3 = (if n ≤ 3 then n else 4) ∧ bitsOf v 31 1 = 0 ∧ bitsOf v 52 12 = 0
      ∧ hi ≤ 2 ^ 20 ∧ (hi ≤ 2 ^ 19 ∨ 2 ^ 19 ≤ lo ∨ lo = hi)
      ∧ (bitsOf v 30 1 = 1 → n ≤ 3 ∧ hi ≤ 2 ^ 19)
      ∧ (n = 2 → bitsOf v 32 12 ≠ 0 ∧ bitsOf v 44 8 ≠ 0) ∧ (lo = hi ∨ 512 ≤ lo)
    (valid → ∃ t, exec (.view o) s = .next t ∧ WritesCr s t [(0x010 + n, v)])
      ∧ (¬valid → exec (.view o) s =
        .next (s.takeTrap ⟨0x0B#8, s.core.cur.pc, BitVec.ofNat 64 s.core.cur.slot, 0#64, 0#64, 0#64⟩))

/-- R49, R50: every guarded-off instruction of the S, M, N and C slots leaves everything as it is; a V instruction with no lane on, in V0
or V1, leaves everything as it is but for the energy of its issue and, of one that may draw, that V0 took the Cup's turn, which R58's check
counts. (VSEL is never guarded off; LOOP, RPT, LOOPN, MARGIN and the segment instructions have no guard; SLEEP reads its controller's.) -/
def Obligations.GuardOffLeavesAll : Prop :=
  ((∀ o : OpSA, Inert (.add o) o.g ∧ Inert (.sub o) o.g ∧ Inert (.mul o) o.g ∧ Inert (.mulh o) o.g ∧ Inert (.mulhu o) o.g
      ∧ Inert (.div o) o.g ∧ Inert (.divu o) o.g ∧ Inert (.rem o) o.g ∧ Inert (.remu o) o.g ∧ Inert (.and o) o.g
      ∧ Inert (.or o) o.g ∧ Inert (.xor o) o.g ∧ Inert (.shl o) o.g ∧ Inert (.shr o) o.g ∧ Inert (.sar o) o.g
      ∧ Inert (.rotr o) o.g ∧ Inert (.addS32 o) o.g ∧ Inert (.subS32 o) o.g ∧ Inert (.mulS32 o) o.g ∧ Inert (.mulhS32 o) o.g
      ∧ Inert (.mulhuS32 o) o.g ∧ Inert (.divS32 o) o.g ∧ Inert (.divuS32 o) o.g ∧ Inert (.remS32 o) o.g
      ∧ Inert (.remuS32 o) o.g ∧ Inert (.andS32 o) o.g ∧ Inert (.orS32 o) o.g ∧ Inert (.xorS32 o) o.g
      ∧ Inert (.shlS32 o) o.g ∧ Inert (.shrS32 o) o.g ∧ Inert (.sarS32 o) o.g ∧ Inert (.rotrS32 o) o.g ∧ Inert (.min o) o.g
      ∧ Inert (.minu o) o.g ∧ Inert (.max o) o.g ∧ Inert (.maxu o) o.g ∧ Inert (.andn o) o.g ∧ Inert (.orn o) o.g)
    ∧ (∀ o : OpSU, Inert (.clz o) o.g ∧ Inert (.ctz o) o.g ∧ Inert (.popc o) o.g ∧ Inert (.bswap o) o.g)
    ∧ (∀ o : OpCmp, Inert (.cmp o) o.g) ∧ (∀ o : OpCmpi, Inert (.cmpi o) o.g)
    ∧ (∀ o : OpGuard, Inert (.gand o) o.g ∧ Inert (.gor o) o.g ∧ Inert (.gxor o) o.g ∧ Inert (.gandn o) o.g)
    ∧ (∀ o : OpGset, Inert (.gset o) o.g) ∧ (∀ o : OpGget, Inert (.gget o) o.g) ∧ (∀ o : OpSel, Inert (.sel o) o.g)
    ∧ (∀ o : OpSI, Inert (.addi o) o.g ∧ Inert (.andi o) o.g ∧ Inert (.ori o) o.g ∧ Inert (.xori o) o.g
      ∧ Inert (.muli o) o.g ∧ Inert (.movh o) o.g)
    ∧ (∀ o : OpShift, Inert (.shli o) o.g ∧ Inert (.shri o) o.g ∧ Inert (.sari o) o.g)
    ∧ (∀ o : OpMovi, Inert (.movi o) o.g)
    ∧ (∀ o : OpSL, Inert (.ld o) o.g ∧ Inert (.st o) o.g ∧ Inert (.ldacq o) o.g ∧ Inert (.strel o) o.g)
    ∧ (∀ o : OpAtom, Inert (.atom64 o) o.g ∧ Inert (.atom32 o) o.g) ∧ (∀ o : OpAtomn, Inert (.atomn o) o.g)
    ∧ (∀ o : OpSQ, Inert (.qinit o) o.g ∧ Inert (.enq o) o.g ∧ Inert (.deq o) o.g ∧ Inert (.qpeek o) o.g
      ∧ Inert (.qstat o) o.g ∧ Inert (.rwopen o) o.g ∧ Inert (.rwclose o) o.g ∧ Inert (.launch o) o.g
      ∧ Inert (.preempt o) o.g ∧ Inert (.resume o) o.g ∧ Inert (.emrd o) o.g ∧ Inert (.digest o) o.g ∧ Inert (.linkst o) o.g
      ∧ Inert (.lnkcfg o) o.g ∧ Inert (.talign o) o.g) ∧ (∀ o : OpSQK, Inert (.enqn o) o.g ∧ Inert (.deqn o) o.g)
    ∧ (∀ o : OpS1, Inert (.qclose o) o.g ∧ Inert (.fwait o) o.g ∧ Inert (.jmpi o) o.g ∧ Inert (.ctxsv o) o.g
      ∧ Inert (.ctxld o) o.g ∧ Inert (.chwait o) o.g) ∧ (∀ o : OpFence, Inert (.fence o) o.g)
    ∧ (∀ o : OpDrain, Inert (.drain o) o.g) ∧ (∀ o : OpJoin, Inert (.join o) o.g) ∧ (∀ o : OpXset, Inert (.xset o) o.g)
    ∧ (∀ o : OpXadd, Inert (.xadd o) o.g) ∧ (∀ o : OpView, Inert (.view o) o.g) ∧ (∀ o : OpShw, Inert (.shw o) o.g)
    ∧ (∀ o : OpSlk, Inert (.slk o) o.g) ∧ (∀ o : OpMfc, Inert (.mfc o) o.g) ∧ (∀ o : OpMtc, Inert (.mtc o) o.g)
    ∧ (∀ o : OpSJ, Inert (.br o) o.g ∧ Inert (.jmp o) o.g ∧ Inert (.call o) o.g ∧ Inert (.cont o) o.g)
    ∧ (∀ o : OpG, Inert (.ret o) o.g ∧ Inert (.endcont o) o.g ∧ Inert (.tret o) o.g ∧ Inert (.halt o) o.g
      ∧ Inert (.yield o) o.g ∧ Inert (.mbsw o) o.g) ∧ (∀ o : OpLnBound, Inert (.lnsetBound o) o.g)
    ∧ (∀ o : OpLnBind, Inert (.lnsetBind o) o.g) ∧ (∀ o : OpLnClear, Inert (.lnsetClear o) o.g)
    ∧ (∀ o : OpTrap, Inert (.trap o) o.g) ∧ (∀ o : OpWaitev, Inert (.waitev o) o.g) ∧ (∀ o : OpGate, Inert (.gate o) o.g)
    ∧ (∀ o : OpBwait, Inert (.bwait o) o.g) ∧ (∀ o : OpWmwait, Inert (.wmwait o) o.g)
    ∧ (∀ o : OpWmwaitAll, Inert (.wmwaitAll o) o.g) ∧ (∀ o : OpMbld, Inert (.mbld o) o.g)
    ∧ (∀ o : OpMma, Inert (.mma o) o.g ∧ Inert (.mmaz o) o.g ∧ Inert (.mout o) o.g) ∧ (∀ o : OpMscl, Inert (.mscl o) o.g)
    ∧ (∀ o : OpMacc, Inert (.macc o) o.g) ∧ (∀ o : OpMzero, Inert (.mzero o) o.g) ∧ (∀ o : OpMtap, Inert (.mtap o) o.g)
    ∧ (∀ o : OpLcfgSet, Inert (.lcfgSet o) o.g) ∧ (∀ o : OpLcfgX, Inert (.lcfgLoad o) o.g ∧ Inert (.lcfgSave o) o.g)
    ∧ (∀ o : OpLcfgClear, Inert (.lcfgClear o) o.g) ∧ (∀ o : OpScan, Inert (.lscan o) o.g ∧ Inert (.lscanc o) o.g)
    ∧ (∀ o : OpLgate, Inert (.lgate o) o.g) ∧ (∀ o : OpLmat, Inert (.lmat o) o.g)
    ∧ (∀ o : OpCpy, Inert (.cpy o) o.g ∧ Inert (.cpyg o) o.g) ∧ (∀ o : OpCpyh, Inert (.cpyh o) o.g)
    ∧ (∀ o : OpCpym, Inert (.cpym o) o.g ∧ Inert (.cpyd o) o.g) ∧ (∀ o : OpCpyr, Inert (.cpyr o) o.g)
    ∧ (∀ o : OpWmark, Inert (.wmark o) o.g) ∧ (∀ o : OpBar, Inert (.binit o) o.g ∧ Inert (.badd o) o.g)
    ∧ (∀ o : OpArrive, Inert (.arrive o) o.g) ∧ (∀ o : OpFrld, Inert (.frld o) o.g) ∧ (∀ o : OpFrst, Inert (.frst o) o.g)
    ∧ (∀ o : OpFrsw, Inert (.frsw o) o.g)
    ∧ (∀ o : OpFr2, Inert (.snap o) o.g ∧ Inert (.fork o) o.g ∧ Inert (.hpapp o) o.g ∧ Inert (.frstat o) o.g)
    ∧ (∀ o : OpRback, Inert (.rback o) o.g) ∧ (∀ o : OpFrel, Inert (.frel o) o.g) ∧ (∀ o : OpHpmap, Inert (.hpmap o) o.g))
    ∧ ((∀ o : OpVA, Quiet (.vadd o) o.g ∧ Quiet (.vsub o) o.g ∧ Quiet (.vmul o) o.g ∧ Quiet (.vfma o) o.g
      ∧ Quiet (.vmin o) o.g ∧ Quiet (.vmax o) o.g ∧ Quiet (.vdiv o) o.g ∧ Quiet (.vand o) o.g ∧ Quiet (.vor o) o.g
      ∧ Quiet (.vxor o) o.g ∧ Quiet (.vshl o) o.g ∧ Quiet (.vshr o) o.g ∧ Quiet (.vsar o) o.g ∧ Quiet (.vpack o) o.g
      ∧ Quiet (.vperm o) o.g ∧ Quiet (.vcadd o) o.g ∧ Quiet (.vfade o) o.g ∧ Quiet (.vqdeq o) o.g)
    ∧ (∀ o : OpVU, Quiet (.vabs o) o.g ∧ Quiet (.vneg o) o.g ∧ Quiet (.vsqrt o) o.g ∧ Quiet (.vrcp o) o.g
      ∧ Quiet (.vrsq o) o.g ∧ Quiet (.vexp2 o) o.g ∧ Quiet (.vlog2 o) o.g ∧ Quiet (.vnot o) o.g ∧ Quiet (.vcvt o) o.g
      ∧ Quiet (.vcacc o) o.g ∧ Quiet (.xmov o) o.g ∧ Quiet (.vmov o) o.g) ∧ (∀ o : OpVcmp, Quiet (.vcmp o) o.g)
    ∧ (∀ o : OpVunpk, Quiet (.vunpk o) o.g) ∧ (∀ o : OpVbcstLane, Quiet (.vbcstLane o) o.g)
    ∧ (∀ o : OpVbcstScalar, Quiet (.vbcstScalar o) o.g) ∧ (∀ o : OpVred, Quiet (.vred o) o.g)
    ∧ (∀ o : OpS1, Quiet (.cupseed o) o.g) ∧ (∀ o : OpCupstat, Quiet (.cupstat o) o.g)
    ∧ (∀ o : OpVM, Quiet (.vld o) o.g ∧ Quiet (.vst o) o.g) ∧ (∀ o : OpVX, Quiet (.vgth o) o.g ∧ Quiet (.vsct o) o.g)
    ∧ (∀ o : OpVatom, Quiet (.vatom o) o.g))

/-- R203, whole: what a division by zero, the overflow case and a guarded-off division do, at both widths. -/
def Obligations.DivisionRule : Prop :=
  ∀ (o : OpSA) (s : State), s.core.cur.slot = 1 →
    let z : Trap := ⟨0x30#8, s.core.cur.pc, 1#64, 0#64, 0#64, 0#64⟩
    let a := s.core.sVal o.a
    let b := s.core.sVal o.b
    (s.core.on o.g = true → b = 0#64 →
      exec (.div o) s = .next (s.takeTrap z) ∧ exec (.divu o) s = .next (s.takeTrap z)
        ∧ exec (.rem o) s = .next (s.takeTrap z) ∧ exec (.remu o) s = .next (s.takeTrap z))
    ∧ (s.core.on o.g = true → b.setWidth 32 = 0#32 →
      exec (.divS32 o) s = .next (s.takeTrap z) ∧ exec (.divuS32 o) s = .next (s.takeTrap z)
        ∧ exec (.remS32 o) s = .next (s.takeTrap z) ∧ exec (.remuS32 o) s = .next (s.takeTrap z))
    ∧ (s.takeTrap z).core.s = s.core.s
    ∧ (s.core.on o.g = true → a = 0x8000000000000000#64 → b = 0xFFFFFFFFFFFFFFFF#64 →
      exec (.div o) s = .next (s.putS o.d 0x8000000000000000#64) ∧ exec (.rem o) s = .next (s.putS o.d 0#64))
    ∧ (s.core.on o.g = true → a.setWidth 32 = 0x80000000#32 → b.setWidth 32 = 0xFFFFFFFF#32 →
      exec (.divS32 o) s = .next (s.putS o.d 0xFFFFFFFF80000000#64) ∧ exec (.remS32 o) s = .next (s.putS o.d 0#64))
    ∧ (s.core.on o.g = false →
      exec (.div o) s = .next s ∧ exec (.divu o) s = .next s ∧ exec (.rem o) s = .next s ∧ exec (.remu o) s = .next s
        ∧ exec (.divS32 o) s = .next s ∧ exec (.divuS32 o) s = .next s ∧ exec (.remS32 o) s = .next s
        ∧ exec (.remuS32 o) s = .next s)

/-! ### The sequencer (R154 to R200) -/

/-- R162: BR, JMP, JMPI, CALL and RET go to their targets; CALL writes s63. -/
def Obligations.TransfersGoToTargets : Prop :=
  (∀ o s, s.core.on o.g = true →
      let pc := s.core.cur.pc.setWidth 64
      Transfers (.br o) s (pc + BitVec.ofInt 64 (32 * o.off.toInt)) false
        ∧ Transfers (.call o) s (pc + BitVec.ofInt 64 (32 * o.off.toInt)) true
        ∧ Transfers (.jmp o) s ((BitVec.ofInt 48 (32 * o.off.toInt)).setWidth 64) false)
    ∧ (∀ o s, s.core.on o.g = true → Transfers (.jmpi o) s (s.core.sVal o.p) false)
    ∧ ∀ o s, s.core.on o.g = true → Transfers (.ret o) s (s.core.sVal 63#6) false

/-- R166, R169 to R171: LOOP and RPT open a level or step over a body that runs no pass; at the dispatch of a body's last
bundle the levels that end there count down, innermost first: while passes are left dispatch goes back to the start, otherwise the
level is popped and the next one that ends there counts. (Where the bundle of a LOOP or RPT of count 0 is itself the last of a body that loops back, so that
next is not pc + 32, dispatch stays at that body's first bundle: the model's choice, log entry 46; that the step over the body is to the bundle after
it is log entry 12's reading.) The loop nest: LNSET sets a level's bound, a binding, or clears it; LOOPN
counts and branches at its dispatch while the count is below the bound, and else falls through, and at its issue moves the bound
registers on, or takes them back. -/
def Obligations.LoopsOpenAndCountDown : Prop :=
  ((OpensLevel .loop false ∧ OpensLevel .rpt true)
    ∧ (∀ (pc : BitVec 48) (l : LoopLevel) (rest : List LoopLevel),
    (l.last ≠ pc → countLevels pc (l :: rest) = (l :: rest, pc + 32#48, false))
      ∧ (l.last = pc → 1 < l.left → countLevels pc (l :: rest) = ({ l with left := l.left - 1 } :: rest, l.start, true))
      ∧ (l.last = pc → l.left ≤ 1 → (countLevels pc (l :: rest)).1 = (countLevels pc rest).1
        ∧ (countLevels pc (l :: rest)).2.1 = (countLevels pc rest).2.1 ∧ (countLevels pc (l :: rest)).2.2 = true)
      ∧ (countLevels pc (l :: rest)).1.length ≤ rest.length + 1))
    ∧ ((∀ o s, s.core.on o.g = true → ∃ t, exec (.lnsetBound o) s = .next t
      ∧ t = { s with core := { s.core with nest := t.core.nest } }
      ∧ ∀ v, s.core.nest[o.lv.toNat]? = some v →
        t.core.nest = s.core.nest.set o.lv.toNat { v with bound := (s.core.sVal o.p).setWidth 32, count := 0#32 })
    ∧ (∀ o s, s.core.on o.g = true → ∃ t, exec (.lnsetBind o) s = .next t
      ∧ t = { s with core := { s.core with nest := t.core.nest } }
      ∧ ∀ v, s.core.nest[o.lv.toNat]? = some v →
        let b : Binding := ⟨o.k, true, (s.core.sVal o.p).setWidth 32⟩
        (o.j = false → t.core.nest = s.core.nest.set o.lv.toNat { v with b0 := b })
          ∧ (o.j = true → t.core.nest = s.core.nest.set o.lv.toNat { v with b1 := b }))
    ∧ (∀ o s, s.core.on o.g = true → ∃ t, exec (.lnsetClear o) s = .next t
      ∧ t = { s with core := { s.core with nest := t.core.nest } }
      ∧ ∀ v, s.core.nest[o.lv.toNat]? = some v → ∃ u, t.core.nest = s.core.nest.set o.lv.toNat u
        ∧ u.bound = 0#32 ∧ u.count = 0#32 ∧ u.b0.on = false ∧ u.b1.on = false)
    ∧ (∀ (c : CoreState) (pc : BitVec 48) (o : OpLoopn) v, c.nest[o.lv.toNat]? = some v →
      let d := c.loopn pc o
      (v.count.toNat + 1 < v.bound.toNat →
        d = { c with
          nest := c.nest.set o.lv.toNat { v with count := v.count + 1#32 }
          pc := pc + BitVec.ofInt 48 (32 * o.off.toInt), group := .start })
      ∧ (v.bound.toNat ≤ v.count.toNat + 1 → d = { c with nest := c.nest.set o.lv.toNat { v with count := 0#32 } }))
    ∧ ∀ o s v, ((s.core.curBundle.bind fun b => b.nest).getD s.core.nest)[o.lv.toNat]? = some v → ∃ t, exec (.loopn o) s = .next t
      ∧ t = { s with core := { s.core with x := t.core.x, cur := { s.core.cur with old := t.core.cur.old } } }
      ∧ ∀ n, t.core.xReg n =
        let by' (b : Binding) : Word32 := if v.count.toNat + 1 < v.bound.toNat then b.stride else 0#32 - v.count * b.stride
        s.core.xReg n + (if v.b0.on = true ∧ v.b0.k = n then by' v.b0 else 0#32)
          + (if v.b1.on = true ∧ v.b1.k = n then by' v.b1 else 0#32))

/-- R158, R194, R195: MARGIN opens a margin region; YIELD stops dispatch under a pre-emption request and is otherwise
without effect; WAITEV writes the events it waited for, or waits. -/
def Obligations.MarginYieldWaitev : Prop :=
  (∀ o s, ∃ t, exec (.margin o) s = .next t ∧ t.core.stalled = false
      ∧ (∀ n, t.core.crGet n = if n = 0x040 ∨ n = 0x041 then o.c.setWidth 64 else s.core.crGet n)
      ∧ t = { s with core := { s.core with cr := t.core.cr, stalled := false } })
    ∧ (∀ o s, s.core.on o.g = true →
      ((s.core.crGet 0x0C4).getLsbD 0 = true → exec (.yield o) s = .next { s with core := { s.core with yielded := true } })
        ∧ ((s.core.crGet 0x0C4).getLsbD 0 = false → exec (.yield o) s = .next s))
    ∧ ∀ o s, s.core.on o.g = true →
      let e := s.core.crGet 0x042 &&& o.m.setWidth 64
      ((o.m = 0#4 ∨ e ≠ 0#64) → ∃ t, exec (.waitev o) s = .next t ∧ WritesS s t o.d e)
        ∧ (o.m ≠ 0#4 → e = 0#64 → ∃ t, exec (.waitev o) s = .next t ∧ Holds s t)

/-- R176 to R178: SEG.open reads its entry, in raw memory, and opens the segment; SEG.close of the open segment with the expected
pair closes it without a trace; with another pair, outside a containment region, it sets TAINT and records both pairs. The record
of a mismatch with no segment open is free (log entry 3). -/
def Obligations.SegmentsOpenAndClose : Prop :=
  (∀ o s p, let a := s.core.crGet 0x046 + BitVec.ofNat 64 (8 * o.i.toNat)
      s.place a 8 8 .fe = .ok p → isRaw p.loc = true → (s.notePage p).accessHeld a p.loc 8 false = false →
      (s.notePage p).ownWait p.loc 8 = false → s.poisoned p.loc 8 = false → s.core.segOpen = false →
      ∃ t, exec (.segOpen o) s = .next t ∧ t.core.segExp = BitVec.ofNat 64 (leNat (s.readSync p.loc 8))
        ∧ (∀ n, t.core.crGet n = if n = 0x047 then BitVec.ofNat 64 (1 + 2 * o.i.toNat)
            else if n = 0x048 then 0xFFFFFFFF#64 else s.core.crGet n)
        ∧ t = { s with tlb := t.tlb, core := { (s.notePage p).core with cr := t.core.cr, segExp := t.core.segExp } })
    ∧ (∀ o s, s.core.segOpen = true → s.core.segIndex = o.i.toNat → s.core.measured = s.core.segExp →
      ∃ t, exec (.segClose o) s = .next t ∧ t.core.segOpen = false
        ∧ (∀ n, n ≠ 0x047 → t.core.crGet n = s.core.crGet n)
        ∧ t = { s with core := { s.core with cr := t.core.cr, segExp := 0#64 } })
    ∧ ∀ o s, s.core.segOpen = true → (s.core.segIndex ≠ o.i.toNat ∨ s.core.measured ≠ s.core.segExp) →
      s.core.cdepth = 0 →
      ∃ t, exec (.segClose o) s = .next t ∧ t.core.segOpen = false ∧ (t.core.crGet 0).getLsbD 3 = true
        ∧ bitsOf (t.core.crGet 0x058) 0 8 = 0x28 ∧ bitsOf (t.core.crGet 0x058) 8 3 = 0 ∧ bitsOf (t.core.crGet 0x058) 11 4 = 9
        ∧ bitsOf (t.core.crGet 0x058) 16 9 = s.core.segIndex
        ∧ t.core.crGet 0x059 = s.core.segExp ∧ t.core.crGet 0x05A = s.core.measured
        ∧ t.core.crGet 0x05B = s.core.cur.pc.setWidth 64
        ∧ t = { s with launches := t.launches, core := { s.core with cr := t.core.cr, segExp := 0#64 } }

/-- R180: CONT pushes a region and ENDCONT pops one once everything earlier has performed; at the limits of the depth they
take trap 0x02. -/
def Obligations.RegionsPushAndPop : Prop :=
  (∀ o s, s.core.on o.g = true →
      (s.core.cdepth = 4 → exec (.cont o) s =
        .next (s.takeTrap ⟨0x02#8, s.core.cur.pc, BitVec.ofNat 64 s.core.cur.slot, 0#64, 0#64, 0#64⟩))
      ∧ (s.core.cdepth < 4 → s.quiet false = true →
        let h := s.core.cur.pc + BitVec.ofInt 48 (32 * o.off.toInt)
        ∃ t, exec (.cont o) s = .next t ∧ t.core.cont = ⟨h, s.core.loops.length⟩ :: s.core.cont
          ∧ t.core.cdepth = s.core.cdepth + 1 ∧ t.core.crGet 0x05C = h.setWidth 64
          ∧ (∀ n, n ≠ 0 → n ≠ 0x05C → t.core.crGet n = s.core.crGet n)
          ∧ t = { s with core := { s.core with cr := t.core.cr, cont := t.core.cont } })
      ∧ (s.core.cdepth < 4 → s.quiet false = false → ∃ t, exec (.cont o) s = .next t ∧ Holds s t))
    ∧ ∀ o s, s.core.on o.g = true →
      (s.core.cdepth = 0 → exec (.endcont o) s =
        .next (s.takeTrap ⟨0x02#8, s.core.cur.pc, BitVec.ofNat 64 s.core.cur.slot, 0#64, 0#64, 0#64⟩))
      ∧ (s.core.cdepth ≠ 0 → s.quiet false = true →
        ∃ t, exec (.endcont o) s = .next t ∧ t.core.cont = s.core.cont.drop 1
          ∧ t.core.cdepth = s.core.cdepth - 1
          ∧ t.core.crGet 0x05C = (match s.core.cont.drop 1 with | [] => 0#64 | r :: _ => r.handler.setWidth 64)
          ∧ (∀ n, n ≠ 0 → n ≠ 0x05C → t.core.crGet n = s.core.crGet n)
          ∧ t = { s with core := { s.core with cr := t.core.cr, cont := t.core.cont } })
      ∧ (s.core.cdepth ≠ 0 → s.quiet false = false → ∃ t, exec (.endcont o) s = .next t ∧ Holds s t)

/-- R47, R187, R188, R190, R192: a trap outside a handler is entered as R188 says; one inside a handler stops the core, and the
trap registers keep the first record; TRAP takes trap 0x38 with its code in TINFO0 and the next bundle in TPC, once its own bundle
has performed; the trap that dispatch asked for, or the watchdog, is taken in the same way, after the watchdog with no operation
left. -/
def Obligations.TrapsAreEntered : Prop :=
  (∀ (s : State) (r : Trap),
    (s.core.inTrap = false → EntersTrap s (s.takeTrap r) r
      ∧ (∀ b ∈ (s.takeTrap r).core.bundles, b ∈ s.core.bundles ∧ b.seq < s.core.cur.seq))
    ∧ (s.core.inTrap = true → (s.takeTrap r).core.mode = .dead ∧ (s.takeTrap r).core.bundles = []
      ∧ (s.takeTrap r).core.cr = s.core.cr ∧ (s.takeTrap r).core.s = s.core.s ∧ (s.takeTrap r).mem = s.mem))
    ∧ ((∀ o s, s.core.on o.g = true →
      let r : Trap := ⟨0x38#8, s.core.cur.next, o.c.setWidth 64, 0#64, 0#64, 0#64⟩
      (s.ownBusy = false → exec (.trap o) s = .next (s.takeTrap r) ∧ (s.core.inTrap = false → EntersTrap s (s.takeTrap r) r)
        ∧ (s.core.inTrap = true → (s.takeTrap r).core.mode = .dead))
      ∧ (s.ownBusy = true → ∃ t, exec (.trap o) s = .next t ∧ Holds s t))
    ∧ (∀ s r, s.core.trapReq = some r →
      let u := { s with core := { s.core with
        cur := { s.core.cur with seq := s.core.nextSeq }, ops := if r.cause = 0x39#8 then [] else s.core.ops
        drain := s.core.drain && r.cause != 0x39#8 } }
      exec .trapEntry s = .next (u.takeTrap r) ∧ (u.takeTrap r).core.trapReq = none
        ∧ (s.core.inTrap = false → EntersTrap u (u.takeTrap r) r))
    ∧ ∀ s, s.core.trapReq = none → exec .trapEntry s = .next s)

/-- R29, R189: TRET of a resumable cause with a misaligned TPC takes trap 0x0A; with another it restores what the trap moved aside, STATUS from TSTAT with INTRAP clear, and goes to TPC; of
another cause it ends the core, tainted, once everything has performed; outside a handler it takes trap 0x02. That such an end
taints is the model's reading (log entry 18). -/
def Obligations.TrapReturn : Prop :=
  ∀ o s, s.core.on o.g = true →
    let cause := bitsOf (s.core.crGet 2) 0 8
    (s.core.inTrap = false → exec (.tret o) s =
      .next (s.takeTrap ⟨0x02#8, s.core.cur.pc, BitVec.ofNat 64 s.core.cur.slot, 0#64, 0#64, 0#64⟩))
    ∧ (s.core.inTrap = true → cause ≠ 0x29 → cause ≠ 0x31 → cause ≠ 0x39 → bitsOf (s.core.crGet 3) 0 5 ≠ 0 → exec (.tret o) s =
      .next (s.takeTrap ⟨0x0A#8, s.core.cur.pc, BitVec.ofNat 64 s.core.cur.slot, s.core.crGet 3, 0#64, 0#64⟩))
    ∧ (s.core.inTrap = true → cause ≠ 0x29 → cause ≠ 0x31 → cause ≠ 0x39 → bitsOf (s.core.crGet 3) 0 5 = 0 →
      ∀ sh, s.core.shadow = some sh →
      ∃ t, exec (.tret o) s = .next t
        ∧ t.core.crGet 0 = s.core.crGet 0x04B &&& 0xFFFFFFFFFFFFFFFD#64
        ∧ t.core.pc = (s.core.crGet 3).setWidth 48
        ∧ t.core.loops = sh.loops ∧ t.core.crGet 0x047 = sh.segst ∧ t.core.crGet 0x048 = sh.segcrc
        ∧ t.core.segExp = sh.segexp ∧ t.core.crGet 0x040 = sh.mrem ∧ t.core.crGet 0x041 = sh.mlim
        ∧ t.core.replay = (s.core.crGet 0x04C).setWidth 8 ∧ t.core.crGet 0x04C = 0#64
        ∧ t.core.group = .start ∧ t.core.shadow = none
        ∧ t.core.s = s.core.s ∧ t.core.x = s.core.x ∧ t.core.g = s.core.g ∧ t.core.ops = s.core.ops
        ∧ t = { s with core := t.core })
    ∧ (s.core.inTrap = true → (cause = 0x29 ∨ cause = 0x31 ∨ cause = 0x39) → s.quiet true = true →
      ∃ t, exec (.tret o) s = .next t ∧ t.core.mode = .halted ∧ (t.core.crGet 0).getLsbD 3 = true ∧ t.mem = s.mem
        ∧ t.core.s = s.core.s)

/-- R178, R193: HALT ends the core program once everything has performed, and waits before; registers and memory stand. With a segment
open HALT closes it as a mismatch, which outside a continuity region is 0x28 in CERR0 and TAINT (R178); that it is so at any depth of regions is the
model's reading, log entry 18. -/
def Obligations.HaltEndsProgram : Prop :=
  ∀ o s, s.core.on o.g = true →
    (s.quiet true = true → ∃ t, exec (.halt o) s = .next t ∧ t.core.mode = .halted ∧ t.core.bundles = [] ∧ t.core.ops = []
      ∧ t.core.s = s.core.s ∧ t.core.x = s.core.x ∧ t.core.g = s.core.g ∧ t.mem = s.mem ∧ t.parked = s.parked
      ∧ (s.core.segOpen = false → t.core.cr = s.core.cr)
      ∧ (s.core.segOpen = true → (t.core.crGet 0).getLsbD 3 = true ∧ bitsOf (t.core.crGet 0x058) 0 8 = 0x28))
    ∧ (s.quiet true = false → ∃ t, exec (.halt o) s = .next t ∧ Holds s t)

/-- R196: GATE sets GATEST once the engines that it newly gates have drained, and waits before; a waking engine's bit clears;
the matrix array wakes with empty buffers. -/
def Obligations.GatingAndWaking : Prop :=
  (∀ o s, s.core.on o.g = true →
      let was := s.core.crGet 0x049
      let busy := ∃ i < 6, o.m.getLsbD i = true ∧ was.getLsbD i = false ∧ s.core.engineBusy i = true
      (¬busy → ∃ t, exec (.gate o) s = .next t ∧ t.core.crGet 0x049 = o.m.setWidth 64 ∧ t.core.wake = s.core.wake &&& o.m.toNat
        ∧ (was.getLsbD 2 = true → o.m.getLsbD 2 = false → t.core.mbuf0 = .empty ∧ t.core.mbuf1 = .empty)
        ∧ (¬(was.getLsbD 2 = true ∧ o.m.getLsbD 2 = false) → t.core.mbuf0 = s.core.mbuf0 ∧ t.core.mbuf1 = s.core.mbuf1)
        ∧ (∀ n, n ≠ 0x049 → (n ≠ 0x01C ∧ n ≠ 0x01D ∨ ¬(was.getLsbD 2 = true ∧ o.m.getLsbD 2 = false)) →
          t.core.crGet n = s.core.crGet n)
        ∧ t = { s with core := { s.core with cr := t.core.cr, mbuf0 := t.core.mbuf0, mbuf1 := t.core.mbuf1, wake := t.core.wake } })
      ∧ (busy → ∃ t, exec (.gate o) s = .next t ∧ Holds s t))
    ∧ ∀ (e : BitVec 3) (s : State), ∃ t, exec (.engineWakeDone e) s = .next t
      ∧ (s.core.wake.testBit e.toNat = false → t = s)
      ∧ (s.core.wake.testBit e.toNat = true → (t.core.crGet 0x049).getLsbD e.toNat = false
        ∧ t.core.wake.testBit e.toNat = false ∧ (e = 2#3 → t.core.mbuf0 = .empty ∧ t.core.mbuf1 = .empty)
        ∧ t.core.s = s.core.s ∧ t.mem = s.mem)

/-! ### Control registers and privilege (R5, R6, R61, R90, R186, R197) -/

/-- R46, R90, R154, R197, R225, R290, R337, R433, R446, R461: what reading a control register gives: TIME, COREID and the other
registers that are computed; zero for a write-only one; else the register as it stands, the core's own or the device's. MFC writes it
to s[d] and nothing else; of the registers that dispatch changes, it reads the value from before its own bundle's dispatch; after
TEMP, which is a free value of 32 bits, the draw advances (log entry 3). While the engine that keeps the register is at work MFC
waits. -/
def Obligations.MfcReadsRegisters : Prop :=
  (∀ o s, s.core.on o.g = true → s.accessWaits o.c.toNat = false →
      let t := s.putS o.d (s.readHere o.c.toNat)
      exec (.mfc o) s = .next (if o.c = 0x10C#19 then { t with tick := s.tick + 1 } else t) ∧ WritesS s t o.d (s.readHere o.c.toNat))
    ∧ (∀ o s, s.core.on o.g = true → s.accessWaits o.c.toNat = true → ∃ t, exec (.mfc o) s = .next t ∧ Holds s t)
    ∧ (∀ s : State, s.readCr 0x008 = s.time ∧ s.readCr 0x00C = s.core.id.setWidth 64 ∧ s.readCr 0x000 = s.core.crGet 0
      ∧ s.readCr 0x045 = s.core.lstat ∧ s.readCr 0x019 = 0#64 ∧ s.readCr 0x104 = 0#64 ∧ s.readCr 0x105 = 0#64
      ∧ (∀ k < 7, (s.readCr 0x020).getLsbD k = (s.core.crGet (0x022 + k) != 0#64)
        ∧ (s.readCr 0x021).getLsbD k = (s.core.crGet (0x02A + k) != 0#64)))
    ∧ (∀ (s : State) (n : Nat), n ≠ 0x008 → n ≠ 0x00C → n ≠ 0x00E → n ≠ 0x01B → n ≠ 0x020 → n ≠ 0x021 → n ≠ 0x045 → n ≠ 0x0C3 →
      crAccess n ≠ some .wo → (crOfDevice n = false → s.readCr n = s.core.crGet n)
        ∧ (crOfDevice n = true → ¬(0x100 ≤ n ∧ n ≤ 0x103) → n ≠ 0x10C → s.readCr n = s.devGet n))
    ∧ (∀ s : State,
      (∀ i < 64, (s.readCr 0x01B).getLsbD i = if i = 1 then s.core.mbuf0.full else if i = 2 then s.core.mbuf1.full
        else (s.core.crGet 0x01B).getLsbD i)
      ∧ (let lead := s.coreAt s.core.gang.lead
        let v := s.readCr 0x00E
        bitsOf v 0 16 = bitsOf (s.core.crGet 0x00E) 0 16 ∧ v.getLsbD 16 = (lead.crGet 0x00E).getLsbD 16
          ∧ bitsOf v 17 2 = lead.bank0.state % 4 ∧ v.getLsbD 19 = lead.bank0.storing ∧ bitsOf v 20 2 = lead.bank1.state % 4
          ∧ v.getLsbD 22 = lead.bank1.storing)
      ∧ (∀ l, s.launchOf s.core = some l → bitsOf (s.readCr 0x0C3) 0 32 = l.children % 2 ^ 32
        ∧ bitsOf (s.readCr 0x0C3) 32 32 = l.childrenDone % 2 ^ 32)
      ∧ (s.launchOf s.core = none → s.readCr 0x0C3 = s.core.crGet 0x0C3)
      ∧ (∀ i < 64, (s.readCr 0x100).getLsbD i = if i = 3 then s.degraded else if i = 8 ∨ i = 9 then s.east.asleep.testBit (i - 8)
        else if i = 10 ∨ i = 11 then s.west.asleep.testBit (i - 10) else (s.devGet 0x100).getLsbD i)
      ∧ (∀ i < 64, (s.readCr 0x101).getLsbD i = Config.coreFused i ∧ (s.readCr 0x102).getLsbD i = Config.coreFused (64 + i)
        ∧ (s.readCr 0x103).getLsbD i = Config.sliceFused i)
      ∧ (s.readCr 0x10C).toNat < 2 ^ 32)
    ∧ (∀ (s : State) (n : Nat), s.core.bundles.find? (·.seq == s.core.cur.seq) = none → s.readHere n = s.readCr n)
    ∧ ∀ (s : State) (n : Nat) b, s.core.bundles.find? (·.seq == s.core.cur.seq) = some b →
      s.readHere 0x041 = b.mlim ∧ s.readHere 0x047 = b.segst ∧ s.readHere 0x048 = b.segcrc
        ∧ s.readHere 0x045 = CoreState.lstat { s.core with loops := b.loops }
        ∧ (n ≠ 0x041 → n ≠ 0x045 → n ≠ 0x047 → n ≠ 0x048 → s.readHere n = s.readCr n)

/-- R5, R6, R197: what MTC does by the access code of the register: a read-only register stands; a readable and writable one
takes the writable bits and keeps the others; of a write-one-to-clear one the bits written as ones clear; a write that has to
wait is held. The registers of the device behave in the same way. A write of DGAREA while digests are kept, which R438 forbids,
and one of RWSPL while a window is open, which R364 forbids, do nothing: the model's choice (log entry 45). -/
def Obligations.MtcWritesByAccessCode : Prop :=
  ∀ o s, s.core.on o.g = true →
    let n := o.c.toNat
    let v := s.core.sVal o.a
    let mask := crWritable n
    (crAccess n = some .ro → s.writeWaits n v = false → exec (.mtc o) s = .next s)
    ∧ (crAccess n = some .rw ∨ crAccess n = some .rs → crOfDevice n = false → s.writeWaits n v = false →
      ∃ t, exec (.mtc o) s = .next t ∧ WritesCr s t [(n, (s.core.crGet n &&& ~~~mask) ||| (v &&& mask))])
    ∧ (crAccess n = some .w1c → crOfDevice n = false → n ≠ 0x01B → n ≠ 0x020 → n ≠ 0x021 → s.writeWaits n v = false →
      ∃ t, exec (.mtc o) s = .next t ∧ WritesCr s t [(n, s.core.crGet n &&& ~~~v)])
    ∧ (n = 0x0CC → s.digesting = true → s.writeWaits n v = false → exec (.mtc o) s = .next s)
    ∧ (n = 0x125 → s.windows ≠ [] → s.writeWaits n v = false → exec (.mtc o) s = .next s)
    ∧ (crAccess n = some .rs → crOfDevice n = true → n < 0x140 → (n = 0x0CC → s.digesting = false) → (n = 0x125 → s.windows = []) →
      s.writeWaits n v = false →
      ∃ t, exec (.mtc o) s = .next t ∧ (∀ m, t.devGet m = if m = n then (s.devGet n &&& ~~~mask) ||| (v &&& mask) else s.devGet m)
        ∧ t = { s with dev := t.dev })
    ∧ (n < 0x140 → s.writeWaits n v = true → ∃ t, exec (.mtc o) s = .next t ∧ Holds s t)
    ∧ (0x140 ≤ n → n ≤ 0x17F → s.fmtBad n v = true → exec (.mtc o) s =
      .next (s.takeTrap ⟨0x0B#8, s.core.cur.pc, BitVec.ofNat 64 s.core.cur.slot, 0#64, 0#64, 0#64⟩))

/-- R61, R64, R186: at kernel level a bundle whose S slot holds a privileged instruction raises trap 0x05 at dispatch, with the
slot in TINFO0; at supervisor level that check passes it. -/
def Obligations.PrivilegeIsChecked : Prop :=
  ∀ (c : CoreState) (bs : List Byte) (mine : List NameItem) (i : Instr),
    decodeSlot .s (BitVec.ofNat 32 (slotWord bs 1)) (hdLend (slotWord bs 0) 1) = .ok i →
    ((∃ o, i = .tret o) ∨ (∃ o, i = .ctxld o) ∨ (∃ o, i = .preempt o) ∨ (∃ o, i = .resume o) ∨ (∃ o, i = .lnkcfg o)
      ∨ (∃ o, i = .talign o)
      ∨ ∃ o, i = .mtc o ∧ (crAccess o.c.toNat = some .rs ∨ o.c = 0x019#19 ∨ o.c = 0x104#19)) →
    (c.sup = false → headerCheck bs (decodeBundle bs) = none →
        c.dispatchCheck bs (decodeBundle bs) mine = some ⟨0x05#8, 1, 0⟩)
      ∧ (c.sup = true → slotCheck c.sup 1 (.ok i) = none)

/-! ### Loads, stores and fences (R122 to R151, R211 to R214) -/

/-- R122, R125, R126, R128, R129, R131, R132, R211: where a tagged address leads, for an entry whose check has found nothing yet.
Alignment is checked first. Tag 0 is walked, where the translation buffer holds nothing for the address: down pointing entries to a
leaf, whose permission is checked, or to a table or entry that fails, with the level and the reason in TINFO3. Tag 1 reaches the core's
own partition of the scratchpad; tag 2 the same, or the partition of a gang of its tenant on the named cluster; tag 4 the deck, for
reading only; the other tags, and bits of an address that must be zero, trap 0x0B. A load or store whose address fails a check takes
the trap of that check: the bundle in TPC, the slot and the direction in TINFO0, the address as formed in TINFO1. -/
def Obligations.AddressesAreChecked : Prop :=
  (∀ (s : State) (a : Word64) (n align : Nat) (k : AccKind), s.core.cur.pass = [] →
    let lo := a.toNat % 2 ^ 22
    let part := s.core.crGet 0x01A
    let mine := bitsOf part 0 6 * 65536 ≤ lo ∧ lo + n ≤ (bitsOf part 0 6 + bitsOf part 6 7) * 65536
    (a.toNat % align ≠ 0 → s.place a n align k = .error ⟨0x0A#8, 0#64⟩)
    ∧ (a.toNat % align = 0 →
      (a.toNat / 2 ^ 60 = 1 →
        (a.toNat / 2 ^ 22 % 2 ^ 38 = 0 → mine → s.place a n align k = .ok ⟨Loc.spad (cluster s.core.id) lo, none⟩)
        ∧ (¬(a.toNat / 2 ^ 22 % 2 ^ 38 = 0 ∧ mine) → s.place a n align k = .error ⟨0x0B#8, 0#64⟩))
      ∧ (a.toNat / 2 ^ 60 = 2 →
        let cl := a.toNat / 2 ^ 22 % 32
        let peer (g : Gang) := g.pbase * 65536 ≤ lo ∧ lo + n ≤ (g.pbase + g.psize) * 65536
        let theirs := ∃ l ∈ s.standing, l.tenant = bitsOf (s.core.crGet 0x0C1) 0 16 ∧ ∃ g ∈ l.gangsOn cl, peer g
        (a.toNat / 2 ^ 27 % 2 ^ 33 = 0 → cl = cluster s.core.id → mine → s.place a n align k = .ok ⟨Loc.spad cl lo, none⟩)
        ∧ (a.toNat / 2 ^ 27 % 2 ^ 33 = 0 → cl ≠ cluster s.core.id → theirs →
          ∃ pg, s.place a n align k = .ok ⟨Loc.spad cl lo, some pg⟩)
        ∧ (¬(a.toNat / 2 ^ 27 % 2 ^ 33 = 0 ∧ ((cl = cluster s.core.id ∧ mine) ∨ (cl ≠ cluster s.core.id ∧ theirs))) →
          s.place a n align k = .error ⟨0x0B#8, 0#64⟩))
      ∧ (a.toNat / 2 ^ 60 = 4 →
        let good := a.toNat / 2 ^ 24 % 2 ^ 36 = 0 ∧ a.toNat % 2 ^ 24 + n ≤ 2 ^ 24 ∧ k.write = false
        (good → s.place a n align k = .ok ⟨Loc.deck s.core.id.toNat (a.toNat % 2 ^ 24), none⟩)
        ∧ (¬good → s.place a n align k = .error ⟨0x0B#8, 0#64⟩))
      ∧ ((a.toNat / 2 ^ 60 = 3 ∨ 5 ≤ a.toNat / 2 ^ 60) → s.place a n align k = .error ⟨0x0B#8, 0#64⟩)
      ∧ (a.toNat / 2 ^ 60 = 0 → 2 ^ 48 ≤ a.toNat → s.place a n align k = .error ⟨0x0B#8, 0#64⟩)
      ∧ (a.toNat < 2 ^ 48 → s.tlbHit (cluster s.core.id) (s.core.crGet 0x018) a.toNat = none →
        ∀ (lv : Nat) (ts : Nat → Nat), lv ≤ 3 → ts 0 = bitsOf (s.core.crGet 0x018) 12 34 * 4096 →
        (∀ i < lv, Points s a.toNat i (ts i) (ts (i + 1))) →
        (∀ p, LeafAt s a.toNat lv (ts lv) p →
          let pa := p.pa + a.toNat % p.size
          let may := (k.write = true → p.w = true ∧ isDecoded pa = false) ∧ (k.fetch = true → p.x = true)
            ∧ (s.core.sup = false → p.k = true)
          (may → s.place a n align k = .ok ⟨pa, some p⟩) ∧ (¬may → s.place a n align k = .error ⟨0x09#8, BitVec.ofNat 64 lv⟩))
        ∧ ∀ why, WalkFails s a.toNat lv (ts lv) why → s.place a n align k = .error ⟨0x08#8, BitVec.ofNat 64 why⟩)))
    ∧ (∀ (o : OpSL) (s : State) (f : AccFault), s.core.on o.g = true →
    let w : Nat := 2 ^ (o.ty.toNat / 2)
    let a := s.core.sVal o.base + BitVec.ofInt 64 (o.off.toInt * w)
    (s.place a w w .rd = .error f →
      let r : Trap := ⟨f.cause, s.core.cur.pc, BitVec.ofNat 64 s.core.cur.slot, a, 0#64, f.info⟩
      exec (.ld o) s = .next (s.takeTrap r) ∧ exec (.ldacq o) s = .next (s.takeTrap r))
    ∧ (s.place a w w .wr = .error f →
      let r : Trap := ⟨f.cause, s.core.cur.pc, BitVec.ofNat 64 (s.core.cur.slot + 16), a, 0#64, f.info⟩
      exec (.st o) s = .next (s.takeTrap r) ∧ exec (.strel o) s = .next (s.takeTrap r)))

/-- R211 to R213: LD from the core's own storage (scratchpad, deck) writes s[d] at once, extended by its type; from memory through
L1 it answers from a sector that holds the bytes now in memory, and otherwise sends one request for its bytes to their home slice,
its destination and type noted. LDACQ reads its own storage in the same way and empties L1; elsewhere it sends its request and
waits. At most 8 loads are out. That an access performs as its entry issues is the model's choice (log entry 7). -/
def Obligations.LoadsReadOrAsk : Prop :=
  ∀ (o : OpSL) (s : State) (loc : Nat) (pg : Option Page), s.core.on o.g = true → o.ty ≠ 7#3 → s.core.cur.slot = 1 →
    let w : Nat := 2 ^ (o.ty.toNat / 2)
    let a := s.core.sVal o.base + BitVec.ofInt 64 (o.off.toInt * w)
    let v (bs : List Byte) : Word64 :=
      BitVec.ofInt 64 (if o.ty.toNat % 2 = 0 ∧ 2 ^ (8 * w) ≤ 2 * leNat bs then (leNat bs : Int) - 2 ^ (8 * w) else leNat bs)
    s.place a w w .rd = .ok ⟨loc, pg⟩ → (s.notePage ⟨loc, pg⟩).accessHeld a loc w false = false →
    (s.notePage ⟨loc, pg⟩).ownWait loc w = false → (s.notePage ⟨loc, pg⟩).loadsOut 1 < 8 →
    (s.ownStorage loc = true → s.poisoned loc w = false →
      (∃ t, exec (.ld o) s = .next t ∧ WritesS (s.notePage ⟨loc, pg⟩) t o.r (v (s.readSync loc w)))
      ∧ ((s.notePage ⟨loc, pg⟩).loadOnWay = false →
        ∃ t, exec (.ldacq o) s = .next t ∧ WritesS (s.notePage ⟨loc, pg⟩).l1Clear t o.r (v (s.readSync loc w))))
    ∧ (∀ e, s.ownStorage loc = false → isRaw loc = true → s.l1Sector s.core loc = some e →
      (e.data.drop (loc % 64)).take w = s.bytes loc w → s.l1Bad loc w = false →
      ∃ t, exec (.ld o) s = .next t ∧ WritesS (s.notePage ⟨loc, pg⟩).ticked t o.r (v (s.bytes loc w)))
    ∧ (s.ownStorage loc = false → (usesL1 loc = true → s.l1Sector s.core loc = none) →
      ∃ t r, exec (.ld o) s = .next t ∧ t.packets.filterMap (·.payload) = s.packets.filterMap (·.payload) ++ [r]
        ∧ r.kind = .load (.sreg o.r o.ty) ∧ r.parts = [⟨loc, a, w, 0, []⟩] ∧ r.agent = .core s.core.id ∧ r.uid = s.uid
        ∧ r.pc = s.core.cur.pc ∧ t.mem = s.mem
        ∧ t = { s.notePage ⟨loc, pg⟩ with packets := t.packets, esns := t.esns, uid := s.uid + 1 })
    ∧ (s.ownStorage loc = false →
      (s.notePage ⟨loc, pg⟩).loadOnWay = false →
      ∃ t r, exec (.ldacq o) s = .next t ∧ t.packets.filterMap (·.payload) = s.packets.filterMap (·.payload) ++ [r]
        ∧ r.kind = .load (.acq o.r o.ty) ∧ r.parts = [⟨loc, a, w, 0, []⟩] ∧ t.core.held = true
        ∧ t.core.s = s.core.s ∧ t.mem = s.mem)

/-- R211 to R213: ST to the core's own scratchpad writes the low bytes of its source there at once and no other byte; to memory it
sends one store of those bytes to their home slice, and memory stands until the slice performs it. STREL sends a store marked as a
release, which leaves L1 as it is. At most 32 stores are out. The moments are the model's choice (log entry 7). -/
def Obligations.StoresWriteOrSend : Prop :=
  ∀ (o : OpSL) (s : State) (loc : Nat) (pg : Option Page), s.core.on o.g = true → s.core.cur.slot = 1 →
    let w : Nat := 2 ^ (o.ty.toNat / 2)
    let a := s.core.sVal o.base + BitVec.ofInt 64 (o.off.toInt * w)
    let bs := leBytes w (s.core.sVal o.r).toNat
    let u := s.notePage ⟨loc, pg⟩
    s.place a w w .wr = .ok ⟨loc, pg⟩ → u.accessHeld a loc w true = false → u.ownWait loc w = false → u.storesOut 1 < 32 →
    (s.ownStorage loc = true → ∃ t, exec (.st o) s = .next t
      ∧ (∀ k < w, t.byte (loc + k) = BitVec.ofNat 8 ((s.core.sVal o.r).toNat / 256 ^ k))
      ∧ (∀ l, l < loc ∨ loc + w ≤ l → t.byte l = s.byte l)
      ∧ t.core.s = s.core.s ∧ t.core.x = s.core.x ∧ t.core.g = s.core.g ∧ t.core.cr = s.core.cr ∧ t.packets = s.packets)
    ∧ (s.ownStorage loc = false →
      (∃ t r, exec (.st o) s = .next t ∧ t.packets.filterMap (·.payload) = s.packets.filterMap (·.payload) ++ [r]
        ∧ r.kind = .store ∧ r.parts = [⟨loc, a, w, 0, bs⟩] ∧ r.agent = .core s.core.id ∧ r.release = false
        ∧ t = { u with packets := t.packets, esns := t.esns, l1 := t.l1, uid := s.uid + 1 })
      ∧ ∃ t r, exec (.strel o) s = .next t ∧ t.packets.filterMap (·.payload) = s.packets.filterMap (·.payload) ++ [r]
        ∧ r.kind = .store ∧ r.parts = [⟨loc, a, w, 0, bs⟩] ∧ r.release = true
        ∧ t = { u with packets := t.packets, esns := t.esns, uid := s.uid + 1 })

/-- R147, R148, R175: FENCE counts FSEQ on and gives a token of its scope and number, with a record of its place in the program;
FWAIT of a sound token, and DRAIN, wait until what they cover has performed and at die scope or wider empty L1; FWAIT of a malformed
token acts as DRAIN of system scope. What is covered: the requests on their way and the queued operations of earlier bundles that
reach a place in scope, and what those bundles have still to issue. JOIN waits until the queues it names hold nothing earlier and
nothing earlier is still to issue there. -/
def Obligations.FencesAndJoin : Prop :=
  (∀ o s, s.core.on o.g = true → ∃ t, exec (.fence o) s = .next t ∧ t.core.fseq = s.core.fseq + 1#32
      ∧ (∀ n, t.core.sReg n = if n = o.p then BitVec.ofNat 64 (o.scope.toNat * 2 ^ 32 + (s.core.fseq + 1#32).toNat)
          else s.core.sReg n)
      ∧ (∃ r ∈ t.core.fences, r.num = s.core.fseq + 1#32 ∧ r.scope = o.scope.toNat ∧ r.seq = s.core.cur.seq)
      ∧ t = { s with core := { s.core with
          s := t.core.s, fseq := t.core.fseq, fences := t.core.fences, cur := { s.core.cur with old := t.core.cur.old } } })
    ∧ (∀ o s, s.core.on o.g = true →
      let z := o.scope.toNat
      (s.coveredLeft s.core.cur.seq z = false → exec (.drain o) s = .next (if 2 ≤ z then s.l1Clear else s))
        ∧ (s.coveredLeft s.core.cur.seq z = true → ∃ t, exec (.drain o) s = .next t ∧ Holds s t))
    ∧ (∀ o s, s.core.on o.g = true →
      let t := s.core.sVal o.p
      let left := ∃ f ∈ s.core.fences, f.num = t.setWidth 32 ∧ s.coveredLeft f.seq f.scope = true
      (tokenBad s.core.fseq t = true → s.coveredLeft s.core.cur.seq 4 = false → exec (.fwait o) s = .next s.l1Clear)
        ∧ (tokenBad s.core.fseq t = false → ¬left → exec (.fwait o) s = .next (if 2 ≤ bitsOf t 32 3 then s.l1Clear else s))
        ∧ (tokenBad s.core.fseq t = false → left → ∃ u, exec (.fwait o) s = .next u ∧ Holds s u))
    ∧ (∀ (s : State) (seq scope : Nat), s.coveredLeft seq scope = true ↔
      (∃ r ∈ s.pendingOf s.core.id, r.seq < seq ∧ ∃ p ∈ r.parts, covers s.core.id scope p.loc = true)
        ∨ (∃ p ∈ s.core.ops, p.seq < seq ∧ (p.segs = [] ∨ ∃ g ∈ p.segs, covers s.core.id scope g.src = true
          ∨ covers s.core.id scope g.dst = true ∨ ∃ l ∈ g.more, covers s.core.id scope l = true))
        ∨ ∃ b ∈ s.core.bundles, b.seq < seq ∧ ∃ e ∈ b.entries, e.slot ≠ 1)
    ∧ ∀ o s, s.core.on o.g = true →
      let busy := (∃ p ∈ s.core.ops, p.seq < s.core.cur.seq ∧ o.m.getLsbD p.eng = true)
        ∨ ∃ b ∈ s.core.bundles, b.seq < s.core.cur.seq ∧ ∃ e ∈ b.entries, 4 ≤ e.slot
          ∧ o.m.getLsbD (if 6 ≤ e.slot ∧ isFrame e.instr = true then 4 else e.slot - 4) = true
      (¬busy → exec (.join o) s = .next s) ∧ (busy → ∃ t, exec (.join o) s = .next t ∧ Holds s t)

/-! ### Atomics (R376 to R381) -/

/-- R133, R376, R377, R379, R380: ATOM and ATOMN of an element that the done-mask does not hold. On the core's own scratchpad the
element takes the operation's result in one step, its old value goes to s[d], and no other byte or register changes; a floating
operation there takes trap 0x20, and so does at a remote window every operation but the 64- and 32-bit ADD, SWAP and CAS. On memory
they send one request that carries the operation and its operand to the element's home slice; nothing else changes until it is
answered. The result of the floating operations is that of VADD, VMIN and VMAX under round to nearest. An element that the done-mask
holds, which the handler of trap 0x20 has performed, is not performed again. The moments are the model's choice (log entry 7). -/
def Obligations.AtomicsExchange : Prop :=
  ((∀ o s loc, s.core.on o.g = true → s.core.cur.redo.getLsbD 0 = false → o.f.toNat < 10 →
      s.place (s.core.sVal o.a) 8 8 .at = .ok ⟨loc, none⟩ →
      s.ownStorage loc = true → s.accessHeld (s.core.sVal o.a) loc 8 true = false → s.ownWait loc 8 = false →
      s.poisoned loc 8 = false →
      ∃ t, exec (.atom64 o) s = .next t
        ∧ StoresOnly s t loc 8 (atomNumber 64 o.f.toNat (s.num loc 8) (s.core.sVal o.b).toNat (s.core.sVal o.d).toNat)
        ∧ OnlyScalar s t o.d (BitVec.ofNat 64 (s.num loc 8)))
    ∧ (∀ o s loc, s.core.on o.g = true → s.core.cur.redo.getLsbD 0 = false → o.f.toNat < 10 →
      s.place (s.core.sVal o.a) 4 4 .at = .ok ⟨loc, none⟩ →
      s.ownStorage loc = true → s.accessHeld (s.core.sVal o.a) loc 4 true = false → s.ownWait loc 4 = false →
      s.poisoned loc 4 = false →
      ∃ t, exec (.atom32 o) s = .next t
        ∧ StoresOnly s t loc 4
          (atomNumber 32 o.f.toNat (s.num loc 4) ((s.core.sVal o.b).toNat % 2 ^ 32) ((s.core.sVal o.d).toNat % 2 ^ 32))
        ∧ OnlyScalar s t o.d ((BitVec.ofNat 32 (s.num loc 4)).signExtend 64))
    ∧ (∀ o s loc, s.core.on o.g = true → s.core.cur.redo.getLsbD 0 = false → o.o.toNat < 4 →
      s.place (s.core.sVal o.a) 1 1 .at = .ok ⟨loc, none⟩ →
      s.ownStorage loc = true → s.accessHeld (s.core.sVal o.a) loc 1 true = false → s.ownWait loc 1 = false →
      s.poisoned loc 1 = false →
      ∃ t, exec (.atomn o) s = .next t
        ∧ (let m := s.num loc 1
          let v := (s.core.sVal o.b).toNat % 16
          StoresOnly s t loc 1 (if o.n = true then m % 16 + 16 * nibbleNumber o.o.toNat (m / 16) v
            else m / 16 * 16 + nibbleNumber o.o.toNat (m % 16) v))
        ∧ OnlyScalar s t o.d (BitVec.ofNat 64 (s.num loc 1)))
    ∧ (∀ o s loc pg, s.core.on o.g = true → s.core.cur.redo.getLsbD 0 = false →
      let r : Trap := ⟨0x20#8, s.core.cur.pc, BitVec.ofNat 64 (s.core.cur.slot + 80), s.core.sVal o.a, 0#64, 0#64⟩
      let far := isPhys loc = true ∧ isRemote loc = true ∧ o.f ≠ 0#4 ∧ o.f ≠ 8#4 ∧ o.f ≠ 9#4
      (s.place (s.core.sVal o.a) 8 8 .at = .ok ⟨loc, pg⟩ → far → exec (.atom64 o) s = .next (s.takeTrap r))
        ∧ (s.place (s.core.sVal o.a) 4 4 .at = .ok ⟨loc, pg⟩ → (far ∨ (10 ≤ o.f.toNat ∧ o.f.toNat < 13 ∧ isPhys loc = false)) →
          exec (.atom32 o) s = .next (s.takeTrap r)))
    ∧ (∀ o s loc pg, s.core.on o.g = true → s.core.cur.redo.getLsbD 0 = false → s.place (s.core.sVal o.a) 1 1 .at = .ok ⟨loc, pg⟩ →
      isPhys loc = true → isRemote loc = true → exec (.atomn o) s =
        .next (s.takeTrap ⟨0x20#8, s.core.cur.pc, BitVec.ofNat 64 (s.core.cur.slot + 80), s.core.sVal o.a, 0#64, 0#64⟩))
    ∧ ∀ (o : OpAtom) (p : OpAtomn) s, s.core.cur.redo.getLsbD 0 = true → (s.core.on o.g = true →
        exec (.atom64 o) s = .next s ∧ exec (.atom32 o) s = .next s) ∧ (s.core.on p.g = true → exec (.atomn p) s = .next s))
    ∧ ((∀ o s loc pg, s.core.on o.g = true → s.core.cur.redo.getLsbD 0 = false → o.f.toNat < 10 →
      s.place (s.core.sVal o.a) 8 8 .at = .ok ⟨loc, pg⟩ → isRaw loc = true →
      (s.notePage ⟨loc, pg⟩).accessHeld (s.core.sVal o.a) loc 8 true = false → (s.notePage ⟨loc, pg⟩).ownWait loc 8 = false →
      s.loadsOut s.core.cur.slot < 8 →
      ∃ t r e, exec (.atom64 o) s = .next t ∧ Asks s t r ∧ r.kind = .atom e (s.core.sVal o.d) (.sreg o.d 6#3)
        ∧ r.parts = [⟨loc, s.core.sVal o.a, 8, 0, leBytes 8 (s.core.sVal o.b).toNat⟩]
        ∧ ∀ m v, m < 2 ^ 64 → v < 2 ^ 64 → e.result 8 m v (s.core.sVal o.d).toNat
          = atomNumber 64 o.f.toNat m v (s.core.sVal o.d).toNat)
    ∧ (∀ o s loc pg, s.core.on o.g = true → s.core.cur.redo.getLsbD 0 = false → s.place (s.core.sVal o.a) 4 4 .at = .ok ⟨loc, pg⟩ →
      isRaw loc = true → (s.notePage ⟨loc, pg⟩).accessHeld (s.core.sVal o.a) loc 4 true = false →
      (s.notePage ⟨loc, pg⟩).ownWait loc 4 = false → s.loadsOut s.core.cur.slot < 8 →
      ∃ t r e, exec (.atom32 o) s = .next t ∧ Asks s t r ∧ r.kind = .atom e (s.core.sVal o.d) (.sreg o.d 4#3)
        ∧ r.parts = [⟨loc, s.core.sVal o.a, 4, 0, leBytes 4 (s.core.sVal o.b).toNat⟩]
        ∧ ∀ m v, m < 2 ^ 32 → v < 2 ^ 32 → let x := e.result 4 m v (s.core.sVal o.d).toNat
          (o.f.toNat < 10 → x = atomNumber 32 o.f.toNat m v ((s.core.sVal o.d).toNat % 2 ^ 32))
            ∧ (o.f = 10#4 → x = (laneAdd 0#128 0 0 m v).bits) ∧ (o.f = 11#4 → x = (laneMinMax false 0#128 m v).bits)
            ∧ (o.f = 12#4 → x = (laneMinMax true 0#128 m v).bits))
    ∧ ∀ o s loc pg, s.core.on o.g = true → s.core.cur.redo.getLsbD 0 = false → o.o.toNat < 4 →
      s.place (s.core.sVal o.a) 1 1 .at = .ok ⟨loc, pg⟩ → isRaw loc = true →
      (s.notePage ⟨loc, pg⟩).accessHeld (s.core.sVal o.a) loc 1 true = false → (s.notePage ⟨loc, pg⟩).ownWait loc 1 = false →
      s.loadsOut s.core.cur.slot < 8 →
      ∃ t r e, exec (.atomn o) s = .next t ∧ Asks s t r ∧ r.kind = .atom e 0#64 (.sreg o.d 1#3)
        ∧ r.parts = [⟨loc, s.core.sVal o.a, 1, 0, leBytes 1 (s.core.sVal o.b).toNat⟩]
        ∧ ∀ m v, m < 256 → e.result 1 m v 0 = (if o.n = true then m % 16 + 16 * nibbleNumber o.o.toNat (m / 16) (v % 16)
            else m / 16 * 16 + nibbleNumber o.o.toNat (m % 16) (v % 16)))

/-! ### Queues and windows (R365 to R388) -/

/-- R368 to R372: each queue instruction with a register for its element sends one request that names its operation, the
block's address and, for a producer and QINIT, the element; its entry waits for the answer. QINIT needs sound parameters, a
producer waits until its release is ready. -/
def Obligations.QueueInstructionsSendRequests : Prop :=
  let sends (i : Instr) (op : QOp) (g : BitVec 4) (p q : BitVec 6) (k : BitVec 3) : Prop :=
    ∀ (s : State) (b : Place), s.core.on g = true → s.queueOut = false →
      let handle := s.core.sVal p
      let u := s.notePage b
      s.checkHandle handle (match op with | .qstat | .qpeek => .rd | _ => .wr) = .ok b →
      (op = .qinit → initBad handle (s.core.sVal q) = false) → (op.moves = true → bitsOf handle 0 4 = 0) →
      (op.producer = true → u.releaseReady s.core.id s.core.cur.seq 3 = true) →
      u.ownWait b.loc 64 = false →
      ∃ t r m, exec i s = .next t ∧ Asks s t r ∧ r.kind = .queue m ∧ m.op = op ∧ m.handle = handle ∧ m.qpa = b.loc
        ∧ m.agent = .core s.core.id ∧ m.root = s.core.crGet 0x018 ∧ m.sup = s.core.sup
        ∧ m.elem = (if op.producer = true ∨ op = .qinit then leBytes 8 (s.core.sVal q).toNat else [])
        ∧ m.dest = .entry s.core.cur.seq q k [] ∧ t.core.held = true
  (∀ o, sends (.qinit o) .qinit o.g o.p o.q 0#3) ∧ (∀ o, sends (.enq o) .enq o.g o.p o.q 0#3)
    ∧ (∀ o, sends (.deq o) .deq o.g o.p o.q 0#3) ∧ (∀ o, sends (.enqn o) .enqn o.g o.p o.q o.k)
    ∧ (∀ o, sends (.deqn o) .deqn o.g o.p o.q o.k) ∧ (∀ o, sends (.qpeek o) .qpeek o.g o.p o.q 0#3)
    ∧ (∀ o, sends (.qstat o) .qstat o.g o.p o.q 0#3) ∧ ∀ o, sends (.qclose o) .qclose o.g o.p 0#6 0#3

/-- R366, R370, R372 to R375: at the home slice, on a block that passes its tests and with a data area in place: ENQ and
ENQN put their element at TAIL and count FREE down; DEQ and DEQN take the element at HEAD and count FREE up; QPEEK takes it and
changes nothing; a full queue parks ENQ and an empty one DEQ and QPEEK, counted in WAITP and WAITC, and they refuse ENQN and DEQN
without changing the block; of a closed queue ENQ, and where it is empty DEQ and QPEEK, answer with trap 0x10 for reason 0x08, and ENQN
and DEQN are refused; QCLOSE of a queue where nothing is parked closes it; QSTAT gives the count, the marks and the numbers parked (no
launch keeps a digest here). QUEUE_REQUEST serves the queue request that is granted, which leaves; a withdrawal takes a parked request
off its list; a released request is with its sender again; where there is nothing to do, nothing happens. -/
def Obligations.QueueOperationsAtSlice : Prop :=
  (∀ (s : State) (r : QReq) (data : Nat), (∀ l ∈ s.launches, l.dg = false) → isRaw r.qpa = true → s.qcbReason r.qpa = 0 →
    (s.qcb r.qpa).code = bitsOf r.handle 0 4 → s.dataArea r.qpa r.root r.sup r.op.producer = .ok data →
    let b := s.qcb r.qpa
    let out := s.acceptQueue r
    (r.op = .enq ∨ r.op = .enqn → b.closed = false → b.free ≠ 0 → r.elem.length = b.esize → isRaw (data + b.esize * b.capacity) = true →
      (data + b.esize * b.capacity ≤ r.qpa ∨ r.qpa + 64 ≤ data) →
      out.2 = .elem [] false ∧ out.1.qcb r.qpa = { b with tail := (b.tail + 1) % 2 ^ 32, free := b.free - 1 }
        ∧ out.1.bytes (data + b.esize * (b.tail % b.capacity)) b.esize = r.elem)
    ∧ (r.op = .deq ∨ r.op = .deqn → b.free ≠ b.capacity →
      let e := s.bytes (data + b.esize * (b.head % b.capacity)) b.esize
      (∃ bad, out.2 = .elem e bad) ∧ out.1.qcb r.qpa = { b with head := (b.head + 1) % 2 ^ 32, free := b.free + 1 })
    ∧ (r.op = .qpeek → b.free ≠ b.capacity →
      (∃ bad, out.2 = .elem (s.bytes (data + b.esize * (b.head % b.capacity)) b.esize) bad) ∧ out.1.mem = s.mem)
    ∧ (r.op = .enqn → b.closed = false → b.free = 0 → out.2 = .refused false ∧ out.1.mem = s.mem)
    ∧ (r.op = .deqn → b.closed = false → b.free = b.capacity → out.2 = .refused false ∧ out.1.mem = s.mem)
    ∧ (r.op = .enqn → b.closed = true → out.2 = .refused true ∧ out.1.mem = s.mem)
    ∧ (r.op = .deqn → b.closed = true → b.free = b.capacity → out.2 = .refused true ∧ out.1.mem = s.mem)
    ∧ (r.op = .enq ∧ b.closed = true ∨ (r.op = .deq ∨ r.op = .qpeek) ∧ b.closed = true ∧ b.free = b.capacity →
      out.2 = .fault 0x10#8 0x801 r.handle (BitVec.ofNat 64 r.qpa) 0#64 ∧ out.1.mem = s.mem)
    ∧ ((∀ cl, r.agent ≠ .gone cl) → (r.op = .enq → b.closed = false → b.free = 0 → b.waitp < 65535 →
        out.2 = .parked ∧ (∃ w ∈ out.1.waiters, w.uid = r.uid) ∧ out.1.qcb r.qpa = { b with waitp := b.waitp + 1 })
      ∧ (r.op = .deq ∨ r.op = .qpeek → b.closed = false → b.free = b.capacity → b.waitc < 65535 →
        out.2 = .parked ∧ (∃ w ∈ out.1.waiters, w.uid = r.uid) ∧ out.1.qcb r.qpa = { b with waitc := b.waitc + 1 }))
    ∧ (r.op = .qclose → b.closed = false → (∀ w ∈ s.waiters, w.qpa ≠ r.qpa) →
      out.2 = .elem [] false ∧ out.1.qcb r.qpa = { b with closed := true })
    ∧ (r.op = .qstat → out.1.mem = s.mem ∧ ∃ v, out.2 = .status v ∧ bitsOf v 0 21 = (b.tail + 2 ^ 32 - b.head) % 2 ^ 32 % 2 ^ 21
      ∧ v.getLsbD 21 = b.closed ∧ v.getLsbD 22 = false ∧ bitsOf v 32 16 = b.waitp ∧ bitsOf v 48 16 = b.waitc))
    ∧ ((∀ s r q, s.grants (·.queue.isSome) = some r → r.kind = .queue q → (s.leaves r).entryStands q = true →
      r.uid < s.uid → exec .queueRequest s =
          .next ((s.leaves r).serveQueue { q with slack := (r.tag.settle s.cycle).slack, its := r.tag.its })
        ∧ ∀ x ∈ (s.leaves r).reqs, x.uid ≠ r.uid)
    ∧ (∀ s, s.grants (·.queue.isSome) = none → exec .queueRequest s = .next s)
    ∧ (∀ s u rest w, s.withdrawals = u :: rest → s.waiters.find? (·.uid == u) = some w → ∃ t, exec .withdrawalNotice s = .next t
      ∧ t.withdrawals = rest ∧ (∀ x ∈ t.waiters, x ∈ s.waiters ∧ x.uid ≠ u) ∧ t.core.s = s.core.s)
    ∧ (∀ s, s.withdrawals = [] → exec .withdrawalNotice s = .next s)
    ∧ (∀ s w rest k, s.released = w :: rest → w.agent = .core k → exec .releasedRequestReturn s = .next { s with released := rest })
    ∧ ∀ s w rest die, s.released = w :: rest → w.agent = .controller die → ∃ t, exec .releasedRequestReturn s = .next t
      ∧ t.released = rest ∧ (∃ r, t.reqs = s.reqs ++ [r] ∧ r.kind = .queue { w with its := s.cycle }) ∧ t.mem = s.mem ∧ t.core = s.core)

/-- R382 to R386: RWOPEN of a sound range registers a window that no slice has opened, and waits; it completes when all 64 have. An
address that is not an aligned one of tag 0 takes trap 0x0A; bad parameters, a range that leaves its page or raw memory, and a range or
id that an open window of the launch has, take trap 0x0B. RWCLOSE of an open window, once everything is drained, starts the closing
and waits; it completes when every slice has closed, with the window gone and its counts in s[q]; of any other window, or with bits
set that must be zero, it takes trap 0x0B. A slice opens a window it has not opened. The updates that a window holds join the Rack,
unperformed, while its slice has room; beyond that an update is written to the spill area, and where that is full or off the window
breaks at the slice: what it holds there is applied, and the updates that follow are applied as they arrive. A slice that closes a
window applies the updates it holds for it, those of an element in the order of I and S, and holds none any more. The order of the
checks of RWOPEN, and that its check passes with the opening, are the model's readings (log entry 23). -/
def Obligations.WindowsOpenAndClose : Prop :=
  ((∀ o s w, s.core.on o.g = true →
      let key := s.core.launchKey
      let id := BitVec.ofNat 3 (bitsOf (s.core.sVal o.q) 32 3)
      s.windows.find? (fun w => w.launch == key && w.id == id && w.waits == some s.core.gang.k && !w.closing) = some w →
      (w.opened = BitVec.allOnes 64 → ∃ t, exec (.rwopen o) s = .next t ∧ t = { s with windows := t.windows }
        ∧ ∀ x ∈ t.windows, x.launch = key ∧ x.id = id → x.waits = none)
      ∧ (w.opened ≠ BitVec.allOnes 64 → ∃ t, exec (.rwopen o) s = .next t ∧ Holds s t))
    ∧ (∀ o s, s.core.on o.g = true →
      let a := s.core.sVal o.p
      let v := s.core.sVal o.q
      let n := bitsOf v 0 32
      let id := BitVec.ofNat 3 (bitsOf v 32 3)
      let key := s.core.launchKey
      let trap (cause : BitVec 8) := exec (.rwopen o) s = .next (s.takeTrap ⟨cause, s.core.cur.pc, BitVec.ofNat 64 (s.core.cur.slot + 16), a, 0#64, 0#64⟩)
      let free (loc : Nat) := ∀ w ∈ s.windows, ¬(w.launch = key ∧ (w.id = id ∨ (w.lo < loc + n ∧ loc < w.lo + w.n)))
      let waits := ∃ w ∈ s.windows, w.launch = key ∧ w.id = id ∧ w.waits = some s.core.gang.k ∧ w.closing = false
      (¬waits → a.toNat % 256 ≠ 0 ∨ 2 ^ 60 ≤ a.toNat → trap 0x0A#8)
      ∧ (¬waits → a.toNat % 256 = 0 → a.toNat < 2 ^ 60 → (2 ^ 35 ≤ v.toNat ∨ n = 0 ∨ n % 256 ≠ 0) → trap 0x0B#8)
      ∧ ∀ loc pg, a.toNat % 256 = 0 → a.toNat < 2 ^ 60 → v.toNat < 2 ^ 35 → n ≠ 0 → n % 256 = 0 → s.place a 1 1 .wr = .ok ⟨loc, some pg⟩ →
        let sound := loc + n ≤ pg.pa + pg.size ∧ isRaw loc = true ∧ isRaw (loc + n - 1) = true ∧ free loc
        (sound → ∃ t, exec (.rwopen o) s = .next t ∧ t.core.held = true
          ∧ t.windows = s.windows ++ [⟨key, id, loc, n, 0#64, 0#64, 0#64, false, 0, 0, some s.core.gang.k⟩]
          ∧ t.mem = s.mem ∧ t.core.s = s.core.s)
        ∧ (¬waits → ¬sound → trap 0x0B#8))
    ∧ (∀ o s w, s.core.on o.g = true →
      let v := s.core.sVal o.p
      let id := BitVec.ofNat 3 (bitsOf v 0 3)
      let key := s.core.launchKey
      s.windows.find? (fun w => w.launch == key && w.id == id && w.opened == BitVec.allOnes 64) = some w → v.toNat < 8 →
      (w.closing = true → w.closed = BitVec.allOnes 64 → ∃ t, exec (.rwclose o) s = .next t
        ∧ (∀ x ∈ t.windows, x ∈ s.windows ∧ ¬(x.launch = key ∧ x.id = id)) ∧ t.mem = s.mem
        ∧ OnlyScalar s t o.q (BitVec.ofNat 64
          (w.applied % 2 ^ 32 + (if w.broken = 0#64 then 0 else 2 ^ 32) + w.spilled % 2 ^ 24 * 2 ^ 40)))
      ∧ (w.closing = true → w.closed ≠ BitVec.allOnes 64 → ∃ t, exec (.rwclose o) s = .next t ∧ Holds s t)
      ∧ (w.closing = false → s.coveredLeft s.core.cur.seq 3 = true → ∃ t, exec (.rwclose o) s = .next t ∧ Holds s t)
      ∧ (w.closing = false → s.coveredLeft s.core.cur.seq 3 = false → ∃ t, exec (.rwclose o) s = .next t ∧ t.core.held = true
        ∧ t.mem = s.mem ∧ t.core.s = s.core.s ∧ ∀ x ∈ t.windows, x.launch = key ∧ x.id = id → x.closing = true))
    ∧ (∀ o s, s.core.on o.g = true →
      let v := s.core.sVal o.p
      (8 ≤ v.toNat ∨ ∀ w ∈ s.windows, ¬(w.launch = s.core.launchKey ∧ w.id = BitVec.ofNat 3 (bitsOf v 0 3) ∧ w.opened = BitVec.allOnes 64)) →
      exec (.rwclose o) s =
        .next (s.takeTrap ⟨0x0B#8, s.core.cur.pc, BitVec.ofNat 64 s.core.cur.slot, 0#64, 0#64, 0#64⟩)))
    ∧ (∀ k s w, s.windows.find? (fun w => !w.opened.getLsbD k.toNat) = some w → ∃ t, exec (.windowOpenAtSlice k) s = .next t
      ∧ t = { s with windows := t.windows } ∧ ∃ x ∈ t.windows, x.launch = w.launch ∧ x.id = w.id ∧ x.opened.getLsbD k.toNat = true)
    ∧ (∀ k s w, s.windows.find? (fun w => w.closing && !w.closed.getLsbD k.toNat) = some w →
      let mine := s.heldUpds.filter fun x => x.launch == w.launch && x.win == w.id && homeSlice x.pa == k.toNat
      ∃ t, exec (.windowCloseAtSlice k) s = .next t
        ∧ (∀ x, x ∈ t.heldUpds ↔ x ∈ s.heldUpds ∧ ¬(x.launch = w.launch ∧ x.win = w.id ∧ homeSlice x.pa = k.toNat))
        ∧ (w.waits ≠ none → ∃ x ∈ t.windows, x.launch = w.launch ∧ x.id = w.id ∧ x.closed.getLsbD k.toNat = true
          ∧ x.applied = w.applied + mine.length)
        ∧ t.core.s = s.core.s ∧ t.core.pc = s.core.pc
        ∧ ((∀ l ∈ s.launches, l.dg = false) → (∀ x ∈ mine, isRaw (x.pa + x.n) = true ∧ s.poisoned x.pa x.n = false) →
          (∀ x ∈ mine, ∀ y ∈ mine, (x.pa = y.pa ∧ x.n = y.n) ∨ x.pa + x.n ≤ y.pa ∨ y.pa + y.n ≤ x.pa) →
          (∀ x ∈ mine, ∀ us : List HeldUpd, us.Perm (mine.filter fun y => y.pa == x.pa) →
            us.Pairwise (fun y z => y.i < z.i ∨ (y.i = z.i ∧ y.seqNo.toNat < z.seqNo.toNat)) →
            t.num x.pa x.n = us.foldl (fun m y => y.what.result x.n m y.value 0 % 2 ^ (8 * x.n)) (s.num x.pa x.n))
          ∧ ∀ l, (∀ x ∈ mine, l < x.pa ∨ x.pa + x.n ≤ l) → t.byte l = s.byte l))
    ∧ (∀ s r u w h, s.grants s.heldReq = some r → r.kind = .update u →
      (∀ p ∈ r.parts, s.windowFor u.launch p.loc = some w ∧ homeSlice p.loc = h) → w.broken.getLsbD h = false →
      let x (p : Part) : HeldUpd := ⟨s.serving h, none, u.launch, w.id, p.loc, p.n, 32 * u.k + p.lane, u.what, u.seqNo, leNat p.data⟩
      let inRack := (s.heldUpds.filter fun y => y.slice == s.serving h && y.spot.isNone).length
      (inRack + r.parts.length ≤ 16 → ∃ t, exec .heldUpdateArrival s = .next t ∧ t.heldUpds = s.heldUpds ++ r.parts.map x
        ∧ t.windows = s.windows ∧ t.mem = s.mem ∧ t.core.s = s.core.s)
      ∧ (∀ p a m i, r.parts = [p] → 16 ≤ inRack → s.spillArea (s.serving h).toNat = some (a, m) → s.freeSpot (s.serving h) m = some i →
        isRaw (a + 32 * i + 32) = true → ∃ t, exec .heldUpdateArrival s = .next t
          ∧ t.heldUpds = s.heldUpds ++ [{ x p with spot := some i }]
          ∧ t.num (a + 32 * i) 8 = (p.loc + u.what.op * 2 ^ 46 + u.what.ty * 2 ^ 50 + (32 * u.k + p.lane) % 2 ^ 12 * 2 ^ 52) % 2 ^ 64
          ∧ t.num (a + 32 * i + 8) 4 = u.seqNo.toNat ∧ t.num (a + 32 * i + 12) 4 % 8 = w.id.toNat
          ∧ t.num (a + 32 * i + 16) 8 = leNat p.data % 2 ^ 64 ∧ t.num (a + 32 * i + 24) 8 = 0
          ∧ (∀ l, l < a + 32 * i ∨ a + 32 * i + 32 ≤ l → t.byte l = s.byte l)
          ∧ (∃ y ∈ t.windows, y.launch = w.launch ∧ y.id = w.id ∧ y.spilled = w.spilled + 1) ∧ t.core.s = s.core.s)
      ∧ (∀ p, r.parts = [p] → 16 ≤ inRack →
        (s.spillArea (s.serving h).toNat = none ∨ ∃ a m, s.spillArea (s.serving h).toNat = some (a, m) ∧ s.freeSpot (s.serving h) m = none) →
        ∃ t, exec .heldUpdateArrival s = .next t ∧ (∃ y ∈ t.windows, y.launch = w.launch ∧ y.id = w.id ∧ y.broken.getLsbD h = true)
          ∧ (∀ y, y ∈ t.heldUpds ↔ y ∈ s.heldUpds ∧ ¬(y.launch = w.launch ∧ y.win = w.id ∧ homeSlice y.pa = h)) ∧ t.core.s = s.core.s))
    ∧ (∀ s r u w p, s.grants s.heldReq = some r → r.kind = .update u → r.parts = [p] → s.windowFor u.launch p.loc = some w →
      w.broken.getLsbD (homeSlice p.loc) = true → (∀ l ∈ s.launches, l.dg = false) → isRaw (p.loc + p.n) = true →
      s.poisoned p.loc p.n = false → ∃ t, exec .heldUpdateArrival s = .next t
        ∧ StoresOnly s t p.loc p.n (u.what.result p.n (s.num p.loc p.n) (leNat p.data) 0) ∧ t.heldUpds = s.heldUpds
        ∧ (∃ y ∈ t.windows, y.launch = w.launch ∧ y.id = w.id ∧ y.applied = w.applied + 1) ∧ t.core.s = s.core.s)
    ∧ ∀ s, s.grants s.heldReq = none → exec .heldUpdateArrival s = .next s

/-! ### Slices and the fabric (R134 to R142, R361 to R364, R389 to R405) -/

/-- R119, R136, R142, R363, R391, R392: at the slices. What is granted is a request that could go, passes no earlier one of its
agent to its line, and, unless its miss has been served, bids the least key at its slice. A read whose bytes are there answers with
them and changes no byte; a write puts its
bytes in place and changes no other; an atomic puts its result and answers with the old bytes; a miss fills its raw line; a
decoded tile sets out to its home slices as the decoding gives it, and one that a write has met only to the reads that merged before;
an eviction drops the line, whose written bytes set out to memory. No launch keeps a digest here. That the bid of a read that was
filled is over is the model's reading (log entry 15). -/
def Obligations.SlicesPerformRequests : Prop :=
  ((∀ (s : State) (which : Req → Bool) (r : Req), s.grants which = some r → r ∈ s.reqs ∧ which r = true ∧ s.mayGo r = true ∧ s.mayPass r = true
      ∧ (s.missing.contains r.uid = false → ∃ k, (k, r) ∈ s.contenders ∧ ∀ y ∈ s.contenders, s.point y.2 = s.point r →
        s.missing.contains y.2.uid = false → keyLess y.1 k = false))
    ∧ (∀ s r d k, s.grants (·.reads) = some r → r.remote = false → r.kind = .load d →
      r.agent = .core k → r.parts.any s.loadBad = false → ∃ t, exec .sliceReadRequest s = .next t ∧ t.mem = s.mem
      ∧ ∃ x, t.replies = s.replies ++ [x] ∧ x.core = k ∧ x.dest = d ∧ x.poisoned = false ∧ x.uid = r.uid
        ∧ x.parts = r.parts.map s.loadPart))
    ∧ (∀ s r p, s.grants (·.kind == .store) = some r → r.remote = false → r.parts = [p] → isRaw (p.loc + p.data.length) = true →
      (∀ l ∈ s.launches, l.dg = false) → ∃ t, exec .sliceWriteRequest s = .next t
      ∧ t.bytes p.loc p.data.length = p.data ∧ (∀ l, l < p.loc ∨ p.loc + p.data.length ≤ l → t.byte l = s.byte l)
      ∧ t.core.s = s.core.s ∧ t.core.pc = s.core.pc)
    ∧ (∀ s r e c d p k, s.grants s.isAtom = some r → r.remote = false → r.kind = .atom e c d → r.agent = .core k → r.parts = [p] → isRaw (p.loc + p.n) = true → s.poisoned p.loc p.n = false →
      (∀ l ∈ s.launches, l.dg = false) → ∃ t, exec .sliceAtomicRequest s = .next t
      ∧ StoresOnly s t p.loc p.n (e.result p.n (s.num p.loc p.n) (leNat p.data) c.toNat)
      ∧ ∃ x, t.replies = s.replies ++ [x] ∧ x.core = k ∧ x.dest = d ∧ x.poisoned = false
        ∧ x.parts = [{ p with data := s.bytes p.loc p.n }])
    ∧ (∀ line s, line ∉ s.misses ∨ s.filling line = true → exec (.missFill line) s = .next s)
    ∧ (∀ line s, line ∈ s.misses → s.filling line = false → isDecoded (line * 256) = false → ∃ t, exec (.missFill line) s = .next t
      ∧ (∃ l ∈ t.lines, l.line = line ∧ l.fill = 0xF#4) ∧ line ∉ t.misses ∧ t.mem = s.mem ∧ t.core = s.core)
    ∧ (∀ (reg : BitVec 4) tile s d, s.decodes.find? (fun d => d.region == reg.toNat && d.tile == tile) = some d → d.stale = false →
      s.fmtOn d.region = true → ∃ t, exec (.tileDecodeDone reg tile) s = .next t
      ∧ (∀ x ∈ s.decodeTile d.region d.tile, ∃ p ∈ t.reserved, p.load = .delivery x ∧ p.chan = s.sliceAt (256 * x.line))
      ∧ (∀ p ∈ s.reserved, p ∈ t.reserved) ∧ t = { s with reserved := t.reserved, decodes := t.decodes, uid := t.uid, esns := t.esns }
      ∧ ∀ x ∈ t.decodes, ¬(x.region = d.region ∧ x.tile = d.tile))
    ∧ (∀ (reg : BitVec 4) tile s d, s.decodes.find? (fun d => d.region == reg.toNat && d.tile == tile) = some d → d.stale = true →
      ∃ t, exec (.tileDecodeDone reg tile) s = .next t ∧ t = { s with reserved := t.reserved, decodes := t.decodes, uid := t.uid, esns := t.esns }
      ∧ (∀ x ∈ d.owed, ∃ p ∈ t.reserved, p.load = .answer x.1 x.2 ∧ p.chan = s.sliceAt (256 * x.1.line))
      ∧ ∀ p ∈ t.reserved, p ∈ s.reserved ∨ ∃ x ∈ d.owed, p.load = .answer x.1 x.2)
    ∧ ∀ line s, ∃ t, exec (.lineEviction line) s = .next t
      ∧ t = { s with
          lines := t.lines, decoded := t.decoded, reserved := t.reserved, uid := t.uid, esns := t.esns, charged := t.charged
          launches := t.launches }
      ∧ ((∀ l ∈ s.lines, l.line = line → l.mask = []) → t.reserved = s.reserved)
      ∧ ((∃ l ∈ s.lines, l.line = line ∧ l.mask ≠ []) → ∃ p, t.reserved = s.reserved ++ [p] ∧ p.load = .writeBack line
        ∧ p.granted = false)
      ∧ (∀ l, l ∈ t.lines ↔ l ∈ s.lines ∧ l.line ≠ line) ∧ ∀ d, d ∈ t.decoded ↔ d ∈ s.decoded ∧ d.line ≠ line

/-- R213, R464: the reply that is granted writes its register, extended by its type, and no other register or byte; a reply that carries
an error writes nothing: outside a containment region it enters trap 0x29 and sets TAINT. A lane's value goes to its lane of the vector
register, and LDACQ's also ends its entry and empties L1. -/
def Obligations.RepliesWriteTheirDestination : Prop :=
  (∀ s x d ty p, s.nextReply = some x → x.core = s.core.id → x.poisoned = false → x.dest = .sreg d ty → x.parts = [p] →
      ∃ t, exec .loadReplyArrival s = .next t ∧ t.replies = s.replies.erase x ∧ t.mem = s.mem ∧ OnlyScalar s t d (slValue ty (leNat p.data)))
    ∧ (∀ s x p, s.nextReply = some x → x.core = s.core.id → x.poisoned = true →
      (∃ d ty, x.dest = .sreg d ty) ∨ (∃ a, x.dest = .lanes a) → x.parts = [p] → s.core.cdepth = 0 → s.core.inTrap = false →
      ∃ t, exec .loadReplyArrival s = .next t ∧ t.mem = s.mem ∧ t.core.s = s.core.s ∧ (t.core.crGet 0x04B).getLsbD 3 = true
        ∧ t.core.crGet 2 = 0x29#64 ∧ t.core.crGet 3 = x.pc.setWidth 64 ∧ t.core.crGet 0x059 = p.va)
    ∧ (∀ s x a p, s.nextReply = some x → x.core = s.core.id → x.poisoned = false → x.dest = .lanes a → x.parts = [p] → p.data.length = 4 →
      ∃ t, exec .loadReplyArrival s = .next t ∧ t.replies = s.replies.erase x ∧ t.core.s = s.core.s ∧ t.core.x = s.core.x
        ∧ StoresOnly s t (s.st (a + 4 * p.lane)) 4 (leNat p.data))
    ∧ ∀ s x d ty p b, s.nextReply = some x → x.core = s.core.id → x.poisoned = false → x.dest = .acq d ty → x.parts = [p] →
      b ∈ s.core.bundles → b.seq = x.seq → (∃ e ∈ b.entries, e.slot = x.slot) →
      ∃ t, exec .loadReplyArrival s = .next t ∧ t.replies = s.replies.erase x ∧ t.mem = s.mem
        ∧ OnlyScalar s t d (slValue ty (leNat p.data)) ∧ (∀ e ∈ t.l1, e ∈ s.l1 ∧ e.owner ∉ s.core.l1Cores)
        ∧ ∀ c ∈ t.core.bundles, c.seq = x.seq → ∀ e ∈ c.entries, e.slot ≠ x.slot

/-- R389 to R391, R397 to R399, R403 to R405: a packet's way. A Pip grants a site's burst, whose first packet is the head of its
site's queue with the least bid of all sites: a request, a reply or another packet of the fabric; in one revolution of eight, and where
nobody bids, it grants the oldest packet of the reserved class, and a decoded line that arrives is there; a granted packet is accepted
and its request joins the slice's queue, to count down from the end of its pass-through time; the acknowledgement drops the source's
copy; an overdue packet is counted; one that is not acknowledged is resent, with what is left of its first slack, up to four times, and
then lost: a lost write of a core taints it. The notice of a cluster reset restores the permits of the cluster's cores and takes their
parked requests off the slices of its site. That the parts of one instruction travel as one packet is the model's choice (log entries
15 and 16). -/
def Obligations.PacketsTravelOrAreLost : Prop :=
  ((∀ ch s k, leastBid (((List.range 32).filterMap fun site => (s.takePermits.siteQueue ch site).head?).map (·.1)) = some k →
      s.reservedQueue ch = [] ∨ s.eighth = false →
      ∃ t b site, exec (.pipRevolution ch) s = .next t ∧ site < 32 ∧ (s.takePermits.siteQueue ch site).head? = some (k, b)
        ∧ (b.kind = 0 → ∃ q ∈ t.packets, q.uid = b.uid ∧ q.granted = true)
        ∧ (b.kind = 1 → ∃ q ∈ t.replies, q.uid = b.uid ∧ q.granted = true)
        ∧ (b.kind = 2 → ∃ q ∈ t.transits, q.uid = b.uid ∧ q.granted = true) ∧ t.mem = s.mem ∧ t.core.s = s.core.s)
    ∧ (∀ ch s p, (s.reservedQueue ch).head? = some p →
      s.eighth = true ∨ (∀ site < 32, s.takePermits.siteQueue ch site = []) → ∃ t, exec (.pipRevolution ch) s = .next t
        ∧ t = { s.takePermits with reserved := t.reserved } ∧ (∃ q ∈ t.reserved, q.uid = p.uid ∧ q.granted = true)
        ∧ ∀ q ∈ s.reserved, q.chan = ch → q.granted = false → p.its ≤ q.its)
    ∧ (∀ id s p d, (∀ q ∈ s.packets, q.uid ≠ id) → (∀ x ∈ s.transits, x.uid ≠ id) →
      s.reserved.find? (fun p => p.uid == id && p.granted) = some p →
      p.load = .delivery d → ∃ t, exec (.packetArrival id) s = .next t
        ∧ t = { s with reserved := t.reserved, decoded := t.decoded, misses := t.misses }
        ∧ d ∈ t.decoded ∧ ∀ q ∈ t.reserved, q.uid ≠ id)
    ∧ (∀ id s p r, s.packets.find? (·.uid == id) = some p → p.payload = some r → p.granted = true → s.inOrder p = true →
      s.roomFor p = true →
      ∃ t, exec (.packetArrival id) s = .next t ∧ t = { s with packets := t.packets, reqs := t.reqs }
        ∧ t.reqs = s.reqs ++ [{ r with tag := { p.tag with since := s.cycle + if p.chan < 64 then 2 else 1 } }]
        ∧ ∀ q ∈ t.packets, q.uid = id → q.payload = none)
    ∧ (∀ id s, ∃ t, exec (.endToEndAck id) s = .next t ∧ t = { s with packets := t.packets }
      ∧ ∀ p, p ∈ t.packets ↔ p ∈ s.packets ∧ ¬(p.uid = id ∧ p.granted = true ∧ p.payload = none))
    ∧ (∀ id s p k, s.packets.find? (fun p => p.uid == id && !p.granted && p.tag.due s.cycle) = some p → p.agent = .core k →
      k = s.core.id → p.tag.mute = false → ∃ t, exec (.packetOverdue id) s = .next t
      ∧ t.core.crGet 0x00A = s.core.crGet 0x00A + 1#64 ∧ (t.core.crGet 0x042).getLsbD 1 = true
      ∧ (∃ q ∈ t.packets, q.uid = id ∧ q.tag.ovd = true) ∧ t.mem = s.mem))
    ∧ ((∀ id s p, s.packets.find? (·.uid == id) = some p → timedOut s.cycle p.tag.its p.resends = true → p.resends < 4 →
      ∃ t, exec (.resendTimeout id) s = .next t ∧ t.mem = s.mem ∧ t.core.s = s.core.s
        ∧ ∃ q ∈ t.packets, q.uid = id ∧ q.resends = p.resends + 1 ∧ q.granted = false
          ∧ q.tag.slack = p.tag.first - (s.cycle - p.tag.its) / 16)
    ∧ (∀ id s p r, s.packets.find? (·.uid == id) = some p → timedOut s.cycle p.tag.its p.resends = true → 4 ≤ p.resends →
      p.payload = some r → r.kind = .store → r.agent = .core s.core.id → (∀ o ∈ s.core.ops, o.segs = []) →
      ∃ t, exec (.resendTimeout id) s = .next t ∧ (t.core.crGet 0).getLsbD 3 = true ∧ (∀ q ∈ t.packets, q.uid ≠ id)
        ∧ t.mem = s.mem)
    ∧ ∀ cl site s, (cl, site) ∈ s.notices → (∀ p ∈ s.reserved, p.load = .notice cl → p.chan / 2 = site.toNat → p.granted = true) → ∃ t, exec (.resetNoticeArrival cl site) s = .next t
      ∧ t.notices = s.notices.erase (cl, site)
      ∧ (∀ w ∈ t.waiters, w ∈ s.waiters ∧ ¬(w.agent = .gone cl ∧ homeSlice w.qpa / 2 = site.toNat)) ∧ t.core.s = s.core.s
      ∧ ∀ x, x ∈ t.resetPermits ↔ x ∈ s.resetPermits ∧ ¬(x.1.toNat / 4 = cl.toNat ∧ x.2 / 2 = site.toNat))

/-! ### Vector units (R221 to R254) -/

/-- R229 to R234, R246: the arithmetic V instructions: each participating lane takes the result of the lane function of its
instruction, with its flags; no other lane, byte or register changes. -/
def Obligations.VectorArithmeticByLane : Prop :=
  Lanewise2 .vadd true (typeIn arithTypes) laneAdd ∧ Lanewise2 .vsub true (typeIn arithTypes) laneSub
    ∧ Lanewise2 .vmul true (typeIn arithTypes) laneMul ∧ Lanewise3 .vfma true true (typeIn arithTypes) laneFma
    ∧ Lanewise2 .vmin false (typeIn arithTypes) (fun sh _ _ a b => laneMinMax false sh a b)
    ∧ Lanewise2 .vmax false (typeIn arithTypes) (fun sh _ _ a b => laneMinMax true sh a b)
    ∧ Lanewise1 .vabs false (typeIn arithTypes) (fun sh _ _ a => laneAbs sh a)
    ∧ Lanewise1 .vneg false (typeIn arithTypes) (fun sh _ _ a => laneNeg sh a)
    ∧ Lanewise2 .vdiv true (typeIn [0]) (fun sh w i a b => fpResult sh w i (fdiv (fp32.decode a) (fp32.decode b)) [a, b])
    ∧ Lanewise1 .vsqrt true (typeIn [0]) (fun sh w i a => fpResult sh w i (fsqrt (fp32.decode a)) [a])
    ∧ Lanewise1 .vrcp true (typeIn [0]) (fun sh w i a => fpResult sh w i (fdiv (.fin false 1 0) (fp32.decode a)) [a])
    ∧ Lanewise1 .vrsq true (typeIn [0]) (fun sh w i a => fpResult sh w i (frsqrt (fp32.decode a)) [a])
    ∧ Lanewise1 .vexp2 true (typeIn [0]) laneExp2 ∧ Lanewise1 .vlog2 true (typeIn [0]) laneLog2
    ∧ Lanewise3 .vfade true true (typeIn [0]) laneFade

/-- R238, R239, R242, R243: logic, shifts by the low five bits, VCVT and the moves, lane by lane. -/
def Obligations.VectorLogicAndMoves : Prop :=
  let bitwise (f : Bool → Bool → Bool) (_ : BitVec 128) (_ _ a b : Nat) : FRes :=
    ⟨((List.range 32).map fun j => if f (a.testBit j) (b.testBit j) then 2 ^ j else 0).sum, 0#7⟩
  Lanewise2 .vand false anyType (bitwise fun x y => x && y) ∧ Lanewise2 .vor false anyType (bitwise fun x y => x || y)
    ∧ Lanewise2 .vxor false anyType (bitwise fun x y => x != y)
    ∧ Lanewise1 .vnot false anyType (fun sh w j a => bitwise (fun x _ => !x) sh w j a 0)
    ∧ Lanewise2 .vshl false anyType (fun _ _ _ a b => ⟨a * 2 ^ (b % 32) % 2 ^ 32, 0#7⟩)
    ∧ Lanewise2 .vshr false anyType (fun _ _ _ a b => ⟨a / 2 ^ (b % 32), 0#7⟩)
    ∧ Lanewise2 .vsar false anyType (fun _ _ _ a b =>
      ⟨(BitVec.ofInt 32 ((if 2 ^ 31 ≤ a then (a : Int) - 4294967296 else (a : Int)) / (2 ^ (b % 32) : Nat))).toNat, 0#7⟩)
    ∧ Lanewise1 .vcvt true (fun sh => cvtTypes.contains (shType sh) && cvtTypes.contains (shOtype sh)) (fun sh w i a =>
      (convert (shType sh) (shOtype sh) (shRound sh) (laneBits w i 0) (shSat sh) a).inLane (shOtype sh))
    ∧ Lanewise1 .vmov false anyType (fun _ _ _ a => ⟨a, 0#7⟩) ∧ Lanewise1 .xmov false anyType (fun _ _ _ a => ⟨a, 0#7⟩)

/-- R92, R93, R99, R229 to R231: the integer lane functions give the exact result, wrapped, or under SAT put into the range of the
type, without a flag; the floating ones at their special values: a NaN operand gives the canonical NaN; the sum of opposite infinities,
infinity times zero and zero by zero are invalid; a finite number by zero is infinite with its flag; VABS and VNEG touch the sign bit
only. -/
def Obligations.LaneFunctions : Prop :=
  (∀ (sh : BitVec 128) (w i a b d : Nat), a < 2 ^ 32 → b < 2 ^ 32 → d < 2 ^ 32 → (shType sh = 9 ∨ shType sh = 10) →
    let sgn := shType sh = 9
    let val (x : Nat) : Int := if sgn ∧ 2 ^ 31 ≤ x then (x : Int) - 4294967296 else (x : Int)
    let lo : Int := if sgn then -2147483648 else 0
    let hi : Int := if sgn then 2147483647 else 4294967295
    let lane (t : Int) : FRes :=
      ⟨((if shSat sh = true then (if t < lo then lo else if hi < t then hi else t) else t) % 4294967296).toNat, 0#7⟩
    laneAdd sh w i a b = lane (val a + val b) ∧ laneSub sh w i a b = lane (val a - val b)
      ∧ laneMul sh w i a b = lane (val a * val b) ∧ laneFma sh w i a b d = lane (val a * val b + val d)
      ∧ laneMinMax false sh a b = lane (min (val a) (val b)) ∧ laneMinMax true sh a b = lane (max (val a) (val b))
      ∧ laneAbs sh a = lane (val a).natAbs ∧ laneNeg sh a = lane (-val a))
    ∧ (∀ (sh : BitVec 128) (w i a b : Nat), a < 2 ^ 32 → b < 2 ^ 32 → shType sh = 0 →
    let nan (x : Nat) : Prop := x / 2 ^ 23 % 256 = 255 ∧ x % 2 ^ 23 ≠ 0
    (nan a ∨ nan b → (laneAdd sh w i a b).bits = 0x7FC00000 ∧ (laneSub sh w i a b).bits = 0x7FC00000
      ∧ (laneMul sh w i a b).bits = 0x7FC00000)
    ∧ laneAdd sh w i 0x7F800000 0xFF800000 = ⟨0x7FC00000, .invalid⟩ ∧ laneMul sh w i 0x7F800000 0 = ⟨0x7FC00000, .invalid⟩
    ∧ fpResult sh w i (fdiv (fp32.decode 0) (fp32.decode 0)) [0, 0] = ⟨0x7FC00000, .invalid⟩
    ∧ fpResult sh w i (fdiv (fp32.decode 0x3F800000) (fp32.decode 0)) [0x3F800000, 0] = ⟨0x7F800000, .divZero⟩
    ∧ laneAbs sh a = ⟨a % 2 ^ 31, 0#7⟩
    ∧ (¬nan a → laneNeg sh a = ⟨if a < 2 ^ 31 then a + 2 ^ 31 else a - 2 ^ 31, 0#7⟩))

/-- R236, R237, R241, R242, R244, R247: VCMP writes the participating bits of its guard; VSEL, VUNPK, VPERM, the broadcasts, VRED
and VQDEQ give their lanes; nothing else changes. -/
def Obligations.VectorSelectAndArrange : Prop :=
  (∀ o s, let c := s.core
      let shape := c.activeShape o.sh o.swap
      let lanes := c.lanesOn o.g shape
      let r := fun j => laneCmp shape o.c (s.laneSync ((c.vAddr o.a).getD 0) j) (s.laneSync ((c.vAddr o.b).getD 0) j)
      o.k ≠ 0#3 → VecReady s o.g o.sh o.swap false false (typeIn arithTypes) [(c.vAddr o.a, false), (c.vAddr o.b, false)] [] →
      ∃ t, exec (.vcmp o) s = .next t ∧ t.mem = s.mem
        ∧ VecRest s { t with core := { t.core with g := s.core.g } } o.sh o.swap lanes (fun j => (r j).2)
        ∧ (∀ n, n ≠ o.k → t.core.gReg n = s.core.gReg n)
        ∧ ∀ j < 32, (t.core.gReg o.k).getLsbD j = if j ∈ lanes then (r j).1 else (c.gVal o.k).getLsbD j)
    ∧ (∀ o s, let c := s.core
      let shape := c.activeShape o.sh o.swap
      let lanes := (List.range 32).filter fun i => decide (i < shLanes shape)
      VecReady s o.g o.sh o.swap true false anyType [(c.vAddr o.a, false), (c.vAddr o.b, false)] [c.vAddr o.d] →
      ∃ t, exec (.vsel o) s = .next t ∧ VecRest s t o.sh o.swap [] (fun _ => 0#7)
        ∧ LanesOnly s t ((c.vAddr o.d).getD 0) lanes fun j =>
          if (c.guard o.g).getLsbD j = true then s.laneSync ((c.vAddr o.a).getD 0) j else s.laneSync ((c.vAddr o.b).getD 0) j)
    ∧ (∀ o s, let c := s.core
      let shape := c.activeShape o.sh o.swap
      let lanes := c.lanesOn o.g shape
      let n := tyBits (shType shape) / 8
      let r := fun j => convert (shType shape) (shOtype shape) 0 0 false
        (leNat (s.readSync (s.st ((c.vAddr o.a).getD 0 + n * (32 * o.part.toNat + j))) n))
      VecReady s o.g o.sh o.swap false false (unpackOk o.part.toNat) [(c.vAddr o.a, true)] [c.vAddr o.d] →
      ∃ t, exec (.vunpk o) s = .next t ∧ VecRest s t o.sh o.swap lanes (fun j => (r j).flags)
        ∧ LanesOnly s t ((c.vAddr o.d).getD 0) lanes fun j => (r j).bits)
    ∧ (∀ o s, let c := s.core
      let lanes := c.lanesOn o.g (c.activeShape o.sh o.swap)
      VecReady s o.g o.sh o.swap false false anyType [(c.vAddr o.a, true), (c.vAddr o.b, false)] [c.vAddr o.d] →
      ∃ t, exec (.vperm o) s = .next t ∧ VecRest s t o.sh o.swap [] (fun _ => 0#7)
        ∧ LanesOnly s t ((c.vAddr o.d).getD 0) lanes fun j =>
          s.laneSync ((c.vAddr o.a).getD 0) (s.laneSync ((c.vAddr o.b).getD 0) j % 32))
    ∧ (∀ o s, let c := s.core
      let lanes := c.lanesOn o.g (c.activeShape o.sh o.swap)
      VecReady s o.g o.sh o.swap false false anyType [(c.vAddr o.a, true)] [c.vAddr o.d] →
      ∃ t, exec (.vbcstLane o) s = .next t ∧ VecRest s t o.sh o.swap [] (fun _ => 0#7)
        ∧ LanesOnly s t ((c.vAddr o.d).getD 0) lanes fun _ => s.laneSync ((c.vAddr o.a).getD 0) o.lane.toNat)
    ∧ (∀ o s, let c := s.core
      let lanes := c.lanesOn o.g (c.activeShape o.sh o.swap)
      VecReady s o.g o.sh o.swap false false anyType [] [c.vAddr o.d] →
      ∃ t, exec (.vbcstScalar o) s = .next t ∧ VecRest s t o.sh o.swap [] (fun _ => 0#7)
        ∧ LanesOnly s t ((c.vAddr o.d).getD 0) lanes fun _ => (c.sVal o.a).toNat % 2 ^ 32)
    ∧ (∀ o s, let c := s.core
      let shape := c.activeShape o.sh o.swap
      let lanes := c.lanesOn o.g shape
      let chosen := (List.range 32).map fun i =>
        if i < shLanes shape ∧ (c.gVal o.m).getLsbD i = true then some (s.laneSync ((c.vAddr o.a).getD 0) i) else none
      VecReady s o.g o.sh o.swap false true (typeIn arithTypes) [(c.vAddr o.a, true)] [c.vAddr o.d] →
      ∃ t, exec (.vred o) s = .next t ∧ t.core.s = c.s ∧ t.core.x = c.x ∧ t.core.g = c.g
        ∧ LanesOnly s t ((c.vAddr o.d).getD 0) lanes fun _ =>
          (redTree o.o.toNat shape (drawnWord s shape true) 5 0 chosen).1.getD (redIdentity o.o.toNat (shType shape)))
    ∧ ∀ o s, let c := s.core
      let shape := c.activeShape o.sh o.swap
      let lanes := c.lanesOn o.g shape
      let a := (c.vAddr o.a).getD 0
      let code (j : Nat) : Nat := if shType shape = 13 then leNat (s.readSync (s.st (a + j / 2)) 1) / 16 ^ (j % 2) % 16
        else leNat (s.readSync (s.st (a + j)) 1)
      let r (j : Nat) : FRes :=
        let x := dequant (shType shape) (s.laneSync ((c.vAddr o.b).getD 0) 0) (code j)
        (((tyFmt (shOtype shape)).getD fp32).round (shRound shape) (laneBits (drawnWord s shape true) j 0) (shSat shape) x.1).also x.2
      VecReady s o.g o.sh o.swap false true (fun sh => [13, 14, 15].contains (shType sh) && [0, 1, 2].contains (shOtype sh))
        [(c.vAddr o.a, true), (c.vAddr o.b, true)] [c.vAddr o.d] →
      ∃ t, exec (.vqdeq o) s = .next t ∧ VecRest s t o.sh o.swap lanes (fun j => (r j).flags)
        ∧ LanesOnly s t ((c.vAddr o.d).getD 0) lanes fun j => (r j).bits

/-- R101, R103, R240, R245, R252 to R254: VPACK writes all of vD when a lane takes part; VCADD and VCACC write a pair of registers; CUPSEED seeds the Cup and empties its
queue; CUPSTAT shows its state; the generator's word joins the queue while there is room. -/
def Obligations.PairsPackAndCup : Prop :=
  (∀ o s, let c := s.core
      let shape := c.activeShape o.sh o.swap
      let lanes := c.lanesOn o.g shape
      let n := tyBits (shOtype shape) / 8
      let one (src j i : Nat) : FRes := if i ∈ lanes then convert (shType shape) (shOtype shape) (shRound shape)
        (laneBits (drawnWord s shape true) i j) (shSat shape) (s.laneSync src i) else ⟨0, 0#7⟩
      VecReady s o.g o.sh o.swap false true (fun sh => cvtTypes.contains (shType sh) && narrowTypes.contains (shOtype sh))
        [(c.vAddr o.a, false), (c.vAddr o.b, false)] [c.vAddr o.d] →
      ∃ t, exec (.vpack o) s = .next t ∧ t.core.s = c.s ∧ t.core.x = c.x ∧ t.core.g = c.g
        ∧ (lanes = [] → t.mem = s.mem ∧ t.core.shapes = c.shapes ∧ t.core.cupQ = c.cupQ)
        ∧ (lanes ≠ [] → let d := s.st ((c.vAddr o.d).getD 0)
          (∀ i < 32, t.num (d + n * i) n = (one ((c.vAddr o.a).getD 0) 0 i).bits % 2 ^ (8 * n)
            ∧ t.num (d + n * (32 + i)) n = (one ((c.vAddr o.b).getD 0) 1 i).bits % 2 ^ (8 * n))
          ∧ (∀ k, 64 * n ≤ k → k < 128 → t.byte (d + k) = 0#8) ∧ ∀ l, l < d ∨ d + 128 ≤ l → t.byte l = s.byte l))
    ∧ (∀ o s d p, let c := s.core
      let lanes := c.lanesOn o.g (c.activeShape o.sh o.swap)
      c.vAddr o.d = some d → c.partnerAddr o.d = some p → (d + 128 ≤ p ∨ p + 128 ≤ d) →
      VecReady s o.g o.sh o.swap false false (typeIn [0]) [(c.vAddr o.a, false), (c.vAddr o.b, false)] [some d, some p] →
      ∃ t, exec (.vcadd o) s = .next t ∧ t.core.s = c.s ∧ t.core.x = c.x ∧ t.core.g = c.g
        ∧ ∀ i ∈ lanes, let r := twoSum (s.laneSync ((c.vAddr o.a).getD 0) i) (s.laneSync ((c.vAddr o.b).getD 0) i)
          t.num (s.st (d + 4 * i)) 4 = r.1.bits % 2 ^ 32 ∧ t.num (s.st (p + 4 * i)) 4 = r.2 % 2 ^ 32)
    ∧ (∀ o s d p, let c := s.core
      let lanes := c.lanesOn o.g (c.activeShape o.sh o.swap)
      c.vAddr o.d = some d → c.partnerAddr o.d = some p → (d + 128 ≤ p ∨ p + 128 ≤ d) →
      VecReady s o.g o.sh o.swap false false (typeIn [0]) [(c.vAddr o.a, false), (some d, false), (some p, false)] [some d, some p] →
      ∃ t, exec (.vcacc o) s = .next t ∧ t.core.s = c.s ∧ t.core.x = c.x ∧ t.core.g = c.g
        ∧ ∀ i ∈ lanes, let r := cacc ⟨s.laneSync d i, s.laneSync p i⟩ (s.laneSync ((c.vAddr o.a).getD 0) i)
          t.num (s.st (d + 4 * i)) 4 = r.1.hi % 2 ^ 32 ∧ t.num (s.st (p + 4 * i)) 4 = r.1.lo % 2 ^ 32)
    ∧ (∀ o s, s.core.on o.g = true → s.core.cur.slot = 2 → (s.core.crGet 0x049).getLsbD 0 = false →
      ∃ t, exec (.cupseed o) s = .next t ∧ t.core.gen = Cup.seed (s.core.sVal o.p) s.core.gang.k ∧ t.core.drawn = t.core.gen
        ∧ t.core.cupQ = [] ∧ t.core.crGet 0x031 = 0#64 ∧ t.core.s = s.core.s ∧ t.mem = s.mem)
    ∧ (∀ o s d, s.core.guard o.g ≠ 0#32 → (s.core.crGet 0x049).getLsbD (s.core.cur.slot - 2) = false → s.core.vAddr o.d = some d →
      s.storeWait none [] [(d, 128)] = false → ∃ t, exec (.cupstat o) s = .next t ∧ t.core.s = s.core.s ∧ t.core.cr = s.core.cr
        ∧ LanesOnly s t d ((List.range 32).filter fun i => (s.core.guard o.g).getLsbD i) fun i =>
          if i = 0 then s.core.drawn.a.toNat else if i = 1 then s.core.drawn.b.toNat else if i = 2 then s.core.drawn.c.toNat
          else if i = 3 then s.core.drawn.d.toNat else if i = 4 then (s.core.crGet 0x031).toNat else 0)
    ∧ ∀ s, (s.core.cupQ.length < 16 → ∃ t, exec .cupGenerate s = .next t ∧ t.core.cupQ = s.core.cupQ ++ [s.core.gen.next.d]
        ∧ t.core.gen = s.core.gen.next ∧ t = { s with core := { s.core with gen := t.core.gen, cupQ := t.core.cupQ } })
      ∧ (16 ≤ s.core.cupQ.length → exec .cupGenerate s = .next s)



/-- R133, R249, R250, R378, R381, R384: VLD, VST, VGTH and VSCT move the lanes that are on between their register and memory, the
core's own storage or the register store; VATOM applies its operation to the elements of the core's own scratchpad, lane by lane,
and sends the others to their slices; without RET its sequence number counts on. When a lane performs, and that it may stay undone
behind a poisoned element, are the model's choices (log entries 7 and 20). -/
def Obligations.VectorMemoryMovesLanes : Prop :=
  (∀ o s d, let c := s.core
      let shape := c.activeShape o.sh o.swap
      let lanes := c.lanesOn o.g shape
      let a := c.sVal o.base + BitVec.ofInt 64 (o.off.toInt * 128)
      let x := (c.xVal (o.base.setWidth 4) + BitVec.ofInt 32 (o.off.toInt * 128)).toNat
      VmReady s o.g shape anyType [c.vAddr o.d] → c.vAddr o.d = some d →
      (o.mode = false → LoadsLanes (.vld o) s o.sh o.swap d lanes (fun j => a + BitVec.ofNat 64 (4 * j))
        ∧ StoresLanes (.vst o) s o.sh o.swap d lanes (fun j => a + BitVec.ofNat 64 (4 * j)))
      ∧ (o.mode = true → MovesInStore (.vld o) s false o.sh o.swap o.base shape d lanes (fun j => x + 4 * j)
          ∧ MovesInStore (.vst o) s true o.sh o.swap o.base shape d lanes (fun j => x + 4 * j)))
    ∧ (∀ o s d ix, let c := s.core
      let shape := c.activeShape o.sh o.swap
      let lanes := c.lanesOn o.g shape
      let A (j : Nat) : Word64 := c.sVal o.base + (BitVec.ofNat 32 (s.laneSync ix j)).signExtend 64
      let X (j : Nat) : Nat := (c.xVal (o.base.setWidth 4) + BitVec.ofNat 32 (s.laneSync ix j)).toNat
      VmReady s o.g shape anyType [c.vAddr o.d, c.vAddr o.i] → c.vAddr o.d = some d → c.vAddr o.i = some ix →
      s.storeWait none [(ix, 128)] [] = false → (∀ j ∈ lanes, s.poisoned (s.st (ix + 4 * j)) 4 = false) →
      (o.mode = false → LoadsLanes (.vgth o) s o.sh o.swap d lanes A ∧ StoresLanes (.vsct o) s o.sh o.swap d lanes A)
      ∧ (o.mode = true → MovesInStore (.vgth o) s false o.sh o.swap o.base shape d lanes X
          ∧ MovesInStore (.vsct o) s true o.sh o.swap o.base shape d lanes X))
    ∧ ∀ o s d ix loc pg, let c := s.core
      let shape := c.activeShape o.sh o.swap
      let lanes := c.lanesOn o.g shape
      let A (j : Nat) : Word64 := c.sVal o.base + (BitVec.ofNat 32 (s.laneSync ix j)).signExtend 64
      let sgn := shType shape = 9
      let f := match o.op.toNat with
        | 0 => 0 | 1 => if sgn then 4 else 6 | 2 => if sgn then 5 else 7 | 3 => 1 | 4 => 2 | 5 => 3 | _ => 8
      let seq := (c.crGet 0x127).setWidth 32
      VmReady s o.g shape (vatomTypes o.op.toNat) [c.vAddr o.d, c.vAddr o.i] → o.op.toNat < 7 →
      c.vAddr o.d = some d → c.vAddr o.i = some ix → s.storeWait none [(ix, 128)] [] = false →
      s.storeWait none [(d, 128)] (if o.ret = true then [(d, 128)] else []) = false →
      (∀ j ∈ lanes, s.poisoned (s.st (ix + 4 * j)) 4 = false ∧ s.poisoned (s.st (d + 4 * j)) 4 = false) →
      LanesReach s .at lanes A loc pg →
      ((∀ j ∈ lanes, s.ownStorage (loc j) = true ∧ s.poisoned (loc j) 4 = false) → shType shape ≠ 0 →
        ∃ t, exec (.vatom o) s = .next t
          ∧ (∀ j ∈ lanes, (∀ k ∈ lanes, k ≠ j → loc k ≠ loc j) →
            t.num (loc j) 4 = atomNumber 32 f (s.num (loc j) 4) (s.laneSync d j) 0
              ∧ (o.ret = true → t.num (s.st (d + 4 * j)) 4 = s.num (loc j) 4))
          ∧ (∀ l, (∀ j ∈ lanes, (l < loc j ∨ loc j + 4 ≤ l) ∧ (o.ret = true → l < s.st (d + 4 * j) ∨ s.st (d + 4 * j) + 4 ≤ l)) →
            t.byte l = s.byte l)
          ∧ VmRest s t o.sh o.swap ∧ t.core.x = s.core.x
          ∧ ∀ n, t.core.crGet n = if n = 0x127 ∧ o.ret = false then (seq + 1#32).setWidth 64 else c.crGet n)
      ∧ ((∀ j ∈ lanes, s.ownStorage (loc j) = false ∧ (if isPhys (loc j) = true then isRemote (loc j) = false else shType shape ≠ 0)) →
        s.loadsOut c.cur.slot < 8 → s.storesOut c.cur.slot < 16 →
        ∃ t e, exec (.vatom o) s = .next t ∧ t.mem = s.mem ∧ VmRest s t o.sh o.swap
          ∧ AsksFor s t (if o.ret = true then .atom e 0#64 (.lanes d) else .update ⟨e, seq, c.gang.k, c.launchKey⟩)
            (lanes.map fun j => ⟨loc j, A j, 4, j, s.readSync (s.st (d + 4 * j)) 4⟩)
          ∧ (shType shape ≠ 0 → ∀ m v, m < 2 ^ 32 → v < 2 ^ 32 → e.result 4 m v 0 = atomNumber 32 f m v 0)
          ∧ ∀ n, t.core.crGet n = if n = 0x127 ∧ o.ret = false then (seq + 1#32).setWidth 64 else c.crGet n)

/-! ### The matrix array and the Ladder (R284 to R328) -/

/-- R289, R290, R294, R296 to R305: each M instruction, once it is free to go, joins the queue of the array with its operands, and
changes no byte: MBLD records its tile in the other buffer's MBREC, MBSW turns the active index, the MMA family advances its feed
registers over all repetitions. Writing ones to MSTAT clears its flags. -/
def Obligations.MatrixInstructionsQueue : Prop :=
  (∀ o s, let c := s.core
      let shape := c.activeShape o.sh o.swap
      let a := (c.xVal o.xd).toNat
      let b := 1 - c.act
      EngReady s o.g shape (fun _ => true) 0 [] [] → a % 8 = 0 → (codeBytes (shType shape)).isSome = true →
      a + columnBytes (shType shape) (shGroup shape) ≤ 0x10000 → a < 0x10000 →
      ∃ t p, exec (.mbld o) s = .next t ∧ p.addrs = [a] ∧ p.extra = [b]
        ∧ Enqueues s t p (.mbld o) 0 shape o.sh o.swap (moveX o.pi o.xd (shStride1 shape))
          [(0x01C + b, BitVec.ofNat 64 (a + shType shape * 2 ^ 16 + shGroup shape * 2 ^ 20 + 2 ^ 22))])
    ∧ (∀ o s, s.core.on o.g = true → (s.core.crGet 0x049).getLsbD (s.core.cur.slot - 2) = false → s.engWait 0 [] [] = false →
      ∃ t p, exec (.mbsw o) s = .next t
        ∧ Enqueues s t p (.mbsw o) 0 0#128 0#2 false (fun _ => 0#32) [(0x01B, s.core.crGet 0x01B ^^^ 1#64)])
    ∧ (∀ (o : OpMma) s, let c := s.core
      let shape := c.activeShape o.sh o.swap
      let step := if o.pi = true then shStride0 shape else 0#32
      let x := moveX o.pi o.xa (BitVec.ofNat 32 c.cur.rep * shStride0 shape)
      let w := c.mbrec c.act
      QueuesMma (.mma o) s o.g o.sh o.swap (fun sh => pairsPlain w (shType sh)) o.r0.toNat [o.acc] (c.xVal o.xa) step 128#32 x
        ∧ QueuesMma (.mmaz o) s o.g o.sh o.swap (fun sh => pairsGrouped w (shType sh)) o.r0.toNat
          ((List.range (128 / tileGroup (recType w) (recGroup w))).map fun g => o.acc + BitVec.ofNat 3 g) (c.xVal o.xa) step 128#32 x)
    ∧ (∀ o s, let c := s.core
      let shape := c.activeShape o.sh o.swap
      let st0 := if o.pi = true then shStride0 shape else 0#32
      let st1 := if o.pi = true then shStride1 shape else 0#32
      let n := BitVec.ofNat 32 c.cur.rep
      QueuesMma (.mtap o) s o.g o.sh o.swap (fun sh => pairsPlain (c.mbrec c.act) (shType sh)) (o.imm.toNat % 32) [o.acc]
        (c.xVal o.xa + c.xVal o.xd) (if o.xa = o.xd then (st0 + st1) + (st0 + st1) else st0 + st1) (BitVec.ofNat 32 (o.imm.toNat / 32))
        (fun k => moveX o.pi o.xa (n * shStride0 shape) k + moveX o.pi o.xd (n * shStride1 shape) k))
    ∧ (∀ o s a, let c := s.core
      let shape := c.activeShape o.sh o.swap
      let w := c.mbrec c.act
      let rows := accRows a o.r0.toNat (shRows shape)
      EngReady s o.g shape (fun sh => recValid w && (shType sh == 0 || shType sh == 9) && shOtype sh == 0 && decide (shRound sh ≤ 3)
        && isGrouped (recType w) && decide (o.grp.toNat < 128 / tileGroup (recType w) (recGroup w)) && rowsFit sh o.r0.toNat 1)
        0 [rows] [rows] → c.aAddr o.acc = some a →
      ∃ t p, exec (.mscl o) s = .next t ∧ p.regs = [a] ∧ p.busy = [rows] ∧ p.extra = [c.act]
        ∧ Enqueues s t p (.mscl o) 0 shape o.sh o.swap (fun _ => 0#32) [])
    ∧ (∀ o s a, let c := s.core
      let shape := c.activeShape o.sh o.swap
      let rows := accRows a o.r0.toNat (shRows shape)
      EngReady s o.g shape (fun sh => rowsFit sh o.r0.toNat 1) 0 [rows] [rows] → c.aAddr o.acc = some a →
      ∃ t p, exec (.mzero o) s = .next t ∧ p.regs = [a] ∧ p.busy = [rows]
        ∧ Enqueues s t p (.mzero o) 0 shape o.sh o.swap (fun _ => 0#32) [])
    ∧ (∀ o s a, let c := s.core
      let shape := c.activeShape o.sh o.swap
      let n := c.cur.rep
      let rows := if o.ss = true then shRows shape else n * shRows shape
      let srcs := (List.range (if o.ss = true then min n 8 else 1)).map fun i => (c.aAddr (o.src + BitVec.ofNat 3 i)).getD 0
      let locks := srcs.map fun r => accRows r o.r0.toNat rows
      let busy := [accRows a o.r0.toNat rows]
      EngReady s o.g shape (fun sh => (shType sh == 0 || shType sh == 9) && decide (shRound sh ≤ 3)
        && rowsFit sh o.r0.toNat (if o.ss then 1 else n)) 0 (locks ++ busy) busy → c.aAddr o.acc = some a →
      (∀ i < (if o.ss = true then min n 8 else 1), (c.aAddr (o.src + BitVec.ofNat 3 i)).isSome = true) →
      ∃ t p, exec (.macc o) s = .next t ∧ p.regs = a :: srcs ∧ p.locks = locks ∧ p.busy = busy
        ∧ Enqueues s t p (.macc o) 0 shape o.sh o.swap (fun _ => 0#32) [])
    ∧ (∀ (o : OpMma) s a, let c := s.core
      let shape := c.activeShape o.sh o.swap
      let w := tyBits (shOtype shape) / 8
      let x := (c.xVal o.xa).toNat
      let range := (x, shRows shape * shCols shape * w)
      let rows := accRows a o.r0.toNat (shRows shape)
      EngReady s o.g shape (fun sh => (shType sh == 0 || shType sh == 9) && outTypes.contains (shOtype sh) && decide (shRound sh ≤ 3)
        && rowsFit sh o.r0.toNat 1 && decide (1 ≤ shCols sh) && decide (shCols sh ≤ 256)) 0 [rows] [range] → c.aAddr o.acc = some a →
      x % w = 0 → c.storeOk range.1 range.2 = true →
      ∃ t p, exec (.mout o) s = .next t ∧ p.addrs = [x] ∧ p.regs = [a] ∧ p.locks = [rows] ∧ p.busy = [range]
        ∧ Enqueues s t p (.mout o) 0 shape o.sh o.swap (moveX o.pi o.xa (shStride0 shape)) [])
    ∧ ∀ v s, s.core.engWaits 0 = false → ∃ t, exec (.matrixStatusAccess 0x01B#19 v) s = .next t
      ∧ t = { s with core := { s.core with cr := t.core.cr } } ∧ (∀ n, n ≠ 0x01B → t.core.crGet n = s.core.crGet n)
      ∧ ∀ j < 64, (t.core.crGet 0x01B).getLsbD j = ((s.core.crGet 0x01B).getLsbD j && !(decide (8 ≤ j ∧ j ≤ 14) && v.getLsbD j))

/-- R287, R291 to R306: what the array's operations do when they perform, one at a time and the oldest first: MBLD fills its
buffer from the deck; the MMA family puts into its accumulators, for every A row, the partials of all columns; MSCL scales by the
records, MZERO clears, MACC adds, MOUT converts and stores. An operation performs in one step (log entry 7). -/
def Obligations.MatrixOperationsPerform : Prop :=
  (∀ s p o, p.instr = .mbld o → (s.core.ops.filter (·.eng == 0)).head? = some p → p.old = [] →
      let off := p.addrs.headD 0
      let b := p.extra.headD 0
      let n := columnBytes (shType p.shape) (shGroup p.shape)
      let col := fun k => Loc.deck s.core.id.toNat (k * 65536 + off)
      n ≤ 256 → (∀ k < 256, ∀ w, 32 * w < k * 65536 + off + n → k * 65536 + off < 32 * w + 32 →
        s.poisoned (Loc.deck s.core.id.toNat (32 * w)) 32 = false) → ∃ t, exec .mOperationDone s = .next t ∧ t.mem = s.mem ∧ Performed s t p 0
        ∧ (let u := t.core.buf b
          u.full = true ∧ u.ty = shType p.shape ∧ u.group = shGroup p.shape ∧ u.off = off
            ∧ ∀ k < 256, ∀ j < n, u.byte k j = (s.byte (col k + j)).toNat))
    ∧ (∀ s p, (∃ o, p.instr = .mma o ∨ p.instr = .mmaz o ∨ ∃ o, p.instr = .mtap o) → Performs s 0 p p.locks →
      (∀ x ∈ p.addrs, ∀ a ∈ p.regs, x + 128 ≤ a ∨ a + 32768 ≤ x) → p.regs.Pairwise (fun a b => a + 32768 ≤ b ∨ b + 32768 ≤ a) →
      let b := s.core.buf (p.extra.headD 0)
      let r0 := (p.extra.drop 1).headD 0
      let grouped := match p.instr with | .mmaz _ => true | _ => false
      r0 + p.addrs.length ≤ 32 → ∃ t, exec .mOperationDone s = .next t ∧ Performed s t p 0x01B
        ∧ (∀ j < p.addrs.length, ∀ g < p.regs.length, ∀ c < 256,
          let row := s.bytes (s.st (p.addrs[j]?.getD 0)) 128
          t.num (s.st (p.regs[g]?.getD 0 + 1024 * (r0 + j) + 4 * c)) 4
            = (if grouped = true then groupDot b (shType p.shape) row c g else plainDot b (shType p.shape) row c).bits % 2 ^ 32)
        ∧ ∀ l, (∀ a ∈ p.regs, l < s.st (a + 1024 * r0) ∨ s.st (a + 1024 * (r0 + p.addrs.length)) ≤ l) → t.byte l = s.byte l)
    ∧ (∀ s p o a, p.instr = .mzero o → p.regs = [a] → Performs s 0 p p.locks →
      ∃ t, exec .mOperationDone s = .next t ∧ Performed s t p 0x01B ∧ PutsRows s t a o.r0.toNat (shRows p.shape) fun _ _ => 0)
    ∧ (∀ s p o a, p.instr = .mscl o → p.regs = [a] → Performs s 0 p (p.locks ++ p.busy) →
      let b := s.core.buf (p.extra.headD 0)
      ∃ t, exec .mOperationDone s = .next t ∧ Performed s t p 0x01B
        ∧ PutsRows s t a o.r0.toNat (shRows p.shape) fun r c =>
          (scaleElem b p.shape (b.record c o.grp.toNat) (s.num (s.st (a + 1024 * (o.r0.toNat + r) + 4 * c)) 4)).bits)
    ∧ (∀ s p o a src, p.instr = .macc o → p.regs = [a, src] → p.rep = 1 → Performs s 0 p (p.locks ++ p.busy) →
      (src = a ∨ src + 32768 ≤ a ∨ a + 32768 ≤ src) → o.r0.toNat + shRows p.shape ≤ 32 →
      ∃ t, exec .mOperationDone s = .next t ∧ Performed s t p 0x01B
        ∧ PutsRows s t a o.r0.toNat (shRows p.shape) fun r c =>
          let at' := 1024 * (o.r0.toNat + r) + 4 * c
          (addElem p.shape (s.num (s.st (a + at')) 4) (s.num (s.st (src + at')) 4)).bits)
    ∧ ∀ s p o a x, p.instr = .mout o → p.regs = [a] → p.addrs = [x] → Performs s 0 p p.locks →
      let w := tyBits (shOtype p.shape) / 8
      let n := shRows p.shape * shCols p.shape * w
      (x + n ≤ a ∨ a + 32768 ≤ x) → o.r0.toNat + shRows p.shape ≤ 32 → shCols p.shape ≤ 256 → w ≠ 0 →
      ∃ t, exec .mOperationDone s = .next t ∧ Performed s t p 0x01B
        ∧ (∀ r < shRows p.shape, ∀ c < shCols p.shape, t.num (s.st (x + (r * shCols p.shape + c) * w)) w
          = (convert (shType p.shape) (shOtype p.shape) (shRound p.shape) 0 (shSat p.shape)
            (s.num (s.st (a + 1024 * (o.r0.toNat + r) + 4 * c)) 4)).bits % 2 ^ (8 * w))
        ∧ ∀ l, l < s.st x ∨ s.st (x + n) ≤ l → t.byte l = s.byte l

/-- R312 to R318, R321, R323, R324: each N instruction, once it is free to go, joins the queue of the Ladder with its operands, and
changes no byte: LCFG.set changes NCONF for what follows, the others advance their address registers. Writing NSTAT takes the bits its
access code allows. -/
def Obligations.LadderInstructionsQueue : Prop :=
  let ready (s : State) (g : BitVec 4) (reads writes : List (Nat × Nat)) : Prop :=
    s.core.on g = true ∧ (s.core.crGet 0x049).getLsbD (s.core.cur.slot - 2) = false ∧ s.engWait 1 reads writes = false
  (∀ o s, ready s o.g [] [] → ∃ t p, exec (.lcfgSet o) s = .next t ∧ p.extra = [s.core.nconf]
      ∧ Enqueues s t p (.lcfgSet o) 1 0#128 o.sh o.swap (fun _ => 0#32)
        [(0x01F, BitVec.ofNat 64 (o.cc.toNat + 8 * o.lanes.toNat + 256 * o.out.toNat))])
    ∧ (∀ o s, ready s o.g [] [] → ∃ t p, exec (.lcfgClear o) s = .next t
      ∧ Enqueues s t p (.lcfgClear o) 1 0#128 o.sh o.swap (fun _ => 0#32) [])
    ∧ (∀ o s, let c := s.core
      let shape := c.activeShape o.sh o.swap
      let a := (c.xVal o.x).toNat
      a % 128 = 0 → c.storeOk a 256 = true →
      (ready s o.g [(a, 256)] [] → ∃ t p, exec (.lcfgLoad o) s = .next t ∧ p.addrs = [a] ∧ p.locks = [(a, 256)]
        ∧ Enqueues s t p (.lcfgLoad o) 1 shape o.sh o.swap (moveX o.pi o.x (shStride0 shape)) [])
      ∧ (ready s o.g [] [(a, 256)] → ∃ t p, exec (.lcfgSave o) s = .next t ∧ p.addrs = [a] ∧ p.busy = [(a, 256)]
        ∧ Enqueues s t p (.lcfgSave o) 1 shape o.sh o.swap (moveX o.pi o.x (shStride1 shape)) []))
    ∧ (∀ (o : OpScan) s,
      QueuesRows (.lscan o) s o.g o.sh o.swap o.pi o.xa o.xb (fun sh => shType sh == 0 && decide (shRound sh ≤ 3)) []
          (scanRows s.core.nconf false)
        ∧ QueuesRows (.lscanc o) s o.g o.sh o.swap o.pi o.xa o.xb (fun sh => shType sh == 0) [] (scanRows s.core.nconf true))
    ∧ (∀ o s, let C := confChunk s.core.nconf
      QueuesRows (.lgate o) s o.g o.sh o.swap o.pi o.xa o.xb (fun sh => shType sh == 0) []
        fun a b => rowUses false a 0 C ++ rowUses true b 0 (2 * C))
    ∧ (∀ o s a, let rows := shRows (s.core.activeShape o.sh o.swap)
      s.core.aAddr o.acc = some a →
      QueuesRows (.lmat o) s o.g o.sh o.swap o.pi o.xa o.xb
        (fun sh => (shType sh == 0 && decide (shRound sh ≤ 3)) && rowsFit sh o.r0.toNat 1) [accRows a o.r0.toNat rows]
        fun x b => rowUses false x 0 1 ++ partialRows b rows)
    ∧ ∀ v s, s.core.engWaits 1 = false → ∃ t, exec (.ladderStatusAccess 0x01E#19 v) s = .next t
      ∧ t = { s with core := { s.core with cr := t.core.cr } } ∧ (∀ n, n ≠ 0x01E → t.core.crGet n = s.core.crGet n)
      ∧ t.core.crGet 0x01E = s.core.crGet 0x01E &&& ~~~v

/-- R318 to R324: what the Ladder's operations do when they perform: LCFG.load, save and clear move carries; a scan of one
repetition gives, lane by lane, the values of the serial definition of R320, and leaves the last as the lane's carry; LGATE gives
the factor products of both directions; LMAT one step for every element of its accumulator rows. An operation performs in one step
(log entry 7). -/
def Obligations.LadderOperationsPerform : Prop :=
  let word (s : State) (a : Nat) : Nat := s.num (s.st a) 4
  (∀ s p o, p.instr = .lcfgSet o → Performs s 1 p p.locks → ∃ t, exec .nOperationDone s = .next t ∧ Performed s t p 0x01E
      ∧ t.mem = s.mem ∧ t.core.carries = s.core.carries)
    ∧ (∀ s p o a, p.instr = .lcfgLoad o → p.addrs = [a] → Performs s 1 p p.locks → ∃ t, exec .nOperationDone s = .next t
      ∧ Performed s t p 0x01E ∧ t.mem = s.mem ∧ ∀ k, ∀ i < 32, t.core.carry k i
        = if k = o.k then ⟨word s (a + 4 * i), word s (a + 128 + 4 * i)⟩ else s.core.carry k i)
    ∧ (∀ s p o a, p.instr = .lcfgSave o → p.addrs = [a] → Performs s 1 p p.locks → ∃ t, exec .nOperationDone s = .next t
      ∧ Performed s t p 0x01E ∧ t.core.carries = s.core.carries
      ∧ (∀ i < 32, word t (a + 4 * i) = (s.core.carry o.k i).hi ∧ word t (a + 128 + 4 * i) = (s.core.carry o.k i).lo)
      ∧ ∀ l, l < s.st a ∨ s.st (a + 256) ≤ l → t.byte l = s.byte l)
    ∧ (∀ s p o, p.instr = .lcfgClear o → Performs s 1 p p.locks → ∃ t, exec .nOperationDone s = .next t ∧ Performed s t p 0x01E
      ∧ t.mem = s.mem ∧ ∀ k, ∀ i < 32, t.core.carry k i = if k = o.k then ⟨0, 0⟩ else s.core.carry k i)
    ∧ (∀ s p (o : OpScan) comp conf a b, p.instr = (if comp = true then .lscanc o else .lscan o) → p.rep = 1 → p.addrs = [a, b] →
      p.extra = [conf] → Performs s 1 p (p.nReads 0) →
      let C := confChunk conf
      let r := fun j =>
        let h : Pair := if o.z = true then ⟨0, 0⟩ else s.core.carry o.k j
        (ladderRef comp (shRound p.shape) (confRungs conf) ((List.range C).map fun i => word s (a + 128 * i + 4 * j))
          ((List.range C).map fun i => word s (b + 128 * i + 4 * j)) (if comp = true then h else ⟨h.hi, 0⟩)).1
      let outs := fun i => confOut conf = 0 ∨ (confOut conf = 1 ∧ i + 1 = C)
      ∃ t, exec .nOperationDone s = .next t ∧ Performed s t p 0x01E
        ∧ (∀ i < C, ∀ j < confLanes conf, outs i → word t (b + 128 * i + 4 * j) = ((r j)[i]?.getD ⟨0, 0⟩).hi % 2 ^ 32
          ∧ (comp = true → word t (b + 128 * (C + i) + 4 * j) = ((r j)[i]?.getD ⟨0, 0⟩).lo % 2 ^ 32))
        ∧ (∀ l, (∀ i < 2 * C, ∀ j < confLanes conf, l < s.st (b + 128 * i + 4 * j) ∨ s.st (b + 128 * i + 4 * j) + 4 ≤ l) →
          t.byte l = s.byte l)
        ∧ (∀ k, ∀ j < 32, k ≠ o.k ∨ confLanes conf ≤ j → t.core.carry k j = s.core.carry k j)
        ∧ ∀ j < confLanes conf, (t.core.carry o.k j).hi = ((r j)[C - 1]?.getD ⟨0, 0⟩).hi % 2 ^ 32)
    ∧ (∀ s p o conf a b, p.instr = .lgate o → p.rep = 1 → p.addrs = [a, b] → p.extra = [conf] → Performs s 1 p (p.nReads 0) →
      let C := confChunk conf
      let g := fun j => (List.range C).map fun i => word s (a + 128 * i + 4 * j)
      ∃ t, exec .nOperationDone s = .next t ∧ Performed s t p 0x01E ∧ t.core.carries = s.core.carries
        ∧ ∀ i < C, ∀ j < confLanes conf,
          word t (b + 128 * i + 4 * j) = ((ladderFactors (confRungs conf) (g j)).1[i]?.getD 0) % 2 ^ 32
            ∧ word t (b + 128 * (C + i) + 4 * j) = (if i + 1 = C then 0x3F800000
              else (ladderFactors (confRungs conf) (g j).reverse).1[C - 2 - i]?.getD 0) % 2 ^ 32)
    ∧ ∀ s p o acc a b, p.instr = .lmat o → p.rep = 1 → p.addrs = [a, b] → p.regs = [acc] → Performs s 1 p (p.nReads 0) →
      shRows p.shape ≤ 32 → (a + 128 ≤ acc ∨ acc + 32768 ≤ a) → (b + 32768 ≤ acc ∨ acc + 32768 ≤ b) →
      ∃ t, exec .nOperationDone s = .next t ∧ Performed s t p 0x01E ∧ t.core.carries = s.core.carries
        ∧ PutsRows s t acc 0 (shRows p.shape) fun r c =>
          (fsum (shRound p.shape) (fadeMul (word s (a + 4 * r)) (word s (acc + 1024 * r + 4 * c))).bits
            (word s (b + 1024 * r + 4 * c))).bits

/-! ### Copy units, watermarks and barriers (R255 to R279) -/

/-- R259 to R269: CPY moves the rows of a tile, CPYH adds a halo, CPYM sends to each scratchpad of a mask (and does nothing but its
swap when the mask is empty), CPYR brings runs of elements to memory and counts its sequence number on, CPYG takes its rows by a list,
CPYD fills columns of the deck: each joins its unit's queue with the segments of its rows. -/
def Obligations.CopiesJoinTheirUnit : Prop :=
  let src (c : CoreState) (ssp : BitVec 2) (xs : BitVec 4) (ch : Nat) : Int → Nat := spaceAddr ssp.toNat (c.xVal xs) (c.ghi ch false)
  let dst (c : CoreState) (dsp : BitVec 2) (xd : BitVec 4) (ch : Nat) : Int → Nat := spaceAddr dsp.toNat (c.xVal xd) (c.ghi ch true)
  (∀ (o : OpCpy) s, let c := s.core
      let shape := c.activeShape o.sh o.swap
      let form : CopyForm := ⟨o.ssp.toNat, rowAlign shape, fun m => [(o.dsp.toNat, m.dst)], regBad o.ssp.toNat (c.xVal o.xs),
        regBad o.dsp.toNat (c.xVal o.xd), .wr⟩
      let a := (c.xVal (o.xs + 1#4)).toNat
      let n := 4 * shRows shape
      let idx := fun r => leNat (((s.readSync (s.st a) n).drop (4 * r)).take 4)
      QueuesCopy (.cpy o) s o.g o.sh o.swap (fun _ => true) form ((List.range (shRows shape)).map fun r =>
          ⟨r, src c o.ssp o.xs o.ch.toNat (r * (shStride0 shape).toInt), dst c o.dsp o.xd o.ch.toNat (r * (shStride1 shape).toInt),
            rowBytes shape, false, 0⟩) [] []
        ∧ (a % 4 = 0 → c.storeOk a n = true → s.storeWait none [(a, n)] [] = false → s.poisoned (s.st a) n = false →
          QueuesCopy (.cpyg o) s o.g o.sh o.swap (fun _ => true) form ((List.range (shRows shape)).map fun r =>
            ⟨r, src c o.ssp o.xs o.ch.toNat (idx r * (shStride0 shape).toInt), dst c o.dsp o.xd o.ch.toNat (r * (shStride1 shape).toInt),
              rowBytes shape, false, 0⟩) [(a, n)] []))
    ∧ (∀ o s, let c := s.core
      let shape := c.activeShape o.sh o.swap
      QueuesCopy (.cpyh o) s o.g o.sh o.swap (fun sh => shType sh != 13)
        ⟨o.ssp.toNat, rowAlign shape, fun m => [(o.dsp.toNat, m.dst)], regBad o.ssp.toNat (c.xVal o.xs),
          regBad o.dsp.toNat (c.xVal o.xd), .wr⟩
        ((List.range (shRows shape + 2 * (shGroup shape + 1))).flatMap
          (haloRow shape o.edge (src c o.ssp o.xs 0) (dst c o.dsp o.xd 0))) [] [])
    ∧ (∀ (o : OpCpym) s, let c := s.core
      let shape := c.activeShape o.sh o.swap
      let d := (c.xVal o.xd).toNat
      let mask := c.xVal (o.xd + 1#4)
      let part := fun cl => if cl = cluster c.id then some (bitsOf (c.crGet 0x01A) 0 6, bitsOf (c.crGet 0x01A) 6 7)
        else (s.peerSpad c cl d (rowBytes shape)).map Page.partition
      (d < 2 ^ 22 → mask ≠ 0#32 → QueuesCopy (.cpym o) s o.g o.sh o.swap (fun _ => true)
        ⟨o.ssp.toNat, rowAlign shape, fun m => ((List.range 32).filter fun i => mask.getLsbD i).map fun cl =>
          if 2 ^ 22 ≤ m.dst then (6, m.dst)
          else (if (part cl).any fun p => inPartition p.1 p.2 m.dst m.n then 2 else 6, cl * 2 ^ 22 + m.dst),
          regBad o.ssp.toNat (c.xVal o.xs), false, .wr⟩
        ((List.range (shRows shape)).map fun r =>
          ⟨r, src c o.ssp o.xs o.ch.toNat (r * (shStride0 shape).toInt), dst c 1#2 o.xd 0 (r * (shStride1 shape).toInt),
            rowBytes shape, false, 0⟩) [] [])
        ∧ (d < 2 ^ 22 → mask = 0#32 → c.on o.g = true → (c.crGet 0x049).getLsbD (c.cur.slot - 2) = false → shapeClean shape = true →
          tileOk shape = true → exec (.cpym o) s = .next { s with core := c.swapped o.sh o.swap })
        ∧ (d < 2 ^ 24 → d / 65536 + shRows shape ≤ 256 → d % 65536 + rowBytes shape ≤ 65536 →
          QueuesCopy (.cpyd o) s o.g o.sh o.swap (fun sh => tyNibbles (shType sh) == 2 || shType sh == 13 || shType sh == 2)
            ⟨o.ssp.toNat, rowAlign shape, fun m => [(4, m.dst)], regBad o.ssp.toNat (c.xVal o.xs), false, .wr⟩
            ((List.range (shRows shape)).map fun j =>
              ⟨j, src c o.ssp o.xs o.ch.toNat (j * (shStride0 shape).toInt), d + 65536 * j, rowBytes shape, false, 0⟩) [] []))
    ∧ ∀ (o : OpCpyr) s, let c := s.core
      let shape := c.activeShape o.sh o.swap
      let runs := runRows shape (spaceAddr o.ssp.toNat (c.xVal o.xs) 0) (spaceAddr 0 (c.xVal o.xd) (c.ghi 0 true))
      QueuesCopy (.cpyr o) s o.g o.sh o.swap
        (fun sh => [0, 9, 10, 11, 12].contains (shType sh) && !(shType sh == 0 && decide (3 ≤ o.op.toNat)) && decide (shRound sh ≤ 3))
        ⟨o.ssp.toNat, rowAlign shape, fun m => [(5, m.dst)], regBad o.ssp.toNat (c.xVal o.xs), false, .at⟩ runs []
        [(0x127, BitVec.ofNat 64 (((c.crGet 0x127).toNat + runs.length) % 2 ^ 32))]

/-- R12, R25, R144, R261, R262, R266, R267, R271, R276, R278, R384: a segment that may land, or any part of it, brings its source's
bytes, or zeros, to its destination and to no other byte, and leaves its copy; a copy without segments has performed. A segment of a
copy with a watermark marks the units of the window that it completes, and FILL goes on to the first that is not marked; one that
counts adds its bytes to the barrier at its destination. CPYR applies its operation to each element in memory, or has the slice of an
open window hold it; a segment of CPYM goes on to each destination by itself; one for a scratchpad further away goes out in a packet,
and has landed when that performs. A barrier operation at the head of its unit's queue sets, or adds to, the barrier that it names.
Bytes of an overlap are free (log entry 21). -/
def Obligations.CopiesLand : Prop :=
  let added (s t : State) (k : BitVec 7) (b : BitVec 8) (v : Nat) : Prop :=
    let was := (s.coreAt k).barrier b
    let now := min (was.2.1 + v) (2 ^ 31 - 1)
    (t.coreAt k).barrier b = (was.1, now, was.2.2 || decide (was.1 < now))
  let lands (unit : Bool) (index : Nat) (s : State) (o : EngineOp) (j : Nat) (g : Seg) : Prop :=
    (s.core.unitItems (if unit = true then 3 else 2))[index]? = some (o, j, some g) ∧ index < 2 ^ 32 ∧ s.core.mode ≠ .dead
      ∧ s.core.mayLand o g = true ∧ g.got = none ∧ g.zero = false ∧ (isPhys g.src = true → isRaw g.src = true)
      ∧ s.poisoned g.src g.n = false ∧ o.addrs = [] ∧ o.old = [] ∧ ∀ l ∈ s.launches, l.dg = false
  (∀ unit index skip n s o j g, (s.core.unitItems (if unit = true then 3 else 2))[index]? = some (o, j, some g) →
      index < 2 ^ 32 → skip < 2 ^ 32 → skip + n ≤ g.n → s.core.mode ≠ .dead → s.core.mayLand o g = true →
      g.more = [] → g.got = none → s.byFabric g.dst = false →
      o.addrs = [] → o.old = [] → (∀ i, o.instr ≠ .cpyr i) → wChannel o.instr = none → countBar o.instr = none →
      (isPhys g.dst = true → isRaw g.dst = true) → (g.zero = false → isPhys g.src = true → isRaw g.src = true) →
      (g.zero = false → s.poisoned g.src g.n = false) → (∀ l ∈ s.launches, l.dg = false) →
      let lo := if n = 0 then 0 else skip
      let len := if n = 0 then g.n else n
      ∃ t, exec (.copyCompletion unit (index + 2 ^ 32 * skip + 2 ^ 64 * n)) s = .next t
        ∧ (∀ k < len, t.byte (g.dst + lo + k) = if g.zero = true then 0#8 else s.byte (g.src + lo + k))
        ∧ (∀ l, l < g.dst + lo ∨ g.dst + lo + len ≤ l → t.byte l = s.byte l)
        ∧ (n = 0 → o.segs.length = 1 → ∀ p ∈ t.core.ops, p.uid ≠ o.uid)
        ∧ (n = 0 → 1 < o.segs.length → ∀ p ∈ t.core.ops, p.uid = o.uid → p.segs = o.segs.eraseIdx j)
        ∧ t.core.s = s.core.s ∧ t.core.x = s.core.x ∧ t.core.g = s.core.g ∧ t.core.cr = s.core.cr ∧ t.packets = s.packets)
    ∧ (∀ unit index s o k v, (s.core.unitItems (if unit = true then 3 else 2))[index]? = some (o, 0, none) → index < 2 ^ 32 → s.core.mode ≠ .dead →
      s.core.earlier o = [] →
      o.regs = [k.toNat, v] → (k = s.core.id ∨ ∃ c ∈ s.parked, c.id = k) →
      let done (t : State) : Prop := t.core.ops.map (·.uid) = (s.core.ops.filter (·.uid != o.uid)).map (·.uid) ∧ t.mem = s.mem
        ∧ t.core.s = s.core.s ∧ t.core.cr = s.core.cr
      (∀ i, o.instr = .binit i → ∃ t, exec (.copyCompletion unit index) s = .next t ∧ done t
        ∧ (t.coreAt k).barrier i.b = (v % 2 ^ 32, 0, false))
      ∧ (∀ i, o.instr = .arrive i → s.releaseReady s.core.id o.seq 1 = true → ∃ t, exec (.copyCompletion unit index) s = .next t
        ∧ done t ∧ added s t k i.b v)
      ∧ ∀ i, o.instr = .badd i → s.releaseReady s.core.id o.seq 1 = true → ∃ t, exec (.copyCompletion unit index) s = .next t
        ∧ done t ∧ added s t k i.b v)
    ∧ (∀ unit index s, (s.core.unitItems (if unit = true then 3 else 2))[index % 2 ^ 32]? = none → s.core.mode ≠ .dead →
      exec (.copyCompletion unit index) s = .next s)
    ∧ (∀ unit index s o j g, lands unit index s o j g → g.more = [] → s.byFabric g.dst = false → (∀ i, o.instr ≠ .cpyr i) →
      (isPhys g.dst = true → isRaw g.dst = true) →
      (∀ ch dsp, wChannel o.instr = some (ch, dsp) → countBar o.instr = none → 0 < g.n →
        let cfg := s.core.crGet (0x080 + ch)
        let base := (s.core.window cfg).2
        let units := chLen cfg / 64
        let at' := fun h : Seg => (s.core.canon dsp h.dva).2
        let f := bitsOf (s.core.crGet (0x0A0 + ch)) 0 20
        (s.core.canon dsp g.dva).1 = (s.core.window cfg).1 → runsMeet (at' g) g.n base (chLen cfg) = true → f ≤ units →
        ∃ t, exec (.copyCompletion unit index) s = .next t
          ∧ let f' := bitsOf (t.core.crGet (0x0A0 + ch)) 0 20
            let mark := fun u => Cells.get 0#1 t.core.marks (ch * 2 ^ 20 + u)
            (∀ u < 2 ^ 20, mark u = 1#1 ↔ Cells.get 0#1 s.core.marks (ch * 2 ^ 20 + u) = 1#1
              ∨ (u < units ∧ runsMeet (at' g) g.n (base + 64 * u) 64 = true
                ∧ ∀ h ∈ o.segs.eraseIdx j, runsMeet (at' h) h.n (base + 64 * u) 64 = false))
            ∧ f ≤ f' ∧ f' ≤ units ∧ (∀ u, f ≤ u → u < f' → mark u = 1#1) ∧ (f' = units ∨ mark f' = 0#1)
            ∧ ∀ n, n ≠ 0x0A0 + ch → t.core.crGet n = s.core.crGet n)
      ∧ ∀ b k, wChannel o.instr = none → countBar o.instr = some b → s.countCore g.dst = some k →
        (k = s.core.id ∨ ∃ c ∈ s.parked, c.id = k) →
        ∃ t, exec (.copyCompletion unit index) s = .next t ∧ added s t k b g.n ∧ t.core.cr = s.core.cr)
    ∧ (∀ unit index s o j g (i : OpCpyr), lands unit index s o j g → o.instr = .cpyr i → i.cnt = none → g.more = [] →
      s.byFabric g.dst = false → (∀ k < g.n, isRaw (g.dst + k) = true) → s.poisoned g.dst g.n = false →
      let w := rowAlign o.shape
      let what := cpyrOp i.op.toNat o.shape
      0 < w →
      ((∀ e < g.n / w, s.windowFor s.core.launchKey (g.dst + w * e) = none) → ∃ t, exec (.copyCompletion unit index) s = .next t
        ∧ (∀ e < g.n / w, t.num (g.dst + w * e) w
          = what.result w (s.num (g.dst + w * e) w) (s.num (g.src + w * e) w) 0 % 2 ^ (8 * w))
        ∧ (∀ l, l < g.dst ∨ g.dst + g.n ≤ l → t.byte l = s.byte l) ∧ t.heldUpds = s.heldUpds)
      ∧ ∀ v, g.n = w → s.windowFor s.core.launchKey g.dst = some v → v.broken.getLsbD (homeSlice g.dst) = false →
        (s.heldUpds.filter fun y => y.slice == s.serving (homeSlice g.dst) && y.spot.isNone).length < 16 →
        ∃ t, exec (.copyCompletion unit index) s = .next t ∧ t.mem = s.mem
          ∧ t.heldUpds = s.heldUpds ++ [⟨s.serving (homeSlice g.dst), none, s.core.launchKey, v.id, g.dst, w, 32 * s.core.gang.k + g.tag % 32,
            what, BitVec.ofNat 32 ((o.extra.drop 1).headD 0 + g.tag / 32), s.num g.src w⟩])
    ∧ (∀ unit index s o j g, lands unit index s o j g → g.more ≠ [] → ∃ t, exec (.copyCompletion unit index) s = .next t ∧ t.mem = s.mem
      ∧ (∀ p ∈ t.core.ops, p.uid = o.uid → p.segs = o.segs.take j
        ++ (g.dst :: g.more).map (fun d => { g with dst := d, more := [], got := some (s.bytes g.src g.n, []) }) ++ o.segs.drop (j + 1))
      ∧ t.core.s = s.core.s ∧ t.core.cr = s.core.cr ∧ t.packets = s.packets)
    ∧ (∀ unit index s o j g, lands unit index s o j g → g.more = [] → s.byFabric g.dst = true →
      ∃ t r, exec (.copyCompletion unit index) s = .next t ∧ t.mem = s.mem
        ∧ t.packets.filterMap (·.payload) = s.packets.filterMap (·.payload) ++ [r] ∧ r.kind = .store ∧ r.agent = .core s.core.id
        ∧ r.parts = [⟨g.dst, BitVec.ofNat 64 g.dva, g.n, 0, s.bytes g.src g.n⟩]
        ∧ (∀ p ∈ t.core.ops, p.uid = o.uid → ∃ h, p.segs = o.segs.set j h ∧ h.sent = r.uid + 1)
        ∧ t.core.s = s.core.s ∧ t.core.cr = s.core.cr)
    ∧ ∀ s r o g j, s.grants (·.kind == .store) = some r → r.remote = false → r.agent = .core s.core.id →
      (s.core.ops.find? fun o => o.segs.zipIdx.any fun p => p.1.sent == r.uid + 1) = some o →
      (o.segs.zipIdx.find? fun p => p.1.sent == r.uid + 1) = some (g, j) → ∃ t, exec .sliceWriteRequest s = .next t
        ∧ (o.segs.length = 1 → ∀ p ∈ t.core.ops, p.uid ≠ o.uid)
        ∧ (1 < o.segs.length → ∀ p ∈ t.core.ops, p.uid = o.uid → p.segs = o.segs.eraseIdx j)

/-- R270 to R279: WMARK sets a channel's window with nothing filled; WMWAIT and WMWAIT.all end at once when the watermark has reached
what they wait for, or the window is empty or lies behind it, and are held before; BINIT, ARRIVE and BADD join their unit's queue with
the core they name; BWAIT of a complete barrier empties L1 and gives the count, and is held before. -/
def Obligations.WatermarksAndBarriers : Prop :=
  (∀ o s, let c := s.core
      let ch := o.ch.toNat
      let base := spaceAddr o.dsp.toNat (c.xVal o.xs) (c.ghi ch true) 0
      let len := (c.xVal o.xd).toNat
      c.on o.g = true → (c.crGet 0x049).getLsbD (c.cur.slot - 2) = false → base % 64 = 0 → len % 64 = 0 → len ≤ 64 * (2 ^ 20 - 1) →
      base < spaceSize o.dsp.toNat → base + len ≤ spaceSize o.dsp.toNat → (∀ p ∈ c.ops, ∀ w, wChannel p.instr = some w → w.1 ≠ ch) →
      ∃ t, exec (.wmark o) s = .next t ∧ t = { s with core := { c with cr := t.core.cr, marks := t.core.marks } }
        ∧ t.core.crGet (0x080 + ch) = BitVec.ofNat 64 (base / 64 + o.dsp.toNat * 2 ^ 42 + len / 64 * 2 ^ 44)
        ∧ bitsOf (t.core.crGet (0x0A0 + ch)) 0 20 = 0 ∧ bitsOf (t.core.crGet (0x0A0 + ch)) 20 44 = bitsOf (c.crGet (0x0A0 + ch)) 20 44
        ∧ (∀ n, n ≠ 0x080 + ch → n ≠ 0x0A0 + ch → t.core.crGet n = c.crGet n)
        ∧ (∀ u, Cells.get 0#1 t.core.marks u = if u / 2 ^ 20 = ch then 0#1 else Cells.get 0#1 c.marks u))
    ∧ (let waits (i : Instr) (g : BitVec 4) (ch : BitVec 5) (to' : State → Nat → Nat) : Prop := ∀ s : State, s.core.on g = true →
        let v := s.core.crGet (0x080 + ch.toNat)
        let base := bitsOf v 0 42 * 64
        let len := bitsOf v 44 20 * 64
        let mark := base + bitsOf (s.core.crGet (0x0A0 + ch.toNat)) 0 20 * 64
        let w := to' s (base + len)
        ((len = 0 ∨ w ≤ base ∨ w ≤ mark) → exec i s = .next s)
          ∧ (len ≠ 0 → base < w → mark < w → ∃ t, exec i s = .next t ∧ Holds s t)
      (∀ o, waits (.wmwait o) o.g o.c fun s fin => min ((s.core.sVal o.a).toNat % 2 ^ 48) fin)
        ∧ ∀ o, waits (.wmwaitAll o) o.g o.c fun _ fin => fin)
    ∧ (let joins (i : Instr) (g : BitVec 4) (who : BitVec 3) (v : State → Nat) : Prop := ∀ s : State, s.core.on g = true →
        (s.core.crGet 0x049).getLsbD (s.core.cur.slot - 2) = false → (who = 4#3 ∨ who.toNat < s.core.gang.size) →
        ∃ t o, exec i s = .next t ∧ t.core.ops = s.core.ops ++ [o] ∧ o.instr = i ∧ o.eng = s.core.cur.slot - 4 ∧ o.segs = []
          ∧ o.regs = [(if who = 4#3 then s.core.id else s.core.gang.lead + BitVec.ofNat 7 who.toNat).toNat, v s]
          ∧ t = { s with uid := t.uid, core := { s.core with ops := t.core.ops } }
      (∀ o, joins (.binit o) o.g o.who fun s => (s.core.xVal o.k).toNat) ∧ (∀ o, joins (.arrive o) o.g o.who fun _ => 1)
        ∧ ∀ o, joins (.badd o) o.g o.who fun s => (s.core.xVal o.k).toNat)
    ∧ ∀ o s k, s.core.on o.g = true → s.core.whoCore o.who = some k →
      s.core.initDue s.core.cur.seq (fun i => i.b == o.b && s.core.whoCore i.who == some k) = false →
      let b := (s.coreAt k).barrier o.b
      (b.1 ≤ b.2.1 → ∃ t, exec (.bwait o) s = .next t ∧ WritesS s.l1Clear t o.d (BitVec.ofNat 64 b.2.1))
        ∧ (b.2.1 < b.1 → ∃ t, exec (.bwait o) s = .next t ∧ Holds s t)

/-! ### Frames (R329 to R359) -/

/-- R341 to R355: the frame instructions on sound frames are accepted with the pages they move, the counts they change and the
entries they write: FRLD and FRSW begin the load of the idle bank, FRSW turns to a bank that holds its frame, FRST stores pages
that are not shared, SNAP and FORK share a frame, RBACK and FREL give pages back, HPAPP appends to a page of its own, HPMAP reads
tokens, FRSTAT reports. The order among cores is the model's (log entry 22). -/
def Obligations.FrameInstructionsAreAccepted : Prop :=
  (∀ o s e, let c := s.core
      let x := c.xVal o.xf
      let w := !c.act'
      FrReady s o.g true [x.toNat] e.live → s.framesAhead.frLive x (some false) = .ok e → e.npg ≤ bankPages (c.crGet 0x00E) →
      e.comp = o.c → (c.bank w).storing = false → (c.bank w).state ≠ 1 ∨ (c.bank w).la = false →
      ∃ t, exec (.frld o) s = .next t ∧ FrAccepted s t (.frld o) [x.toNat] []
          (e.live.zipIdx.map fun p => pageMove (pagePa p.1) (s.bankAt w p.2) 65536) []
        ∧ t.core.bank w = { BankDesc.empty with frame := x, state := 1, comp := e.comp, npg := e.npg } ∧ t.core.bank (!w) = c.bank (!w)
        ∧ t.core.cr = c.cr ∧ t.core.x = c.x)
    ∧ (∀ o s, let c := s.core
      let x := c.xVal o.xf
      let w := !c.act'
      let a := s.framesAhead.core.bank (!w)
      let i := s.framesAhead.core.bank w
      let at' := fun b => BitVec.ofNat 32 (bankBase (c.crGet 0x00E) b)
      let took (t : State) (b : Bool) : Prop := (∀ n, t.core.xReg n = if n = o.xo then at' b else c.xReg n)
        ∧ (t.core.crGet 0x00E).getLsbD 16 = b ∧ ∀ n, n ≠ 0x00E → t.core.crGet n = c.crGet n
      (FrReady s o.g true [x.toNat] [] → a.state = 2 → a.frame = x → a.comp = o.c → i.state = 0 ∨ i.frame ≠ x →
        ∃ t, exec (.frsw o) s = .next t ∧ FrAccepted s t (.frsw o) [x.toNat] [] [] [] ∧ took t (!w))
      ∧ (FrReady s o.g true [x.toNat] [] → ¬(a.state = 2 ∧ a.frame = x) → i.state ≠ 0 → i.frame = x → i.comp = o.c →
        ∃ t, exec (.frsw o) s = .next t ∧ FrAccepted s t (.frsw o) [x.toNat] [] [] [] ∧ took t w)
      ∧ ∀ e, FrReady s o.g true [x.toNat] e.live → ¬(a.state = 2 ∧ a.frame = x) → i.state = 0 ∨ i.frame ≠ x →
        s.framesAhead.frLive x (some false) = .ok e → e.npg ≤ bankPages (c.crGet 0x00E) → e.comp = o.c →
        (c.bank w).storing = false → (c.bank w).state ≠ 1 ∨ (c.bank w).la = false →
        ∃ t, exec (.frsw o) s = .next t ∧ took t w ∧ FrAccepted s t (.frsw o) [x.toNat] []
          (e.live.zipIdx.map fun p => pageMove (pagePa p.1) (s.bankAt w p.2) 65536) [])
    ∧ (∀ o s e, let c := s.core
      let b := c.act'
      let v := s.framesAhead
      let a := v.core.bank b
      let ps := (List.range e.npg).filter fun p => o.all || a.dirty.getLsbD p
      FrReady s o.g true [a.frame.toNat] e.live → a.state = 2 → v.frLive a.frame (some false) = .ok e → e.npg = a.npg →
      e.comp = a.comp → (∀ p ∈ ps, v.count (pageOf (e.slots[p]?.getD 0)) ≤ 1) →
      ∃ t, exec (.frst o) s = .next t ∧ (t.core.bank b).storing = true ∧ t.core.x = c.x ∧ t.core.cr = c.cr
        ∧ FrAccepted s t (.frst o) [a.frame.toNat] []
          (ps.map fun p => pageMove (s.bankAt b p) (pagePa (pageOf (e.slots[p]?.getD 0))) 65536)
          [(e.pa + 16, (e.slots.zipIdx.map fun q => if ps.contains q.2 then pageOf (e.slots[q.2]?.getD 0) else q.1).flatMap (leBytes 4))])
    ∧ (∀ (o : OpFr2) s e d, let x := s.core.xVal o.xf
      let y := s.core.xVal o.xo
      let v := s.framesAhead
      let acts := (e.live ++ v.hist e).map cntUp
      FrReady s o.g false [x.toNat, y.toNat] (e.live ++ v.hist e) → v.frLive x none = .ok e → v.frName s.core.sup y = .ok d →
      d.v = false → v.frGood d = .ok () → e.hcount ≤ d.hcap → (v.tally acts [] []).isOk = true →
      (∃ t, exec (.snap o) s = .next t ∧ FrAccepted s t (.snap o) [x.toNat, y.toNat] acts [] (v.shareWrites e d true)
        ∧ t.core.x = s.core.x ∧ t.core.cr = s.core.cr)
      ∧ ∃ t, exec (.fork o) s = .next t ∧ FrAccepted s t (.fork o) [x.toNat, y.toNat] acts [] (v.shareWrites e d false)
        ∧ t.core.x = s.core.x ∧ t.core.cr = s.core.cr)
    ∧ (∀ o s e d, let x := s.core.xVal o.xf
      let y := s.core.xVal o.xo
      let v := s.framesAhead
      let acts := (d.live ++ v.hist d).map cntUp ++ (e.live ++ v.hist e).map cntDown
        ++ if o.free = true then (d.live ++ v.hist d).map cntDown else []
      FrReady s o.g false [x.toNat, y.toNat] (acts.map (· / 4)) → v.frLive x (some false) = .ok e →
      v.frLive y (some true) = .ok d → e.comp = d.comp → d.hcount ≤ e.hcap → v.tally acts [] [] = .ok [] →
      ∃ t, exec (.rback o) s = .next t ∧ t.core.x = s.core.x ∧ t.core.cr = s.core.cr
        ∧ FrAccepted s t (.rback o) [x.toNat, y.toNat] acts [] (v.shareWrites d e false ++ if o.free = true then d.released else []))
    ∧ (∀ o s e, let x := s.core.xVal o.xf
      let v := s.framesAhead
      let acts := (e.live ++ v.hist e).map cntDown
      FrReady s o.g false [x.toNat] (e.live ++ v.hist e) → v.frLive x none = .ok e → v.tally acts [] [] = .ok [] →
      ∃ t, exec (.frel o) s = .next t ∧ t.core.x = s.core.x ∧ t.core.cr = s.core.cr
        ∧ FrAccepted s t (.frel o) [x.toNat] acts [] [(e.pa + 16, List.replicate 48 0#8), (e.pa, leBytes 8 0)])
    ∧ (∀ o s e, let x := s.core.xVal o.xf
      let a := (s.core.xVal o.xo).toNat
      let t0 := e.htok % 16
      let v := s.framesAhead
      let page := pageOf (v.num (e.hlist + 4 * (e.htok / 16)) 4)
      FrReady s o.g false [x.toNat] [page] → a % 128 = 0 → a < 2 ^ 22 → s.core.ownsSpad a 4096 = true →
      v.frLive x (some false) = .ok e → e.hcap ≠ 0 → e.htok ≠ 2 ^ 32 - 1 → t0 ≠ 0 → v.count page ≤ 1 →
      ∃ t, exec (.hpapp o) s = .next t ∧ t.core.x = s.core.x ∧ t.core.cr = s.core.cr
        ∧ FrAccepted s t (.hpapp o) [x.toNat] []
          [pageMove (Loc.spad (cluster s.core.id) a) (pagePa page + 4096 * t0) 4096] [(e.pa + 2, leBytes 4 (e.htok + 1))])
    ∧ (∀ o s e, let x := s.core.xVal o.xf
      let n := o.n.toNat + 1
      let t0 := (s.core.xVal (o.xf + 1#4)).toNat
      let a := (s.core.xVal o.xo).toNat
      let dst := Loc.spad (cluster s.core.id) a
      let v := s.framesAhead
      let page := fun i => pageOf (v.num (e.hlist + 4 * ((t0 + i) / 16)) 4)
      FrReady s o.g false [x.toNat] ((List.range n).map page) → a % 128 = 0 → a < 2 ^ 22 →
      s.core.ownsSpad a (4096 * n) = true → v.frLive x none = .ok e →
      t0 + n ≤ e.htok → s.bankWait dst (4096 * n) true = false →
      ∃ t, exec (.hpmap o) s = .next t ∧ t.core.x = s.core.x ∧ t.core.cr = s.core.cr
        ∧ FrAccepted s t (.hpmap o) [x.toNat] [] ((List.range n).map fun i =>
          pageMove (pagePa (page i) + 4096 * ((t0 + i) % 16)) (dst + 4096 * i) 4096) [])
    ∧ ∀ (o : OpFr2) s, let x := s.core.xVal o.xf
      let a := (s.core.xVal o.xo).toNat
      s.core.on o.g = true → (s.core.crGet 0x049).getLsbD (s.core.cur.slot - 2) = false → (s.core.queue 4).length < 8 →
      s.frShares [x.toNat] [] = false → a % 128 = 0 → s.core.storeOk a 128 = true → s.storeWait (some 4) [] [(a, 128)] = false →
      let v := s.framesAhead
      (∀ c r p h, v.frName s.core.sup x = .error (.trap c r p h) → ∃ t, exec (.frstat o) s = .next t
        ∧ FrAccepted s t (.frstat o) [x.toNat] [] [] [(s.st a, v.frstatBytes none)])
      ∧ ∀ e, v.frName s.core.sup x = .ok e → ∃ t, exec (.frstat o) s = .next t
        ∧ FrAccepted s t (.frstat o) [x.toNat] [] [] [(s.st a, v.frstatBytes (some e))]

/-- R22 to R24, R334, R340, R342, R344 to R351, R354 to R356, R367: the operation at the head of the frame engine's queue performs,
whichever it is: all its pages come to their places, its counts change, its entries are written, and no other byte changes; a loaded
bank is ready; FRST leaves its bank stored and the pages that it stored clean; RBACK and FREL unbind the frames that they name; HPMAP
counts its bytes at its barrier. A page whose count falls to 0 goes to the Pod's tail, or is counted as lost. The lookahead begins to
load the frame that the inbound queue names into an idle bank, and its load makes the bank ready. An operation performs in one step
(log entries 7 and 22). -/
def Obligations.FrameOperationsPerform : Prop :=
  let apart (a n b m : Nat) : Prop := a + n ≤ b ∨ b + m ≤ a
  let head (s : State) (p : EngineOp) : Prop := (s.core.ops.filter (·.eng == 4)).head? = some p ∧ s.podBack = [] ∧ p.old = []
    ∧ (∀ l ∈ s.launches, l.dg = false) ∧ ∀ g ∈ p.segs, s.poisoned g.src g.n = false
  let gone (s t : State) (p : EngineOp) : Prop := (∀ q ∈ t.core.ops, q.uid ≠ p.uid) ∧ t.core.s = s.core.s ∧ t.core.cr = s.core.cr
  (∀ s p, head s p → let pages := p.regs.map fun a => s.countAt (a / 4)
      (∀ g ∈ p.segs, (isPhys g.dst = true → isRaw g.dst = true) ∧ ∀ h ∈ p.segs, apart g.src g.n h.dst h.n) →
      p.segs.Pairwise (fun g h => apart g.dst g.n h.dst h.n) → pages.Nodup → (∀ a ∈ pages, isRaw a = true) →
      (∀ a ∈ p.regs, (a % 4 = 0 → s.count (a / 4) < 255) ∧ (a % 4 = 1 → 1 < s.count (a / 4))) →
      (∀ w ∈ p.writes, isPhys w.1 = true → isRaw w.1 = true) →
      p.writes.Pairwise (fun v w => apart v.1 v.2.length w.1 w.2.length) →
      (∀ g ∈ p.segs, (∀ a ∈ pages, apart g.dst g.n a 1) ∧ ∀ w ∈ p.writes, apart g.dst g.n w.1 w.2.length) →
      (∀ a ∈ pages, ∀ w ∈ p.writes, apart a 1 w.1 w.2.length) →
      ∃ t, exec .frameOperationDone s = .next t ∧ gone s t p
        ∧ (∀ g ∈ p.segs, ∀ k < g.n, t.byte (g.dst + k) = s.byte (g.src + k))
        ∧ (∀ a ∈ p.regs, t.num (s.countAt (a / 4)) 1
          = if a % 4 = 0 then s.count (a / 4) + 1 else if a % 4 = 1 then s.count (a / 4) - 1 else 1)
        ∧ (∀ w ∈ p.writes, t.bytes w.1 w.2.length = w.2)
        ∧ ∀ l, (∀ g ∈ p.segs, apart l 1 g.dst g.n) → (∀ a ∈ pages, l ≠ a) → (∀ w ∈ p.writes, apart l 1 w.1 w.2.length) →
          t.byte l = s.byte l)
    ∧ (∀ s p w, head s p → ((∃ o, p.instr = .frld o) ∨ ∃ o, p.instr = .frsw o) → p.regs = [] → p.writes = [] → p.extra = [w] →
      (s.core.bank (w == 1)).state = 1 → s.core.loadsLater p (w == 1) = false → (∀ g ∈ p.segs, isPhys g.dst = false) →
      ∃ t, exec .frameOperationDone s = .next t ∧ gone s t p ∧ (t.core.bank (w == 1)).state = 2)
    ∧ (∀ s p o w ps, head s p → p.instr = .frst o → p.regs = [] → p.extra = w :: ps → (∀ g ∈ p.segs, isPhys g.dst = true) →
      (∀ x ∈ p.writes, isPhys x.1 = true) →
      (∀ q ∈ s.core.ops, p.uid < q.uid → ∀ i, q.instr ≠ .frst i) →
      ∃ t, exec .frameOperationDone s = .next t ∧ gone s t p ∧ (t.core.bank (w == 1)).stored = true
        ∧ (t.core.bank (w == 1)).storing = false ∧ t.core.bank (!(w == 1)) = s.core.bank (!(w == 1))
        ∧ ∀ k < 12, (t.core.bank (w == 1)).dirty.getLsbD k = ((s.core.bank (w == 1)).dirty.getLsbD k && !ps.contains k))
    ∧ (∀ s p, head s p → p.segs = [] → p.regs = [] → (∀ x ∈ p.writes, isPhys x.1 = true) → s.core.gang.lead = s.core.id →
      let frees (fs : List Nat) : Prop := ∃ t, exec .frameOperationDone s = .next t ∧ gone s t p
        ∧ ∀ b, t.core.bank b = if (s.core.bank b).state ≠ 0 ∧ fs.contains (s.core.bank b).frame.toNat = true
          ∧ s.core.loadsLater p b = false then .empty else s.core.bank b
      (∀ o f, p.instr = .frel o → p.addrs = [f] → frees [f])
        ∧ ∀ o f d, p.instr = .rback o → p.addrs = [f, d] → frees (if o.free = true then [f, d] else [f]))
    ∧ (∀ s p i b, head s p → p.instr = .hpmap i → i.cnt = some b → p.regs = [] → p.writes = [] →
      (s.core.gang.lead = s.core.id ∨ ∃ c ∈ s.parked, c.id = s.core.gang.lead) →
      let was := (s.coreAt s.core.gang.lead).barrier b
      let now := min (was.2.1 + (p.segs.map (·.n)).sum) (2 ^ 31 - 1)
      ∃ t, exec .frameOperationDone s = .next t ∧ gone s t p
        ∧ (t.coreAt s.core.gang.lead).barrier b = (was.1, now, was.2.2 || decide (was.1 < now)))
    ∧ (∀ s p o pn, head s p → p.instr = .frel o → p.segs = [] → p.regs = [cntDown pn] → p.writes = [] → s.count pn = 1 →
      isRaw (s.countAt pn) = true → s.waiters = [] →
      let u := s.performWrite (some s.core.launchKey) (s.countAt pn) (leBytes 1 0)
      (∀ v pa data, u.podOpen = (v, .ok (pa, data)) → let q := v.qcb pa
        let e := data + 8 * (q.tail % q.capacity)
        q.free ≠ 0 → q.closed = false → isRaw pa = true → isRaw e = true → apart e 8 pa 64 → pn < 2 ^ 64 →
        ∃ t, exec .frameOperationDone s = .next t ∧ gone s t p ∧ t.num e 8 = pn ∧ (t.qcb pa).tail = (q.tail + 1) % 2 ^ 32
          ∧ (t.qcb pa).free = q.free - 1 ∧ ∀ l, l ≠ s.countAt pn → apart l 1 e 8 → apart l 1 pa 64 → t.byte l = s.byte l)
      ∧ ∀ v x, u.podOpen = (v, .error x) → ∃ t, exec .frameOperationDone s = .next t ∧ gone s t p
        ∧ t.devGet 0x124 = BitVec.ofNat 64 (((s.devGet 0x124).toNat + 1) % 2 ^ 32))
    ∧ (∀ s p o g w, p.instr = .frld o → p.segs = [g] → p.regs = [] → p.writes = [] → p.extra = [w] → p.old = [] → s.podBack = [] →
      (s.core.ops.filter (·.eng == 4)).head? = some p → isPhys g.dst = false → (g.src + g.n ≤ g.dst ∨ g.dst + g.n ≤ g.src) →
      (s.core.bank (w == 1)).state = 1 → s.core.loadsLater p (w == 1) = false →
      ∃ t, exec .frameOperationDone s = .next t ∧ (∀ k < g.n, t.byte (g.dst + k) = s.byte (g.src + k))
        ∧ (∀ l, l < g.dst ∨ g.dst + g.n ≤ l → t.byte l = s.byte l) ∧ (t.core.bank (w == 1)).state = 2
        ∧ (∀ q ∈ t.core.ops, q.uid ≠ p.uid) ∧ t.core.s = s.core.s ∧ t.core.cr = s.core.cr)
    ∧ (∀ s p a bs pn, (s.core.ops.filter (·.eng == 4)).head? = some p → (∃ o, p.instr = .snap o ∨ p.instr = .fork o) → p.segs = [] →
      p.regs = [cntUp pn] → p.writes = [(a, bs)] → s.podBack = [] → (∀ l ∈ s.launches, l.dg = false) → isRaw a = true →
      isRaw (s.countAt pn) = true → (s.countAt pn < a ∨ a + bs.length ≤ s.countAt pn) → s.count pn < 255 →
      ∃ t, exec .frameOperationDone s = .next t ∧ t.bytes a bs.length = bs ∧ t.num (s.countAt pn) 1 = s.count pn + 1
        ∧ (∀ l, (l < a ∨ a + bs.length ≤ l) → l ≠ s.countAt pn → t.byte l = s.byte l)
        ∧ (∀ q ∈ t.core.ops, q.uid ≠ p.uid) ∧ t.core.s = s.core.s ∧ t.core.cr = s.core.cr)
    ∧ (∀ s, s.podBack = [] → (∀ o ∈ s.core.ops, o.eng ≠ 4) → exec .frameOperationDone s = .next s)
    ∧ (∀ s session pa head e, let c := s.core
      let w := !c.act'
      let f := 64 * session + bitsOf (c.crGet 0x00F) 48 6
      c.mode = .running → (c.crGet 0x00F).getLsbD 63 = true → c.gang.lead = c.id → bankPages (c.crGet 0x00E) ≠ 0 →
      (c.bank w).state = 0 → (c.bank w).storing = false → (∀ o ∈ c.ops, o.eng ≠ 4) → (s.devGet 0x120).getLsbD 0 = true →
      s.peekHead = .ok (some (session, pa, head)) → (c.bank (!w)).state = 0 → s.frLive (BitVec.ofNat 32 f) (some false) = .ok e →
      e.npg ≤ bankPages (c.crGet 0x00E) → ∃ t, exec .lookaheadPeek s = .next t
        ∧ t.core.bank w = { BankDesc.empty with
          frame := BitVec.ofNat 32 f, state := 1, comp := e.comp, npg := e.npg, la := true, peeked := some (pa, head) }
        ∧ t.core.bank (!w) = c.bank (!w) ∧ t.mem = s.mem ∧ t.core.s = c.s ∧ t.core.cr = c.cr)
    ∧ (∀ s, (s.core.crGet 0x00F).getLsbD 63 = false → exec .lookaheadPeek s = .next s)
    ∧ (∀ s e pn, let d := s.core.bank0
      d.state = 1 → d.la = true → s.frLive d.frame (some false) = .ok e → e.npg = d.npg → e.live = [pn] → isPhys (pagePa pn) = true →
      ∃ t, exec .lookaheadLoadDone s = .next t ∧ t.core.bank0 = { d with state := 2 }
        ∧ (∀ k < 65536, t.byte (s.bankAt false 0 + k) = s.byte (pagePa pn + k))
        ∧ (∀ l, l < s.bankAt false 0 ∨ s.bankAt false 0 + 65536 ≤ l → t.byte l = s.byte l) ∧ t.core.s = s.core.s)
    ∧ ∀ s, s.core.bank0.la = false → s.core.bank1.la = false → exec .lookaheadLoadDone s = .next s

/-! ### Links (R406 to R416, R465) -/

/-- R408, R414 to R416: LINKST gives the status word of the link direction its selector names; LNKCFG writes CTL or WIN of it: a
CTL with EN clear takes the link down at once, one with EN set trains it, and the entry is held until it is up, failed or down; a
selector or a word that breaks the rules takes trap 0x0B. TALIGN of a link that is up both ways with one peer, the time reference,
begins an exchange of timestamps; the exchange writes the rounded offset, and steps TIME forward or has it slow down. The halves
of a nanosecond and the slowing are the model's readings (log entry 31). -/
def Obligations.LinkInstructions : Prop :=
  (∀ o s, s.core.on o.g = true →
      let v := (s.core.sVal o.p).toNat
      let l := s.link (v / 256 == 1) (BitVec.ofNat 8 v)
      (v < 512 → ∃ t w, exec (.linkst o) s = .next t ∧ WritesS s t o.q w
        ∧ (∀ k < 16, w.getLsbD k = l.lit.getLsbD k) ∧ bitsOf w 16 5 = l.width ∧ bitsOf w 21 2 = l.up.toNat
        ∧ (w.getLsbD 23 = true ↔ l.up = 2#2 ∧ l.width < 16) ∧ bitsOf w 24 4 = bitsOf l.ctl 1 4 ∧ bitsOf w 28 4 = 0
        ∧ bitsOf w 32 32 = l.replay.toNat)
      ∧ (512 ≤ v → TrapsWith (.linkst o) s 0x0B#8))
    ∧ (∀ o s, s.core.on o.g = true →
      let v := (s.core.sVal o.p).toNat
      let w := s.core.sVal o.q
      let d := v / 256 % 2 == 1
      let n : BitVec 8 := BitVec.ofNat 8 v
      (1024 ≤ v → TrapsWith (.lnkcfg o) s 0x0B#8)
      ∧ (512 ≤ v → v < 1024 → (d = false ∨ bitsOf w 32 32 ≠ 0) → TrapsWith (.lnkcfg o) s 0x0B#8)
      ∧ (512 ≤ v → v < 1024 → d = true → bitsOf w 32 32 = 0 → ∃ t, exec (.lnkcfg o) s = .next t
        ∧ LinkBecomes s t d n { s.link d n with win := w } ∧ t = { s with links := t.links })
      ∧ (v < 512 → (bitsOf w 22 10 ≠ 0 ∨ bitsOf w 40 24 ≠ 0) → TrapsWith (.lnkcfg o) s 0x0B#8)
      ∧ (v < 512 → bitsOf w 22 10 = 0 → bitsOf w 40 24 = 0 → s.core.cur.rep ≠ 0 → ∃ t, exec (.lnkcfg o) s = .next t
        ∧ (t.link d n).ctl = w ∧ (t.link d n).up = (if w.getLsbD 0 = true then 1#2 else 0#2) ∧ (t.link d n).win = (s.link d n).win
        ∧ (t.link d n).lit = (s.link d n).lit ∧ (t.link d n).active = BitVec.ofNat 16 (bitsOf w 5 16) &&& (s.link d n).lit
        ∧ (∀ i m, ¬(i = d ∧ m = n) → (t.link i m).ctl = (s.link i m).ctl ∧ (t.link i m).up = (s.link i m).up
          ∧ (t.link i m).win = (s.link i m).win)
        ∧ t.core.s = s.core.s ∧ t.mem = s.mem ∧ t.time = s.time ∧ (w.getLsbD 0 = false → t.core = { s.core with cr := t.core.cr })
        ∧ (∀ k, k ≠ 0x00A → k ≠ 0x042 → t.core.crGet k = s.core.crGet k)
        ∧ (w.getLsbD 0 = true → t.core.held = true))
      ∧ (v < 512 → bitsOf w 22 10 = 0 → bitsOf w 40 24 = 0 → s.core.cur.rep = 0 →
        ((s.link d n).up ≠ 1#2 → exec (.lnkcfg o) s = .next s)
          ∧ ((s.link d n).up = 1#2 → ∃ t, exec (.lnkcfg o) s = .next t ∧ Holds s t)))
    ∧ (∀ o s, s.core.on o.g = true → s.core.cur.rep ≠ 0 →
      let v := (s.core.sVal o.p).toNat
      let n : BitVec 8 := BitVec.ofNat 8 v
      let may := v < 256 ∧ (s.link false n).up = 2#2 ∧ (s.link true n).up = 2#2
        ∧ bitsOf (s.link false n).ctl 1 4 = bitsOf (s.link true n).ctl 1 4 ∧ (s.link true n).ctl.getLsbD 21 = true
      (may → ∃ t, exec (.talign o) s = .next t ∧ t.stamps = s.stamps ++ [⟨n, o.q, s.core.id, s.core.cur.seq⟩] ∧ t.core.held = true
        ∧ t.core.s = s.core.s ∧ t.time = s.time ∧ t.mem = s.mem ∧ t.links = s.links)
      ∧ (¬may → TrapsWith (.talign o) s 0x0B#8))
    ∧ ∀ (n : BitVec 8) (t1 t2 t3 t4 : Nat) s,
      (s.stamps.find? (·.link == n) = none → (∀ a ∈ s.peerOut, a.uid < s.uid) →
        let o := s.link false n
        let peer := (s.link true n).peer
        (o.serves peer = true → o.lost = [] → s.transmitQueue n = [] → ∃ t, exec (.timestampExchange n t1 t2 t3 t4) s = .next t
          ∧ t.peerAnswers = s.peerAnswers ++ [(n, word s.time ++ word s.time, false)] ∧ t.time = s.time ∧ t.core = s.core)
        ∧ (o.serves peer = false → s.linkFor peer 0 = none → ∃ t a, exec (.timestampExchange n t1 t2 t3 t4) s = .next t
          ∧ t.peerOut = s.peerOut ++ [a] ∧ a.data = word s.time ++ word s.time ∧ a.link = none ∧ t.peerAnswers = s.peerAnswers
          ∧ t.time = s.time ∧ t.core = s.core))
      ∧ ∀ w, s.stamps.find? (·.link == n) = some w → w.core = s.core.id →
        (∃ b ∈ s.core.bundles, b.seq = w.seq ∧ ∃ e ∈ b.entries, e.slot = 1) →
        let x : Int := ((t2 : Int) - t1) + ((t3 : Int) - t4) + 2 * (BitVec.ofNat 8 (bitsOf (s.link true n).ctl 32 8)).toInt
        ∃ t r, exec (.timestampExchange n t1 t2 t3 t4) s = .next t ∧ RoundsHalf x r ∧ t.stamps = s.stamps.erase w
          ∧ (∀ k, t.core.sReg k = if k = w.q then BitVec.ofInt 64 r else s.core.sReg k)
          ∧ (x ≤ 4 → t.time = s.time) ∧ (4 < x → t.time = s.time + BitVec.ofInt 64 r)
          ∧ (-4 ≤ x → t.slowing = s.slowing) ∧ (x < -4 → (t.slowing : Int) = -2 * r) ∧ t.core.cr = s.core.cr ∧ t.mem = s.mem

/-- R406 to R412, R460, R465: the events of the links. Lost light takes its wavelengths from the active set, and the link fails
when fewer than 4 are left; light that is back joins the active set only at the next write of CTL; a restriped or replayed link counts
the flits it sends again; a trained link is up over its active set. Flits are accepted in order; an acknowledgement moves the far
end's mark. A peer's access that lies in its window becomes a request at its home slice, others are refused; an answer that is back
travels to the slice that forwarded the access, which performs there and becomes a reply; an access that has waited too long while no
link is up is lost. What the far end sends stands in the events' arguments (log entry 41); the readings of R408 and R412 are those of
log entry 30. -/
def Obligations.LinkEvents : Prop :=
  (∀ (d : Bool) (n : BitVec 8) (ws : BitVec 16) s, let l := s.link d n
      let lit := l.lit &&& ~~~ws
      (l.lit &&& ws = 0#16 → exec (.lightLost d n ws) s = .next s)
      ∧ (l.lit &&& ws ≠ 0#16 → ∃ t, exec (.lightLost d n ws) s = .next t ∧ (t.link d n).lit = lit ∧ t.core.s = s.core.s ∧ t.mem = s.mem
        ∧ (∀ i m, ¬(i = d ∧ m = n) → (t.link i m).lit = (s.link i m).lit ∧ (t.link i m).up = (s.link i m).up)
        ∧ (l.up ≠ 2#2 → (t.link d n).up = l.up ∧ (t.link d n).active = l.active &&& lit ∧ t.core = s.core)
        ∧ (l.up = 2#2 → 4 ≤ wavesIn (l.active &&& lit) → (t.link d n).up = 2#2 ∧ (t.link d n).active = l.active &&& lit
          ∧ (t.link d n).lost = l.lost ++ [s.time] ∧ t.core = s.core)
        ∧ (l.up = 2#2 → wavesIn (l.active &&& lit) < 4 → (t.link d n).up = 3#2 ∧ AsksReplacement t 0)))
    ∧ (∀ (d : Bool) (n : BitVec 8) (ws : BitVec 16) s, let l := s.link d n
      (ws &&& ~~~l.lit = 0#16 → exec (.lightRestored d n ws) s = .next s)
      ∧ (ws &&& ~~~l.lit ≠ 0#16 → ∃ t, exec (.lightRestored d n ws) s = .next t ∧ (t.link d n).lit = l.lit ||| ws
        ∧ (t.link d n).active = l.active ∧ (t.link d n).up = l.up ∧ t.core = s.core ∧ t.mem = s.mem))
    ∧ (∀ (d : Bool) (n : BitVec 8) s, let l := s.link d n
      (l.up ≠ 2#2 ∨ l.lost = [] → exec (.restripeDone d n) s = .next s)
      ∧ (l.up = 2#2 → l.lost ≠ [] → ∃ t, exec (.restripeDone d n) s = .next t ∧ t.core.s = s.core.s ∧ t.mem = s.mem
        ∧ (t.link d n).lost = [] ∧ (t.link d n).up = l.up ∧ (t.link d n).active = l.active
        ∧ (t.link d n).replay = l.replay + BitVec.ofNat 32 (l.sent - l.acked)
        ∧ (d = true ∨ s.transmitQueue n = [] → t.core = s.core
          ∧ LinkBecomes s t d n { l with lost := [], replay := l.replay + BitVec.ofNat 32 (l.sent - l.acked) })))
    ∧ (∀ (n : BitVec 8) s, let l := s.link false n
      (l.up ≠ 2#2 → exec (.linkReplay n) s = .next s)
      ∧ (l.up = 2#2 → ∃ t, exec (.linkReplay n) s = .next t ∧ t.core = s.core ∧ t.mem = s.mem
        ∧ LinkBecomes s t false n { l with replay := l.replay + BitVec.ofNat 32 (l.sent - l.acked) }))
    ∧ (∀ (d : Bool) (n : BitVec 8) s, let l := s.link d n
      (l.up ≠ 1#2 → exec (.linkTrained d n) s = .next s)
      ∧ (l.up = 1#2 → ∃ t, exec (.linkTrained d n) s = .next t ∧ (t.link d n).active = l.active ∧ t.core.s = s.core.s ∧ t.mem = s.mem
        ∧ (4 ≤ wavesIn l.active → (t.link d n).up = 2#2 ∧ (t.link d n).lost = []
          ∧ (t.link d n).replay = l.replay + BitVec.ofNat 32 (l.sent - l.acked))
        ∧ (wavesIn l.active < 4 → (t.link d n).up = 3#2 ∧ AsksReplacement t 0)))
    ∧ (∀ (d : Bool) (n : BitVec 8) (q : BitVec 2) s, let l := s.link d n
      let due := bitsOf l.lit (4 * q.toNat) 4 = 0 ∧ l.dark.getLsbD q.toNat = false
        ∧ (Cells.get 0#64 l.darkAt q.toNat).toNat + 1000000000 < s.time.toNat
      (¬due → exec (.quadDarkTimeout d n q) s = .next s)
      ∧ (due → ∃ t, exec (.quadDarkTimeout d n q) s = .next t ∧ AsksReplacement t 1 ∧ (t.link d n).dark.getLsbD q.toNat = true
        ∧ t.core = s.core ∧ t.mem = s.mem))
    ∧ (∀ (n : BitVec 8) (seq : Nat) (ok : Bool) s, let l := s.link true n
      (l.up ≠ 2#2 ∨ (ok = true ∧ seq ≠ l.next) → exec (.flitReceived n seq ok) s = .next s)
      ∧ (l.up = 2#2 → ok = false → ∃ t, exec (.flitReceived n seq ok) s = .next t ∧ LinkBecomes s t true n { l with awaiting := true }
        ∧ t = { s with links := t.links })
      ∧ (l.up = 2#2 → ok = true → seq = l.next → ∃ t, exec (.flitReceived n seq ok) s = .next t
        ∧ LinkBecomes s t true n { l with next := l.next + 1, awaiting := false } ∧ t = { s with links := t.links }))
    ∧ (∀ (n : BitVec 8) (seq : Nat) s, let l := s.link false n
      (¬(l.acked < seq ∧ seq ≤ l.sent) → exec (.linkAckReceived n seq) s = .next s)
      ∧ (l.acked < seq → seq ≤ l.sent → ∃ t, exec (.linkAckReceived n seq) s = .next t ∧ LinkBecomes s t false n { l with acked := seq }
        ∧ t = { s with links := t.links }))
    ∧ (∀ (n : BitVec 8) (k : RemoteKind) (sl : BitVec 10) (off : Nat) (data : List Byte) s, let l := s.link true n
      let pa := bitsOf l.win 0 16 * 2 ^ 30 + off
      let up := l.ctl.getLsbD 0 = true ∧ l.up = 2#2
      let inside := off < bitsOf l.win 16 16 * 2 ^ 30 ∧ s.mapped pa = true
      (¬up → exec (.remoteAccessArrival n k sl off data) s = .next s)
      ∧ (up → ¬inside → (∀ a ∈ s.peerOut, a.uid < s.uid) → (s.link false n).serves l.peer = true → (s.link false n).lost = [] →
        s.transmitQueue n = [] → ∃ t, exec (.remoteAccessArrival n k sl off data) s = .next t ∧ t.mem = s.mem ∧ t.packets = s.packets
        ∧ t.peerAnswers = s.peerAnswers ++ [(n, [], k != .write)] ∧ t.core = s.core)
      ∧ (up → ¬inside → ∃ t, exec (.remoteAccessArrival n k sl off data) s = .next t ∧ t.mem = s.mem ∧ t.packets = s.packets
        ∧ t.core.s = s.core.s)
      ∧ (up → inside → ∃ t r, exec (.remoteAccessArrival n k sl off data) s = .next t ∧ t.mem = s.mem ∧ t.core = s.core
        ∧ t.packets.filterMap (·.payload) = s.packets.filterMap (·.payload) ++ [r] ∧ r.agent = .peer n ∧ r.tag.slack = sl.toNat
        ∧ (∀ m, k = .read m → r.kind = .load .outside ∧ r.parts = [⟨pa, BitVec.ofNat 64 off, m, 0, []⟩])
        ∧ (k = .write → r.kind = .store ∧ r.parts = [⟨pa, BitVec.ofNat 64 off, data.length, 0, data⟩])
        ∧ ∀ w, (w = 4 ∨ w = 8) → ∃ e c,
          (k = .add ∨ k = .swap → data.length = w →
            r.kind = .atom e c .outside ∧ r.parts = [⟨pa, BitVec.ofNat 64 off, w, 0, data⟩]
              ∧ ∀ m v, m < 2 ^ (8 * w) → v < 2 ^ (8 * w) → e.result w m v c.toNat = if k = .add then (m + v) % 2 ^ (8 * w) else v)
          ∧ (k = .cas → data.length = 2 * w →
            r.kind = .atom e c .outside ∧ r.parts = [⟨pa, BitVec.ofNat 64 off, w, 0, data.take w⟩]
              ∧ ∀ m v, m < 2 ^ (8 * w) → v < 2 ^ (8 * w) → e.result w m v c.toNat = if m = leNat (data.drop w) then v else m)))
    ∧ (∀ (id : Nat) (data : List Byte) (bad : Bool) s,
      let back := s.remotes.find? fun m => m.uid == id && m.stage == .sent && m.peer != 16
      (back = none → exec (.remoteAckReturn id data bad) s = .next s)
      ∧ ∀ m, back = some m →
        (m.req.fits data bad = false → exec (.remoteAckReturn id data bad) s = .next s)
        ∧ (m.req.fits data bad = true → ∃ t x, exec (.remoteAckReturn id data bad) s = .next t ∧ t.transits = s.transits ++ [x]
          ∧ x.what = .back id data bad ∧ x.granted = false ∧ x.src = linkSite (m.link.getD 0#8) ∧ x.chan = s.sliceAt m.req.loc
          ∧ t.replies = s.replies ∧ t.core = s.core ∧ t.mem = s.mem))
    ∧ (∀ (id u : Nat) (data : List Byte) (bad : Bool) x m k d ty p s, (∀ q ∈ s.packets, q.uid ≠ id) → (∀ q ∈ s.reserved, q.uid ≠ id) →
      s.transits.find? (fun t => t.uid == id && t.granted && s.served t) = some x → x.what = .back u data bad →
      s.remotes.find? (·.uid == u) = some m → m.req.agent = .core k → m.req.kind = .load (.sreg d ty) → m.req.parts = [p] →
      (bad = true ∨ data.length = p.n) →
      ∃ t r, exec (.packetArrival id) s = .next t ∧ t.replies = s.replies ++ [r] ∧ r.core = k ∧ r.dest = .sreg d ty
        ∧ r.poisoned = bad ∧ r.seq = m.req.seq ∧ (bad = false → r.parts = [{ p with data := data }])
        ∧ (t.remotes.map (·.uid)).Perm ((s.remotes.filter (·.uid != m.uid)).map (·.uid)) ∧ t.core.s = s.core.s ∧ t.mem = s.mem)
    ∧ ∀ (id : Nat) s,
      let due := s.remotes.find? fun m => m.uid == id && m.stage == .slice && (s.linkFor m.peer m.req.loc).isNone
        && decide (2 ^ 20 ≤ s.cycle - m.since)
      (due = none → exec (.remoteWaitTimeout id) s = .next s)
      ∧ ∀ m k d ty, due = some m → m.req.agent = .core k → m.req.kind = .load (.sreg d ty) → (∀ r ∈ s.replies, r.uid ≠ m.req.uid) →
        ∃ t r, exec (.remoteWaitTimeout id) s = .next t ∧ t.replies = s.replies ++ [r] ∧ r.core = k ∧ r.dest = .sreg d ty
          ∧ r.poisoned = true ∧ r.parts = m.req.parts ∧ (t.remotes.map (·.uid)).Perm ((s.remotes.filter (·.uid != id)).map (·.uid))
          ∧ t.core.s = s.core.s ∧ t.mem = s.mem

/-! ### Save areas and launches (R198 to R200, R417 to R446) -/

/-- R61, R198 to R200: NOP changes nothing. CTXSV writes a save area: registers, guards, the next bundle's address, the status and the
granules of the saved views, where the first 512 bytes of the store are s0 to s63 (R72), and no byte elsewhere; CTXLD of such an area loads the registers from it and goes on at its address. -/
def Obligations.ContextSavesAndLoads : Prop :=
  (∀ s, exec .nop s = .next s)
    ∧ (∀ o s page, s.core.on o.g = true → AreaLies s (s.core.sVal o.p) .wr page → s.quiet true = true →
      s.areaHeld (s.core.sVal o.p) = false → s.poison = [] → (∀ l ∈ s.launches, l.dg = false) →
      s.core.cupQ.length ≤ 16 → s.core.loops.length ≤ 4 → s.core.nest.length ≤ 6 → s.core.cont.length ≤ 4 →
      ∃ t, exec (.ctxsv o) s = .next t
        ∧ (∀ n, t.num (page 0 + 0x100 + 8 * n.toNat) 8 = (s.core.sReg n).toNat)
        ∧ (∀ n, t.num (page 0 + 0x300 + 4 * n.toNat) 4 = (s.core.xReg n).toNat)
        ∧ (∀ n, t.num (page 0 + 0x340 + 4 * n.toNat) 4 = (s.core.gReg n).toNat)
        ∧ t.num (page 0 + 8) 8 = s.core.cur.next.toNat ∧ t.num (page 0 + 0x10) 8 = (s.core.crGet 0).toNat
        ∧ t.num (page 0) 4 = 0x15CB7
        ∧ (∀ g ∈ granules (s.core.savedViews.map s.core.viewReg),
          t.bytes (page ((0x10000 + 1024 * g) / 65536) + 1024 * g % 65536) 1024 = s.granuleBytes g)
        ∧ (∀ l, (∀ i < 17, l < page i ∨ page i + 65536 ≤ l) → t.byte l = s.byte l)
        ∧ t.core.s = s.core.s ∧ t.core.x = s.core.x ∧ t.core.g = s.core.g ∧ t.core.cr = s.core.cr ∧ t.core.pc = s.core.pc)
    ∧ ∀ o s page, s.core.on o.g = true → AreaLies s (s.core.sVal o.p) .rd page → s.quiet true = true →
      s.areaHeld (s.core.sVal o.p) = false → s.poison = [] → s.areaBad ((List.range 17).map page) = false →
      (∀ ch < 32, s.num (page 0 + 0x1020 + 64 * ch) 8 / 2 ^ 36 % 2 = 0) →
      ∃ t, exec (.ctxld o) s = .next t
        ∧ (∀ n, t.core.sReg n = BitVec.ofNat 64 (s.num (page 0 + 0x100 + 8 * n.toNat) 8))
        ∧ (∀ n, t.core.xReg n = BitVec.ofNat 32 (s.num (page 0 + 0x300 + 4 * n.toNat) 4))
        ∧ (∀ n, n ≠ 0#3 → t.core.gReg n = BitVec.ofNat 32 (s.num (page 0 + 0x340 + 4 * n.toNat) 4))
        ∧ t.core.pc = BitVec.ofNat 48 (s.num (page 0 + 8) 8) &&& 0xFFFFFFFFFFE0#48
        ∧ t.core.crGet 0 = BitVec.ofNat 64 (s.num (page 0 + 0x400) 8) &&& 0x7D#64
        ∧ t.core.bundles = [] ∧ t.core.group = .start ∧ t.core.shadow = none ∧ t.parked = s.parked

/-- R442, whole: EMRD writes the value of a meter to its register; bit 7 of the selector also clears the meter and needs supervisor
level; at kernel level the meter must be that of the launch's queue; any bit above those traps 0x0B. Where both checks fail it is one
of the two traps. -/
def Obligations.EmrdReadsMeters : Prop :=
  ∀ o s, s.core.on o.g = true → let v := (s.core.sVal o.p).toNat
    let m := v % 128
    let clears := v / 128 % 2 = 1
    let may := s.core.sup = true ∨ (¬clears ∧ ∃ l, s.launchOf s.core = some l ∧ l.meter.toNat = m)
    (256 ≤ v → may → TrapsWith (.emrd o) s 0x0B#8)
    ∧ (v < 256 → ¬may → TrapsWith (.emrd o) s 0x05#8)
    ∧ (256 ≤ v → ¬may → TrapsWith (.emrd o) s 0x0B#8 ∨ TrapsWith (.emrd o) s 0x05#8)
    ∧ (v < 256 → may → ∃ t, exec (.emrd o) s = .next t
      ∧ (¬clears → WritesS s t o.q (Cells.get 0#64 s.meters m))
      ∧ (clears → WritesS s { t with meters := s.meters, charged := s.charged } o.q (Cells.get 0#64 s.meters m)
        ∧ ∀ k, Cells.get 0#64 t.meters k = if k = m then 0#64 else Cells.get 0#64 s.meters k))

/-- R432, R433, R436 to R439, R444, R445: LAUNCH writes its parent into the record and puts it into the tail slot, or asks the
queue to take it; CHWAIT gives the count and worst verdict of the completed children and is held while others stand; PREEMPT asks
the cores of a launch to drain, or ends it; RESUME lets a stopped launch go on, and that a selector with bit 17 set traps there is the
model's reading (log entry 29); DIGEST sums the hashes of lines; SLEEP asks the controller of the die, whose registers it reads (log
entry 38); PREEMPT's cases are those of log entry 28. -/
def Obligations.LaunchInstructions : Prop :=
  (∀ o s r loc pg, s.core.on o.g = true → s.queueOut = false → s.core.held = false → RecordReads s (s.core.sVal o.q) r loc pg →
      (s.core.sup = true ∨ (recSup r = false ∧ recRoot r = s.core.crGet 0x018 ∧ recTenant r = bitsOf (s.core.crGet 0x0C1) 0 16)) →
      s.releaseReady s.core.id s.core.cur.seq 3 = true →
      (∀ l, recTail r = true → s.core.sVal o.p = 0#64 → s.launchOf s.core = some l → l.tail = none →
        ∃ t r', exec (.launch o) s = .next t ∧ WithParent s.core r r' ∧ t.mem = s.mem
          ∧ t.core = ((List.range 16).foldl (fun s i => s.notePage ⟨loc i, pg i⟩) s).core
          ∧ t.launches = s.launches.map fun m =>
            if m.key = s.core.launchKey then { m with tail := some r', children := m.children + 1 } else m)
      ∧ ∀ b, recTail r = false → let h := s.core.sVal o.p
        let u := (List.range 16).foldl (fun s i => s.notePage ⟨loc i, pg i⟩) s
        bitsOf h 0 6 = 4 → h.toNat < 2 ^ 48 → u.checkHandle h .wr = .ok b → (∃ die, ∃ n < 64, b.loc = s.queuePa die n) →
        s.ownWait b.loc 64 = false →
        ∃ t q m r', exec (.launch o) s = .next t ∧ Asks s t q ∧ q.kind = .queue m ∧ m.op = .enq ∧ m.handle = h ∧ m.qpa = b.loc
          ∧ m.elem = r' ∧ WithParent s.core r r' ∧ m.dest = .launchRec s.core.cur.seq ∧ t.core.held = true)
    ∧ (∀ o s, s.core.on o.g = true →
      (s.launchOf s.core = none → ∃ t, exec (.chwait o) s = .next t ∧ WritesS s.l1Clear t o.p 0#64)
      ∧ ∀ l, s.launchOf s.core = some l →
        (l.children % 2 ^ 32 = 0 → ∃ t, exec (.chwait o) s = .next t
          ∧ WritesS s.l1Clear t o.p (BitVec.ofNat 64 (l.childrenDone % 2 ^ 32 + l.childWorst.toNat * 2 ^ 32)))
        ∧ (l.children % 2 ^ 32 ≠ 0 → ∃ t, exec (.chwait o) s = .next t ∧ Holds s t))
    ∧ (∀ o s, s.core.on o.g = true → let v := (s.core.sVal o.p).toNat
      (2 ^ 18 ≤ v → TrapsWith (.preempt o) s 0x0B#8)
      ∧ (v < 2 ^ 18 → s.core.cur.rep ≠ 0 →
        (s.selLaunch v = none → s.selQueue v = none → ∃ t, exec (.preempt o) s = .next t ∧ WritesS s t o.q 1#64)
        ∧ ∀ l, NamesLaunch s v l →
          (l.phase = .retired ∨ (v < 2 ^ 17 ∧ l.stopped = true) → ∃ t, exec (.preempt o) s = .next t ∧ WritesS s t o.q 2#64)
          ∧ (2 ^ 17 ≤ v → l.phase ≠ .retired → ∃ t, exec (.preempt o) s = .next t
            ∧ (∀ k, t.core.sReg k = if k = o.q then 0#64 else s.core.sReg k)
            ∧ ∀ m ∈ t.launches, m.key = l.key → m.phase = .retired ∧ m.verdict = 2#2)
          ∧ (v < 2 ^ 17 → l.stopped = false → l.phase = .running → ∀ g, l.gangs = [g] → g.placed = true → s.draining g = false →
            g.cores.all (s.ended g) = false → s.slotsTaken < s.slots → (∀ k ∈ g.cores, k = s.core.id ∨ ∃ c ∈ s.parked, c.id = k) →
            ∃ t, exec (.preempt o) s = .next t ∧ t.core.held = true ∧ t.core.s = s.core.s ∧ t.mem = s.mem
              ∧ (∀ m ∈ t.launches, m.key = l.key → m.stopped = true)
              ∧ ∀ k ∈ g.cores, ((t.coreAt k).crGet 0x0C4).getLsbD 0 = true))
      ∧ (v < 2 ^ 18 → s.core.cur.rep = 0 → ∀ l, NamesLaunch s v l →
        (s.runningGangs l = [] → ∃ t, exec (.preempt o) s = .next t ∧ WritesS s t o.q 0#64)
        ∧ (s.runningGangs l ≠ [] → ∃ t, exec (.preempt o) s = .next t ∧ Holds s t)))
    ∧ (∀ o s, s.core.on o.g = true → let v := (s.core.sVal o.p).toNat
      (2 ^ 17 ≤ v → TrapsWith (.resume o) s 0x0B#8)
      ∧ (v < 2 ^ 17 → (s.selLaunch v = none → s.selQueue v = none → ∃ t, exec (.resume o) s = .next t ∧ WritesS s t o.q 1#64)
        ∧ ∀ l, NamesLaunch s v l →
          (l.stopped = false → ∃ t, exec (.resume o) s = .next t ∧ WritesS s t o.q 2#64)
          ∧ (l.stopped = true → ∃ t, exec (.resume o) s = .next t ∧ WritesS s { t with launches := s.launches } o.q 0#64
            ∧ t.launches = s.launches.map fun m => if m.key = l.key then { m with stopped := false } else m)))
    ∧ (∀ o s, s.core.on o.g = true → let n := (s.core.sVal o.q).toNat
      let a := s.core.sVal o.p
      (n = 0 ∨ 65536 < n → TrapsWith (.digest o) s 0x0B#8)
      ∧ ∀ (loc : Nat → Nat) (pg : Nat → Option Page), 0 < n → n ≤ 65536 →
        (∀ i < n, let ai := a + BitVec.ofNat 64 (256 * i)
          ai.toNat < 2 ^ 60 ∧ s.place ai 256 256 .rd = .ok ⟨loc i, pg i⟩ ∧ isRaw (loc i) = true
            ∧ s.accessHeld ai (loc i) 256 false = false ∧ s.ownWait (loc i) 256 = false ∧ s.poisoned (loc i) 256 = false) →
        ∃ t, exec (.digest o) s = .next t
          ∧ WritesS ((List.range n).foldl (fun s i => s.notePage ⟨loc i, pg i⟩) s) t o.q
            (BitVec.ofNat 64 ((List.range n).map fun i => lineHash (loc i / 256) (s.readSync (loc i) 256)).sum))
    ∧ ∀ o s, let die := dieOf s.core.id
      let k := s.ctl die
      let v := (k.cpu.sVal o.p).toNat
      let bad := v % 4 = 3 ∨ v / 4 % 64 ≠ 0 ∨ 2 ^ 11 ≤ v
      (k.stopped = true ∨ k.cpu.mode ≠ .running ∨ k.cpu.on o.g = false → exec (.sleep o) s = .next s)
      ∧ (k.stopped = false → k.cpu.mode = .running → k.cpu.on o.g = true →
        (bad → k.cpu.inTrap = false → ∃ t, exec (.sleep o) s = .next t ∧ (t.ctl die).cpu.crGet 2 = 0x0B#64
          ∧ (t.ctl die).cpu.crGet 3 = k.cpu.pc.setWidth 64 ∧ t.core = s.core ∧ t.mem = s.mem)
        ∧ (bad → k.cpu.inTrap = true → ∃ t, exec (.sleep o) s = .next t ∧ (t.devGet 0x100).getLsbD 1 = true ∧ t.core = s.core)
        ∧ (¬bad → ∃ t, exec (.sleep o) s = .next t ∧ t.core = s.core ∧ t.mem = s.mem
          ∧ (t.ctl die).asked = some (BitVec.ofNat 2 v, BitVec.ofNat 3 (v / 256))
          ∧ t.ctl (!die) = s.ctl (!die) ∧ t.launches = s.launches))

/-! ### Dispatch, events and the step (R28 to R47, R64, R155, R159, R160, R191, R463) -/

/-- R28, R43, R47, R64, R155, R160, R191, R434, R462, R463: dispatch places an entry for every slot of a bundle that passes its checks,
the first bundle of a launch giving it its start time; it asks for the trap of the first check that fails, and waits where it has to, the wait
for a shape that decides R252 being the model's reading (log entry 46); a fetch that misses is filled from memory; a cycle in which an
entry is held and the margin is used up counts in STALLC and sets its event once; the watchdog discards what has not issued, has the
engines drain, and asks for trap 0x39, which then enters; the timer sets its event bit. TPC of the watchdog's trap and the line that
gives way in a full set are free values (log entry 3). -/
def Obligations.SequencerEvents : Prop :=
  (∀ s bs, s.core.mayDispatch = true → s.stalls = false → s.core.watchdogDue = false → s.fetch = .bytes bs →
      let c := s.core
      let is := okInstrs (decodeBundle bs)
      let check := c.dispatchCheck bs (decodeBundle bs) (is.flatMap fun p => itemsOf c (slotWord bs 0) p.1 p.2)
      let waits := s.dispatchWaits (slotWord bs 0) (((is.find? (·.1 == 1)).map (·.2)).getD .nop)
      let asks (d : DTrap) : Prop := exec .bundleDispatch s = .next { s with core := { c with
        trapReq := some ⟨d.cause, c.pc, BitVec.ofNat 64 d.t0, BitVec.ofNat 64 d.t1, 0#64, 0#64⟩ } }
      let s1 := ((is.find? (·.1 == 1)).map (·.2)).getD .nop
      let target := c.target c.pc s1
      let astray := c.replay.getLsbD 7 = true ∧ isTransfer s1 = true ∧ (target.toNat % 32 ≠ 0 ∨ 2 ^ 48 ≤ target.toNat)
      (c.seedWaits is = true → exec .bundleDispatch s = .next s)
      ∧ (c.seedWaits is = false → (∀ d, check = some d → asks d) ∧ (check = none → waits = true → exec .bundleDispatch s = .next s)
      ∧ (check = none → waits = false → astray → exec .bundleDispatch s = .next { s with core := { c with
        trapReq := some ⟨0x0A#8, c.pc, 1#64, target, 0#64, 0#64⟩ } })
      ∧ (∀ d, check = none → waits = false → ¬astray → loopCheck c (slotWord bs 0) is = some d → asks d)
      ∧ (check = none → waits = false → loopCheck c (slotWord bs 0) is = none → c.loops = [] → c.replay = 0#8 →
        ∃ t, exec .bundleDispatch s = .next t ∧ t.core.nextSeq = c.nextSeq + 1 ∧ t.core.wdCount = 0
          ∧ ((∀ p ∈ is, ∀ o, p.2 ≠ .loopn o) → t.core.pc = c.pc + 32#48)
          ∧ (∀ p ∈ is, p.2 ≠ .nop → ∃ b ∈ t.core.bundles, b.seq = c.nextSeq ∧ b.pc = c.pc ∧ b.next = c.pc + 32#48
            ∧ ∃ e ∈ b.entries, e.slot = p.1 ∧ e.instr = p.2)
          ∧ (hdStop (slotWord bs 0) = true → t.core.group = .start) ∧ t.mem = s.mem ∧ t.core.s = c.s ∧ t.core.x = c.x ∧ t.core.g = c.g
          ∧ t.core.shapes = c.shapes ∧ t.core.ops = c.ops ∧ t.packets = s.packets
          ∧ ∀ m ∈ t.launches, m.key = c.launchKey → m.started ≠ none)))
    ∧ (∀ s f, s.core.mayDispatch = true → s.stalls = false → s.core.watchdogDue = false → s.fetch = .fault f → exec .bundleDispatch s = .next { s with core := { s.core with
        trapReq := some ⟨f.cause, s.core.pc, 0x28#64, s.core.pc.setWidth 64, 0#64, f.info⟩ } })
    ∧ (∀ s, (s.core.mayDispatch = false ∨ s.stalls = true ∨ s.core.watchdogDue = true ∨ ∃ l, s.fetch = .miss l) →
      exec .bundleDispatch s = .next s)
    ∧ (∀ s, (∀ l, s.fetch = .miss l → isRaw l = true → s.poisoned l 256 = false → ∃ t, exec .fetchMissFill s = .next t
        ∧ (∀ e, e ∈ t.core.icache → e = (l, s.bytes l 256) ∨ e ∈ s.core.icache) ∧ (l, s.bytes l 256) ∈ t.core.icache
        ∧ (∀ e ∈ s.core.icache, e.1 / 256 % 32 ≠ l / 256 % 32 → e ∈ t.core.icache)
        ∧ ((s.core.icache.filter fun e => e.1 / 256 % 32 == l / 256 % 32).length < 4 → ∀ e ∈ s.core.icache, e ∈ t.core.icache)
        ∧ t.mem = s.mem ∧ t.core.s = s.core.s ∧ t.core.pc = s.core.pc)
      ∧ ((∀ l, s.fetch ≠ .miss l) → exec .fetchMissFill s = .next s))
    ∧ (∀ s, (s.stalls = false → exec .wholeCoreStall s = .next s)
      ∧ (s.stalls = true → ∃ t, exec .wholeCoreStall s = .next t ∧ t.core.crGet 0x009 = s.core.crGet 0x009 + 1#64
        ∧ t.core.stalled = true ∧ (s.core.stalled = false → (t.core.crGet 0x042).getLsbD 0 = true) ∧ t.core.s = s.core.s ∧ t.mem = s.mem
        ∧ ∀ n, n ≠ 0x009 → n ≠ 0x042 → t.core.crGet n = s.core.crGet n))
    ∧ (∀ s, let c := s.core
      let due := c.mode = .running ∧ c.inTrap = false ∧ c.drain = false ∧ c.crGet 0x04A ≠ 0#64 ∧ (c.crGet 0x04A).toNat ≤ c.wdCount
      (¬due → exec .watchdogExpiry s = .next s)
      ∧ (due → ∃ t r, exec .watchdogExpiry s = .next t ∧ t.core.trapReq = some r ∧ r.cause = 0x39#8 ∧ t.core.bundles = []
        ∧ t.core.drain = true ∧ t.core.wdCount = 0 ∧ (∀ b rest, c.bundles = b :: rest → r.tinfo0 = b.pc.setWidth 64)
        ∧ (∀ k, 1 ≤ k → k ≤ 7 → (r.tinfo1.getLsbD (k - 1) = true ↔ ∃ b ∈ c.bundles, ∃ e ∈ b.entries, e.slot = k))
        ∧ ((∀ x ∈ s.replies, x.core ≠ c.id) → t.core.s = c.s ∧ t.core.x = c.x ∧ t.core.g = c.g ∧ t.core.crGet 0 = c.crGet 0
          ∧ ((∀ w ∈ s.waiters, w.agent ≠ .core c.id) → c.bank0.la = false → c.bank1.la = false → t.mem = s.mem))))
    ∧ (∀ s r, s.core.trapReq = some r → r.cause = 0x39#8 → s.core.inTrap = false → ∃ t, exec .trapEntry s = .next t ∧ t.core.crGet 2 = 0x39#64
      ∧ t.core.crGet 0x04B = s.core.crGet 0 ∧ t.core.crGet 0 = s.core.crGet 0 ||| 3#64 ∧ t.core.crGet 4 = r.tinfo0
      ∧ t.core.crGet 5 = r.tinfo1 ∧ t.core.pc = (s.core.crGet 1).setWidth 48 &&& 0xFFFFFFFFFFE0#48 ∧ t.core.trapReq = none
      ∧ t.core.s = s.core.s ∧ t.mem = s.mem)
    ∧ ∀ s, let v := s.core.crGet 0x043
      (¬(v ≠ 0#64 ∧ v.toNat ≤ s.time.toNat) → exec .timerEvent s = .next s)
      ∧ (v ≠ 0#64 → v.toNat ≤ s.time.toNat → ∃ t, exec .timerEvent s = .next t ∧ (t.core.crGet 0x042).getLsbD 2 = true
        ∧ (∀ n, n ≠ 0x042 → t.core.crGet n = s.core.crGet n) ∧ t.core.s = s.core.s ∧ t.mem = s.mem)

/-- R43, R47, R156, R157, R159, R191: a step runs the decoded instruction. Where the bytes at the program counter hold one instruction
besides NOPs, in a slot k, the bundle passes its checks and nothing else waits, the step dispatches it and is exec of that
instruction with its entry made current; the entry then leaves its bundle, or stays if it was held. Where a dispatched entry may
issue in the present cycle, or in one in which nothing can be dispatched, the step is exec of that one. A trap that dispatch asked for
enters once it is due, and the watchdog expires when it is. A scheduled event is exec of it, after which held entries may be tried
again, and what the host's attachment keeps back goes on. Which of several things a step does, and that a dispatched entry may issue in the same step, is the model's default schedule
(log entry 2). -/
def Obligations.StepRunsDecodedInstruction : Prop :=
  let ran (o : Out) : Out := match o with | .next u => .next (u.upd CoreState.finish) | x => x
  let now (s : State) : State := State.passTime { s with turn := s.turn + 1 }
  (∀ (s : State) bs k i, s.agenda = [] → (s.turn + 1) % 64 ≠ 0 →
      let u := if (now s).core.fired = 0#8 then now s else (now s).endCycle
      let c := u.core
      let is := okInstrs (decodeBundle bs)
      c.watchdogDue = false → c.mayDispatch = true → u.fetch = .bytes bs → is.filter (·.2 != .nop) = [(k, i)] →
      c.dispatchCheck bs (decodeBundle bs) (is.flatMap fun p => itemsOf c (slotWord bs 0) p.1 p.2) = none →
      loopCheck c (slotWord bs 0) is = none → c.bundles = [] → c.loops = [] → c.replay = 0#8 → (∀ n, u.loadItems n = []) →
      ∃ t b e, exec .bundleDispatch u = .next t ∧ t.core.bundles = [b] ∧ b.entries = [e] ∧ e.instr = i ∧ e.slot = k ∧ b.pc = c.pc
        ∧ b.next = c.pc + 32#48 ∧ b.seq = c.nextSeq ∧ ((∀ o, i ≠ .loopn o) → t.core.pc = c.pc + 32#48)
        ∧ (let out := ran (exec i (t.upd fun c => c.begin b e))
          (hdSync (slotWord bs 0) = false
              ∨ ∀ v, out = .next v → v.foundHeld b.seq k = true ∨ ∀ b' ∈ v.core.bundles, b'.seq ≠ b.seq) → step s = out))
    ∧ (∀ (s : State) b e, s.agenda = [] → (s.turn + 1) % 64 ≠ 0 →
      let u := now s
      u.core.watchdogDue = false → u.core.mode = .running → u.core.trapDue = false → u.nextNow = some (b, e) → b.sync = false →
      (u.core.fired ≠ 0#8 ∨ (checkStep u = none ∧ u.core.crGet 0x040 ≠ 0#64 ∧ u.core.mayDispatch = false)) →
      step s = ran (exec e.instr (u.upd fun c => c.begin b e)))
    ∧ (∀ (s : State), s.agenda = [] → (s.turn + 1) % 64 ≠ 0 →
      ((now s).core.watchdogDue = true → step s = exec .watchdogExpiry (now s))
      ∧ ((now s).core.watchdogDue = false → (now s).core.mode = .running → (now s).core.trapDue = true →
        step s = exec .trapEntry (now s)))
    ∧ ∀ (s : State) i rest, s.agenda = i :: rest → mayStand i = true → i ≠ .bundleDispatch → (∀ k, i ≠ .preemption k) →
      step s = (match exec i { s with agenda := rest, tick := s.tick + 1 } with | .next t => .next t.retryAll.hostTurn | x => x)
        ∧ ∀ t : State, t.heldWrites = [] → t.hostOps = [] → t.retryAll.hostTurn = t.retryAll

/-! ### Controllers and the life of a launch (R88, R417 to R435, R441, R445, R457) -/

/-- R15 to R20, R88, R367, R417, R418, R421, R424, R426 to R430, R434, R435, R441, R445, R457: the controllers. A background read
shows the head of a queue; a decision takes the candidates in order of rank and decides for a record whose resources are free; its
DEQ makes the record a launch with the next LID; the start leaves each core as the launch describes it; a gang that is to stop
has its engines drain once nothing of it can issue, and is then saved in a slot and gives its cores up; a launch that is over is gone, with its completion record; meters show nanojoules; a die goes to
sleep, which loses what its stores, scratchpads, Racks and L1s hold, and wakes. A controller that has stopped does none of this. The
order of decisions and the readings of the records are those of log entries 25 to 28, and what sleep loses those of log entry 35. -/
def Obligations.LaunchLifeCycle : Prop :=
  (∀ die (n : BitVec 6) s, ((s.ctl die).stopped = true → exec (.backgroundHeadRead die n) s = .next s) ∧ ((s.ctl die).stopped = false →
      ∃ t, exec (.backgroundHeadRead die n) s = .next t ∧ t.mem = s.mem ∧ t.core = s.core ∧ t.launches = s.launches
      ∧ (∀ d m, ¬(d = die ∧ m = n) → t.lq d m = s.lq d m)
      ∧ (let pa := s.queuePa die n.toNat
        let b := s.qcb pa
        ((isRaw pa && isRaw (pa + 63)) = false ∨ (∀ k < 64, s.byte (pa + k) = 0#8) →
          (t.lq die n).head = none ∧ (t.lq die n).failing = (s.lq die n).failing)
        ∧ (isRaw pa = true → isRaw (pa + 63) = true → (∃ k < 64, s.byte (pa + k) ≠ 0#8) →
          (s.qcbReason pa ≠ 0 ∨ b.code ≠ 4 → (t.lq die n).head = none ∧ (t.lq die n).failing = true)
          ∧ ∀ data, s.qcbReason pa = 0 → b.code = 4 → s.dataArea pa (s.devGet 0x122) true false = .ok data →
            (t.lq die n).failing = false ∧ (b.free = b.capacity → (t.lq die n).head = none)
              ∧ (b.free ≠ b.capacity → ∃ c, (t.lq die n).head = some (b.head, c)
                ∧ c.record = s.bytes (data + b.esize * (b.head % b.capacity)) b.esize)))))
    ∧ (∀ die s, let seen := queueNumbers.foldl (fun s n => (s.seeHead die n).holdRecord die n) s
      let q := (seen.ctl die).lastQ
      ((s.ctl die).places = false → exec (.placementDecision die) s = .next s)
      ∧ (seen.candidates die).Pairwise (fun a b => a.rank q ≤ b.rank q)
      ∧ ∀ c r, (s.ctl die).places = true → seen.candidates die = [c] → c.die = die → c.what = .record r → seen.candRefusal die c.n r = 0 →
        (seen.ctl die).reserved = [] → (seen.lq die c.n).held = [] →
        let gs := gangsOf 0 (imgDescs ((seen.readImage r.record).getD []))
        seen.holders (gs.flatMap (·.resources)) = [] →
        ∃ t l, exec (.placementDecision die) s = .next t ∧ (t.lq die c.n).deciding = some l ∧ l.record = r.record ∧ l.gangs = gs
          ∧ l.phase = .starting ∧ l.prio = c.prio ∧ (t.ctl die).lastQ = c.n)
    ∧ (∀ die s, let next := s.launchQueues.findSome? fun q => if q.die == die then q.deciding.map fun l => (q.n, l) else none
      (next = none → exec (.launchRecordDequeued die) s = .next s)
      ∧ (∀ n l, next = some (n, l) → (s.ctl die).stopped = true ∨ s.deqWaits die n (imageSlack l.image) = true →
        exec (.launchRecordDequeued die) s = .next s)
      ∧ ∀ n l, next = some (n, l) → (s.ctl die).stopped = false → s.deqWaits die n (imageSlack l.image) = false → let d := (s.updLq die n fun q => { q with deciding := none, head := none }).dequeueRecord die n
        (d.2 = none → exec (.launchRecordDequeued die) s = .next d.1)
        ∧ (d.2 = some l.record → ((s.lq die n).head.bind (·.2.lid)) = none → ∃ t, exec (.launchRecordDequeued die) s = .next t
          ∧ t.launches = d.1.launches ++ [{ l with lid := (d.1.ctl die).nextLid }] ∧ (t.ctl die).nextLid = (d.1.ctl die).nextLid + 1#16
          ∧ t.mem = d.1.mem))
    ∧ (∀ s, let next := s.launches.find? fun l => l.phase == .starting && !(s.ctl l.die).stopped
      (next = none → exec .launchStart s = .next s)
      ∧ ∀ l g id, next = some l → l.gangs = [g] → g.cores = [id] → recKeep l.record = false →
        (id = s.core.id ∨ ∃ c ∈ s.parked, c.id = id) →
        ∃ t, exec .launchStart s = .next t ∧ (∀ m ∈ t.launches, m.key = l.key → m.phase = .running)
          ∧ (∀ a < 2 ^ 20, t.byte (Loc.store id.toNat a) = 0#8)
          ∧ (∀ a < 65536 * g.psize, t.byte (Loc.spad (cluster id) (65536 * g.pbase) + a) = 0#8)
          ∧ (let c := t.coreAt id
            c.mode = .running ∧ c.pc = BitVec.ofNat 48 (recEntry l.record) ∧ c.bundles = [] ∧ c.loops = []
            ∧ (∀ n, c.sReg n = if n = 1#6 then recArg l.record 0 else if n = 2#6 then recArg l.record 1 else 0#64)
            ∧ (∀ n, c.xReg n = BitVec.ofNat 32 (numAt l.image (0x380 + 4 * n.toNat) 4))
            ∧ (∀ n, n ≠ 0#3 → c.gReg n = BitVec.ofNat 32 (numAt l.image (0x3C0 + 4 * n.toNat) 4))
            ∧ c.crGet 0 = (if recSup l.record = true then 1#64 else 0#64) ∧ c.crGet 0x018 = recRoot l.record
            ∧ c.crGet 0x01A = BitVec.ofNat 64 (g.pbase + g.psize * 64) ∧ c.crGet 0x0C1 = BitVec.ofNat 64 (recTenant l.record)
            ∧ c.crGet 0x0C0 = BitVec.ofNat 64 (l.lid.toNat + l.queue.toNat * 2 ^ 16 + if l.die = true then 2 ^ 22 else 0)
            ∧ ∀ i < 7, imgView l.image (i + 1) ≠ 0#64 → c.crGet (0x011 + i) = imgView l.image (i + 1)))
    ∧ (∀ (id : BitVec 7) s,
      ((∀ l ∈ s.launches, ∀ g ∈ l.gangs, id ∈ g.cores → s.draining g = false) → exec (.preemption id) s = .next s)
      ∧ ∀ l g, s.launches = [l] → l.gangs = [g] → g.cores = [id] → s.core.id = id → s.draining g = true →
        (s.ctl l.die).stopped = false →
        let u := s.upd (·.beginDrain)
        (s.settled = false → exec (.preemption id) s = .next s)
        ∧ (s.settled = true → u.drained = false ∨ s.freeSlot = none → exec (.preemption id) s = .next u)
        ∧ ∀ slot, s.settled = true → u.drained = true → s.freeSlot = some slot → ∃ t l' g', exec (.preemption id) s = .next t
          ∧ t.launches = [l'] ∧ l'.gangs = [g'] ∧ l'.preempts = l.preempts + 1 ∧ g'.saved = some slot ∧ g'.placed = false
          ∧ t.core.mode = .idle ∧ (t.core.crGet 0x0C4).getLsbD 0 = false ∧ t.core.bundles = [] ∧ t.core.ops = []
          ∧ (isRaw (s.slotAt slot 0 + 0xFFFFFF) = true → s.core.cupQ.length ≤ 16 → s.core.loops.length ≤ 4 → s.core.nest.length ≤ 6 →
            s.core.cont.length ≤ 4 → s.core.bundles = [] → g.psize ≤ 64 →
              (∀ n, t.num (s.slotAt slot 0 + 0x100 + 8 * n.toNat) 8 = (s.core.sReg n).toNat)
              ∧ (∀ n, t.num (s.slotAt slot 0 + 0x300 + 4 * n.toNat) 4 = (s.core.xReg n).toNat)
              ∧ t.num (s.slotAt slot 0 + 8) 8 = s.core.pc.toNat))
    ∧ (∀ die (lid : BitVec 16) s, let found := s.launches.find? fun l => l.die == die && l.lid == lid
      (found = none → exec (.launchComplete die lid) s = .next s)
      ∧ ∀ l, found = some l →
        ((s.ctl die).stopped = true ∨ (l.phase ≠ .retired ∧ s.mayRetire l = false) → exec (.launchComplete die lid) s = .next s)
        ∧ ((s.ctl die).stopped = false → l.phase = .retired ∨ s.mayRetire l = true →
          (s.windows.any (·.launch == l.key) = true → exec (.launchComplete die lid) s = .next { s with
            windows := s.windows.map fun w => if w.launch = l.key then { w with closing := true, waits := none } else w })
          ∧ (s.windows.any (·.launch == l.key) = false → l.tail = none → ∃ t, exec (.launchComplete die lid) s = .next t
            ∧ (∀ m ∈ t.launches, m.key ≠ l.key)
            ∧ (l.phase = .retired → recCq l.record % 16 = 3 → recParent l.record = none → ∃ r q, t.reqs.getLast? = some r
              ∧ r.kind = .queue q ∧ q.op = .enq ∧ q.handle.toNat = recCq l.record % 2 ^ 64 ∧ q.elem.length = 64
              ∧ numAt q.elem 0 8 % 2 ^ 16 = l.lid.toNat ∧ numAt q.elem 0 8 / 2 ^ 23 % 4 = l.verdict.toNat
              ∧ numAt q.elem 8 8 = s.time.toNat ∧ numAt q.elem 48 8 = l.cause.toNat))))
    ∧ (∀ s, ∃ t, exec .meterUpdate s = .next t ∧ t.core = s.core ∧ t.mem = s.mem
      ∧ ∀ i < 128, Cells.get 0#64 t.meters i = BitVec.ofNat 64 ((Cells.get 0#96 t.charged i).toNat / 1000))
    ∧ (∀ die s, ((s.ctl die).asked = none ∨ (s.ctl die).stopped = true → exec (.sleepStateEntry die) s = .next s)
      ∧ ∀ st p, (s.ctl die).asked = some (st, p) → (s.ctl die).stopped = false → (∀ l ∈ s.launches, l.die = die → l.phase ≠ .starting ∧ s.runningGangs l = []) →
        (∀ q ∈ s.launchQueues, q.die = die → q.deciding = none) → ∃ t, exec (.sleepStateEntry die) s = .next t
          ∧ (t.ctl die).asked = none ∧ (t.ctl die).asleep = st.toNat + 1 ∧ t.core.s = s.core.s ∧ (∀ l < 2 ^ 46, t.byte l = s.byte l)
          ∧ (st = 0#2 → t.core = s.core ∧ t.mem = s.mem ∧ t.links = s.links)
          ∧ (st ≠ 0#2 → let k := if die = true then 1 else 0
            (∀ a, Loc.store (64 * k) 0 ≤ a → a < Loc.store (64 * k) 0 + 64 * 2 ^ 20 → t.byte a = Config.freeByte s.tick a)
            ∧ (∀ a, Loc.spad (16 * k) 0 ≤ a → a < Loc.spad (16 * k) 0 + 16 * 2 ^ 22 → t.byte a = Config.freeByte s.tick a)
            ∧ (∀ u ∈ t.heldUpds, u ∈ s.heldUpds ∧ ¬(u.slice.toNat / 32 = k ∧ u.spot = none)) ∧ ∀ e ∈ t.l1, dieOf e.owner ≠ die)
          ∧ (st ≠ 0#2 → ∀ d (n : BitVec 8), n.getLsbD 7 = die → (t.link d n).up = 0#2))
    ∧ ∀ die s, let c := s.ctl die
      (c.stopped = true ∨ c.waking = false ∨ c.asked ≠ none → exec (.wake die) s = .next s)
      ∧ (c.stopped = false → c.waking = true → c.asked = none → ∃ t, exec (.wake die) s = .next t ∧ (t.ctl die).asleep = 0 ∧ (t.ctl die).waking = false
        ∧ t.core = s.core ∧ t.mem = s.mem
        ∧ (2 ≤ c.asleep → ∀ d (n : BitVec 8), n.getLsbD 7 = die → (s.link d n).ctl.getLsbD 0 = true → (s.link d n).up = 0#2 →
          (t.link d n).up = 1#2))

/-! ### The host attachment (R5, R115, R127, R155, R225, R336, R337, R364, R405, R446 to R461) -/

/-- R447 to R454, R458: the host. A BAR0 read gives a register; BAR4 reaches raw memory as a packet from site 0, and elsewhere
nothing, which is an advanced error record; the staging area takes the host's bytes; a commit and a DEQN of an enabled slot send one
request for the slot's queue, once none of the host's comes before them, and of another set its status; a doorbell sets its core's
event bit; register writes reach the queue-window slots, the classes of the cores and the registers of the device, where one that has
to wait waits in the attachment; the attachment accepts the device's writes to the host window in their order, lets reads leave behind
them, and takes the completions of reads back to their slices. What the host sees where nothing answers is the model's choice (log
entry 32), and that a waiting write is kept in the attachment that of log entry 33. -/
def Obligations.HostWindows : Prop :=
  let reads (n : Nat) : Prop := 0x100 ≤ n ∧ n ≤ 0x1FF ∧ n ≠ 0x127 ∧ (crAccess n).isSome = true ∧ crAccess n ≠ some .wo
  (∀ n (data : List Byte) s, reads n → data.length = 8 → ∃ t, exec (.hostMemoryAccess 0#3 false (8 * n) data) s = .next t
      ∧ t.answers = s.answers ++ [(8 * n, leBytes 8 (s.readDev n).toNat)] ∧ t.core = s.core ∧ t.mem = s.mem ∧ t.dev = s.dev)
    ∧ (∀ (write : Bool) off (data : List Byte) s, let pa := bitsOf (s.devGet 0x108) 0 10 * 2 ^ 30 + off
      let raw := isRaw pa = true ∧ isRaw (pa + data.length - 1) = true
      ∃ t, exec (.hostMemoryAccess 4#3 write off data) s = .next t ∧ t.core = s.core ∧ t.mem = s.mem ∧ t.answers = s.answers
        ∧ (raw → ∃ rs ps, t.packets.filterMap (·.payload) = s.packets.filterMap (·.payload) ++ rs
          ∧ (∀ r ∈ rs, r.agent = .host ∧ r.kind = (if write = true then .store else .load .outside)
            ∧ r.tag.slack = bitsOf (s.devGet 0x107) 0 10)
          ∧ rs.map (·.parts) = ps.map (fun p => [p]) ∧ (ps.map (·.n)).sum = data.length
          ∧ ps.flatMap (·.data) = (if write = true then data else [])
          ∧ (∀ p ∈ ps, p.loc % 256 + p.n ≤ 256 ∧ pa ≤ p.loc ∧ p.va = BitVec.ofNat 64 (off + (p.loc - pa)) ∧ (write = true → p.data.length = p.n))
          ∧ (∀ a b p q, ps = a ++ p :: q :: b → q.loc = p.loc + p.n) ∧ ∃ p, ps.head? = some p ∧ p.loc = pa)
        ∧ (¬raw → t.packets = s.packets ∧ t.aer = s.aer ++ [(write, off)]))
    ∧ (∀ (slot : BitVec 8) off (data : List Byte) s, ∃ t, exec (.queueWindowStagingWrite slot off data) s = .next t
      ∧ (∀ k, Cells.get 0#8 t.qwStage (0x1000 * slot.toNat + k)
        = if off ≤ k ∧ k < 0xFE0 ∧ k - off < data.length then data[k - off]?.getD 0#8 else Cells.get 0#8 s.qwStage (0x1000 * slot.toNat + k))
      ∧ t.core = s.core ∧ t.mem = s.mem ∧ t.packets = s.packets)
    ∧ (∀ (slot : BitVec 8) s, let cfg := Cells.get 0#64 s.qwCfg slot.toNat
      let size := 8 * 2 ^ bitsOf cfg 0 4
      let va := bitsOf cfg 0 48 / 64 * 64
      let status (t : State) (v : Nat) : Prop := Cells.get 0#8 t.qwStatus slot.toNat = BitVec.ofNat 8 v ∧ t.packets = s.packets
      let first := s.hostOps = [] ∧ ∀ q ∈ s.pending, q.agent ≠ .host
      let sends (i : Instr) (op : QOp) (elem : List Byte) : Prop := ∀ p, first → bitsOf cfg 4 2 = 0 →
        s.translate (groupOf va) (s.devGet 0x122) va = .ok p →
        p.w = true → isRaw (p.pa + (va - p.va)) = true → ∃ t r q, exec i s = .next t ∧ t.mem = s.mem ∧ t.core = s.core
          ∧ t.packets.filterMap (·.payload) = s.packets.filterMap (·.payload) ++ [r] ∧ r.agent = .host ∧ r.kind = .queue q ∧ q.op = op
          ∧ q.qpa = p.pa + (va - p.va) ∧ q.elem = elem ∧ q.dest = .hostSlot slot ∧ r.tag.slack = bitsOf cfg 48 10
      let waits (i : Instr) : Prop := ∃ t, exec i s = .next t ∧ t.hostOps.length = 1 ∧ t.qwStatus = s.qwStatus ∧ t.packets = s.packets
        ∧ t.core = s.core ∧ t.mem = s.mem
      (s.hostOps = [] → (∃ q ∈ s.pending, q.agent = .host ∧ q.uid < s.uid ∧ q.hostSlot = some slot) →
        waits (.queueWindowCommit slot) ∧ waits (.queueWindowDeqn slot))
      ∧ (s.hostOps = [] → (∃ q ∈ s.pending, q.agent = .host ∧ q.uid < s.uid ∧ q.isWrite = true) → waits (.queueWindowCommit slot))
      ∧ (first → cfg.getLsbD 63 = false → (∃ t, exec (.queueWindowCommit slot) s = .next t ∧ status t 5)
        ∧ ∃ t, exec (.queueWindowDeqn slot) s = .next t ∧ status t 5)
      ∧ (first → cfg.getLsbD 63 = true →
        (4064 < size → ∃ t, exec (.queueWindowCommit slot) s = .next t ∧ status t 4)
        ∧ (size ≤ 4064 → sends (.queueWindowCommit slot) .enqn (Cells.getN 0#8 s.qwStage (0x1000 * slot.toNat) size))
        ∧ (8 < size → ∃ t, exec (.queueWindowDeqn slot) s = .next t ∧ status t 4)
        ∧ (size = 8 → sends (.queueWindowDeqn slot) .deqn [])))
    ∧ (∀ (v : Word64) s, let k : BitVec 7 := BitVec.ofNat 7 (bitsOf v 0 8)
      (bitsOf v 0 8 < 128 → s.coreGone k = false → (k = s.core.id ∨ ∃ c ∈ s.parked, c.id = k) →
        ∃ t, exec (.doorbellWrite v) s = .next t ∧ ((t.coreAt k).crGet 0x042).getLsbD 3 = true ∧ t.mem = s.mem
          ∧ (∀ n, n ≠ 0x042 → (t.coreAt k).crGet n = (s.coreAt k).crGet n) ∧ t.core.s = s.core.s)
      ∧ (128 ≤ bitsOf v 0 8 ∨ s.coreGone k = true → exec (.doorbellWrite v) s = .next s))
    ∧ (∀ (n : BitVec 19) (v : Word64) s, ∃ t, exec (.registerWrite n v) s = .next t ∧ (n ≠ 0x104#19 → t.mem = s.mem)
      ∧ (0x120 ≤ n.toNat → n.toNat ≤ 0x124 → s.framesBusy = true → t.heldWrites = s.heldWrites ++ [(n, v)] ∧ t.dev = s.dev)
      ∧ (crAccess n.toNat = some .rs → crOfDevice n.toNat = true → n.toNat < 0x120 → (n = 0x0CC#19 → s.digesting = false) →
        s.heldWrites = [] → s.writeWaits n.toNat v = false → ∀ m, t.devGet m = if m = n.toNat then (s.devGet m &&& ~~~crWritable m) ||| (v &&& crWritable m) else s.devGet m)
      ∧ (0x20000 ≤ n.toNat → n.toNat < 0x20100 → t.core = s.core ∧ ∀ k, Cells.get 0#64 t.qwCfg k
        = if k = n.toNat - 0x20000 then v &&& 0x83FFFFFFFFFFFFFF#64 else Cells.get 0#64 s.qwCfg k)
      ∧ (∀ k : BitVec 7, n.toNat = 0x10000 + 0x200 * k.toNat + 0x0C5 → s.coreGone k = false →
        (k = s.core.id ∨ ∃ c ∈ s.parked, c.id = k) →
        bitsOf ((t.coreAt k).crGet 0x0C5) 0 8 = bitsOf v 0 8 ∧ ∀ m, m ≠ 0x0C5 → (t.coreAt k).crGet m = (s.coreAt k).crGet m))
    ∧ (∀ id (data : List Byte) (bad : Bool) s, let found := s.remotes.find? fun m => m.uid == id && m.peer == 16
      (found = none → exec (.hostWindowCompletion id data bad) s = .next s)
      ∧ ∀ m, found = some m →
        (m.req.asks = false → m.stage ≠ .port ∨ s.remotes.find? (fun e => e.peer == 16 && e.stage == .port) ≠ some m →
          exec (.hostWindowCompletion id data bad) s = .next s)
        ∧ (m.req.asks = false → m.stage = .port → s.remotes.find? (fun e => e.peer == 16 && e.stage == .port) = some m →
          ∃ t, exec (.hostWindowCompletion id data bad) s = .next t
            ∧ t.hostWrites = s.hostWrites ++ m.req.parts.map (fun p => (p.loc - 0x10000000000, p.data))
            ∧ (t.remotes.map (·.uid)).Perm ((s.remotes.filter (·.uid != m.uid)).map (·.uid)))
        ∧ (m.req.asks = true → m.stage ≠ .sent ∨ m.req.fits data bad = false → exec (.hostWindowCompletion id data bad) s = .next s)
        ∧ (m.req.asks = true → m.stage = .sent → m.req.fits data bad = true →
          ∃ t x, exec (.hostWindowCompletion id data bad) s = .next t ∧ t.transits = s.transits ++ [x] ∧ x.what = .back id data bad
            ∧ x.src = 0 ∧ x.chan = s.sliceAt m.req.loc ∧ x.granted = false ∧ t.hostWrites = s.hostWrites ∧ t.core = s.core
            ∧ t.mem = s.mem))
    ∧ ∀ id u x m s, (∀ q ∈ s.packets, q.uid ≠ id) → (∀ q ∈ s.reserved, q.uid ≠ id) →
      s.transits.find? (fun t => t.uid == id && t.granted && s.served t) = some x → x.what = .out u →
      s.remotes.find? (·.uid == u) = some m → m.peer = 16 → m.link = none → m.req.asks = true →
      (∀ e ∈ s.remotes, e.peer = 16 → e.stage ≠ .port) →
      ∃ t, exec (.packetArrival id) s = .next t ∧ (∃ e ∈ t.remotes, e.uid = u ∧ e.stage = .sent)
        ∧ t.hostReads = s.hostReads ++ m.req.hostRead.toList ∧ t.core = s.core ∧ t.mem = s.mem

/-- R5, R115, R127, R155, R225, R336, R337, R364, R405, R446, R461: writes of registers that behave in a way of their own. A write
that has to wait changes nothing. HRST takes every core of a cluster back to reset and tells every site; a format region's
registers take a sound value and drop the region's decoded lines; TBINV drops the translations it names; VSF clears lane masks;
EVPEND clears the bits written as ones; the others take their writable bits. That a reset core's program counter and s registers
are 0 is the model's choice (log entry 5), and that DGAREA keeps its value while digests are kept (log entry 45). -/
def Obligations.HostRegisterWrites : Prop :=
  let masked (old v mask : Word64) : Word64 := (old &&& ~~~mask) ||| (v &&& mask)
  let setsDev (i : Instr) (s : State) (n : Nat) (v : Word64) : Prop := ∃ t, exec i s = .next t ∧ t = { s with dev := t.dev }
    ∧ ∀ m, t.devGet m = if m = n then masked (s.devGet m) v (crWritable m) else s.devGet m
  (∀ (v : Word64) s, let cl := bitsOf v 0 5
      (v.getLsbD 63 = false → exec (.hrstWrite v) s = .next s)
      ∧ (v.getLsbD 63 = true → ∃ t, exec (.hrstWrite v) s = .next t
        ∧ (∀ id, cluster id = cl → (id = s.core.id ∨ ∃ c ∈ s.parked, c.id = id) → (t.coreAt id).mode = .idle ∧ (t.coreAt id).pc = 0#48
          ∧ (∀ n, (t.coreAt id).sReg n = 0#64) ∧ (t.coreAt id).cr = [] ∧ (t.coreAt id).bundles = [] ∧ (t.coreAt id).ops = [])
        ∧ t.notices = s.notices ++ (List.range 32).map (fun i => (BitVec.ofNat 5 cl, BitVec.ofNat 5 i))
        ∧ ∀ l ∈ s.launches, l.phase ≠ .retired → (∃ g ∈ l.gangs, g.placed = true ∧ ∃ k ∈ g.cores, cluster k = cl) →
          ∀ m ∈ t.launches, m.key = l.key → m.phase = .retired ∧ m.verdict = 2#2))
    ∧ (∀ (n : BitVec 19) (v : Word64) s, let r := (n.toNat - 0x140) / 4
      (n.toNat < 0x140 ∨ 0x17F < n.toNat ∨ s.fmtBad n.toNat v = true → exec (.formatRegionWrite n v) s = .next s)
      ∧ (0x140 ≤ n.toNat → n.toNat ≤ 0x17F → s.fmtBad n.toNat v = false → ∃ t, exec (.formatRegionWrite n v) s = .next t
        ∧ (∀ m, t.devGet m = if m = n.toNat then masked (s.devGet m) v (crWritable m) else s.devGet m)
        ∧ (∀ d ∈ t.decoded, d ∈ s.decoded ∧ d.region ≠ r) ∧ (∀ d ∈ t.decodes, d.region = r → d.stale = true)
        ∧ t.mem = s.mem ∧ t.core = s.core))
    ∧ (∀ (v : Word64) s, let hit (e : TlbEntry) : Prop :=
        (bitsOf v 60 2 = 0 ∧ (e.gl = true ∨ e.asid.toNat = bitsOf v 48 12) ∧ e.va ≤ bitsOf v 16 32 * 65536
          ∧ bitsOf v 16 32 * 65536 < e.va + e.size)
        ∨ (bitsOf v 60 2 = 1 ∧ (e.gl = true ∨ e.asid.toNat = bitsOf v 48 12)) ∨ 2 ≤ bitsOf v 60 2
      (s.tbinvWaits v = true → exec (.tbinvWrite v) s = .next s)
      ∧ (s.tbinvWaits v = false → ∃ t, exec (.tbinvWrite v) s = .next t ∧ t = { s with tlb := t.tlb }
        ∧ ∀ e, e ∈ t.tlb ↔ e ∈ s.tlb ∧ ¬hit e))
    ∧ (∀ (n : BitVec 19) (v : Word64) s,
      (n.toNat < 0x120 ∨ 0x124 < n.toNat ∨ s.framesBusy = true → exec (.frameRegisterWrite n v) s = .next s)
      ∧ (0x120 ≤ n.toNat → n.toNat ≤ 0x124 → s.framesBusy = false → setsDev (.frameRegisterWrite n v) s n.toNat v))
    ∧ (∀ (n : BitVec 19) (v : Word64) s,
      (n.toNat ≠ 0x125 → n.toNat ≠ 0x126 → exec (.sliceRegisterWrite n v) s = .next s)
      ∧ (n.toNat = 0x125 ∨ n.toNat = 0x126 → setsDev (.sliceRegisterWrite n v) s n.toNat v))
    ∧ (∀ (n : BitVec 19) (v : Word64) s,
      (n.toNat < 0x0C5 ∨ 0x0DF < n.toNat → exec (.controllerRegisterWrite n v) s = .next s)
      ∧ (n = 0x0CC#19 → s.digesting = true → exec (.controllerRegisterWrite n v) s = .next s)
      ∧ (0x0C6 ≤ n.toNat → n.toNat ≤ 0x0DF → crAccess n.toNat = some .rs → (n = 0x0CC#19 → s.digesting = false) → setsDev (.controllerRegisterWrite n v) s n.toNat v)
      ∧ (n.toNat = 0x0C5 → ∃ t, exec (.controllerRegisterWrite n v) s = .next t
        ∧ WritesCr s t [(0x0C5, masked (s.core.crGet 0x0C5) v 0xFF#64)]))
    ∧ (∀ (n : BitVec 19) (v : Word64) s, ∃ t, exec (.vectorStatusAccess n v) s = .next t
      ∧ t = { s with core := { s.core with cr := t.core.cr } }
      ∧ (∀ u < 2, n.toNat = 0x020 + u →
        (∀ f < 7, t.core.crGet (0x022 + 8 * u + f) = if v.getLsbD f = true then 0#64 else s.core.crGet (0x022 + 8 * u + f))
          ∧ ∀ k, k < 0x022 + 8 * u ∨ 0x029 + 8 * u ≤ k → t.core.crGet k = s.core.crGet k)
      ∧ (0x022 ≤ n.toNat → n.toNat ≤ 0x030 → crAccess n.toNat = some .w1c → ∀ k, t.core.crGet k
        = if k = n.toNat then s.core.crGet k &&& ~~~v else s.core.crGet k))
    ∧ (∀ (v : Word64) s, ∃ t, exec (.evpendClear v) s = .next t ∧ WritesCr s t [(0x042, s.core.crGet 0x042 &&& ~~~v)])
    ∧ ∀ (v : Word64) s, ∃ t, exec (.frlqWrite v) s = .next t
      ∧ WritesCr s t [(0x00F, masked (s.core.crGet 0x00F) v 0x803FFFFFFFFFFFC0#64)]

/-- R5, R404, R409, R455, R456, R459, R460: a corrected error is counted, and asks for a replacement past its threshold; a fatal
error stops both controllers, sets FATAL and writes its dump, where the dump's place is memory; the resets bring
the device back to its reset state, but for FATAL, which only a function-level reset leaves, while what the host has received stays; an image that
is the next in order and passes its checks is loaded and measured into MEAS, and one that fails sets BOOTERR to the number of its first
failing check; attestation answers with the key, the number, the measurement and
a signature; a retired core or slice is gone, and a replacement is asked for. What stays over a reset, the bodies of the
cryptographic functions and what becomes of a dump that has no memory are the model's choices (log entries 33, 34 and 37). -/
def Obligations.ErrorsResetsBoot : Prop :=
  (∀ (reader : Option (BitVec 7)) s, let old := (s.devGet 0x10A).toNat
      let limit := (s.devGet 0x10B).toNat
      ∃ t, exec (.correctedError reader) s = .next t ∧ t.devGet 0x10A = BitVec.ofNat 64 ((old + 1) % 2 ^ 32) ∧ t.core = s.core ∧ t.mem = s.mem
        ∧ (limit ≠ 0 → old ≤ limit → limit < (old + 1) % 2 ^ 32 → AsksReplacement t 3)
        ∧ (∀ k, reader = some k → ∀ m ∈ t.launches, m.key = (s.coreAt k).launchKey → m.verdict ≠ 0#2))
    ∧ (∀ (cause : BitVec 8) s, let base := bitsOf (s.devGet 0x106) 20 26 * 2 ^ 20
      ∃ t, exec (.fatalError cause) s = .next t ∧ (t.devGet 0x100).getLsbD 1 = true ∧ t.east.stopped = true ∧ t.west.stopped = true
        ∧ t.core = s.core ∧ (isRaw base = false → t.mem = s.mem)
        ∧ (isRaw base = true → t.num base 4 = 0xDEAD + cause.toNat * 2 ^ 16 ∧ t.num (base + 8) 8 = s.time.toNat
          ∧ ∀ l, l < base ∨ base + 0x4800 ≤ l → t.byte l = s.byte l))
    ∧ (∀ s, let t : State := { State.reset with
        agenda := s.agenda, turn := s.turn, picks := s.picks, tick := s.tick, hostWrites := s.hostWrites, hostReads := s.hostReads, answers := s.answers
        msixSent := s.msixSent }
      ((s.devGet 0x100).getLsbD 1 = false → exec .deviceReset s = .next t) ∧ exec .functionLevelReset s = .next t
        ∧ ((s.devGet 0x100).getLsbD 1 = true → exec .deviceReset s = .next s))
    ∧ (∀ (i : BootImage) s, let field := fun o n => (i.header.drop o).take n
      let kind := leNat (field 2 1)
      let pa := leNat (field 0x10 8)
      let slot := leNat (field 3 1) % 4
      let good := imageSound i = true ∧ kind = s.bootNext ∧ kind ≤ 3
      let error := if Config.sha512 (field 0x18 32) ≠ Config.keySlot slot then 1
        else if Config.slotRevoked slot = true then 2
        else if leNat (field 4 4) < Config.svnFuse kind then 3
        else if Config.edVerify (BitVec.ofNat 256 (leNat (field 0x18 32))) (field 0 0x38 ++ i.body)
          (BitVec.ofNat 512 (leNat (field 0x38 64))) = false then 4 else 0
      let measured := Config.sha512 (s.meas ++ leBytes 64 (Config.sha512 (i.header ++ i.body)).toNat)
      let offer (n : Instr) (u : State) : Prop :=
        (¬good → exec n s = .next u)
        ∧ (good → error = 0 → ∃ t, exec n s = .next t ∧ t.bootNext = s.bootNext + 1 ∧ t.bytes pa i.body.length = i.body
          ∧ (∀ l, l < pa ∨ pa + i.body.length ≤ l → t.byte l = s.byte l) ∧ t.core = s.core
          ∧ (∀ k < 8, t.devGet (0x110 + k) = (measured >>> (64 * k)).setWidth 64)
          ∧ (kind = 2 → ∀ die, (t.ctl die).cpu.mode = .running ∧ (t.ctl die).cpu.pc = BitVec.ofNat 48 pa)
          ∧ (s.bootNext = 3 → (t.devGet 0x100).getLsbD 0 = true) ∧ (s.bootNext ≠ 3 → t.devGet 0x100 = s.devGet 0x100))
        ∧ (good → error ≠ 0 → ∃ t, exec n s = .next t ∧ bitsOf (t.devGet 0x100) 4 4 = error ∧ t = { u with dev := t.dev }
          ∧ ∀ m, m ≠ 0x100 → t.devGet m = s.devGet m)
      offer (.bootImageLoad i) { s with imageCame := true }
        ∧ (1000000000 ≤ s.clock → s.imageCame = false → offer (.bootFlashTimeout i) s)
        ∧ (s.clock < 1000000000 ∨ s.imageCame = true → exec (.bootFlashTimeout i) s = .next s))
    ∧ (∀ (nonce : List Byte) s, (nonce.length ≠ 32 → exec (.attestationCommand nonce) s = .next s)
      ∧ (nonce.length = 32 →
        let meas := (List.range 8).flatMap fun k => leBytes 8 (s.devGet (0x110 + k)).toNat
        let serial := leBytes 8 Config.serial.toNat
        exec (.attestationCommand nonce) s = .next { s with answers := s.answers ++ [(0x200000,
          leBytes 32 (Config.edPublic Config.deviceSeed).toNat ++ serial ++ meas
            ++ leBytes 64 (Config.edSign Config.deviceSeed (meas ++ nonce ++ serial)).toNat)] }))
    ∧ ∀ (slice : Bool) (k : BitVec 7) s, ∃ t, exec (.coreOrSliceRetired slice k) s = .next t ∧ AsksReplacement t 2 ∧ t.core = s.core
      ∧ t.mem = s.mem ∧ (slice = false → t.coreGone k = true) ∧ (slice = true → t.sliceGone (k.setWidth 6) = true)

/-! ### Encoding (R29 to R63) -/

/-- R51 to R60: words written out from the spec's formats and examples, with the bits lent to them, and what each stands for. -/
def Obligations.WordsDecode : Prop :=
  (decodeSlot .s 0x04050425#32 none = .ok (.div ⟨0#4, 5#6, 1#6, 2#6⟩)
    ∧ decodeSlot .s 0x400903DB#32 (some 3#9) = .ok (.movi ⟨0#4, 9#6, 0xFDB#19⟩)
    ∧ decodeSlot .s 0x48040A06#32 none = .ok (.ld ⟨0#4, 4#6, 2#6, 4#3, 6#16⟩)
    ∧ decodeSlot .s 0x64011E00#32 none = .ok (.rwopen ⟨0#4, 1#6, 7#6⟩)
    ∧ decodeSlot .s 0x680A0060#32 none = .ok (.fence ⟨0#4, 10#6, 3#3⟩)
    ∧ decodeSlot .s 0x7C070126#32 none = .ok (.shw ⟨0#4, 7#6, 2#3, 1#2, 6#5⟩)
    ∧ decodeSlot .s 0xA8080000#32 none = .ok (.loopn ⟨1#3, 0#19⟩))
    ∧ (decodeSlot .v 0x04060C40#32 (some 0x40#9) = .ok (.vadd ⟨0#4, 70#9, 3#9, 4#9, 0#2, false⟩)
    ∧ decodeSlot .v 0xB0020430#32 none = .ok (.vatom ⟨0#4, 2#9, 1#6, 3#9, 0#3, 0#2, false, false⟩)
    ∧ decodeSlot .m 0x0C128220#32 none = .ok (.mma ⟨0#4, 2#3, 5#4, 1#2, false, false, 8#5⟩)
    ∧ decodeSlot .n 0x081B3C01#32 none = .ok (.lscan ⟨0#4, 3#3, 6#4, 7#4, 2#2, false, false, true⟩)
    ∧ decodeSlot .c 0x0C01511A#32 none = .ok (.cpym ⟨0#4, 0#5, 10#4, 8#4, 2#2, false, 1#2, some 0#8⟩)
    ∧ decodeSlot .c 0x20046100#32 none = .ok (.binit ⟨0#4, 17#8, 4#3, 2#4⟩))

/-- R29 to R60: every well-formed slot instruction has a word of 32 bits, with bits lent to it if it needs them, that decodes to it in
its own slot class, with every operand at every value the encoding admits. -/
def Obligations.EncodeDecodeRoundTrip : Prop :=
  ∀ i k, i.slotClass = some k → i.wellFormed = true →
    ∃ e, encode i = some e ∧ e.word < 2 ^ 32 ∧ decodeSlot k (BitVec.ofNat 32 e.word) e.lend = .ok i

/-! ### Reset and the whole machine (R5, R73, R78 to R80, R90, R154, R414, R446, R461) -/

/-- R73, R78 to R80, R90, R154, R225, R255, R290, R313, R336, R337, R364, R414, R446, R461: what reset leaves, where the spec says
so: every control register of every core and of the device as MFC reads it (the free ones, the fuses and the boot record apart),
the guards, the address registers, the shapes and their shadows, the meters, and the words of every link direction. Registers the
spec gives no reset value are not in it (log entry 5). -/
def Obligations.ResetValues : Prop :=
  (∀ (k : BitVec 7) (n : Nat), crAccess n ≠ none → n ∉ [0x00B, 0x100, 0x101, 0x102, 0x103, 0x10C] → ¬(0x110 ≤ n ∧ n ≤ 0x117) →
      (State.reset.focus k).readCr n =
        if n = 0x000 then 1#64
        else if n = 0x00C then k.setWidth 64
        else if n = 0x010 then 0x8000#64
        else if 0x011 ≤ n ∧ n ≤ 0x013 then BitVec.ofNat 64 ((n - 0x010) * 2 ^ 27)
        else if 0x014 ≤ n ∧ n ≤ 0x017 then 0x20000000#64
        else if n = 0x01F then 0xF8#64
        else if n = 0x040 ∨ n = 0x041 then 0x7FFFF#64
        else if n = 0x107 then 0x3FF#64
        else 0#64)
    ∧ (∀ k : BitVec 7, let c := State.reset.coreAt k
      c.id = k ∧ c.gReg 0#3 = 0xFFFFFFFF#32 ∧ (∀ g, g ≠ 0#3 → c.gReg g = 0#32) ∧ (∀ x, c.xReg x = 0#32)
        ∧ ∀ i h, i < 6 → h < 4 → c.shapeAt i h = 0x2000#128 ∧ c.shadowAt i h = 0x2000#128)
    ∧ State.reset.time = 0#64 ∧ (∀ m, Cells.get 0#64 State.reset.meters m = 0#64)
    ∧ ∀ inward n, let l := State.reset.link inward n
      l.ctl = 0x1FFFE0#64 ∧ l.win = 0#64 ∧ l.up = 0#2 ∧ l.replay = 0#32

/-- Reset meets the invariant: memory and poison are in their one form. The form is the model's own (log entry 4). -/
def Obligations.ResetMeetsInvariant : Prop := State.reset.Inv

/-- Every step keeps the invariant, from every state that meets it, whatever its schedule holds: the byte storage of the device
and the poison marks (R119) stay in the one form that makes equal storage equal data. The form is its own (log entry 4). -/
def Obligations.InvariantKept : Prop :=
  ∀ s t : State, s.Inv → step s = .next t → t.Inv
end

