-- ==== Sys2Proof/Laws/Cells.lean ====
section
/-! SUPPORT. The laws of the sparse tables: reading after writing, and that every operation keeps the canonical form. -/

namespace Sys2Proof

variable {w : Nat} {d : BitVec w}

/-! ### Reading -/

@[simp] theorem Cells.get_nil (i : Nat) : Cells.get d [] i = d := rfl

theorem Cells.get_cons (k : Nat) (v : BitVec w) (t : Cells w) (i : Nat) :
    Cells.get d ((k, v) :: t) i = if k = i then v else Cells.get d t i := rfl

theorem Cells.get_erase (m : Cells w) (i j : Nat) :
    Cells.get d (Cells.erase m i) j = if j = i then d else Cells.get d m j := by
  induction m with
  | nil => simp [Cells.erase]
  | cons c t ih =>
    obtain ⟨k, v⟩ := c
    by_cases hk : k = i
    · simp only [Cells.erase, hk, if_true, ih, Cells.get_cons]
      by_cases hj : j = i
      · simp [hj]
      · simp [hj, Ne.symm hj]
    · simp only [Cells.erase, hk, if_false, Cells.get_cons, ih]
      by_cases hj : k = j
      · simp [← hj, hk]
      · simp [hj]

theorem Cells.get_insert_ne (m : Cells w) {i j : Nat} (v : BitVec w) (h : j ≠ i) :
    Cells.get d (Cells.insert m i v) j = Cells.get d m j := by
  induction m with
  | nil => simp [Cells.insert, Cells.get_cons, Ne.symm h]
  | cons c t ih =>
    obtain ⟨k, u⟩ := c
    by_cases hk : i < k
    · simp [Cells.insert, hk, Cells.get_cons, Ne.symm h]
    · simp [Cells.insert, hk, Cells.get_cons, ih]

theorem Cells.get_insert_self (m : Cells w) (i : Nat) (v : BitVec w) (h : ∀ c ∈ m, c.1 ≠ i) :
    Cells.get d (Cells.insert m i v) i = v := by
  induction m with
  | nil => simp [Cells.insert, Cells.get_cons]
  | cons c t ih =>
    obtain ⟨k, u⟩ := c
    have hk : k ≠ i := h (k, u) (by simp)
    by_cases hlt : i < k
    · simp [Cells.insert, hlt, Cells.get_cons]
    · simp [Cells.insert, hlt, Cells.get_cons, hk, ih fun c hc => h c (by simp [hc])]

theorem Cells.mem_erase {m : Cells w} {i : Nat} {c : Nat × BitVec w} :
    c ∈ Cells.erase m i ↔ c ∈ m ∧ c.1 ≠ i := by
  induction m with
  | nil => simp [Cells.erase]
  | cons e t ih =>
    obtain ⟨k, v⟩ := e
    by_cases hk : k = i
    · simp only [Cells.erase, hk, if_true, ih, List.mem_cons]
      constructor
      · exact fun h => ⟨.inr h.1, h.2⟩
      · rintro ⟨rfl | h, h2⟩
        · exact absurd rfl h2
        · exact ⟨h, h2⟩
    · simp only [Cells.erase, hk, if_false, List.mem_cons, ih]
      constructor
      · rintro (rfl | h)
        · exact ⟨.inl rfl, hk⟩
        · exact ⟨.inr h.1, h.2⟩
      · rintro ⟨rfl | h, h2⟩
        · exact .inl rfl
        · exact .inr ⟨h, h2⟩

/-- Reading after a write. -/
theorem Cells.get_put (m : Cells w) (i j : Nat) (v : BitVec w) :
    Cells.get d (Cells.put d m i v) j = if j = i then v else Cells.get d m j := by
  unfold Cells.put
  by_cases hv : v = d
  · simp only [hv, if_true, Cells.get_erase]
  · by_cases hj : j = i
    · subst hj
      simp only [hv, if_false, if_true]
      exact Cells.get_insert_self _ _ _ fun c hc => (Cells.mem_erase.mp hc).2
    · simp [hv, hj, Cells.get_insert_ne _ _ hj, Cells.get_erase]

theorem Cells.get_clear (m : Cells w) (lo n j : Nat) :
    Cells.get d (Cells.clear m lo n) j = if lo ≤ j ∧ j < lo + n then d else Cells.get d m j := by
  induction m with
  | nil => simp [Cells.clear]
  | cons c t ih =>
    obtain ⟨k, v⟩ := c
    have ih' : Cells.get d (List.filter (fun c => decide (c.1 < lo) || decide (lo + n ≤ c.1)) t) j
        = if lo ≤ j ∧ j < lo + n then d else Cells.get d t j := ih
    by_cases hk : k < lo ∨ lo + n ≤ k
    · have : (decide (k < lo) || decide (lo + n ≤ k)) = true := by simpa using hk
      simp only [Cells.clear, List.filter_cons, this, if_true, Cells.get_cons, ih']
      by_cases hj : k = j
      · have : ¬(lo ≤ j ∧ j < lo + n) := by omega
        simp [hj, this]
      · simp [hj]
    · have : (decide (k < lo) || decide (lo + n ≤ k)) = false := by simpa using hk
      simp only [Cells.clear, List.filter_cons, this, Bool.false_eq_true, if_false, Cells.get_cons, ih']
      by_cases hj : k = j
      · have : lo ≤ j ∧ j < lo + n := by omega
        simp [this]
      · simp [hj]

theorem Cells.get_putN (m : Cells w) (i : Nat) (vs : List (BitVec w)) (j : Nat) :
    Cells.get d (Cells.putN d m i vs) j = if i ≤ j then vs.getD (j - i) (Cells.get d m j) else Cells.get d m j := by
  induction vs generalizing m i with
  | nil => simp [Cells.putN]
  | cons v t ih =>
    rw [Cells.putN, ih, Cells.get_put]
    by_cases h1 : i + 1 ≤ j
    · have : j ≠ i := by omega
      have : j - i = (j - (i + 1)) + 1 := by omega
      simp [h1, show i ≤ j by omega, ‹j ≠ i›, this]
    · by_cases h2 : j = i
      · subst h2
        simp
      · simp [h1, h2, show ¬ i ≤ j by omega]

@[simp] theorem Cells.length_getN (m : Cells w) (i n : Nat) : (Cells.getN d m i n).length = n := by
  induction n generalizing i with
  | zero => rfl
  | succ n ih => simp [Cells.getN, ih]

theorem Cells.getN_getD (m : Cells w) (i n k : Nat) (u : BitVec w) (h : k < n) :
    (Cells.getN d m i n).getD k u = Cells.get d m (i + k) := by
  induction n generalizing i k with
  | zero => omega
  | succ n ih =>
    cases k with
    | zero => simp [Cells.getN]
    | succ k =>
      have := ih (i + 1) k (by omega)
      simp only [Cells.getN, List.getD_cons_succ, this]
      congr 1
      omega

/-! ### The canonical form -/

theorem Cells.wf_iff (m : Cells w) :
    Cells.wf d m = true ↔ m.Pairwise (fun a b => a.1 < b.1) ∧ ∀ c ∈ m, c.2 ≠ d := by
  induction m with
  | nil => simp [Cells.wf]
  | cons c t ih =>
    obtain ⟨k, v⟩ := c
    cases t with
    | nil => simp [Cells.wf]
    | cons e t =>
      obtain ⟨j, u⟩ := e
      rw [Cells.wf, Bool.and_eq_true, Bool.and_eq_true, ih]
      simp only [bne_iff_ne, decide_eq_true_eq, List.pairwise_cons, List.mem_cons, forall_eq_or_imp]
      constructor
      · rintro ⟨⟨hv, hk⟩, ⟨hj, hp⟩, hu, ht⟩
        exact ⟨⟨⟨hk, fun a ha => lt_trans hk (hj a ha)⟩, hj, hp⟩, hv, hu, ht⟩
      · rintro ⟨⟨⟨hk, _⟩, hj, hp⟩, hv, hu, ht⟩
        exact ⟨⟨hv, hk⟩, ⟨hj, hp⟩, hu, ht⟩

theorem Cells.erase_eq_filter (m : Cells w) (i : Nat) : Cells.erase m i = m.filter fun c => c.1 != i := by
  induction m with
  | nil => rfl
  | cons c t ih =>
    obtain ⟨k, v⟩ := c
    by_cases hk : k = i <;> simp [Cells.erase, hk, ih]

theorem Cells.wf_filter {m : Cells w} (h : Cells.wf d m = true) (p : Nat × BitVec w → Bool) :
    Cells.wf d (m.filter p) = true := by
  rw [Cells.wf_iff] at *
  exact ⟨h.1.filter p, fun c hc => h.2 c (List.mem_of_mem_filter hc)⟩

theorem Cells.wf_erase {m : Cells w} (h : Cells.wf d m = true) (i : Nat) : Cells.wf d (Cells.erase m i) = true := by
  rw [Cells.erase_eq_filter]
  exact Cells.wf_filter h _

theorem Cells.mem_insert {m : Cells w} {i : Nat} {v : BitVec w} {c : Nat × BitVec w} :
    c ∈ Cells.insert m i v ↔ c = (i, v) ∨ c ∈ m := by
  induction m with
  | nil => simp [Cells.insert]
  | cons e t ih =>
    obtain ⟨k, u⟩ := e
    by_cases hk : i < k
    · simp [Cells.insert, hk]
    · simp only [Cells.insert, hk, if_false, List.mem_cons, ih]
      tauto

theorem Cells.wf_insert {m : Cells w} (h : Cells.wf d m = true) {i : Nat} {v : BitVec w} (hv : v ≠ d)
    (hi : ∀ c ∈ m, c.1 ≠ i) : Cells.wf d (Cells.insert m i v) = true := by
  rw [Cells.wf_iff] at *
  refine ⟨?_, fun c hc => ?_⟩
  · replace h := h.1
    induction m with
    | nil => simp [Cells.insert]
    | cons e t ih =>
      obtain ⟨k, u⟩ := e
      have hk : k ≠ i := hi (k, u) (by simp)
      rw [List.pairwise_cons] at h
      by_cases hlt : i < k
      · rw [Cells.insert, if_pos hlt, List.pairwise_cons, List.pairwise_cons]
        exact ⟨List.forall_mem_cons.mpr ⟨hlt, fun a ha => lt_trans hlt (h.1 a ha)⟩, h⟩
      · simp only [Cells.insert, hlt, if_false, List.pairwise_cons, Cells.mem_insert]
        refine ⟨?_, ih (fun c hc => hi c (by simp [hc])) h.2⟩
        rintro a (rfl | ha)
        · show k < i
          omega
        · exact h.1 a ha
  · rcases Cells.mem_insert.mp hc with rfl | hc
    · exact hv
    · exact h.2 c hc

/-- A write keeps the canonical form. -/
theorem Cells.wf_put {m : Cells w} (h : Cells.wf d m = true) (i : Nat) (v : BitVec w) :
    Cells.wf d (Cells.put d m i v) = true := by
  unfold Cells.put
  split
  · exact Cells.wf_erase h i
  · exact Cells.wf_insert (Cells.wf_erase h i) ‹_› fun c hc => (Cells.mem_erase.mp hc).2

theorem Cells.wf_clear {m : Cells w} (h : Cells.wf d m = true) (lo n : Nat) : Cells.wf d (Cells.clear m lo n) = true :=
  Cells.wf_filter h _

theorem Cells.wf_putN {m : Cells w} (h : Cells.wf d m = true) (i : Nat) (vs : List (BitVec w)) :
    Cells.wf d (Cells.putN d m i vs) = true := by
  induction vs generalizing m i with
  | nil => exact h
  | cons v t ih => exact ih (Cells.wf_put h i v) _

/-- Writes one by one keep it, whatever list gives their places and values. -/
theorem Cells.wf_foldl_put {α : Type} (l : List α) (f : α → Nat) (g : α → BitVec w) {m : Cells w}
    (h : Cells.wf d m = true) : Cells.wf d (l.foldl (fun t a => Cells.put d t (f a) (g a)) m) = true := by
  induction l generalizing m with
  | nil => exact h
  | cons a t ih => exact ih (Cells.wf_put h _ _)

theorem Cells.wf_putAll {m : Cells w} (h : Cells.wf d m = true) (cs : List (Nat × BitVec w)) :
    Cells.wf d (Cells.putAll d m cs) = true := Cells.wf_foldl_put cs _ _ h

theorem Cells.wf_copy {m : Cells w} (h : Cells.wf d m = true) (src dst n : Nat) :
    Cells.wf d (Cells.copy d m src dst n) = true := Cells.wf_putAll (Cells.wf_clear h _ _) _

/-! ### Bytes and numbers (R4) -/

@[simp] theorem length_leBytes (n v : Nat) : (leBytes n v).length = n := by
  induction n generalizing v with
  | zero => rfl
  | succ n ih => simp [leBytes, ih]

/-- R4: the bytes of a number give it back. -/
theorem leNat_leBytes (n v : Nat) : leNat (leBytes n v) = v % 256 ^ n := by
  induction n generalizing v with
  | zero => simp [leBytes, leNat, Nat.mod_one]
  | succ n ih =>
    have := Nat.mod_mul (x := v) (a := 256) (b := 256 ^ n)
    have h : (BitVec.ofNat 8 v).toNat = v % 256 := BitVec.toNat_ofNat v 8
    rw [leBytes, leNat, ih, h, ← this, pow_succ, Nat.mul_comm]

theorem leNat_lt (bs : List Byte) : leNat bs < 256 ^ bs.length := by
  induction bs with
  | nil => simp [leNat]
  | cons b t ih =>
    have := b.isLt
    simp only [leNat, List.length_cons, Nat.pow_succ']
    omega

end Sys2Proof
end

