-- ==== Sys2Proof/Laws/State.lean ====
section
/-! SUPPORT. One lemma for each field of the state and each plain update: what the update makes of the field. -/

namespace Sys2Proof.Machine

/-! ### State.upd -/

section
variable (s : State) (f : CoreState → CoreState)

@[simp] theorem State.upd_core : (s.upd f).core = f s.core := rfl
@[simp] theorem State.upd_parked : (s.upd f).parked = s.parked := rfl
@[simp] theorem State.upd_mem : (s.upd f).mem = s.mem := rfl
@[simp] theorem State.upd_poison : (s.upd f).poison = s.poison := rfl
@[simp] theorem State.upd_l1 : (s.upd f).l1 = s.l1 := rfl
@[simp] theorem State.upd_tlb : (s.upd f).tlb = s.tlb := rfl
@[simp] theorem State.upd_dev : (s.upd f).dev = s.dev := rfl
@[simp] theorem State.upd_time : (s.upd f).time = s.time := rfl
@[simp] theorem State.upd_clock : (s.upd f).clock = s.clock := rfl
@[simp] theorem State.upd_slowing : (s.upd f).slowing = s.slowing := rfl
@[simp] theorem State.upd_packets : (s.upd f).packets = s.packets := rfl
@[simp] theorem State.upd_reserved : (s.upd f).reserved = s.reserved := rfl
@[simp] theorem State.upd_reqs : (s.upd f).reqs = s.reqs := rfl
@[simp] theorem State.upd_replies : (s.upd f).replies = s.replies := rfl
@[simp] theorem State.upd_lines : (s.upd f).lines = s.lines := rfl
@[simp] theorem State.upd_misses : (s.upd f).misses = s.misses := rfl
@[simp] theorem State.upd_missing : (s.upd f).missing = s.missing := rfl
@[simp] theorem State.upd_notices : (s.upd f).notices = s.notices := rfl
@[simp] theorem State.upd_decoded : (s.upd f).decoded = s.decoded := rfl
@[simp] theorem State.upd_decodes : (s.upd f).decodes = s.decodes := rfl
@[simp] theorem State.upd_waiters : (s.upd f).waiters = s.waiters := rfl
@[simp] theorem State.upd_released : (s.upd f).released = s.released := rfl
@[simp] theorem State.upd_withdrawals : (s.upd f).withdrawals = s.withdrawals := rfl
@[simp] theorem State.upd_peekBad : (s.upd f).peekBad = s.peekBad := rfl
@[simp] theorem State.upd_podBack : (s.upd f).podBack = s.podBack := rfl
@[simp] theorem State.upd_windows : (s.upd f).windows = s.windows := rfl
@[simp] theorem State.upd_heldUpds : (s.upd f).heldUpds = s.heldUpds := rfl
@[simp] theorem State.upd_links : (s.upd f).links = s.links := rfl
@[simp] theorem State.upd_remotes : (s.upd f).remotes = s.remotes := rfl
@[simp] theorem State.upd_transits : (s.upd f).transits = s.transits := rfl
@[simp] theorem State.upd_peerOut : (s.upd f).peerOut = s.peerOut := rfl
@[simp] theorem State.upd_esns : (s.upd f).esns = s.esns := rfl
@[simp] theorem State.upd_resetPermits : (s.upd f).resetPermits = s.resetPermits := rfl
@[simp] theorem State.upd_peerAnswers : (s.upd f).peerAnswers = s.peerAnswers := rfl
@[simp] theorem State.upd_launches : (s.upd f).launches = s.launches := rfl
@[simp] theorem State.upd_launchQueues : (s.upd f).launchQueues = s.launchQueues := rfl
@[simp] theorem State.upd_east : (s.upd f).east = s.east := rfl
@[simp] theorem State.upd_west : (s.upd f).west = s.west := rfl
@[simp] theorem State.upd_charged : (s.upd f).charged = s.charged := rfl
@[simp] theorem State.upd_meters : (s.upd f).meters = s.meters := rfl
@[simp] theorem State.upd_qwCfg : (s.upd f).qwCfg = s.qwCfg := rfl
@[simp] theorem State.upd_qwStage : (s.upd f).qwStage = s.qwStage := rfl
@[simp] theorem State.upd_qwStatus : (s.upd f).qwStatus = s.qwStatus := rfl
@[simp] theorem State.upd_msixTable : (s.upd f).msixTable = s.msixTable := rfl
@[simp] theorem State.upd_msixPending : (s.upd f).msixPending = s.msixPending := rfl
@[simp] theorem State.upd_msixSent : (s.upd f).msixSent = s.msixSent := rfl
@[simp] theorem State.upd_hostWrites : (s.upd f).hostWrites = s.hostWrites := rfl
@[simp] theorem State.upd_hostReads : (s.upd f).hostReads = s.hostReads := rfl
@[simp] theorem State.upd_answers : (s.upd f).answers = s.answers := rfl
@[simp] theorem State.upd_hostOps : (s.upd f).hostOps = s.hostOps := rfl
@[simp] theorem State.upd_heldWrites : (s.upd f).heldWrites = s.heldWrites := rfl
@[simp] theorem State.upd_aer : (s.upd f).aer = s.aer := rfl
@[simp] theorem State.upd_mailbox : (s.upd f).mailbox = s.mailbox := rfl
@[simp] theorem State.upd_bootNext : (s.upd f).bootNext = s.bootNext := rfl
@[simp] theorem State.upd_imageCame : (s.upd f).imageCame = s.imageCame := rfl
@[simp] theorem State.upd_retiredCores : (s.upd f).retiredCores = s.retiredCores := rfl
@[simp] theorem State.upd_retiredSlices : (s.upd f).retiredSlices = s.retiredSlices := rfl
@[simp] theorem State.upd_stamps : (s.upd f).stamps = s.stamps := rfl
@[simp] theorem State.upd_agenda : (s.upd f).agenda = s.agenda := rfl
@[simp] theorem State.upd_turn : (s.upd f).turn = s.turn := rfl
@[simp] theorem State.upd_picks : (s.upd f).picks = s.picks := rfl
@[simp] theorem State.upd_tick : (s.upd f).tick = s.tick := rfl
@[simp] theorem State.upd_uid : (s.upd f).uid = s.uid := rfl

end

/-! ### State.ticked -/

section
variable (s : State)

@[simp] theorem State.ticked_core : (s.ticked).core = s.core := rfl
@[simp] theorem State.ticked_parked : (s.ticked).parked = s.parked := rfl
@[simp] theorem State.ticked_mem : (s.ticked).mem = s.mem := rfl
@[simp] theorem State.ticked_poison : (s.ticked).poison = s.poison := rfl
@[simp] theorem State.ticked_l1 : (s.ticked).l1 = s.l1 := rfl
@[simp] theorem State.ticked_tlb : (s.ticked).tlb = s.tlb := rfl
@[simp] theorem State.ticked_dev : (s.ticked).dev = s.dev := rfl
@[simp] theorem State.ticked_time : (s.ticked).time = s.time := rfl
@[simp] theorem State.ticked_clock : (s.ticked).clock = s.clock := rfl
@[simp] theorem State.ticked_slowing : (s.ticked).slowing = s.slowing := rfl
@[simp] theorem State.ticked_packets : (s.ticked).packets = s.packets := rfl
@[simp] theorem State.ticked_reserved : (s.ticked).reserved = s.reserved := rfl
@[simp] theorem State.ticked_reqs : (s.ticked).reqs = s.reqs := rfl
@[simp] theorem State.ticked_replies : (s.ticked).replies = s.replies := rfl
@[simp] theorem State.ticked_lines : (s.ticked).lines = s.lines := rfl
@[simp] theorem State.ticked_misses : (s.ticked).misses = s.misses := rfl
@[simp] theorem State.ticked_missing : (s.ticked).missing = s.missing := rfl
@[simp] theorem State.ticked_notices : (s.ticked).notices = s.notices := rfl
@[simp] theorem State.ticked_decoded : (s.ticked).decoded = s.decoded := rfl
@[simp] theorem State.ticked_decodes : (s.ticked).decodes = s.decodes := rfl
@[simp] theorem State.ticked_waiters : (s.ticked).waiters = s.waiters := rfl
@[simp] theorem State.ticked_released : (s.ticked).released = s.released := rfl
@[simp] theorem State.ticked_withdrawals : (s.ticked).withdrawals = s.withdrawals := rfl
@[simp] theorem State.ticked_peekBad : (s.ticked).peekBad = s.peekBad := rfl
@[simp] theorem State.ticked_podBack : (s.ticked).podBack = s.podBack := rfl
@[simp] theorem State.ticked_windows : (s.ticked).windows = s.windows := rfl
@[simp] theorem State.ticked_heldUpds : (s.ticked).heldUpds = s.heldUpds := rfl
@[simp] theorem State.ticked_links : (s.ticked).links = s.links := rfl
@[simp] theorem State.ticked_remotes : (s.ticked).remotes = s.remotes := rfl
@[simp] theorem State.ticked_transits : (s.ticked).transits = s.transits := rfl
@[simp] theorem State.ticked_peerOut : (s.ticked).peerOut = s.peerOut := rfl
@[simp] theorem State.ticked_esns : (s.ticked).esns = s.esns := rfl
@[simp] theorem State.ticked_resetPermits : (s.ticked).resetPermits = s.resetPermits := rfl
@[simp] theorem State.ticked_peerAnswers : (s.ticked).peerAnswers = s.peerAnswers := rfl
@[simp] theorem State.ticked_launches : (s.ticked).launches = s.launches := rfl
@[simp] theorem State.ticked_launchQueues : (s.ticked).launchQueues = s.launchQueues := rfl
@[simp] theorem State.ticked_east : (s.ticked).east = s.east := rfl
@[simp] theorem State.ticked_west : (s.ticked).west = s.west := rfl
@[simp] theorem State.ticked_charged : (s.ticked).charged = s.charged := rfl
@[simp] theorem State.ticked_meters : (s.ticked).meters = s.meters := rfl
@[simp] theorem State.ticked_qwCfg : (s.ticked).qwCfg = s.qwCfg := rfl
@[simp] theorem State.ticked_qwStage : (s.ticked).qwStage = s.qwStage := rfl
@[simp] theorem State.ticked_qwStatus : (s.ticked).qwStatus = s.qwStatus := rfl
@[simp] theorem State.ticked_msixTable : (s.ticked).msixTable = s.msixTable := rfl
@[simp] theorem State.ticked_msixPending : (s.ticked).msixPending = s.msixPending := rfl
@[simp] theorem State.ticked_msixSent : (s.ticked).msixSent = s.msixSent := rfl
@[simp] theorem State.ticked_hostWrites : (s.ticked).hostWrites = s.hostWrites := rfl
@[simp] theorem State.ticked_hostReads : (s.ticked).hostReads = s.hostReads := rfl
@[simp] theorem State.ticked_answers : (s.ticked).answers = s.answers := rfl
@[simp] theorem State.ticked_hostOps : (s.ticked).hostOps = s.hostOps := rfl
@[simp] theorem State.ticked_heldWrites : (s.ticked).heldWrites = s.heldWrites := rfl
@[simp] theorem State.ticked_aer : (s.ticked).aer = s.aer := rfl
@[simp] theorem State.ticked_mailbox : (s.ticked).mailbox = s.mailbox := rfl
@[simp] theorem State.ticked_bootNext : (s.ticked).bootNext = s.bootNext := rfl
@[simp] theorem State.ticked_imageCame : (s.ticked).imageCame = s.imageCame := rfl
@[simp] theorem State.ticked_retiredCores : (s.ticked).retiredCores = s.retiredCores := rfl
@[simp] theorem State.ticked_retiredSlices : (s.ticked).retiredSlices = s.retiredSlices := rfl
@[simp] theorem State.ticked_stamps : (s.ticked).stamps = s.stamps := rfl
@[simp] theorem State.ticked_agenda : (s.ticked).agenda = s.agenda := rfl
@[simp] theorem State.ticked_turn : (s.ticked).turn = s.turn := rfl
@[simp] theorem State.ticked_picks : (s.ticked).picks = s.picks := rfl
@[simp] theorem State.ticked_tick : (s.ticked).tick = s.tick + 1 := rfl
@[simp] theorem State.ticked_uid : (s.ticked).uid = s.uid := rfl

end

/-! ### State.write -/

section
variable (s : State) (loc : Nat) (bs : List Byte)

@[simp] theorem State.write_core : (s.write loc bs).core = s.core := rfl
@[simp] theorem State.write_parked : (s.write loc bs).parked = s.parked := rfl
@[simp] theorem State.write_mem : (s.write loc bs).mem = Cells.putN 0#8 s.mem loc bs := rfl
@[simp] theorem State.write_poison : (s.write loc bs).poison = Cells.clear s.poison loc bs.length := rfl
@[simp] theorem State.write_l1 : (s.write loc bs).l1 = s.l1 := rfl
@[simp] theorem State.write_tlb : (s.write loc bs).tlb = s.tlb := rfl
@[simp] theorem State.write_dev : (s.write loc bs).dev = s.dev := rfl
@[simp] theorem State.write_time : (s.write loc bs).time = s.time := rfl
@[simp] theorem State.write_clock : (s.write loc bs).clock = s.clock := rfl
@[simp] theorem State.write_slowing : (s.write loc bs).slowing = s.slowing := rfl
@[simp] theorem State.write_packets : (s.write loc bs).packets = s.packets := rfl
@[simp] theorem State.write_reserved : (s.write loc bs).reserved = s.reserved := rfl
@[simp] theorem State.write_reqs : (s.write loc bs).reqs = s.reqs := rfl
@[simp] theorem State.write_replies : (s.write loc bs).replies = s.replies := rfl
@[simp] theorem State.write_lines : (s.write loc bs).lines = s.lines := rfl
@[simp] theorem State.write_misses : (s.write loc bs).misses = s.misses := rfl
@[simp] theorem State.write_missing : (s.write loc bs).missing = s.missing := rfl
@[simp] theorem State.write_notices : (s.write loc bs).notices = s.notices := rfl
@[simp] theorem State.write_decoded : (s.write loc bs).decoded = s.decoded := rfl
@[simp] theorem State.write_decodes : (s.write loc bs).decodes = s.decodes := rfl
@[simp] theorem State.write_waiters : (s.write loc bs).waiters = s.waiters := rfl
@[simp] theorem State.write_released : (s.write loc bs).released = s.released := rfl
@[simp] theorem State.write_withdrawals : (s.write loc bs).withdrawals = s.withdrawals := rfl
@[simp] theorem State.write_peekBad : (s.write loc bs).peekBad = s.peekBad := rfl
@[simp] theorem State.write_podBack : (s.write loc bs).podBack = s.podBack := rfl
@[simp] theorem State.write_windows : (s.write loc bs).windows = s.windows := rfl
@[simp] theorem State.write_heldUpds : (s.write loc bs).heldUpds = s.heldUpds := rfl
@[simp] theorem State.write_links : (s.write loc bs).links = s.links := rfl
@[simp] theorem State.write_remotes : (s.write loc bs).remotes = s.remotes := rfl
@[simp] theorem State.write_transits : (s.write loc bs).transits = s.transits := rfl
@[simp] theorem State.write_peerOut : (s.write loc bs).peerOut = s.peerOut := rfl
@[simp] theorem State.write_esns : (s.write loc bs).esns = s.esns := rfl
@[simp] theorem State.write_resetPermits : (s.write loc bs).resetPermits = s.resetPermits := rfl
@[simp] theorem State.write_peerAnswers : (s.write loc bs).peerAnswers = s.peerAnswers := rfl
@[simp] theorem State.write_launches : (s.write loc bs).launches = s.launches := rfl
@[simp] theorem State.write_launchQueues : (s.write loc bs).launchQueues = s.launchQueues := rfl
@[simp] theorem State.write_east : (s.write loc bs).east = s.east := rfl
@[simp] theorem State.write_west : (s.write loc bs).west = s.west := rfl
@[simp] theorem State.write_charged : (s.write loc bs).charged = s.charged := rfl
@[simp] theorem State.write_meters : (s.write loc bs).meters = s.meters := rfl
@[simp] theorem State.write_qwCfg : (s.write loc bs).qwCfg = s.qwCfg := rfl
@[simp] theorem State.write_qwStage : (s.write loc bs).qwStage = s.qwStage := rfl
@[simp] theorem State.write_qwStatus : (s.write loc bs).qwStatus = s.qwStatus := rfl
@[simp] theorem State.write_msixTable : (s.write loc bs).msixTable = s.msixTable := rfl
@[simp] theorem State.write_msixPending : (s.write loc bs).msixPending = s.msixPending := rfl
@[simp] theorem State.write_msixSent : (s.write loc bs).msixSent = s.msixSent := rfl
@[simp] theorem State.write_hostWrites : (s.write loc bs).hostWrites = s.hostWrites := rfl
@[simp] theorem State.write_hostReads : (s.write loc bs).hostReads = s.hostReads := rfl
@[simp] theorem State.write_answers : (s.write loc bs).answers = s.answers := rfl
@[simp] theorem State.write_hostOps : (s.write loc bs).hostOps = s.hostOps := rfl
@[simp] theorem State.write_heldWrites : (s.write loc bs).heldWrites = s.heldWrites := rfl
@[simp] theorem State.write_aer : (s.write loc bs).aer = s.aer := rfl
@[simp] theorem State.write_mailbox : (s.write loc bs).mailbox = s.mailbox := rfl
@[simp] theorem State.write_bootNext : (s.write loc bs).bootNext = s.bootNext := rfl
@[simp] theorem State.write_imageCame : (s.write loc bs).imageCame = s.imageCame := rfl
@[simp] theorem State.write_retiredCores : (s.write loc bs).retiredCores = s.retiredCores := rfl
@[simp] theorem State.write_retiredSlices : (s.write loc bs).retiredSlices = s.retiredSlices := rfl
@[simp] theorem State.write_stamps : (s.write loc bs).stamps = s.stamps := rfl
@[simp] theorem State.write_agenda : (s.write loc bs).agenda = s.agenda := rfl
@[simp] theorem State.write_turn : (s.write loc bs).turn = s.turn := rfl
@[simp] theorem State.write_picks : (s.write loc bs).picks = s.picks := rfl
@[simp] theorem State.write_tick : (s.write loc bs).tick = s.tick := rfl
@[simp] theorem State.write_uid : (s.write loc bs).uid = s.uid := rfl

end

/-! ### State.setPoison -/

section
variable (s : State) (loc n : Nat)

@[simp] theorem State.setPoison_core : (s.setPoison loc n).core = s.core := rfl
@[simp] theorem State.setPoison_parked : (s.setPoison loc n).parked = s.parked := rfl
@[simp] theorem State.setPoison_mem : (s.setPoison loc n).mem = s.mem := rfl
@[simp] theorem State.setPoison_poison : (s.setPoison loc n).poison = (List.range n).foldl (fun p i => Cells.put 0#1 p (loc + i) 1#1) s.poison := rfl
@[simp] theorem State.setPoison_l1 : (s.setPoison loc n).l1 = s.l1 := rfl
@[simp] theorem State.setPoison_tlb : (s.setPoison loc n).tlb = s.tlb := rfl
@[simp] theorem State.setPoison_dev : (s.setPoison loc n).dev = s.dev := rfl
@[simp] theorem State.setPoison_time : (s.setPoison loc n).time = s.time := rfl
@[simp] theorem State.setPoison_clock : (s.setPoison loc n).clock = s.clock := rfl
@[simp] theorem State.setPoison_slowing : (s.setPoison loc n).slowing = s.slowing := rfl
@[simp] theorem State.setPoison_packets : (s.setPoison loc n).packets = s.packets := rfl
@[simp] theorem State.setPoison_reserved : (s.setPoison loc n).reserved = s.reserved := rfl
@[simp] theorem State.setPoison_reqs : (s.setPoison loc n).reqs = s.reqs := rfl
@[simp] theorem State.setPoison_replies : (s.setPoison loc n).replies = s.replies := rfl
@[simp] theorem State.setPoison_lines : (s.setPoison loc n).lines = s.lines := rfl
@[simp] theorem State.setPoison_misses : (s.setPoison loc n).misses = s.misses := rfl
@[simp] theorem State.setPoison_missing : (s.setPoison loc n).missing = s.missing := rfl
@[simp] theorem State.setPoison_notices : (s.setPoison loc n).notices = s.notices := rfl
@[simp] theorem State.setPoison_decoded : (s.setPoison loc n).decoded = s.decoded := rfl
@[simp] theorem State.setPoison_decodes : (s.setPoison loc n).decodes = s.decodes := rfl
@[simp] theorem State.setPoison_waiters : (s.setPoison loc n).waiters = s.waiters := rfl
@[simp] theorem State.setPoison_released : (s.setPoison loc n).released = s.released := rfl
@[simp] theorem State.setPoison_withdrawals : (s.setPoison loc n).withdrawals = s.withdrawals := rfl
@[simp] theorem State.setPoison_peekBad : (s.setPoison loc n).peekBad = s.peekBad := rfl
@[simp] theorem State.setPoison_podBack : (s.setPoison loc n).podBack = s.podBack := rfl
@[simp] theorem State.setPoison_windows : (s.setPoison loc n).windows = s.windows := rfl
@[simp] theorem State.setPoison_heldUpds : (s.setPoison loc n).heldUpds = s.heldUpds := rfl
@[simp] theorem State.setPoison_links : (s.setPoison loc n).links = s.links := rfl
@[simp] theorem State.setPoison_remotes : (s.setPoison loc n).remotes = s.remotes := rfl
@[simp] theorem State.setPoison_transits : (s.setPoison loc n).transits = s.transits := rfl
@[simp] theorem State.setPoison_peerOut : (s.setPoison loc n).peerOut = s.peerOut := rfl
@[simp] theorem State.setPoison_esns : (s.setPoison loc n).esns = s.esns := rfl
@[simp] theorem State.setPoison_resetPermits : (s.setPoison loc n).resetPermits = s.resetPermits := rfl
@[simp] theorem State.setPoison_peerAnswers : (s.setPoison loc n).peerAnswers = s.peerAnswers := rfl
@[simp] theorem State.setPoison_launches : (s.setPoison loc n).launches = s.launches := rfl
@[simp] theorem State.setPoison_launchQueues : (s.setPoison loc n).launchQueues = s.launchQueues := rfl
@[simp] theorem State.setPoison_east : (s.setPoison loc n).east = s.east := rfl
@[simp] theorem State.setPoison_west : (s.setPoison loc n).west = s.west := rfl
@[simp] theorem State.setPoison_charged : (s.setPoison loc n).charged = s.charged := rfl
@[simp] theorem State.setPoison_meters : (s.setPoison loc n).meters = s.meters := rfl
@[simp] theorem State.setPoison_qwCfg : (s.setPoison loc n).qwCfg = s.qwCfg := rfl
@[simp] theorem State.setPoison_qwStage : (s.setPoison loc n).qwStage = s.qwStage := rfl
@[simp] theorem State.setPoison_qwStatus : (s.setPoison loc n).qwStatus = s.qwStatus := rfl
@[simp] theorem State.setPoison_msixTable : (s.setPoison loc n).msixTable = s.msixTable := rfl
@[simp] theorem State.setPoison_msixPending : (s.setPoison loc n).msixPending = s.msixPending := rfl
@[simp] theorem State.setPoison_msixSent : (s.setPoison loc n).msixSent = s.msixSent := rfl
@[simp] theorem State.setPoison_hostWrites : (s.setPoison loc n).hostWrites = s.hostWrites := rfl
@[simp] theorem State.setPoison_hostReads : (s.setPoison loc n).hostReads = s.hostReads := rfl
@[simp] theorem State.setPoison_answers : (s.setPoison loc n).answers = s.answers := rfl
@[simp] theorem State.setPoison_hostOps : (s.setPoison loc n).hostOps = s.hostOps := rfl
@[simp] theorem State.setPoison_heldWrites : (s.setPoison loc n).heldWrites = s.heldWrites := rfl
@[simp] theorem State.setPoison_aer : (s.setPoison loc n).aer = s.aer := rfl
@[simp] theorem State.setPoison_mailbox : (s.setPoison loc n).mailbox = s.mailbox := rfl
@[simp] theorem State.setPoison_bootNext : (s.setPoison loc n).bootNext = s.bootNext := rfl
@[simp] theorem State.setPoison_imageCame : (s.setPoison loc n).imageCame = s.imageCame := rfl
@[simp] theorem State.setPoison_retiredCores : (s.setPoison loc n).retiredCores = s.retiredCores := rfl
@[simp] theorem State.setPoison_retiredSlices : (s.setPoison loc n).retiredSlices = s.retiredSlices := rfl
@[simp] theorem State.setPoison_stamps : (s.setPoison loc n).stamps = s.stamps := rfl
@[simp] theorem State.setPoison_agenda : (s.setPoison loc n).agenda = s.agenda := rfl
@[simp] theorem State.setPoison_turn : (s.setPoison loc n).turn = s.turn := rfl
@[simp] theorem State.setPoison_picks : (s.setPoison loc n).picks = s.picks := rfl
@[simp] theorem State.setPoison_tick : (s.setPoison loc n).tick = s.tick := rfl
@[simp] theorem State.setPoison_uid : (s.setPoison loc n).uid = s.uid := rfl

end

/-! ### State.devPut -/

section
variable (s : State) (n : Nat) (v : Word64)

@[simp] theorem State.devPut_core : (s.devPut n v).core = s.core := rfl
@[simp] theorem State.devPut_parked : (s.devPut n v).parked = s.parked := rfl
@[simp] theorem State.devPut_mem : (s.devPut n v).mem = s.mem := rfl
@[simp] theorem State.devPut_poison : (s.devPut n v).poison = s.poison := rfl
@[simp] theorem State.devPut_l1 : (s.devPut n v).l1 = s.l1 := rfl
@[simp] theorem State.devPut_tlb : (s.devPut n v).tlb = s.tlb := rfl
@[simp] theorem State.devPut_dev : (s.devPut n v).dev = Cells.put (Dev.reset n) s.dev n v := rfl
@[simp] theorem State.devPut_time : (s.devPut n v).time = s.time := rfl
@[simp] theorem State.devPut_clock : (s.devPut n v).clock = s.clock := rfl
@[simp] theorem State.devPut_slowing : (s.devPut n v).slowing = s.slowing := rfl
@[simp] theorem State.devPut_packets : (s.devPut n v).packets = s.packets := rfl
@[simp] theorem State.devPut_reserved : (s.devPut n v).reserved = s.reserved := rfl
@[simp] theorem State.devPut_reqs : (s.devPut n v).reqs = s.reqs := rfl
@[simp] theorem State.devPut_replies : (s.devPut n v).replies = s.replies := rfl
@[simp] theorem State.devPut_lines : (s.devPut n v).lines = s.lines := rfl
@[simp] theorem State.devPut_misses : (s.devPut n v).misses = s.misses := rfl
@[simp] theorem State.devPut_missing : (s.devPut n v).missing = s.missing := rfl
@[simp] theorem State.devPut_notices : (s.devPut n v).notices = s.notices := rfl
@[simp] theorem State.devPut_decoded : (s.devPut n v).decoded = s.decoded := rfl
@[simp] theorem State.devPut_decodes : (s.devPut n v).decodes = s.decodes := rfl
@[simp] theorem State.devPut_waiters : (s.devPut n v).waiters = s.waiters := rfl
@[simp] theorem State.devPut_released : (s.devPut n v).released = s.released := rfl
@[simp] theorem State.devPut_withdrawals : (s.devPut n v).withdrawals = s.withdrawals := rfl
@[simp] theorem State.devPut_peekBad : (s.devPut n v).peekBad = s.peekBad := rfl
@[simp] theorem State.devPut_podBack : (s.devPut n v).podBack = s.podBack := rfl
@[simp] theorem State.devPut_windows : (s.devPut n v).windows = s.windows := rfl
@[simp] theorem State.devPut_heldUpds : (s.devPut n v).heldUpds = s.heldUpds := rfl
@[simp] theorem State.devPut_links : (s.devPut n v).links = s.links := rfl
@[simp] theorem State.devPut_remotes : (s.devPut n v).remotes = s.remotes := rfl
@[simp] theorem State.devPut_transits : (s.devPut n v).transits = s.transits := rfl
@[simp] theorem State.devPut_peerOut : (s.devPut n v).peerOut = s.peerOut := rfl
@[simp] theorem State.devPut_esns : (s.devPut n v).esns = s.esns := rfl
@[simp] theorem State.devPut_resetPermits : (s.devPut n v).resetPermits = s.resetPermits := rfl
@[simp] theorem State.devPut_peerAnswers : (s.devPut n v).peerAnswers = s.peerAnswers := rfl
@[simp] theorem State.devPut_launches : (s.devPut n v).launches = s.launches := rfl
@[simp] theorem State.devPut_launchQueues : (s.devPut n v).launchQueues = s.launchQueues := rfl
@[simp] theorem State.devPut_east : (s.devPut n v).east = s.east := rfl
@[simp] theorem State.devPut_west : (s.devPut n v).west = s.west := rfl
@[simp] theorem State.devPut_charged : (s.devPut n v).charged = s.charged := rfl
@[simp] theorem State.devPut_meters : (s.devPut n v).meters = s.meters := rfl
@[simp] theorem State.devPut_qwCfg : (s.devPut n v).qwCfg = s.qwCfg := rfl
@[simp] theorem State.devPut_qwStage : (s.devPut n v).qwStage = s.qwStage := rfl
@[simp] theorem State.devPut_qwStatus : (s.devPut n v).qwStatus = s.qwStatus := rfl
@[simp] theorem State.devPut_msixTable : (s.devPut n v).msixTable = s.msixTable := rfl
@[simp] theorem State.devPut_msixPending : (s.devPut n v).msixPending = s.msixPending := rfl
@[simp] theorem State.devPut_msixSent : (s.devPut n v).msixSent = s.msixSent := rfl
@[simp] theorem State.devPut_hostWrites : (s.devPut n v).hostWrites = s.hostWrites := rfl
@[simp] theorem State.devPut_hostReads : (s.devPut n v).hostReads = s.hostReads := rfl
@[simp] theorem State.devPut_answers : (s.devPut n v).answers = s.answers := rfl
@[simp] theorem State.devPut_hostOps : (s.devPut n v).hostOps = s.hostOps := rfl
@[simp] theorem State.devPut_heldWrites : (s.devPut n v).heldWrites = s.heldWrites := rfl
@[simp] theorem State.devPut_aer : (s.devPut n v).aer = s.aer := rfl
@[simp] theorem State.devPut_mailbox : (s.devPut n v).mailbox = s.mailbox := rfl
@[simp] theorem State.devPut_bootNext : (s.devPut n v).bootNext = s.bootNext := rfl
@[simp] theorem State.devPut_imageCame : (s.devPut n v).imageCame = s.imageCame := rfl
@[simp] theorem State.devPut_retiredCores : (s.devPut n v).retiredCores = s.retiredCores := rfl
@[simp] theorem State.devPut_retiredSlices : (s.devPut n v).retiredSlices = s.retiredSlices := rfl
@[simp] theorem State.devPut_stamps : (s.devPut n v).stamps = s.stamps := rfl
@[simp] theorem State.devPut_agenda : (s.devPut n v).agenda = s.agenda := rfl
@[simp] theorem State.devPut_turn : (s.devPut n v).turn = s.turn := rfl
@[simp] theorem State.devPut_picks : (s.devPut n v).picks = s.picks := rfl
@[simp] theorem State.devPut_tick : (s.devPut n v).tick = s.tick := rfl
@[simp] theorem State.devPut_uid : (s.devPut n v).uid = s.uid := rfl

end

/-! ### CoreState.setS -/

section
variable (c : CoreState) (n : BitVec 6) (v : Word64)

@[simp] theorem CoreState.setS_id : (c.setS n v).id = c.id := by unfold CoreState.setS CoreState.remember; split <;> rfl
@[simp] theorem CoreState.setS_mode : (c.setS n v).mode = c.mode := by unfold CoreState.setS CoreState.remember; split <;> rfl
@[simp] theorem CoreState.setS_pc : (c.setS n v).pc = c.pc := by unfold CoreState.setS CoreState.remember; split <;> rfl
@[simp] theorem CoreState.setS_s : (c.setS n v).s = Cells.put 0#64 c.s n.toNat v := by unfold CoreState.setS CoreState.remember; split <;> rfl
@[simp] theorem CoreState.setS_x : (c.setS n v).x = c.x := by unfold CoreState.setS CoreState.remember; split <;> rfl
@[simp] theorem CoreState.setS_g : (c.setS n v).g = c.g := by unfold CoreState.setS CoreState.remember; split <;> rfl
@[simp] theorem CoreState.setS_cr : (c.setS n v).cr = c.cr := by unfold CoreState.setS CoreState.remember; split <;> rfl
@[simp] theorem CoreState.setS_shapes : (c.setS n v).shapes = c.shapes := by unfold CoreState.setS CoreState.remember; split <;> rfl
@[simp] theorem CoreState.setS_shadows : (c.setS n v).shadows = c.shadows := by unfold CoreState.setS CoreState.remember; split <;> rfl
@[simp] theorem CoreState.setS_slack : (c.setS n v).slack = c.slack := by unfold CoreState.setS CoreState.remember; split <;> rfl
@[simp] theorem CoreState.setS_gen : (c.setS n v).gen = c.gen := by unfold CoreState.setS CoreState.remember; split <;> rfl
@[simp] theorem CoreState.setS_drawn : (c.setS n v).drawn = c.drawn := by unfold CoreState.setS CoreState.remember; split <;> rfl
@[simp] theorem CoreState.setS_cupQ : (c.setS n v).cupQ = c.cupQ := by unfold CoreState.setS CoreState.remember; split <;> rfl
@[simp] theorem CoreState.setS_loops : (c.setS n v).loops = c.loops := by unfold CoreState.setS CoreState.remember; split <;> rfl
@[simp] theorem CoreState.setS_nest : (c.setS n v).nest = c.nest := by unfold CoreState.setS CoreState.remember; split <;> rfl
@[simp] theorem CoreState.setS_cont : (c.setS n v).cont = c.cont := by unfold CoreState.setS CoreState.remember; split <;> rfl
@[simp] theorem CoreState.setS_shadow : (c.setS n v).shadow = c.shadow := by unfold CoreState.setS CoreState.remember; split <;> rfl
@[simp] theorem CoreState.setS_fseq : (c.setS n v).fseq = c.fseq := by unfold CoreState.setS CoreState.remember; split <;> rfl
@[simp] theorem CoreState.setS_fences : (c.setS n v).fences = c.fences := by unfold CoreState.setS CoreState.remember; split <;> rfl
@[simp] theorem CoreState.setS_segExp : (c.setS n v).segExp = c.segExp := by unfold CoreState.setS CoreState.remember; split <;> rfl
@[simp] theorem CoreState.setS_marks : (c.setS n v).marks = c.marks := by unfold CoreState.setS CoreState.remember; split <;> rfl
@[simp] theorem CoreState.setS_barExp : (c.setS n v).barExp = c.barExp := by unfold CoreState.setS CoreState.remember; split <;> rfl
@[simp] theorem CoreState.setS_barCnt : (c.setS n v).barCnt = c.barCnt := by unfold CoreState.setS CoreState.remember; split <;> rfl
@[simp] theorem CoreState.setS_barOvr : (c.setS n v).barOvr = c.barOvr := by unfold CoreState.setS CoreState.remember; split <;> rfl
@[simp] theorem CoreState.setS_mbuf0 : (c.setS n v).mbuf0 = c.mbuf0 := by unfold CoreState.setS CoreState.remember; split <;> rfl
@[simp] theorem CoreState.setS_mbuf1 : (c.setS n v).mbuf1 = c.mbuf1 := by unfold CoreState.setS CoreState.remember; split <;> rfl
@[simp] theorem CoreState.setS_carries : (c.setS n v).carries = c.carries := by unfold CoreState.setS CoreState.remember; split <;> rfl
@[simp] theorem CoreState.setS_ops : (c.setS n v).ops = c.ops := by unfold CoreState.setS CoreState.remember; split <;> rfl
@[simp] theorem CoreState.setS_bank0 : (c.setS n v).bank0 = c.bank0 := by unfold CoreState.setS CoreState.remember; split <;> rfl
@[simp] theorem CoreState.setS_bank1 : (c.setS n v).bank1 = c.bank1 := by unfold CoreState.setS CoreState.remember; split <;> rfl
@[simp] theorem CoreState.setS_gang : (c.setS n v).gang = c.gang := by unfold CoreState.setS CoreState.remember; split <;> rfl
@[simp] theorem CoreState.setS_icache : (c.setS n v).icache = c.icache := by unfold CoreState.setS CoreState.remember; split <;> rfl
@[simp] theorem CoreState.setS_group : (c.setS n v).group = c.group := by unfold CoreState.setS CoreState.remember; split <;> rfl
@[simp] theorem CoreState.setS_bundles : (c.setS n v).bundles = c.bundles := by unfold CoreState.setS CoreState.remember; split <;> rfl
@[simp] theorem CoreState.setS_past : (c.setS n v).past = c.past := by unfold CoreState.setS CoreState.remember; split <;> rfl
@[simp] theorem CoreState.setS_held : (c.setS n v).held = c.held := by unfold CoreState.setS CoreState.remember; split <;> rfl
@[simp] theorem CoreState.setS_trapReq : (c.setS n v).trapReq = c.trapReq := by unfold CoreState.setS CoreState.remember; split <;> rfl
@[simp] theorem CoreState.setS_replay : (c.setS n v).replay = c.replay := by unfold CoreState.setS CoreState.remember; split <;> rfl
@[simp] theorem CoreState.setS_replays : (c.setS n v).replays = c.replays := by unfold CoreState.setS CoreState.remember; split <;> rfl
@[simp] theorem CoreState.setS_redo : (c.setS n v).redo = c.redo := by unfold CoreState.setS CoreState.remember; split <;> rfl
@[simp] theorem CoreState.setS_redos : (c.setS n v).redos = c.redos := by unfold CoreState.setS CoreState.remember; split <;> rfl
@[simp] theorem CoreState.setS_slacks : (c.setS n v).slacks = c.slacks := by unfold CoreState.setS CoreState.remember; split <;> rfl
@[simp] theorem CoreState.setS_stalled : (c.setS n v).stalled = c.stalled := by unfold CoreState.setS CoreState.remember; split <;> rfl
@[simp] theorem CoreState.setS_fired : (c.setS n v).fired = c.fired := by unfold CoreState.setS CoreState.remember; split <;> rfl
@[simp] theorem CoreState.setS_drain : (c.setS n v).drain = c.drain := by unfold CoreState.setS CoreState.remember; split <;> rfl
@[simp] theorem CoreState.setS_yielded : (c.setS n v).yielded = c.yielded := by unfold CoreState.setS CoreState.remember; split <;> rfl
@[simp] theorem CoreState.setS_wdCount : (c.setS n v).wdCount = c.wdCount := by unfold CoreState.setS CoreState.remember; split <;> rfl
@[simp] theorem CoreState.setS_wake : (c.setS n v).wake = c.wake := by unfold CoreState.setS CoreState.remember; split <;> rfl
@[simp] theorem CoreState.setS_nextSeq : (c.setS n v).nextSeq = c.nextSeq := by unfold CoreState.setS CoreState.remember; split <;> rfl
@[simp] theorem CoreState.setS_farReads : (c.setS n v).farReads = c.farReads := by unfold CoreState.setS CoreState.remember; split <;> rfl

end

/-! ### CoreState.setX -/

section
variable (c : CoreState) (n : BitVec 4) (v : Word32)

@[simp] theorem CoreState.setX_id : (c.setX n v).id = c.id := by unfold CoreState.setX CoreState.remember; split <;> rfl
@[simp] theorem CoreState.setX_mode : (c.setX n v).mode = c.mode := by unfold CoreState.setX CoreState.remember; split <;> rfl
@[simp] theorem CoreState.setX_pc : (c.setX n v).pc = c.pc := by unfold CoreState.setX CoreState.remember; split <;> rfl
@[simp] theorem CoreState.setX_s : (c.setX n v).s = c.s := by unfold CoreState.setX CoreState.remember; split <;> rfl
@[simp] theorem CoreState.setX_x : (c.setX n v).x = Cells.put 0#32 c.x n.toNat v := by unfold CoreState.setX CoreState.remember; split <;> rfl
@[simp] theorem CoreState.setX_g : (c.setX n v).g = c.g := by unfold CoreState.setX CoreState.remember; split <;> rfl
@[simp] theorem CoreState.setX_cr : (c.setX n v).cr = c.cr := by unfold CoreState.setX CoreState.remember; split <;> rfl
@[simp] theorem CoreState.setX_shapes : (c.setX n v).shapes = c.shapes := by unfold CoreState.setX CoreState.remember; split <;> rfl
@[simp] theorem CoreState.setX_shadows : (c.setX n v).shadows = c.shadows := by unfold CoreState.setX CoreState.remember; split <;> rfl
@[simp] theorem CoreState.setX_slack : (c.setX n v).slack = c.slack := by unfold CoreState.setX CoreState.remember; split <;> rfl
@[simp] theorem CoreState.setX_gen : (c.setX n v).gen = c.gen := by unfold CoreState.setX CoreState.remember; split <;> rfl
@[simp] theorem CoreState.setX_drawn : (c.setX n v).drawn = c.drawn := by unfold CoreState.setX CoreState.remember; split <;> rfl
@[simp] theorem CoreState.setX_cupQ : (c.setX n v).cupQ = c.cupQ := by unfold CoreState.setX CoreState.remember; split <;> rfl
@[simp] theorem CoreState.setX_loops : (c.setX n v).loops = c.loops := by unfold CoreState.setX CoreState.remember; split <;> rfl
@[simp] theorem CoreState.setX_nest : (c.setX n v).nest = c.nest := by unfold CoreState.setX CoreState.remember; split <;> rfl
@[simp] theorem CoreState.setX_cont : (c.setX n v).cont = c.cont := by unfold CoreState.setX CoreState.remember; split <;> rfl
@[simp] theorem CoreState.setX_shadow : (c.setX n v).shadow = c.shadow := by unfold CoreState.setX CoreState.remember; split <;> rfl
@[simp] theorem CoreState.setX_fseq : (c.setX n v).fseq = c.fseq := by unfold CoreState.setX CoreState.remember; split <;> rfl
@[simp] theorem CoreState.setX_fences : (c.setX n v).fences = c.fences := by unfold CoreState.setX CoreState.remember; split <;> rfl
@[simp] theorem CoreState.setX_segExp : (c.setX n v).segExp = c.segExp := by unfold CoreState.setX CoreState.remember; split <;> rfl
@[simp] theorem CoreState.setX_marks : (c.setX n v).marks = c.marks := by unfold CoreState.setX CoreState.remember; split <;> rfl
@[simp] theorem CoreState.setX_barExp : (c.setX n v).barExp = c.barExp := by unfold CoreState.setX CoreState.remember; split <;> rfl
@[simp] theorem CoreState.setX_barCnt : (c.setX n v).barCnt = c.barCnt := by unfold CoreState.setX CoreState.remember; split <;> rfl
@[simp] theorem CoreState.setX_barOvr : (c.setX n v).barOvr = c.barOvr := by unfold CoreState.setX CoreState.remember; split <;> rfl
@[simp] theorem CoreState.setX_mbuf0 : (c.setX n v).mbuf0 = c.mbuf0 := by unfold CoreState.setX CoreState.remember; split <;> rfl
@[simp] theorem CoreState.setX_mbuf1 : (c.setX n v).mbuf1 = c.mbuf1 := by unfold CoreState.setX CoreState.remember; split <;> rfl
@[simp] theorem CoreState.setX_carries : (c.setX n v).carries = c.carries := by unfold CoreState.setX CoreState.remember; split <;> rfl
@[simp] theorem CoreState.setX_ops : (c.setX n v).ops = c.ops := by unfold CoreState.setX CoreState.remember; split <;> rfl
@[simp] theorem CoreState.setX_bank0 : (c.setX n v).bank0 = c.bank0 := by unfold CoreState.setX CoreState.remember; split <;> rfl
@[simp] theorem CoreState.setX_bank1 : (c.setX n v).bank1 = c.bank1 := by unfold CoreState.setX CoreState.remember; split <;> rfl
@[simp] theorem CoreState.setX_gang : (c.setX n v).gang = c.gang := by unfold CoreState.setX CoreState.remember; split <;> rfl
@[simp] theorem CoreState.setX_icache : (c.setX n v).icache = c.icache := by unfold CoreState.setX CoreState.remember; split <;> rfl
@[simp] theorem CoreState.setX_group : (c.setX n v).group = c.group := by unfold CoreState.setX CoreState.remember; split <;> rfl
@[simp] theorem CoreState.setX_bundles : (c.setX n v).bundles = c.bundles := by unfold CoreState.setX CoreState.remember; split <;> rfl
@[simp] theorem CoreState.setX_past : (c.setX n v).past = c.past := by unfold CoreState.setX CoreState.remember; split <;> rfl
@[simp] theorem CoreState.setX_held : (c.setX n v).held = c.held := by unfold CoreState.setX CoreState.remember; split <;> rfl
@[simp] theorem CoreState.setX_trapReq : (c.setX n v).trapReq = c.trapReq := by unfold CoreState.setX CoreState.remember; split <;> rfl
@[simp] theorem CoreState.setX_replay : (c.setX n v).replay = c.replay := by unfold CoreState.setX CoreState.remember; split <;> rfl
@[simp] theorem CoreState.setX_replays : (c.setX n v).replays = c.replays := by unfold CoreState.setX CoreState.remember; split <;> rfl
@[simp] theorem CoreState.setX_redo : (c.setX n v).redo = c.redo := by unfold CoreState.setX CoreState.remember; split <;> rfl
@[simp] theorem CoreState.setX_redos : (c.setX n v).redos = c.redos := by unfold CoreState.setX CoreState.remember; split <;> rfl
@[simp] theorem CoreState.setX_slacks : (c.setX n v).slacks = c.slacks := by unfold CoreState.setX CoreState.remember; split <;> rfl
@[simp] theorem CoreState.setX_stalled : (c.setX n v).stalled = c.stalled := by unfold CoreState.setX CoreState.remember; split <;> rfl
@[simp] theorem CoreState.setX_fired : (c.setX n v).fired = c.fired := by unfold CoreState.setX CoreState.remember; split <;> rfl
@[simp] theorem CoreState.setX_drain : (c.setX n v).drain = c.drain := by unfold CoreState.setX CoreState.remember; split <;> rfl
@[simp] theorem CoreState.setX_yielded : (c.setX n v).yielded = c.yielded := by unfold CoreState.setX CoreState.remember; split <;> rfl
@[simp] theorem CoreState.setX_wdCount : (c.setX n v).wdCount = c.wdCount := by unfold CoreState.setX CoreState.remember; split <;> rfl
@[simp] theorem CoreState.setX_wake : (c.setX n v).wake = c.wake := by unfold CoreState.setX CoreState.remember; split <;> rfl
@[simp] theorem CoreState.setX_nextSeq : (c.setX n v).nextSeq = c.nextSeq := by unfold CoreState.setX CoreState.remember; split <;> rfl
@[simp] theorem CoreState.setX_farReads : (c.setX n v).farReads = c.farReads := by unfold CoreState.setX CoreState.remember; split <;> rfl

end

/-! ### CoreState.setG -/

section
variable (c : CoreState) (n : BitVec 3) (v : Word32)

@[simp] theorem CoreState.setG_id : (c.setG n v).id = c.id := by unfold CoreState.setG CoreState.remember; (repeat' split) <;> rfl
@[simp] theorem CoreState.setG_mode : (c.setG n v).mode = c.mode := by unfold CoreState.setG CoreState.remember; (repeat' split) <;> rfl
@[simp] theorem CoreState.setG_pc : (c.setG n v).pc = c.pc := by unfold CoreState.setG CoreState.remember; (repeat' split) <;> rfl
@[simp] theorem CoreState.setG_s : (c.setG n v).s = c.s := by unfold CoreState.setG CoreState.remember; (repeat' split) <;> rfl
@[simp] theorem CoreState.setG_x : (c.setG n v).x = c.x := by unfold CoreState.setG CoreState.remember; (repeat' split) <;> rfl
@[simp] theorem CoreState.setG_cr : (c.setG n v).cr = c.cr := by unfold CoreState.setG CoreState.remember; (repeat' split) <;> rfl
@[simp] theorem CoreState.setG_shapes : (c.setG n v).shapes = c.shapes := by unfold CoreState.setG CoreState.remember; (repeat' split) <;> rfl
@[simp] theorem CoreState.setG_shadows : (c.setG n v).shadows = c.shadows := by unfold CoreState.setG CoreState.remember; (repeat' split) <;> rfl
@[simp] theorem CoreState.setG_slack : (c.setG n v).slack = c.slack := by unfold CoreState.setG CoreState.remember; (repeat' split) <;> rfl
@[simp] theorem CoreState.setG_gen : (c.setG n v).gen = c.gen := by unfold CoreState.setG CoreState.remember; (repeat' split) <;> rfl
@[simp] theorem CoreState.setG_drawn : (c.setG n v).drawn = c.drawn := by unfold CoreState.setG CoreState.remember; (repeat' split) <;> rfl
@[simp] theorem CoreState.setG_cupQ : (c.setG n v).cupQ = c.cupQ := by unfold CoreState.setG CoreState.remember; (repeat' split) <;> rfl
@[simp] theorem CoreState.setG_loops : (c.setG n v).loops = c.loops := by unfold CoreState.setG CoreState.remember; (repeat' split) <;> rfl
@[simp] theorem CoreState.setG_nest : (c.setG n v).nest = c.nest := by unfold CoreState.setG CoreState.remember; (repeat' split) <;> rfl
@[simp] theorem CoreState.setG_cont : (c.setG n v).cont = c.cont := by unfold CoreState.setG CoreState.remember; (repeat' split) <;> rfl
@[simp] theorem CoreState.setG_shadow : (c.setG n v).shadow = c.shadow := by unfold CoreState.setG CoreState.remember; (repeat' split) <;> rfl
@[simp] theorem CoreState.setG_fseq : (c.setG n v).fseq = c.fseq := by unfold CoreState.setG CoreState.remember; (repeat' split) <;> rfl
@[simp] theorem CoreState.setG_fences : (c.setG n v).fences = c.fences := by unfold CoreState.setG CoreState.remember; (repeat' split) <;> rfl
@[simp] theorem CoreState.setG_segExp : (c.setG n v).segExp = c.segExp := by unfold CoreState.setG CoreState.remember; (repeat' split) <;> rfl
@[simp] theorem CoreState.setG_marks : (c.setG n v).marks = c.marks := by unfold CoreState.setG CoreState.remember; (repeat' split) <;> rfl
@[simp] theorem CoreState.setG_barExp : (c.setG n v).barExp = c.barExp := by unfold CoreState.setG CoreState.remember; (repeat' split) <;> rfl
@[simp] theorem CoreState.setG_barCnt : (c.setG n v).barCnt = c.barCnt := by unfold CoreState.setG CoreState.remember; (repeat' split) <;> rfl
@[simp] theorem CoreState.setG_barOvr : (c.setG n v).barOvr = c.barOvr := by unfold CoreState.setG CoreState.remember; (repeat' split) <;> rfl
@[simp] theorem CoreState.setG_mbuf0 : (c.setG n v).mbuf0 = c.mbuf0 := by unfold CoreState.setG CoreState.remember; (repeat' split) <;> rfl
@[simp] theorem CoreState.setG_mbuf1 : (c.setG n v).mbuf1 = c.mbuf1 := by unfold CoreState.setG CoreState.remember; (repeat' split) <;> rfl
@[simp] theorem CoreState.setG_carries : (c.setG n v).carries = c.carries := by unfold CoreState.setG CoreState.remember; (repeat' split) <;> rfl
@[simp] theorem CoreState.setG_ops : (c.setG n v).ops = c.ops := by unfold CoreState.setG CoreState.remember; (repeat' split) <;> rfl
@[simp] theorem CoreState.setG_bank0 : (c.setG n v).bank0 = c.bank0 := by unfold CoreState.setG CoreState.remember; (repeat' split) <;> rfl
@[simp] theorem CoreState.setG_bank1 : (c.setG n v).bank1 = c.bank1 := by unfold CoreState.setG CoreState.remember; (repeat' split) <;> rfl
@[simp] theorem CoreState.setG_gang : (c.setG n v).gang = c.gang := by unfold CoreState.setG CoreState.remember; (repeat' split) <;> rfl
@[simp] theorem CoreState.setG_icache : (c.setG n v).icache = c.icache := by unfold CoreState.setG CoreState.remember; (repeat' split) <;> rfl
@[simp] theorem CoreState.setG_group : (c.setG n v).group = c.group := by unfold CoreState.setG CoreState.remember; (repeat' split) <;> rfl
@[simp] theorem CoreState.setG_bundles : (c.setG n v).bundles = c.bundles := by unfold CoreState.setG CoreState.remember; (repeat' split) <;> rfl
@[simp] theorem CoreState.setG_past : (c.setG n v).past = c.past := by unfold CoreState.setG CoreState.remember; (repeat' split) <;> rfl
@[simp] theorem CoreState.setG_held : (c.setG n v).held = c.held := by unfold CoreState.setG CoreState.remember; (repeat' split) <;> rfl
@[simp] theorem CoreState.setG_trapReq : (c.setG n v).trapReq = c.trapReq := by unfold CoreState.setG CoreState.remember; (repeat' split) <;> rfl
@[simp] theorem CoreState.setG_replay : (c.setG n v).replay = c.replay := by unfold CoreState.setG CoreState.remember; (repeat' split) <;> rfl
@[simp] theorem CoreState.setG_replays : (c.setG n v).replays = c.replays := by unfold CoreState.setG CoreState.remember; (repeat' split) <;> rfl
@[simp] theorem CoreState.setG_redo : (c.setG n v).redo = c.redo := by unfold CoreState.setG CoreState.remember; (repeat' split) <;> rfl
@[simp] theorem CoreState.setG_redos : (c.setG n v).redos = c.redos := by unfold CoreState.setG CoreState.remember; (repeat' split) <;> rfl
@[simp] theorem CoreState.setG_slacks : (c.setG n v).slacks = c.slacks := by unfold CoreState.setG CoreState.remember; (repeat' split) <;> rfl
@[simp] theorem CoreState.setG_stalled : (c.setG n v).stalled = c.stalled := by unfold CoreState.setG CoreState.remember; (repeat' split) <;> rfl
@[simp] theorem CoreState.setG_fired : (c.setG n v).fired = c.fired := by unfold CoreState.setG CoreState.remember; (repeat' split) <;> rfl
@[simp] theorem CoreState.setG_drain : (c.setG n v).drain = c.drain := by unfold CoreState.setG CoreState.remember; (repeat' split) <;> rfl
@[simp] theorem CoreState.setG_yielded : (c.setG n v).yielded = c.yielded := by unfold CoreState.setG CoreState.remember; (repeat' split) <;> rfl
@[simp] theorem CoreState.setG_wdCount : (c.setG n v).wdCount = c.wdCount := by unfold CoreState.setG CoreState.remember; (repeat' split) <;> rfl
@[simp] theorem CoreState.setG_wake : (c.setG n v).wake = c.wake := by unfold CoreState.setG CoreState.remember; (repeat' split) <;> rfl
@[simp] theorem CoreState.setG_nextSeq : (c.setG n v).nextSeq = c.nextSeq := by unfold CoreState.setG CoreState.remember; (repeat' split) <;> rfl
@[simp] theorem CoreState.setG_farReads : (c.setG n v).farReads = c.farReads := by unfold CoreState.setG CoreState.remember; (repeat' split) <;> rfl

end

/-! ### CoreState.crPut -/

section
variable (c : CoreState) (n : Nat) (v : Word64)

@[simp] theorem CoreState.crPut_id : (c.crPut n v).id = c.id := rfl
@[simp] theorem CoreState.crPut_mode : (c.crPut n v).mode = c.mode := rfl
@[simp] theorem CoreState.crPut_pc : (c.crPut n v).pc = c.pc := rfl
@[simp] theorem CoreState.crPut_s : (c.crPut n v).s = c.s := rfl
@[simp] theorem CoreState.crPut_x : (c.crPut n v).x = c.x := rfl
@[simp] theorem CoreState.crPut_g : (c.crPut n v).g = c.g := rfl
@[simp] theorem CoreState.crPut_cr : (c.crPut n v).cr = Cells.put (Cr.reset n) c.cr n v := rfl
@[simp] theorem CoreState.crPut_shapes : (c.crPut n v).shapes = c.shapes := rfl
@[simp] theorem CoreState.crPut_shadows : (c.crPut n v).shadows = c.shadows := rfl
@[simp] theorem CoreState.crPut_slack : (c.crPut n v).slack = c.slack := rfl
@[simp] theorem CoreState.crPut_gen : (c.crPut n v).gen = c.gen := rfl
@[simp] theorem CoreState.crPut_drawn : (c.crPut n v).drawn = c.drawn := rfl
@[simp] theorem CoreState.crPut_cupQ : (c.crPut n v).cupQ = c.cupQ := rfl
@[simp] theorem CoreState.crPut_loops : (c.crPut n v).loops = c.loops := rfl
@[simp] theorem CoreState.crPut_nest : (c.crPut n v).nest = c.nest := rfl
@[simp] theorem CoreState.crPut_cont : (c.crPut n v).cont = c.cont := rfl
@[simp] theorem CoreState.crPut_shadow : (c.crPut n v).shadow = c.shadow := rfl
@[simp] theorem CoreState.crPut_fseq : (c.crPut n v).fseq = c.fseq := rfl
@[simp] theorem CoreState.crPut_fences : (c.crPut n v).fences = c.fences := rfl
@[simp] theorem CoreState.crPut_segExp : (c.crPut n v).segExp = c.segExp := rfl
@[simp] theorem CoreState.crPut_marks : (c.crPut n v).marks = c.marks := rfl
@[simp] theorem CoreState.crPut_barExp : (c.crPut n v).barExp = c.barExp := rfl
@[simp] theorem CoreState.crPut_barCnt : (c.crPut n v).barCnt = c.barCnt := rfl
@[simp] theorem CoreState.crPut_barOvr : (c.crPut n v).barOvr = c.barOvr := rfl
@[simp] theorem CoreState.crPut_mbuf0 : (c.crPut n v).mbuf0 = c.mbuf0 := rfl
@[simp] theorem CoreState.crPut_mbuf1 : (c.crPut n v).mbuf1 = c.mbuf1 := rfl
@[simp] theorem CoreState.crPut_carries : (c.crPut n v).carries = c.carries := rfl
@[simp] theorem CoreState.crPut_ops : (c.crPut n v).ops = c.ops := rfl
@[simp] theorem CoreState.crPut_bank0 : (c.crPut n v).bank0 = c.bank0 := rfl
@[simp] theorem CoreState.crPut_bank1 : (c.crPut n v).bank1 = c.bank1 := rfl
@[simp] theorem CoreState.crPut_gang : (c.crPut n v).gang = c.gang := rfl
@[simp] theorem CoreState.crPut_icache : (c.crPut n v).icache = c.icache := rfl
@[simp] theorem CoreState.crPut_group : (c.crPut n v).group = c.group := rfl
@[simp] theorem CoreState.crPut_bundles : (c.crPut n v).bundles = c.bundles := rfl
@[simp] theorem CoreState.crPut_past : (c.crPut n v).past = c.past := rfl
@[simp] theorem CoreState.crPut_cur : (c.crPut n v).cur = c.cur := rfl
@[simp] theorem CoreState.crPut_held : (c.crPut n v).held = c.held := rfl
@[simp] theorem CoreState.crPut_trapReq : (c.crPut n v).trapReq = c.trapReq := rfl
@[simp] theorem CoreState.crPut_replay : (c.crPut n v).replay = c.replay := rfl
@[simp] theorem CoreState.crPut_replays : (c.crPut n v).replays = c.replays := rfl
@[simp] theorem CoreState.crPut_redo : (c.crPut n v).redo = c.redo := rfl
@[simp] theorem CoreState.crPut_redos : (c.crPut n v).redos = c.redos := rfl
@[simp] theorem CoreState.crPut_slacks : (c.crPut n v).slacks = c.slacks := rfl
@[simp] theorem CoreState.crPut_stalled : (c.crPut n v).stalled = c.stalled := rfl
@[simp] theorem CoreState.crPut_fired : (c.crPut n v).fired = c.fired := rfl
@[simp] theorem CoreState.crPut_drain : (c.crPut n v).drain = c.drain := rfl
@[simp] theorem CoreState.crPut_yielded : (c.crPut n v).yielded = c.yielded := rfl
@[simp] theorem CoreState.crPut_wdCount : (c.crPut n v).wdCount = c.wdCount := rfl
@[simp] theorem CoreState.crPut_wake : (c.crPut n v).wake = c.wake := rfl
@[simp] theorem CoreState.crPut_nextSeq : (c.crPut n v).nextSeq = c.nextSeq := rfl
@[simp] theorem CoreState.crPut_farReads : (c.crPut n v).farReads = c.farReads := rfl

end

/-! ### CoreState.crPuts -/

section
variable (c : CoreState) (l : List (Nat × Word64))

@[simp] theorem CoreState.crPuts_id : (c.crPuts l).id = c.id := by unfold CoreState.crPuts; induction l generalizing c with | nil => rfl | cons p t ih => exact ih _
@[simp] theorem CoreState.crPuts_mode : (c.crPuts l).mode = c.mode := by unfold CoreState.crPuts; induction l generalizing c with | nil => rfl | cons p t ih => exact ih _
@[simp] theorem CoreState.crPuts_pc : (c.crPuts l).pc = c.pc := by unfold CoreState.crPuts; induction l generalizing c with | nil => rfl | cons p t ih => exact ih _
@[simp] theorem CoreState.crPuts_s : (c.crPuts l).s = c.s := by unfold CoreState.crPuts; induction l generalizing c with | nil => rfl | cons p t ih => exact ih _
@[simp] theorem CoreState.crPuts_x : (c.crPuts l).x = c.x := by unfold CoreState.crPuts; induction l generalizing c with | nil => rfl | cons p t ih => exact ih _
@[simp] theorem CoreState.crPuts_g : (c.crPuts l).g = c.g := by unfold CoreState.crPuts; induction l generalizing c with | nil => rfl | cons p t ih => exact ih _
@[simp] theorem CoreState.crPuts_shapes : (c.crPuts l).shapes = c.shapes := by unfold CoreState.crPuts; induction l generalizing c with | nil => rfl | cons p t ih => exact ih _
@[simp] theorem CoreState.crPuts_shadows : (c.crPuts l).shadows = c.shadows := by unfold CoreState.crPuts; induction l generalizing c with | nil => rfl | cons p t ih => exact ih _
@[simp] theorem CoreState.crPuts_slack : (c.crPuts l).slack = c.slack := by unfold CoreState.crPuts; induction l generalizing c with | nil => rfl | cons p t ih => exact ih _
@[simp] theorem CoreState.crPuts_gen : (c.crPuts l).gen = c.gen := by unfold CoreState.crPuts; induction l generalizing c with | nil => rfl | cons p t ih => exact ih _
@[simp] theorem CoreState.crPuts_drawn : (c.crPuts l).drawn = c.drawn := by unfold CoreState.crPuts; induction l generalizing c with | nil => rfl | cons p t ih => exact ih _
@[simp] theorem CoreState.crPuts_cupQ : (c.crPuts l).cupQ = c.cupQ := by unfold CoreState.crPuts; induction l generalizing c with | nil => rfl | cons p t ih => exact ih _
@[simp] theorem CoreState.crPuts_loops : (c.crPuts l).loops = c.loops := by unfold CoreState.crPuts; induction l generalizing c with | nil => rfl | cons p t ih => exact ih _
@[simp] theorem CoreState.crPuts_nest : (c.crPuts l).nest = c.nest := by unfold CoreState.crPuts; induction l generalizing c with | nil => rfl | cons p t ih => exact ih _
@[simp] theorem CoreState.crPuts_cont : (c.crPuts l).cont = c.cont := by unfold CoreState.crPuts; induction l generalizing c with | nil => rfl | cons p t ih => exact ih _
@[simp] theorem CoreState.crPuts_shadow : (c.crPuts l).shadow = c.shadow := by unfold CoreState.crPuts; induction l generalizing c with | nil => rfl | cons p t ih => exact ih _
@[simp] theorem CoreState.crPuts_fseq : (c.crPuts l).fseq = c.fseq := by unfold CoreState.crPuts; induction l generalizing c with | nil => rfl | cons p t ih => exact ih _
@[simp] theorem CoreState.crPuts_fences : (c.crPuts l).fences = c.fences := by unfold CoreState.crPuts; induction l generalizing c with | nil => rfl | cons p t ih => exact ih _
@[simp] theorem CoreState.crPuts_segExp : (c.crPuts l).segExp = c.segExp := by unfold CoreState.crPuts; induction l generalizing c with | nil => rfl | cons p t ih => exact ih _
@[simp] theorem CoreState.crPuts_marks : (c.crPuts l).marks = c.marks := by unfold CoreState.crPuts; induction l generalizing c with | nil => rfl | cons p t ih => exact ih _
@[simp] theorem CoreState.crPuts_barExp : (c.crPuts l).barExp = c.barExp := by unfold CoreState.crPuts; induction l generalizing c with | nil => rfl | cons p t ih => exact ih _
@[simp] theorem CoreState.crPuts_barCnt : (c.crPuts l).barCnt = c.barCnt := by unfold CoreState.crPuts; induction l generalizing c with | nil => rfl | cons p t ih => exact ih _
@[simp] theorem CoreState.crPuts_barOvr : (c.crPuts l).barOvr = c.barOvr := by unfold CoreState.crPuts; induction l generalizing c with | nil => rfl | cons p t ih => exact ih _
@[simp] theorem CoreState.crPuts_mbuf0 : (c.crPuts l).mbuf0 = c.mbuf0 := by unfold CoreState.crPuts; induction l generalizing c with | nil => rfl | cons p t ih => exact ih _
@[simp] theorem CoreState.crPuts_mbuf1 : (c.crPuts l).mbuf1 = c.mbuf1 := by unfold CoreState.crPuts; induction l generalizing c with | nil => rfl | cons p t ih => exact ih _
@[simp] theorem CoreState.crPuts_carries : (c.crPuts l).carries = c.carries := by unfold CoreState.crPuts; induction l generalizing c with | nil => rfl | cons p t ih => exact ih _
@[simp] theorem CoreState.crPuts_ops : (c.crPuts l).ops = c.ops := by unfold CoreState.crPuts; induction l generalizing c with | nil => rfl | cons p t ih => exact ih _
@[simp] theorem CoreState.crPuts_bank0 : (c.crPuts l).bank0 = c.bank0 := by unfold CoreState.crPuts; induction l generalizing c with | nil => rfl | cons p t ih => exact ih _
@[simp] theorem CoreState.crPuts_bank1 : (c.crPuts l).bank1 = c.bank1 := by unfold CoreState.crPuts; induction l generalizing c with | nil => rfl | cons p t ih => exact ih _
@[simp] theorem CoreState.crPuts_gang : (c.crPuts l).gang = c.gang := by unfold CoreState.crPuts; induction l generalizing c with | nil => rfl | cons p t ih => exact ih _
@[simp] theorem CoreState.crPuts_icache : (c.crPuts l).icache = c.icache := by unfold CoreState.crPuts; induction l generalizing c with | nil => rfl | cons p t ih => exact ih _
@[simp] theorem CoreState.crPuts_group : (c.crPuts l).group = c.group := by unfold CoreState.crPuts; induction l generalizing c with | nil => rfl | cons p t ih => exact ih _
@[simp] theorem CoreState.crPuts_bundles : (c.crPuts l).bundles = c.bundles := by unfold CoreState.crPuts; induction l generalizing c with | nil => rfl | cons p t ih => exact ih _
@[simp] theorem CoreState.crPuts_past : (c.crPuts l).past = c.past := by unfold CoreState.crPuts; induction l generalizing c with | nil => rfl | cons p t ih => exact ih _
@[simp] theorem CoreState.crPuts_cur : (c.crPuts l).cur = c.cur := by unfold CoreState.crPuts; induction l generalizing c with | nil => rfl | cons p t ih => exact ih _
@[simp] theorem CoreState.crPuts_held : (c.crPuts l).held = c.held := by unfold CoreState.crPuts; induction l generalizing c with | nil => rfl | cons p t ih => exact ih _
@[simp] theorem CoreState.crPuts_trapReq : (c.crPuts l).trapReq = c.trapReq := by unfold CoreState.crPuts; induction l generalizing c with | nil => rfl | cons p t ih => exact ih _
@[simp] theorem CoreState.crPuts_replay : (c.crPuts l).replay = c.replay := by unfold CoreState.crPuts; induction l generalizing c with | nil => rfl | cons p t ih => exact ih _
@[simp] theorem CoreState.crPuts_replays : (c.crPuts l).replays = c.replays := by unfold CoreState.crPuts; induction l generalizing c with | nil => rfl | cons p t ih => exact ih _
@[simp] theorem CoreState.crPuts_redo : (c.crPuts l).redo = c.redo := by unfold CoreState.crPuts; induction l generalizing c with | nil => rfl | cons p t ih => exact ih _
@[simp] theorem CoreState.crPuts_redos : (c.crPuts l).redos = c.redos := by unfold CoreState.crPuts; induction l generalizing c with | nil => rfl | cons p t ih => exact ih _
@[simp] theorem CoreState.crPuts_slacks : (c.crPuts l).slacks = c.slacks := by unfold CoreState.crPuts; induction l generalizing c with | nil => rfl | cons p t ih => exact ih _
@[simp] theorem CoreState.crPuts_stalled : (c.crPuts l).stalled = c.stalled := by unfold CoreState.crPuts; induction l generalizing c with | nil => rfl | cons p t ih => exact ih _
@[simp] theorem CoreState.crPuts_fired : (c.crPuts l).fired = c.fired := by unfold CoreState.crPuts; induction l generalizing c with | nil => rfl | cons p t ih => exact ih _
@[simp] theorem CoreState.crPuts_drain : (c.crPuts l).drain = c.drain := by unfold CoreState.crPuts; induction l generalizing c with | nil => rfl | cons p t ih => exact ih _
@[simp] theorem CoreState.crPuts_yielded : (c.crPuts l).yielded = c.yielded := by unfold CoreState.crPuts; induction l generalizing c with | nil => rfl | cons p t ih => exact ih _
@[simp] theorem CoreState.crPuts_wdCount : (c.crPuts l).wdCount = c.wdCount := by unfold CoreState.crPuts; induction l generalizing c with | nil => rfl | cons p t ih => exact ih _
@[simp] theorem CoreState.crPuts_wake : (c.crPuts l).wake = c.wake := by unfold CoreState.crPuts; induction l generalizing c with | nil => rfl | cons p t ih => exact ih _
@[simp] theorem CoreState.crPuts_nextSeq : (c.crPuts l).nextSeq = c.nextSeq := by unfold CoreState.crPuts; induction l generalizing c with | nil => rfl | cons p t ih => exact ih _
@[simp] theorem CoreState.crPuts_farReads : (c.crPuts l).farReads = c.farReads := by unfold CoreState.crPuts; induction l generalizing c with | nil => rfl | cons p t ih => exact ih _

end

/-! ### CoreState.updBundle -/

section
variable (c : CoreState) (q : Nat) (f : Bundle → Bundle)

@[simp] theorem CoreState.updBundle_id : (c.updBundle q f).id = c.id := rfl
@[simp] theorem CoreState.updBundle_mode : (c.updBundle q f).mode = c.mode := rfl
@[simp] theorem CoreState.updBundle_pc : (c.updBundle q f).pc = c.pc := rfl
@[simp] theorem CoreState.updBundle_s : (c.updBundle q f).s = c.s := rfl
@[simp] theorem CoreState.updBundle_x : (c.updBundle q f).x = c.x := rfl
@[simp] theorem CoreState.updBundle_g : (c.updBundle q f).g = c.g := rfl
@[simp] theorem CoreState.updBundle_cr : (c.updBundle q f).cr = c.cr := rfl
@[simp] theorem CoreState.updBundle_shapes : (c.updBundle q f).shapes = c.shapes := rfl
@[simp] theorem CoreState.updBundle_shadows : (c.updBundle q f).shadows = c.shadows := rfl
@[simp] theorem CoreState.updBundle_slack : (c.updBundle q f).slack = c.slack := rfl
@[simp] theorem CoreState.updBundle_gen : (c.updBundle q f).gen = c.gen := rfl
@[simp] theorem CoreState.updBundle_drawn : (c.updBundle q f).drawn = c.drawn := rfl
@[simp] theorem CoreState.updBundle_cupQ : (c.updBundle q f).cupQ = c.cupQ := rfl
@[simp] theorem CoreState.updBundle_loops : (c.updBundle q f).loops = c.loops := rfl
@[simp] theorem CoreState.updBundle_nest : (c.updBundle q f).nest = c.nest := rfl
@[simp] theorem CoreState.updBundle_cont : (c.updBundle q f).cont = c.cont := rfl
@[simp] theorem CoreState.updBundle_shadow : (c.updBundle q f).shadow = c.shadow := rfl
@[simp] theorem CoreState.updBundle_fseq : (c.updBundle q f).fseq = c.fseq := rfl
@[simp] theorem CoreState.updBundle_fences : (c.updBundle q f).fences = c.fences := rfl
@[simp] theorem CoreState.updBundle_segExp : (c.updBundle q f).segExp = c.segExp := rfl
@[simp] theorem CoreState.updBundle_marks : (c.updBundle q f).marks = c.marks := rfl
@[simp] theorem CoreState.updBundle_barExp : (c.updBundle q f).barExp = c.barExp := rfl
@[simp] theorem CoreState.updBundle_barCnt : (c.updBundle q f).barCnt = c.barCnt := rfl
@[simp] theorem CoreState.updBundle_barOvr : (c.updBundle q f).barOvr = c.barOvr := rfl
@[simp] theorem CoreState.updBundle_mbuf0 : (c.updBundle q f).mbuf0 = c.mbuf0 := rfl
@[simp] theorem CoreState.updBundle_mbuf1 : (c.updBundle q f).mbuf1 = c.mbuf1 := rfl
@[simp] theorem CoreState.updBundle_carries : (c.updBundle q f).carries = c.carries := rfl
@[simp] theorem CoreState.updBundle_ops : (c.updBundle q f).ops = c.ops := rfl
@[simp] theorem CoreState.updBundle_bank0 : (c.updBundle q f).bank0 = c.bank0 := rfl
@[simp] theorem CoreState.updBundle_bank1 : (c.updBundle q f).bank1 = c.bank1 := rfl
@[simp] theorem CoreState.updBundle_gang : (c.updBundle q f).gang = c.gang := rfl
@[simp] theorem CoreState.updBundle_icache : (c.updBundle q f).icache = c.icache := rfl
@[simp] theorem CoreState.updBundle_group : (c.updBundle q f).group = c.group := rfl
@[simp] theorem CoreState.updBundle_bundles : (c.updBundle q f).bundles = c.bundles.map fun b => if b.seq = q then f b else b := rfl
@[simp] theorem CoreState.updBundle_past : (c.updBundle q f).past = c.past := rfl
@[simp] theorem CoreState.updBundle_cur : (c.updBundle q f).cur = c.cur := rfl
@[simp] theorem CoreState.updBundle_held : (c.updBundle q f).held = c.held := rfl
@[simp] theorem CoreState.updBundle_trapReq : (c.updBundle q f).trapReq = c.trapReq := rfl
@[simp] theorem CoreState.updBundle_replay : (c.updBundle q f).replay = c.replay := rfl
@[simp] theorem CoreState.updBundle_replays : (c.updBundle q f).replays = c.replays := rfl
@[simp] theorem CoreState.updBundle_redo : (c.updBundle q f).redo = c.redo := rfl
@[simp] theorem CoreState.updBundle_redos : (c.updBundle q f).redos = c.redos := rfl
@[simp] theorem CoreState.updBundle_slacks : (c.updBundle q f).slacks = c.slacks := rfl
@[simp] theorem CoreState.updBundle_stalled : (c.updBundle q f).stalled = c.stalled := rfl
@[simp] theorem CoreState.updBundle_fired : (c.updBundle q f).fired = c.fired := rfl
@[simp] theorem CoreState.updBundle_drain : (c.updBundle q f).drain = c.drain := rfl
@[simp] theorem CoreState.updBundle_yielded : (c.updBundle q f).yielded = c.yielded := rfl
@[simp] theorem CoreState.updBundle_wdCount : (c.updBundle q f).wdCount = c.wdCount := rfl
@[simp] theorem CoreState.updBundle_wake : (c.updBundle q f).wake = c.wake := rfl
@[simp] theorem CoreState.updBundle_nextSeq : (c.updBundle q f).nextSeq = c.nextSeq := rfl
@[simp] theorem CoreState.updBundle_farReads : (c.updBundle q f).farReads = c.farReads := rfl

end

end Sys2Proof.Machine
end

