-- ==== Sys2Proof/Laws/Registers.lean ====
section
/-! SUPPORT. What writing a scalar, address, guard or control register does, said once. -/

namespace Sys2Proof.Machine

variable (c : CoreState)

/-! ### The note of old values (R40) -/

theorem CoreState.before_remember (key : Nat) (v : Word64) (k : Nat) :
    (c.remember key v).before k = if k = key then some ((c.before key).getD v) else c.before k := by
  unfold CoreState.remember
  cases h : c.before key with
  | some u => by_cases hk : k = key <;> simp [hk, h]
  | none =>
    by_cases hk : k = key
    · subst hk
      simp [CoreState.before]
    · simp [CoreState.before, hk, List.lookup_cons, beq_eq_false_iff_ne.mpr hk]

theorem CoreState.before_setS (n : BitVec 6) (v : Word64) (k : Nat) :
    (c.setS n v).before k = if k = n.toNat then some ((c.before k).getD (c.sReg n)) else c.before k := by
  show (c.remember n.toNat (c.sReg n)).before k = _
  rw [CoreState.before_remember]
  by_cases h : k = n.toNat <;> simp [h]

theorem CoreState.before_setX (n : BitVec 4) (v : Word32) (k : Nat) :
    (c.setX n v).before k = if k = 64 + n.toNat then some ((c.before k).getD ((c.xReg n).setWidth 64)) else c.before k := by
  show (c.remember (64 + n.toNat) ((c.xReg n).setWidth 64)).before k = _
  rw [CoreState.before_remember]
  by_cases h : k = 64 + n.toNat <;> simp [h]

theorem CoreState.before_setG {n : BitVec 3} (hn : n ≠ 0#3) (v : Word32) (k : Nat) :
    (c.setG n v).before k = if k = 80 + n.toNat then some ((c.before k).getD ((c.gReg n).setWidth 64)) else c.before k := by
  have : c.setG n v = { (c.remember (80 + n.toNat) ((c.gReg n).setWidth 64)) with
      g := Cells.put 0#32 (c.remember (80 + n.toNat) ((c.gReg n).setWidth 64)).g n.toNat v } := by
    simp [CoreState.setG, hn, CoreState.gReg]
  rw [this]
  show (c.remember (80 + n.toNat) ((c.gReg n).setWidth 64)).before k = _
  rw [CoreState.before_remember]
  by_cases h : k = 80 + n.toNat <;> simp [h]

/-! ### What the entries of the bundle read stays -/

theorem CoreState.sVal_eq (n : BitVec 6) : c.sVal n = (c.before n.toNat).getD (c.sReg n) := rfl

theorem CoreState.sReg_setS (d : BitVec 6) (v : Word64) (n : BitVec 6) :
    (c.setS d v).sReg n = if n = d then v else c.sReg n := by
  simp [CoreState.sReg, Cells.get_put, BitVec.toNat_inj]

theorem CoreState.xReg_setX (d : BitVec 4) (v : Word32) (n : BitVec 4) :
    (c.setX d v).xReg n = if n = d then v else c.xReg n := by
  simp [CoreState.xReg, Cells.get_put, BitVec.toNat_inj]

theorem CoreState.gReg_setG (d : BitVec 3) (v : Word32) (n : BitVec 3) :
    (c.setG d v).gReg n = if n = d ∧ d ≠ 0#3 then v else c.gReg n := by
  by_cases hd : d = 0#3
  · simp [CoreState.setG, hd]
  · have : (c.setG d v).g = Cells.put 0#32 c.g d.toNat v := by
      unfold CoreState.setG CoreState.remember
      simp only [hd, if_false]
      split <;> rfl
    simp only [CoreState.gReg, this, Cells.get_put, BitVec.toNat_inj]
    by_cases hn : n = d
    · simp [hn, hd]
    · simp [hn]

theorem CoreState.sameReads_setS (d : BitVec 6) (v : Word64) : SameReads c (c.setS d v) := by
  have hd := d.isLt
  refine ⟨fun n => ?_, fun n => ?_, fun n => ?_⟩
  · rw [CoreState.sVal_eq, CoreState.sVal_eq, CoreState.before_setS, CoreState.sReg_setS]
    by_cases h : n = d
    · simp [h]
    · simp [h, BitVec.toNat_inj]
  · have h : 64 + n.toNat ≠ d.toNat := by omega
    simp [CoreState.xVal, CoreState.before_setS, h]
  · have h : 80 + n.toNat ≠ d.toNat := by omega
    simp [CoreState.gVal, CoreState.before_setS, h]

theorem CoreState.sameReads_setX (d : BitVec 4) (v : Word32) : SameReads c (c.setX d v) := by
  have hd := d.isLt
  refine ⟨fun n => ?_, fun n => ?_, fun n => ?_⟩
  · have hn := n.isLt
    have h : n.toNat ≠ 64 + d.toNat := by omega
    simp [CoreState.sVal, CoreState.before_setX, h]
  · by_cases h : n = d
    · subst h
      cases hb : c.before (64 + n.toNat) <;> simp [CoreState.xVal, CoreState.before_setX, hb, CoreState.xReg]
    · have h' : 64 + n.toNat ≠ 64 + d.toNat := fun e => h (BitVec.toNat_inj.mp (by omega))
      have h2 : n.toNat ≠ d.toNat := by omega
      simp only [CoreState.xVal, CoreState.before_setX, h', if_false, CoreState.setX_x, Cells.get_put, h2]
  · have h : 80 + n.toNat ≠ 64 + d.toNat := by omega
    simp [CoreState.gVal, CoreState.before_setX, h]

theorem CoreState.sameReads_setG (d : BitVec 3) (v : Word32) : SameReads c (c.setG d v) := by
  by_cases hz : d = 0#3
  · have : c.setG d v = c := by simp [CoreState.setG, hz]
    rw [this]
    exact ⟨fun _ => rfl, fun _ => rfl, fun _ => rfl⟩
  have hd := d.isLt
  refine ⟨fun n => ?_, fun n => ?_, fun n => ?_⟩
  · have hn := n.isLt
    have h : n.toNat ≠ 80 + d.toNat := by omega
    simp [CoreState.sVal, CoreState.before_setG _ hz, h]
  · have hn := n.isLt
    have h : 64 + n.toNat ≠ 80 + d.toNat := by omega
    simp [CoreState.xVal, CoreState.before_setG _ hz, h]
  · by_cases h0 : n = 0#3
    · simp [CoreState.gVal, h0]
    · have hg := CoreState.gReg_setG c d v n
      simp only [CoreState.gReg, h0, if_false] at hg
      by_cases h : n = d
      · subst h
        cases hb : c.before (80 + n.toNat) <;>
          simp [CoreState.gVal, h0, CoreState.before_setG _ hz, hb, CoreState.gReg]
      · have h' : 80 + n.toNat ≠ 80 + d.toNat := fun e => h (BitVec.toNat_inj.mp (by omega))
        simp only [CoreState.gVal, h0, if_false, CoreState.before_setG _ hz, h', hg, h, false_and]

/-! ### The writes as the statements say them -/

theorem CoreState.setS_eq (d : BitVec 6) (v : Word64) : c.setS d v =
    { c with s := (c.setS d v).s, cur := { c.cur with old := (c.setS d v).cur.old } } := by
  cases h : c.before d.toNat <;> simp [CoreState.setS, CoreState.remember, h]

theorem CoreState.setX_eq (d : BitVec 4) (v : Word32) : c.setX d v =
    { c with x := (c.setX d v).x, cur := { c.cur with old := (c.setX d v).cur.old } } := by
  cases h : c.before (64 + d.toNat) <;> simp [CoreState.setX, CoreState.remember, h]

theorem CoreState.setG_eq (d : BitVec 3) (v : Word32) : c.setG d v =
    { c with g := (c.setG d v).g, cur := { c.cur with old := (c.setG d v).cur.old } } := by
  by_cases hd : d = 0#3
  · simp [CoreState.setG, hd]
  · cases h : c.before (80 + d.toNat) <;> simp [CoreState.setG, CoreState.remember, h, hd]

variable (s : State)

theorem State.writesS_putS (d : BitVec 6) (v : Word64) : WritesS s (s.putS d v) d v := by
  refine ⟨fun n => s.core.sReg_setS d v n, s.core.sameReads_setS d v, ?_⟩
  exact congrArg (fun c => ({ s with core := c } : State)) (s.core.setS_eq d v)

theorem State.writesX_setX (d : BitVec 4) (v : Word32) : WritesX s (s.upd fun c => c.setX d v) d v := by
  refine ⟨fun n => s.core.xReg_setX d v n, s.core.sameReads_setX d v, ?_⟩
  exact congrArg (fun c => ({ s with core := c } : State)) (s.core.setX_eq d v)

theorem State.writesG_setG (d : BitVec 3) (v : Word32) : WritesG s (s.upd fun c => c.setG d v) d v := by
  refine ⟨fun n => s.core.gReg_setG d v n, s.core.sameReads_setG d v, ?_⟩
  exact congrArg (fun c => ({ s with core := c } : State)) (s.core.setG_eq d v)

/-! ### Control registers -/

theorem CoreState.crGet_crPut (n : Nat) (v : Word64) (m : Nat) :
    (c.crPut n v).crGet m = if m = n then v else c.crGet m := by
  unfold CoreState.crGet
  by_cases h : m = n
  · subst h
    simp [Cells.get_put]
  · simp only [CoreState.crPut_cr, h, if_false]
    by_cases hv : v = Cr.reset n
    · subst hv
      have : ∀ (e : Word64), Cells.get e (Cells.put (Cr.reset n) c.cr n (Cr.reset n)) m = Cells.get e c.cr m := by
        intro e
        simp [Cells.put, Cells.get_erase, h]
      exact this _
    · have : ∀ (e : Word64), Cells.get e (Cells.put (Cr.reset n) c.cr n v) m = Cells.get e c.cr m := by
        intro e
        simp [Cells.put, hv, Cells.get_insert_ne _ _ h, Cells.get_erase, h]
      exact this _

theorem CoreState.crGet_crPuts (l : List (Nat × Word64)) (m : Nat) :
    (c.crPuts l).crGet m = (l.reverse.lookup m).getD (c.crGet m) := by
  induction l generalizing c with
  | nil => rfl
  | cons p t ih =>
    have : c.crPuts (p :: t) = (c.crPut p.1 p.2).crPuts t := rfl
    rw [this, ih, CoreState.crGet_crPut, List.reverse_cons, List.lookup_append]
    cases List.lookup m t.reverse with
    | some v => simp
    | none =>
      obtain ⟨k, v⟩ := p
      by_cases h : m = k
      · simp [h, List.lookup]
      · simp [h, List.lookup, beq_eq_false_iff_ne.mpr h]

theorem State.writesCr_crPut (n : Nat) (v : Word64) : WritesCr s (s.upd (·.crPut n v)) [(n, v)] := by
  refine ⟨fun m => ?_, rfl⟩
  have := CoreState.crGet_crPuts s.core [(n, v)] m
  simpa [CoreState.crPuts] using this

theorem State.writesCr_crPuts (l : List (Nat × Word64)) : WritesCr s (s.upd (·.crPuts l)) l := by
  refine ⟨fun m => CoreState.crGet_crPuts s.core l m, ?_⟩
  have : ∀ c : CoreState, c.crPuts l = { c with cr := (c.crPuts l).cr } := by
    induction l with
    | nil => intro c; rfl
    | cons p t ih =>
      intro c
      have e : c.crPuts (p :: t) = (c.crPut p.1 p.2).crPuts t := rfl
      rw [e, ih]
      rfl
  show ({ s with core := s.core.crPuts l } : State) = { s with core := { s.core with cr := (s.core.crPuts l).cr } }
  rw [← this]

end Sys2Proof.Machine
end

