-- ==== Sys2Proof/Laws/Memory.lean ====
section
/-! SUPPORT. The laws of the byte storage: reading after each operation, and that each keeps the canonical form. -/

namespace Sys2Proof

/-- A write of bytes keeps the form of memory. -/
theorem Memory.wf_putN {m : Cells 8} (h : Memory.wf m = true) (i : Nat) (bs : List Byte) :
    Memory.wf (Cells.putN 0#8 m i bs) = true := Cells.wf_putN h i bs

theorem Memory.wf_put {m : Cells 8} (h : Memory.wf m = true) (i : Nat) (b : Byte) :
    Memory.wf (Cells.put 0#8 m i b) = true := Cells.wf_put h i b

theorem Memory.wf_copy {m : Cells 8} (h : Memory.wf m = true) (src dst n : Nat) :
    Memory.wf (Cells.copy 0#8 m src dst n) = true := Cells.wf_copy h src dst n

theorem Memory.wf_clear {m : Cells 8} (h : Memory.wf m = true) (lo n : Nat) :
    Memory.wf (Cells.clear m lo n) = true := Cells.wf_clear h lo n

/-- Listed bytes replaced or dropped, as the loss of power does, keep it. -/
theorem Cells.wf_filterMap {w : Nat} {d : BitVec w} {m : Cells w} (h : Cells.wf d m = true)
    (f : Nat × BitVec w → Option (Nat × BitVec w)) (hk : ∀ c e, f c = some e → e.1 = c.1)
    (hv : ∀ c ∈ m, ∀ e, f c = some e → e.2 ≠ d) : Cells.wf d (m.filterMap f) = true := by
  rw [Cells.wf_iff] at *
  constructor
  · refine List.Pairwise.filterMap f ?_ h.1
    intro a b hab x hx y hy
    rw [hk a x hx, hk b y hy]
    exact hab
  · intro e he
    obtain ⟨c, hc, hce⟩ := List.mem_filterMap.mp he
    exact hv c hc e hce

namespace Machine

variable (s : State)

/-! ### Reading -/

theorem State.byte_write (loc : Nat) (bs : List Byte) (a : Nat) :
    (s.write loc bs).byte a = if loc ≤ a then bs.getD (a - loc) (s.byte a) else s.byte a :=
  Cells.get_putN s.mem loc bs a

/-- A byte outside a write stands. -/
theorem State.byte_write_outside (loc : Nat) (bs : List Byte) {a : Nat} (h : a < loc ∨ loc + bs.length ≤ a) :
    (s.write loc bs).byte a = s.byte a := by
  rw [State.byte_write]
  by_cases hl : loc ≤ a
  · rw [if_pos hl, List.getD_eq_default _ _ (by omega)]
  · rw [if_neg hl]

theorem State.byte_zeroBytes (loc n a : Nat) :
    (s.zeroBytes loc n).byte a = if loc ≤ a ∧ a < loc + n then 0#8 else s.byte a :=
  Cells.get_clear s.mem loc n a

@[simp] theorem State.byte_setPoison (loc n a : Nat) : (s.setPoison loc n).byte a = s.byte a := rfl
@[simp] theorem State.byte_upd (f : CoreState → CoreState) (a : Nat) : (s.upd f).byte a = s.byte a := rfl

/-! ### The canonical form -/

theorem State.inv_write {s : State} (h : s.Inv) (loc : Nat) (bs : List Byte) : (s.write loc bs).Inv :=
  ⟨Memory.wf_putN h.1 loc bs, Cells.wf_clear h.2 _ _⟩

theorem State.inv_writeNum {s : State} (h : s.Inv) (loc n v : Nat) : (s.writeNum loc n v).Inv := State.inv_write h _ _

theorem State.inv_setPoison {s : State} (h : s.Inv) (loc n : Nat) : (s.setPoison loc n).Inv :=
  ⟨h.1, Cells.wf_foldl_put _ _ _ h.2⟩

theorem State.inv_copyBytes {s : State} (h : s.Inv) (src dst n : Nat) : (s.copyBytes src dst n).Inv :=
  ⟨Memory.wf_copy h.1 src dst n, Cells.wf_copy h.2 src dst n⟩

theorem State.inv_zeroBytes {s : State} (h : s.Inv) (loc n : Nat) : (s.zeroBytes loc n).Inv :=
  ⟨Memory.wf_clear h.1 loc n, Cells.wf_clear h.2 loc n⟩

/-- The invariant looks at memory and poison only. -/
theorem State.inv_of_eq {s t : State} (h : s.Inv) (hm : t.mem = s.mem) (hp : t.poison = s.poison) : t.Inv := by
  unfold State.Inv at *
  rwa [hm, hp]

theorem State.inv_upd {s : State} (h : s.Inv) (f : CoreState → CoreState) : (s.upd f).Inv := h

/-- Reset's memory has the form. -/
theorem reset_mem_wf : Memory.wf State.reset.mem = true := rfl

end Machine

end Sys2Proof
end

