-- ==== Sys2Proof/Laws/Operands.lean ====
section
/-! SUPPORT. What the shared operand forms and the entry's outcomes answer, said once for all the instructions that use
them. -/

namespace Sys2Proof.Machine

variable (s : State)

theorem State.whenOn_on {g : BitVec 4} (k : Out) (h : s.core.on g = true) : s.whenOn g k = k := by
  simp [State.whenOn, h]

theorem State.whenOn_off {g : BitVec 4} (k : Out) (h : s.core.on g = false) : s.whenOn g k = .next s := by
  simp [State.whenOn, h]

/-- An operation of two sources: its result in d and nothing else, or nothing at all. -/
theorem State.alu_cases (o : OpSA) (f : Word64 → Word64 → Word64) :
    (s.core.on o.g = true ∧ ∃ t, s.alu o f = .next t ∧ WritesS s t o.d (f (s.core.sVal o.a) (s.core.sVal o.b)))
      ∨ (s.core.on o.g = false ∧ s.alu o f = .next s) := by
  cases h : s.core.on o.g
  · exact .inr ⟨rfl, s.whenOn_off _ h⟩
  · exact .inl ⟨rfl, _, s.whenOn_on _ h, s.writesS_putS _ _⟩

theorem State.aluUn_cases (o : OpSU) (f : Word64 → Word64) :
    (s.core.on o.g = true ∧ ∃ t, s.aluUn o f = .next t ∧ WritesS s t o.d (f (s.core.sVal o.a)))
      ∨ (s.core.on o.g = false ∧ s.aluUn o f = .next s) := by
  cases h : s.core.on o.g
  · exact .inr ⟨rfl, s.whenOn_off _ h⟩
  · exact .inl ⟨rfl, _, s.whenOn_on _ h, s.writesS_putS _ _⟩

theorem State.aluImm_cases (o : OpSI) (f : Word64 → Word64 → Word64) :
    (s.core.on o.g = true ∧ ∃ t, s.aluImm o f = .next t ∧ WritesS s t o.d (f (s.core.sVal o.a) (o.imm.signExtend 64)))
      ∨ (s.core.on o.g = false ∧ s.aluImm o f = .next s) := by
  cases h : s.core.on o.g
  · exact .inr ⟨rfl, s.whenOn_off _ h⟩
  · exact .inl ⟨rfl, _, s.whenOn_on _ h, s.writesS_putS _ _⟩

theorem State.aluShift_cases (o : OpShift) (f : Word64 → Nat → Word64) :
    (s.core.on o.g = true ∧ ∃ t, s.aluShift o f = .next t ∧ WritesS s t o.d (f (s.core.sVal o.a) o.k.toNat))
      ∨ (s.core.on o.g = false ∧ s.aluShift o f = .next s) := by
  cases h : s.core.on o.g
  · exact .inr ⟨rfl, s.whenOn_off _ h⟩
  · exact .inl ⟨rfl, _, s.whenOn_on _ h, s.writesS_putS _ _⟩

theorem State.guardOp_cases (o : OpGuard) (f : Word32 → Word32 → Word32) :
    (s.core.on o.g = true ∧ ∃ t, s.guardOp o f = .next t ∧ WritesG s t o.d (f (s.core.gVal o.a) (s.core.gVal o.b)))
      ∨ (s.core.on o.g = false ∧ s.guardOp o f = .next s) := by
  cases h : s.core.on o.g
  · exact .inr ⟨rfl, s.whenOn_off _ h⟩
  · exact .inl ⟨rfl, _, s.whenOn_on _ h, s.writesG_setG _ _⟩

/-- A division: off, by zero, or its result. -/
theorem State.aluDiv_cases (o : OpSA) (z : Word64 → Bool) (f : Word64 → Word64 → Word64) :
    (s.core.on o.g = false ∧ s.aluDiv o z f = .next s)
      ∨ (s.core.on o.g = true ∧ z (s.core.sVal o.b) = true
        ∧ s.aluDiv o z f = s.trap 0x30#8 s.slotInfo 0#64 0#64 0#64)
      ∨ (s.core.on o.g = true ∧ z (s.core.sVal o.b) = false
        ∧ ∃ t, s.aluDiv o z f = .next t ∧ WritesS s t o.d (f (s.core.sVal o.a) (s.core.sVal o.b))) := by
  cases h : s.core.on o.g
  · exact .inl ⟨rfl, s.whenOn_off _ h⟩
  · cases hz : z (s.core.sVal o.b)
    · refine .inr (.inr ⟨rfl, rfl, _, ?_, s.writesS_putS _ _⟩)
      simp [State.aluDiv, State.whenOn, h, hz]
    · refine .inr (.inl ⟨rfl, rfl, ?_⟩)
      simp [State.aluDiv, State.whenOn, h, hz]

/-- The turn given to a core that is not known leaves it where it is; to the core that has it, too. -/
@[simp] theorem State.focus_self : s.focus s.core.id = s := by simp [State.focus]

end Sys2Proof.Machine
end

