-- ==== Sys2Proof/Laws/PerInstr.lean ====
section
/-! SUPPORT. Statements made instruction by instruction. -/

namespace Sys2Proof.Laws

/-- An instruction has a word exactly when it stands in a slot. -/
def EncodeTotal.Statement (i : Instr) : Prop := (encode i).isSome = i.slotClass.isSome

theorem EncodeTotal.nop : EncodeTotal.Statement .nop := rfl
theorem EncodeTotal.add (o : OpSA) : EncodeTotal.Statement (.add o) := rfl
theorem EncodeTotal.sub (o : OpSA) : EncodeTotal.Statement (.sub o) := rfl
theorem EncodeTotal.mul (o : OpSA) : EncodeTotal.Statement (.mul o) := rfl
theorem EncodeTotal.mulh (o : OpSA) : EncodeTotal.Statement (.mulh o) := rfl
theorem EncodeTotal.mulhu (o : OpSA) : EncodeTotal.Statement (.mulhu o) := rfl
theorem EncodeTotal.div (o : OpSA) : EncodeTotal.Statement (.div o) := rfl
theorem EncodeTotal.divu (o : OpSA) : EncodeTotal.Statement (.divu o) := rfl
theorem EncodeTotal.rem (o : OpSA) : EncodeTotal.Statement (.rem o) := rfl
theorem EncodeTotal.remu (o : OpSA) : EncodeTotal.Statement (.remu o) := rfl
theorem EncodeTotal.and (o : OpSA) : EncodeTotal.Statement (.and o) := rfl
theorem EncodeTotal.or (o : OpSA) : EncodeTotal.Statement (.or o) := rfl
theorem EncodeTotal.xor (o : OpSA) : EncodeTotal.Statement (.xor o) := rfl
theorem EncodeTotal.shl (o : OpSA) : EncodeTotal.Statement (.shl o) := rfl
theorem EncodeTotal.shr (o : OpSA) : EncodeTotal.Statement (.shr o) := rfl
theorem EncodeTotal.sar (o : OpSA) : EncodeTotal.Statement (.sar o) := rfl
theorem EncodeTotal.rotr (o : OpSA) : EncodeTotal.Statement (.rotr o) := rfl
theorem EncodeTotal.addS32 (o : OpSA) : EncodeTotal.Statement (.addS32 o) := rfl
theorem EncodeTotal.subS32 (o : OpSA) : EncodeTotal.Statement (.subS32 o) := rfl
theorem EncodeTotal.mulS32 (o : OpSA) : EncodeTotal.Statement (.mulS32 o) := rfl
theorem EncodeTotal.mulhS32 (o : OpSA) : EncodeTotal.Statement (.mulhS32 o) := rfl
theorem EncodeTotal.mulhuS32 (o : OpSA) : EncodeTotal.Statement (.mulhuS32 o) := rfl
theorem EncodeTotal.divS32 (o : OpSA) : EncodeTotal.Statement (.divS32 o) := rfl
theorem EncodeTotal.divuS32 (o : OpSA) : EncodeTotal.Statement (.divuS32 o) := rfl
theorem EncodeTotal.remS32 (o : OpSA) : EncodeTotal.Statement (.remS32 o) := rfl
theorem EncodeTotal.remuS32 (o : OpSA) : EncodeTotal.Statement (.remuS32 o) := rfl
theorem EncodeTotal.andS32 (o : OpSA) : EncodeTotal.Statement (.andS32 o) := rfl
theorem EncodeTotal.orS32 (o : OpSA) : EncodeTotal.Statement (.orS32 o) := rfl
theorem EncodeTotal.xorS32 (o : OpSA) : EncodeTotal.Statement (.xorS32 o) := rfl
theorem EncodeTotal.shlS32 (o : OpSA) : EncodeTotal.Statement (.shlS32 o) := rfl
theorem EncodeTotal.shrS32 (o : OpSA) : EncodeTotal.Statement (.shrS32 o) := rfl
theorem EncodeTotal.sarS32 (o : OpSA) : EncodeTotal.Statement (.sarS32 o) := rfl
theorem EncodeTotal.rotrS32 (o : OpSA) : EncodeTotal.Statement (.rotrS32 o) := rfl
theorem EncodeTotal.min (o : OpSA) : EncodeTotal.Statement (.min o) := rfl
theorem EncodeTotal.minu (o : OpSA) : EncodeTotal.Statement (.minu o) := rfl
theorem EncodeTotal.max (o : OpSA) : EncodeTotal.Statement (.max o) := rfl
theorem EncodeTotal.maxu (o : OpSA) : EncodeTotal.Statement (.maxu o) := rfl
theorem EncodeTotal.clz (o : OpSU) : EncodeTotal.Statement (.clz o) := rfl
theorem EncodeTotal.ctz (o : OpSU) : EncodeTotal.Statement (.ctz o) := rfl
theorem EncodeTotal.popc (o : OpSU) : EncodeTotal.Statement (.popc o) := rfl
theorem EncodeTotal.bswap (o : OpSU) : EncodeTotal.Statement (.bswap o) := rfl
theorem EncodeTotal.andn (o : OpSA) : EncodeTotal.Statement (.andn o) := rfl
theorem EncodeTotal.orn (o : OpSA) : EncodeTotal.Statement (.orn o) := rfl
theorem EncodeTotal.cmp (o : OpCmp) : EncodeTotal.Statement (.cmp o) := rfl
theorem EncodeTotal.cmpi (o : OpCmpi) : EncodeTotal.Statement (.cmpi o) := rfl
theorem EncodeTotal.gand (o : OpGuard) : EncodeTotal.Statement (.gand o) := rfl
theorem EncodeTotal.gor (o : OpGuard) : EncodeTotal.Statement (.gor o) := rfl
theorem EncodeTotal.gxor (o : OpGuard) : EncodeTotal.Statement (.gxor o) := rfl
theorem EncodeTotal.gandn (o : OpGuard) : EncodeTotal.Statement (.gandn o) := rfl
theorem EncodeTotal.gset (o : OpGset) : EncodeTotal.Statement (.gset o) := rfl
theorem EncodeTotal.gget (o : OpGget) : EncodeTotal.Statement (.gget o) := rfl
theorem EncodeTotal.sel (o : OpSel) : EncodeTotal.Statement (.sel o) := rfl
theorem EncodeTotal.addi (o : OpSI) : EncodeTotal.Statement (.addi o) := rfl
theorem EncodeTotal.andi (o : OpSI) : EncodeTotal.Statement (.andi o) := rfl
theorem EncodeTotal.ori (o : OpSI) : EncodeTotal.Statement (.ori o) := rfl
theorem EncodeTotal.xori (o : OpSI) : EncodeTotal.Statement (.xori o) := rfl
theorem EncodeTotal.shli (o : OpShift) : EncodeTotal.Statement (.shli o) := rfl
theorem EncodeTotal.shri (o : OpShift) : EncodeTotal.Statement (.shri o) := rfl
theorem EncodeTotal.sari (o : OpShift) : EncodeTotal.Statement (.sari o) := rfl
theorem EncodeTotal.muli (o : OpSI) : EncodeTotal.Statement (.muli o) := rfl
theorem EncodeTotal.movi (o : OpMovi) : EncodeTotal.Statement (.movi o) := rfl
theorem EncodeTotal.movh (o : OpSI) : EncodeTotal.Statement (.movh o) := rfl
theorem EncodeTotal.ld (o : OpSL) : EncodeTotal.Statement (.ld o) := rfl
theorem EncodeTotal.st (o : OpSL) : EncodeTotal.Statement (.st o) := rfl
theorem EncodeTotal.ldacq (o : OpSL) : EncodeTotal.Statement (.ldacq o) := rfl
theorem EncodeTotal.strel (o : OpSL) : EncodeTotal.Statement (.strel o) := rfl
theorem EncodeTotal.atom64 (o : OpAtom) : EncodeTotal.Statement (.atom64 o) := rfl
theorem EncodeTotal.atom32 (o : OpAtom) : EncodeTotal.Statement (.atom32 o) := rfl
theorem EncodeTotal.atomn (o : OpAtomn) : EncodeTotal.Statement (.atomn o) := rfl
theorem EncodeTotal.qinit (o : OpSQ) : EncodeTotal.Statement (.qinit o) := rfl
theorem EncodeTotal.enq (o : OpSQ) : EncodeTotal.Statement (.enq o) := rfl
theorem EncodeTotal.deq (o : OpSQ) : EncodeTotal.Statement (.deq o) := rfl
theorem EncodeTotal.enqn (o : OpSQK) : EncodeTotal.Statement (.enqn o) := rfl
theorem EncodeTotal.deqn (o : OpSQK) : EncodeTotal.Statement (.deqn o) := rfl
theorem EncodeTotal.qpeek (o : OpSQ) : EncodeTotal.Statement (.qpeek o) := rfl
theorem EncodeTotal.qstat (o : OpSQ) : EncodeTotal.Statement (.qstat o) := rfl
theorem EncodeTotal.qclose (o : OpS1) : EncodeTotal.Statement (.qclose o) := rfl
theorem EncodeTotal.rwopen (o : OpSQ) : EncodeTotal.Statement (.rwopen o) := rfl
theorem EncodeTotal.rwclose (o : OpSQ) : EncodeTotal.Statement (.rwclose o) := rfl
theorem EncodeTotal.fence (o : OpFence) : EncodeTotal.Statement (.fence o) := rfl
theorem EncodeTotal.fwait (o : OpS1) : EncodeTotal.Statement (.fwait o) := rfl
theorem EncodeTotal.drain (o : OpDrain) : EncodeTotal.Statement (.drain o) := rfl
theorem EncodeTotal.join (o : OpJoin) : EncodeTotal.Statement (.join o) := rfl
theorem EncodeTotal.xset (o : OpXset) : EncodeTotal.Statement (.xset o) := rfl
theorem EncodeTotal.xadd (o : OpXadd) : EncodeTotal.Statement (.xadd o) := rfl
theorem EncodeTotal.view (o : OpView) : EncodeTotal.Statement (.view o) := rfl
theorem EncodeTotal.shw (o : OpShw) : EncodeTotal.Statement (.shw o) := rfl
theorem EncodeTotal.slk (o : OpSlk) : EncodeTotal.Statement (.slk o) := rfl
theorem EncodeTotal.mfc (o : OpMfc) : EncodeTotal.Statement (.mfc o) := rfl
theorem EncodeTotal.mtc (o : OpMtc) : EncodeTotal.Statement (.mtc o) := rfl
theorem EncodeTotal.br (o : OpSJ) : EncodeTotal.Statement (.br o) := rfl
theorem EncodeTotal.jmp (o : OpSJ) : EncodeTotal.Statement (.jmp o) := rfl
theorem EncodeTotal.jmpi (o : OpS1) : EncodeTotal.Statement (.jmpi o) := rfl
theorem EncodeTotal.call (o : OpSJ) : EncodeTotal.Statement (.call o) := rfl
theorem EncodeTotal.ret (o : OpG) : EncodeTotal.Statement (.ret o) := rfl
theorem EncodeTotal.loop (o : OpLoop) : EncodeTotal.Statement (.loop o) := rfl
theorem EncodeTotal.lnsetBound (o : OpLnBound) : EncodeTotal.Statement (.lnsetBound o) := rfl
theorem EncodeTotal.lnsetBind (o : OpLnBind) : EncodeTotal.Statement (.lnsetBind o) := rfl
theorem EncodeTotal.lnsetClear (o : OpLnClear) : EncodeTotal.Statement (.lnsetClear o) := rfl
theorem EncodeTotal.loopn (o : OpLoopn) : EncodeTotal.Statement (.loopn o) := rfl
theorem EncodeTotal.rpt (o : OpLoop) : EncodeTotal.Statement (.rpt o) := rfl
theorem EncodeTotal.margin (o : OpMargin) : EncodeTotal.Statement (.margin o) := rfl
theorem EncodeTotal.segOpen (o : OpSeg) : EncodeTotal.Statement (.segOpen o) := rfl
theorem EncodeTotal.segClose (o : OpSeg) : EncodeTotal.Statement (.segClose o) := rfl
theorem EncodeTotal.cont (o : OpSJ) : EncodeTotal.Statement (.cont o) := rfl
theorem EncodeTotal.endcont (o : OpG) : EncodeTotal.Statement (.endcont o) := rfl
theorem EncodeTotal.trap (o : OpTrap) : EncodeTotal.Statement (.trap o) := rfl
theorem EncodeTotal.tret (o : OpG) : EncodeTotal.Statement (.tret o) := rfl
theorem EncodeTotal.halt (o : OpG) : EncodeTotal.Statement (.halt o) := rfl
theorem EncodeTotal.yield (o : OpG) : EncodeTotal.Statement (.yield o) := rfl
theorem EncodeTotal.waitev (o : OpWaitev) : EncodeTotal.Statement (.waitev o) := rfl
theorem EncodeTotal.gate (o : OpGate) : EncodeTotal.Statement (.gate o) := rfl
theorem EncodeTotal.ctxsv (o : OpS1) : EncodeTotal.Statement (.ctxsv o) := rfl
theorem EncodeTotal.ctxld (o : OpS1) : EncodeTotal.Statement (.ctxld o) := rfl
theorem EncodeTotal.bwait (o : OpBwait) : EncodeTotal.Statement (.bwait o) := rfl
theorem EncodeTotal.wmwait (o : OpWmwait) : EncodeTotal.Statement (.wmwait o) := rfl
theorem EncodeTotal.wmwaitAll (o : OpWmwaitAll) : EncodeTotal.Statement (.wmwaitAll o) := rfl
theorem EncodeTotal.launch (o : OpSQ) : EncodeTotal.Statement (.launch o) := rfl
theorem EncodeTotal.chwait (o : OpS1) : EncodeTotal.Statement (.chwait o) := rfl
theorem EncodeTotal.preempt (o : OpSQ) : EncodeTotal.Statement (.preempt o) := rfl
theorem EncodeTotal.resume (o : OpSQ) : EncodeTotal.Statement (.resume o) := rfl
theorem EncodeTotal.emrd (o : OpSQ) : EncodeTotal.Statement (.emrd o) := rfl
theorem EncodeTotal.digest (o : OpSQ) : EncodeTotal.Statement (.digest o) := rfl
theorem EncodeTotal.sleep (o : OpS1) : EncodeTotal.Statement (.sleep o) := rfl
theorem EncodeTotal.linkst (o : OpSQ) : EncodeTotal.Statement (.linkst o) := rfl
theorem EncodeTotal.lnkcfg (o : OpSQ) : EncodeTotal.Statement (.lnkcfg o) := rfl
theorem EncodeTotal.talign (o : OpSQ) : EncodeTotal.Statement (.talign o) := rfl
theorem EncodeTotal.vadd (o : OpVA) : EncodeTotal.Statement (.vadd o) := rfl
theorem EncodeTotal.vsub (o : OpVA) : EncodeTotal.Statement (.vsub o) := rfl
theorem EncodeTotal.vmul (o : OpVA) : EncodeTotal.Statement (.vmul o) := rfl
theorem EncodeTotal.vfma (o : OpVA) : EncodeTotal.Statement (.vfma o) := rfl
theorem EncodeTotal.vmin (o : OpVA) : EncodeTotal.Statement (.vmin o) := rfl
theorem EncodeTotal.vmax (o : OpVA) : EncodeTotal.Statement (.vmax o) := rfl
theorem EncodeTotal.vabs (o : OpVU) : EncodeTotal.Statement (.vabs o) := rfl
theorem EncodeTotal.vneg (o : OpVU) : EncodeTotal.Statement (.vneg o) := rfl
theorem EncodeTotal.vdiv (o : OpVA) : EncodeTotal.Statement (.vdiv o) := rfl
theorem EncodeTotal.vsqrt (o : OpVU) : EncodeTotal.Statement (.vsqrt o) := rfl
theorem EncodeTotal.vrcp (o : OpVU) : EncodeTotal.Statement (.vrcp o) := rfl
theorem EncodeTotal.vrsq (o : OpVU) : EncodeTotal.Statement (.vrsq o) := rfl
theorem EncodeTotal.vexp2 (o : OpVU) : EncodeTotal.Statement (.vexp2 o) := rfl
theorem EncodeTotal.vlog2 (o : OpVU) : EncodeTotal.Statement (.vlog2 o) := rfl
theorem EncodeTotal.vcmp (o : OpVcmp) : EncodeTotal.Statement (.vcmp o) := rfl
theorem EncodeTotal.vsel (o : OpVA) : EncodeTotal.Statement (.vsel o) := rfl
theorem EncodeTotal.vand (o : OpVA) : EncodeTotal.Statement (.vand o) := rfl
theorem EncodeTotal.vor (o : OpVA) : EncodeTotal.Statement (.vor o) := rfl
theorem EncodeTotal.vxor (o : OpVA) : EncodeTotal.Statement (.vxor o) := rfl
theorem EncodeTotal.vnot (o : OpVU) : EncodeTotal.Statement (.vnot o) := rfl
theorem EncodeTotal.vshl (o : OpVA) : EncodeTotal.Statement (.vshl o) := rfl
theorem EncodeTotal.vshr (o : OpVA) : EncodeTotal.Statement (.vshr o) := rfl
theorem EncodeTotal.vsar (o : OpVA) : EncodeTotal.Statement (.vsar o) := rfl
theorem EncodeTotal.vcvt (o : OpVU) : EncodeTotal.Statement (.vcvt o) := rfl
theorem EncodeTotal.vpack (o : OpVA) : EncodeTotal.Statement (.vpack o) := rfl
theorem EncodeTotal.vunpk (o : OpVunpk) : EncodeTotal.Statement (.vunpk o) := rfl
theorem EncodeTotal.vperm (o : OpVA) : EncodeTotal.Statement (.vperm o) := rfl
theorem EncodeTotal.vbcstLane (o : OpVbcstLane) : EncodeTotal.Statement (.vbcstLane o) := rfl
theorem EncodeTotal.vbcstScalar (o : OpVbcstScalar) : EncodeTotal.Statement (.vbcstScalar o) := rfl
theorem EncodeTotal.vred (o : OpVred) : EncodeTotal.Statement (.vred o) := rfl
theorem EncodeTotal.vcadd (o : OpVA) : EncodeTotal.Statement (.vcadd o) := rfl
theorem EncodeTotal.vcacc (o : OpVU) : EncodeTotal.Statement (.vcacc o) := rfl
theorem EncodeTotal.vfade (o : OpVA) : EncodeTotal.Statement (.vfade o) := rfl
theorem EncodeTotal.vqdeq (o : OpVA) : EncodeTotal.Statement (.vqdeq o) := rfl
theorem EncodeTotal.xmov (o : OpVU) : EncodeTotal.Statement (.xmov o) := rfl
theorem EncodeTotal.vmov (o : OpVU) : EncodeTotal.Statement (.vmov o) := rfl
theorem EncodeTotal.cupseed (o : OpS1) : EncodeTotal.Statement (.cupseed o) := rfl
theorem EncodeTotal.cupstat (o : OpCupstat) : EncodeTotal.Statement (.cupstat o) := rfl
theorem EncodeTotal.vld (o : OpVM) : EncodeTotal.Statement (.vld o) := rfl
theorem EncodeTotal.vst (o : OpVM) : EncodeTotal.Statement (.vst o) := rfl
theorem EncodeTotal.vgth (o : OpVX) : EncodeTotal.Statement (.vgth o) := rfl
theorem EncodeTotal.vsct (o : OpVX) : EncodeTotal.Statement (.vsct o) := rfl
theorem EncodeTotal.vatom (o : OpVatom) : EncodeTotal.Statement (.vatom o) := rfl
theorem EncodeTotal.mbld (o : OpMbld) : EncodeTotal.Statement (.mbld o) := rfl
theorem EncodeTotal.mbsw (o : OpG) : EncodeTotal.Statement (.mbsw o) := rfl
theorem EncodeTotal.mma (o : OpMma) : EncodeTotal.Statement (.mma o) := rfl
theorem EncodeTotal.mmaz (o : OpMma) : EncodeTotal.Statement (.mmaz o) := rfl
theorem EncodeTotal.mscl (o : OpMscl) : EncodeTotal.Statement (.mscl o) := rfl
theorem EncodeTotal.macc (o : OpMacc) : EncodeTotal.Statement (.macc o) := rfl
theorem EncodeTotal.mzero (o : OpMzero) : EncodeTotal.Statement (.mzero o) := rfl
theorem EncodeTotal.mout (o : OpMma) : EncodeTotal.Statement (.mout o) := rfl
theorem EncodeTotal.mtap (o : OpMtap) : EncodeTotal.Statement (.mtap o) := rfl
theorem EncodeTotal.lcfgSet (o : OpLcfgSet) : EncodeTotal.Statement (.lcfgSet o) := rfl
theorem EncodeTotal.lcfgLoad (o : OpLcfgX) : EncodeTotal.Statement (.lcfgLoad o) := rfl
theorem EncodeTotal.lcfgSave (o : OpLcfgX) : EncodeTotal.Statement (.lcfgSave o) := rfl
theorem EncodeTotal.lcfgClear (o : OpLcfgClear) : EncodeTotal.Statement (.lcfgClear o) := rfl
theorem EncodeTotal.lscan (o : OpScan) : EncodeTotal.Statement (.lscan o) := rfl
theorem EncodeTotal.lscanc (o : OpScan) : EncodeTotal.Statement (.lscanc o) := rfl
theorem EncodeTotal.lgate (o : OpLgate) : EncodeTotal.Statement (.lgate o) := rfl
theorem EncodeTotal.lmat (o : OpLmat) : EncodeTotal.Statement (.lmat o) := rfl
theorem EncodeTotal.cpy (o : OpCpy) : EncodeTotal.Statement (.cpy o) := rfl
theorem EncodeTotal.cpyh (o : OpCpyh) : EncodeTotal.Statement (.cpyh o) := rfl
theorem EncodeTotal.cpym (o : OpCpym) : EncodeTotal.Statement (.cpym o) := rfl
theorem EncodeTotal.cpyr (o : OpCpyr) : EncodeTotal.Statement (.cpyr o) := rfl
theorem EncodeTotal.cpyg (o : OpCpy) : EncodeTotal.Statement (.cpyg o) := rfl
theorem EncodeTotal.cpyd (o : OpCpym) : EncodeTotal.Statement (.cpyd o) := rfl
theorem EncodeTotal.wmark (o : OpWmark) : EncodeTotal.Statement (.wmark o) := rfl
theorem EncodeTotal.binit (o : OpBar) : EncodeTotal.Statement (.binit o) := rfl
theorem EncodeTotal.arrive (o : OpArrive) : EncodeTotal.Statement (.arrive o) := rfl
theorem EncodeTotal.badd (o : OpBar) : EncodeTotal.Statement (.badd o) := rfl
theorem EncodeTotal.frld (o : OpFrld) : EncodeTotal.Statement (.frld o) := rfl
theorem EncodeTotal.frst (o : OpFrst) : EncodeTotal.Statement (.frst o) := rfl
theorem EncodeTotal.frsw (o : OpFrsw) : EncodeTotal.Statement (.frsw o) := rfl
theorem EncodeTotal.snap (o : OpFr2) : EncodeTotal.Statement (.snap o) := rfl
theorem EncodeTotal.fork (o : OpFr2) : EncodeTotal.Statement (.fork o) := rfl
theorem EncodeTotal.rback (o : OpRback) : EncodeTotal.Statement (.rback o) := rfl
theorem EncodeTotal.frel (o : OpFrel) : EncodeTotal.Statement (.frel o) := rfl
theorem EncodeTotal.hpapp (o : OpFr2) : EncodeTotal.Statement (.hpapp o) := rfl
theorem EncodeTotal.hpmap (o : OpHpmap) : EncodeTotal.Statement (.hpmap o) := rfl
theorem EncodeTotal.frstat (o : OpFr2) : EncodeTotal.Statement (.frstat o) := rfl
theorem EncodeTotal.bundleDispatch : EncodeTotal.Statement .bundleDispatch := rfl
theorem EncodeTotal.fetchMissFill : EncodeTotal.Statement .fetchMissFill := rfl
theorem EncodeTotal.trapEntry : EncodeTotal.Statement .trapEntry := rfl
theorem EncodeTotal.wholeCoreStall : EncodeTotal.Statement .wholeCoreStall := rfl
theorem EncodeTotal.watchdogExpiry : EncodeTotal.Statement .watchdogExpiry := rfl
theorem EncodeTotal.timerEvent : EncodeTotal.Statement .timerEvent := rfl
theorem EncodeTotal.loadReplyArrival : EncodeTotal.Statement .loadReplyArrival := rfl
theorem EncodeTotal.cupGenerate : EncodeTotal.Statement .cupGenerate := rfl
theorem EncodeTotal.engineWakeDone (engine : BitVec 3) : EncodeTotal.Statement (.engineWakeDone engine) := rfl
theorem EncodeTotal.copyCompletion (unit : Bool) (index : Nat) : EncodeTotal.Statement (.copyCompletion unit index) := rfl
theorem EncodeTotal.mOperationDone : EncodeTotal.Statement .mOperationDone := rfl
theorem EncodeTotal.nOperationDone : EncodeTotal.Statement .nOperationDone := rfl
theorem EncodeTotal.frameOperationDone : EncodeTotal.Statement .frameOperationDone := rfl
theorem EncodeTotal.lookaheadPeek : EncodeTotal.Statement .lookaheadPeek := rfl
theorem EncodeTotal.lookaheadLoadDone : EncodeTotal.Statement .lookaheadLoadDone := rfl
theorem EncodeTotal.queueRequest : EncodeTotal.Statement .queueRequest := rfl
theorem EncodeTotal.withdrawalNotice : EncodeTotal.Statement .withdrawalNotice := rfl
theorem EncodeTotal.backgroundHeadRead (die : Bool) (queue : BitVec 6) : EncodeTotal.Statement (.backgroundHeadRead die queue) := rfl
theorem EncodeTotal.sliceReadRequest : EncodeTotal.Statement .sliceReadRequest := rfl
theorem EncodeTotal.sliceWriteRequest : EncodeTotal.Statement .sliceWriteRequest := rfl
theorem EncodeTotal.sliceAtomicRequest : EncodeTotal.Statement .sliceAtomicRequest := rfl
theorem EncodeTotal.missFill (line : Nat) : EncodeTotal.Statement (.missFill line) := rfl
theorem EncodeTotal.tileDecodeDone (region : BitVec 4) (tile : Nat) : EncodeTotal.Statement (.tileDecodeDone region tile) := rfl
theorem EncodeTotal.lineEviction (line : Nat) : EncodeTotal.Statement (.lineEviction line) := rfl
theorem EncodeTotal.heldUpdateArrival : EncodeTotal.Statement .heldUpdateArrival := rfl
theorem EncodeTotal.windowOpenAtSlice (slice : BitVec 6) : EncodeTotal.Statement (.windowOpenAtSlice slice) := rfl
theorem EncodeTotal.windowCloseAtSlice (slice : BitVec 6) : EncodeTotal.Statement (.windowCloseAtSlice slice) := rfl
theorem EncodeTotal.packetOverdue (id : Nat) : EncodeTotal.Statement (.packetOverdue id) := rfl
theorem EncodeTotal.pipRevolution (channel : Nat) : EncodeTotal.Statement (.pipRevolution channel) := rfl
theorem EncodeTotal.packetArrival (id : Nat) : EncodeTotal.Statement (.packetArrival id) := rfl
theorem EncodeTotal.endToEndAck (id : Nat) : EncodeTotal.Statement (.endToEndAck id) := rfl
theorem EncodeTotal.resendTimeout (id : Nat) : EncodeTotal.Statement (.resendTimeout id) := rfl
theorem EncodeTotal.resetNoticeArrival (cluster : BitVec 5) (site : BitVec 5) : EncodeTotal.Statement (.resetNoticeArrival cluster site) := rfl
theorem EncodeTotal.flitReceived (link : BitVec 8) (seq : Nat) (crcOk : Bool) : EncodeTotal.Statement (.flitReceived link seq crcOk) := rfl
theorem EncodeTotal.linkReplay (link : BitVec 8) : EncodeTotal.Statement (.linkReplay link) := rfl
theorem EncodeTotal.lightLost (inward : Bool) (link : BitVec 8) (waves : BitVec 16) : EncodeTotal.Statement (.lightLost inward link waves) := rfl
theorem EncodeTotal.restripeDone (inward : Bool) (link : BitVec 8) : EncodeTotal.Statement (.restripeDone inward link) := rfl
theorem EncodeTotal.lightRestored (inward : Bool) (link : BitVec 8) (waves : BitVec 16) : EncodeTotal.Statement (.lightRestored inward link waves) := rfl
theorem EncodeTotal.linkTrained (inward : Bool) (link : BitVec 8) : EncodeTotal.Statement (.linkTrained inward link) := rfl
theorem EncodeTotal.remoteAccessArrival (link : BitVec 8) (kind : RemoteKind) (slack : BitVec 10) (offset : Nat) (data : List Byte) : EncodeTotal.Statement (.remoteAccessArrival link kind slack offset data) := rfl
theorem EncodeTotal.remoteAckReturn (id : Nat) (data : List Byte) (poisoned : Bool) : EncodeTotal.Statement (.remoteAckReturn id data poisoned) := rfl
theorem EncodeTotal.remoteWaitTimeout (id : Nat) : EncodeTotal.Statement (.remoteWaitTimeout id) := rfl
theorem EncodeTotal.quadDarkTimeout (inward : Bool) (link : BitVec 8) (quad : BitVec 2) : EncodeTotal.Statement (.quadDarkTimeout inward link quad) := rfl
theorem EncodeTotal.placementDecision (die : Bool) : EncodeTotal.Statement (.placementDecision die) := rfl
theorem EncodeTotal.launchRecordDequeued (die : Bool) : EncodeTotal.Statement (.launchRecordDequeued die) := rfl
theorem EncodeTotal.launchStart : EncodeTotal.Statement .launchStart := rfl
theorem EncodeTotal.preemption (core : BitVec 7) : EncodeTotal.Statement (.preemption core) := rfl
theorem EncodeTotal.launchComplete (die : Bool) (lid : BitVec 16) : EncodeTotal.Statement (.launchComplete die lid) := rfl
theorem EncodeTotal.meterUpdate : EncodeTotal.Statement .meterUpdate := rfl
theorem EncodeTotal.sleepStateEntry (die : Bool) : EncodeTotal.Statement (.sleepStateEntry die) := rfl
theorem EncodeTotal.wake (die : Bool) : EncodeTotal.Statement (.wake die) := rfl
theorem EncodeTotal.hostMemoryAccess (bar : BitVec 3) (write : Bool) (offset : Nat) (data : List Byte) : EncodeTotal.Statement (.hostMemoryAccess bar write offset data) := rfl
theorem EncodeTotal.hostWindowCompletion (id : Nat) (data : List Byte) (failed : Bool) : EncodeTotal.Statement (.hostWindowCompletion id data failed) := rfl
theorem EncodeTotal.queueWindowStagingWrite (slot : BitVec 8) (offset : Nat) (data : List Byte) : EncodeTotal.Statement (.queueWindowStagingWrite slot offset data) := rfl
theorem EncodeTotal.queueWindowCommit (slot : BitVec 8) : EncodeTotal.Statement (.queueWindowCommit slot) := rfl
theorem EncodeTotal.queueWindowDeqn (slot : BitVec 8) : EncodeTotal.Statement (.queueWindowDeqn slot) := rfl
theorem EncodeTotal.doorbellWrite (value : Word64) : EncodeTotal.Statement (.doorbellWrite value) := rfl
theorem EncodeTotal.hrstWrite (value : Word64) : EncodeTotal.Statement (.hrstWrite value) := rfl
theorem EncodeTotal.formatRegionWrite (number : BitVec 19) (value : Word64) : EncodeTotal.Statement (.formatRegionWrite number value) := rfl
theorem EncodeTotal.tbinvWrite (value : Word64) : EncodeTotal.Statement (.tbinvWrite value) := rfl
theorem EncodeTotal.frameRegisterWrite (number : BitVec 19) (value : Word64) : EncodeTotal.Statement (.frameRegisterWrite number value) := rfl
theorem EncodeTotal.sliceRegisterWrite (number : BitVec 19) (value : Word64) : EncodeTotal.Statement (.sliceRegisterWrite number value) := rfl
theorem EncodeTotal.controllerRegisterWrite (number : BitVec 19) (value : Word64) : EncodeTotal.Statement (.controllerRegisterWrite number value) := rfl
theorem EncodeTotal.vectorStatusAccess (number : BitVec 19) (value : Word64) : EncodeTotal.Statement (.vectorStatusAccess number value) := rfl
theorem EncodeTotal.matrixStatusAccess (number : BitVec 19) (value : Word64) : EncodeTotal.Statement (.matrixStatusAccess number value) := rfl
theorem EncodeTotal.ladderStatusAccess (number : BitVec 19) (value : Word64) : EncodeTotal.Statement (.ladderStatusAccess number value) := rfl
theorem EncodeTotal.evpendClear (value : Word64) : EncodeTotal.Statement (.evpendClear value) := rfl
theorem EncodeTotal.frlqWrite (value : Word64) : EncodeTotal.Statement (.frlqWrite value) := rfl
theorem EncodeTotal.registerWrite (number : BitVec 19) (value : Word64) : EncodeTotal.Statement (.registerWrite number value) := rfl
theorem EncodeTotal.correctedError (reader : Option (BitVec 7)) : EncodeTotal.Statement (.correctedError reader) := rfl
theorem EncodeTotal.fatalError (cause : BitVec 8) : EncodeTotal.Statement (.fatalError cause) := rfl
theorem EncodeTotal.deviceReset : EncodeTotal.Statement .deviceReset := rfl
theorem EncodeTotal.functionLevelReset : EncodeTotal.Statement .functionLevelReset := rfl
theorem EncodeTotal.bootImageLoad (image : BootImage) : EncodeTotal.Statement (.bootImageLoad image) := rfl
theorem EncodeTotal.bootFlashTimeout (image : BootImage) : EncodeTotal.Statement (.bootFlashTimeout image) := rfl
theorem EncodeTotal.attestationCommand (nonce : List Byte) : EncodeTotal.Statement (.attestationCommand nonce) := rfl
theorem EncodeTotal.linkAckReceived (link : BitVec 8) (seq : Nat) : EncodeTotal.Statement (.linkAckReceived link seq) := rfl
theorem EncodeTotal.timestampExchange (link : BitVec 8) (t1 t2 t3 t4 : Nat) : EncodeTotal.Statement (.timestampExchange link t1 t2 t3 t4) := rfl
theorem EncodeTotal.coreOrSliceRetired (slice : Bool) (number : BitVec 7) : EncodeTotal.Statement (.coreOrSliceRetired slice number) := rfl
theorem EncodeTotal.releasedRequestReturn : EncodeTotal.Statement .releasedRequestReturn := rfl

end Sys2Proof.Laws
end

