-- ==== Sys2Proof/Laws/Slice.lean ====
section
/-! SUPPORT. The writes that perform at a home slice or in a core's own storage keep the canonical form of the byte storage. -/

namespace Sys2Proof.Machine

/-- What holds of a state and passes through every step of a fold holds of its result. -/
theorem State.inv_foldl {α : Type} (f : State → α → State) (hf : ∀ s a, s.Inv → (f s a).Inv) (l : List α) :
    ∀ {s : State}, s.Inv → (l.foldl f s).Inv := by
  induction l with
  | nil => exact id
  | cons a t ih => exact fun h => ih (hf _ _ h)

theorem State.inv_ite {p : Prop} [Decidable p] {a b : State} (ha : a.Inv) (hb : b.Inv) : (if p then a else b).Inv := by
  split <;> assumption

theorem State.inv_updCore {s : State} (h : s.Inv) (id : BitVec 7) (f : CoreState → CoreState) : (s.updCore id f).Inv := by
  unfold State.updCore
  split <;> exact h

theorem State.inv_note {s : State} (h : s.Inv) (id : BitVec 7) (seq loc n : Nat) : (s.note id seq loc n).Inv :=
  State.inv_updCore h _ _

theorem State.inv_noteSpad {s : State} (h : s.Inv) (loc n : Nat) : (s.noteSpad loc n).Inv := by
  unfold State.noteSpad
  exact State.inv_ite h ⟨h.1, h.2⟩

theorem State.inv_writeLocal {s : State} (h : s.Inv) (loc : Nat) (bs : List Byte) : (s.writeLocal loc bs).Inv :=
  State.inv_noteSpad (State.inv_write h _ _) _ _

theorem State.inv_dropDecoded {s : State} (h : s.Inv) (loc n : Nat) : (s.dropDecoded loc n).Inv := h

theorem State.inv_markLine {s : State} (h : s.Inv) (key : Option Nat) (line lo n : Nat) : (s.markLine key line lo n).Inv := by
  unfold State.markLine
  dsimp only
  split <;> exact h

theorem State.inv_markBytes {s : State} (h : s.Inv) (key : Option Nat) (pa n : Nat) : (s.markBytes key pa n).Inv :=
  State.inv_foldl _ (fun _ _ hs => State.inv_markLine hs _ _ _ _) _ h

theorem State.inv_guardDigest {s t : State} (h : t.Inv) (loc n : Nat) : (s.guardDigest t loc n).Inv := by
  unfold State.guardDigest
  exact State.inv_ite (State.inv_write h _ _) h

theorem State.inv_digestLine {s : State} (h : s.Inv) (key line : Nat) : (s.digestLine key line).Inv := by
  unfold State.digestLine
  dsimp only
  split
  · exact h
  · exact State.inv_of_eq h rfl rfl
  · exact State.inv_markBytes (State.inv_writeNum (State.inv_dropDecoded h _ _) _ _ _) _ _ _

theorem State.inv_digestNote {s : State} (h : s.Inv) (key pa n : Nat) : (s.digestNote key pa n).Inv := by
  unfold State.digestNote
  split
  · exact State.inv_foldl _ (fun _ _ hs => State.inv_digestLine hs _ _) _ h
  · exact h

/-- A write that performs keeps the form, whoever made it and wherever it lands. -/
theorem State.inv_performWrite {s : State} (h : s.Inv) (key : Option Nat) (loc : Nat) (bs : List Byte) : (s.performWrite key loc bs).Inv := by
  have hw := State.inv_markBytes (State.inv_write (State.inv_dropDecoded h loc bs.length) loc bs) key loc bs.length
  unfold State.performWrite
  refine State.inv_ite h ?_
  split
  · cases key with
    | none => exact hw
    | some k => exact State.inv_digestNote (State.inv_guardDigest hw _ _) _ _ _
  · exact State.inv_writeLocal h _ _

theorem State.inv_performOwn {s : State} (h : s.Inv) (loc : Nat) (bs : List Byte) : (s.performOwn loc bs).Inv :=
  State.inv_performWrite (State.inv_note h _ _ _ _) _ _ _

/-- Bytes of an abandoned destination, old or new each, keep the form. -/
theorem State.inv_mixBytes {s : State} (h : s.Inv) (full : State) (loc n : Nat) : (s.mixBytes full loc n).Inv := by
  unfold State.mixBytes
  refine State.inv_foldl _ (fun t i ht => ?_) _ h
  dsimp only
  split
  · exact State.inv_setPoison (State.inv_performWrite ht _ _ _) _ _
  · exact State.inv_performWrite ht _ _ _

/-- Bytes that become free ones keep the form. -/
theorem State.inv_freeBytes {s : State} (h : s.Inv) (lo n : Nat) : (s.freeBytes lo n).Inv :=
  ⟨Cells.wf_foldl_put _ _ _ h.1, Cells.wf_clear h.2 _ _⟩

end Sys2Proof.Machine
end

