-- ==== Sys2Proof/Tests/Slice0.lean ====
section
/-! SUPPORT. Tests: words of the spec's encodings, ill-formed instructions, the spec's worked examples, and for each
statement states and operands that meet its hypotheses. -/

namespace Sys2Proof.Tests

open Sys2Proof.Machine

set_option Elab.async false

/-! ### States for the tests -/

/-- The current core runs and issues an entry of a slot, in a bundle at 0x10000; a page table maps the lowest GiB. -/
def at' (slot : Nat) : State :=
  let s := State.reset.withBundle (bundleBytes .s 0)
  { s with core := { s.core with cur := { s.core.cur with slot := slot, pc := 0x10000#48, next := 0x10020#48 } } }

/-- Scalar registers given values, s1 first. -/
def regs (vs : List Nat) (s : State) : State :=
  { s with core := { s.core with s := Cells.putN 0#64 s.core.s 1 (vs.map (BitVec.ofNat 64)) } }

/-- Address registers given values, x0 first. -/
def xregs (vs : List Nat) (s : State) : State :=
  { s with core := { s.core with x := Cells.putN 0#32 s.core.x 0 (vs.map (BitVec.ofNat 32)) } }

def cr (n v : Nat) (s : State) : State := s.upd (·.crPut n (BitVec.ofNat 64 v))

/-- The answer is a next state with a property. -/
def next (o : Out) (p : State → Bool) : Bool := match o with | .next t => p t | _ => false

/-- The answer is a next state. -/
def goes (o : Out) : Bool := next o fun _ => true

/-- The answer is a next state in which the entry is not held and no trap was entered. -/
def completes (i : Instr) (s : State) : Bool :=
  next (exec i s) fun t => !t.core.held && t.core.crGet 2 == s.core.crGet 2 && t.core.mode != .dead

/-! ### Words (R51 to R60): match bits and operand fields of each row -/

theorem test_words_s1 : ∀ p ∈ ([
  (0x00000000#32, none, .nop),
  (0x06DDE240#32, none, .add ⟨0xb#4, 0x1d#6, 0x38#6, 0x24#6⟩),
  (0x06F7F321#32, none, .sub ⟨0xb#4, 0x37#6, 0x3c#6, 0x32#6⟩),
  (0x06DE7612#32, none, .mul ⟨0xb#4, 0x1e#6, 0x1d#6, 0x21#6⟩),
  (0x06F798D3#32, none, .mulh ⟨0xb#4, 0x37#6, 0x26#6, 0x0d#6⟩),
  (0x06CCD214#32, none, .mulhu ⟨0xb#4, 0x0c#6, 0x34#6, 0x21#6⟩),
  (0x06DFA685#32, none, .div ⟨0xb#4, 0x1f#6, 0x29#6, 0x28#6⟩),
  (0x06F33076#32, none, .divu ⟨0xb#4, 0x33#6, 0x0c#6, 0x07#6⟩),
  (0x06DD50A7#32, none, .rem ⟨0xb#4, 0x1d#6, 0x14#6, 0x0a#6⟩),
  (0x06C68F48#32, none, .remu ⟨0xb#4, 0x06#6, 0x23#6, 0x34#6⟩),
  (0x06F9B699#32, none, .and ⟨0xb#4, 0x39#6, 0x2d#6, 0x29#6⟩),
  (0x06C39FFA#32, none, .or ⟨0xb#4, 0x03#6, 0x27#6, 0x3f#6⟩),
  (0x06DAF9DB#32, none, .xor ⟨0xb#4, 0x1a#6, 0x3e#6, 0x1d#6⟩),
  (0x06EAC28C#32, none, .shl ⟨0xb#4, 0x2a#6, 0x30#6, 0x28#6⟩),
  (0x06EA2E8D#32, none, .shr ⟨0xb#4, 0x2a#6, 0x0b#6, 0x28#6⟩),
  (0x06C1DA2E#32, none, .sar ⟨0xb#4, 0x01#6, 0x36#6, 0x22#6⟩),
  (0x06C5103F#32, none, .rotr ⟨0xb#4, 0x05#6, 0x04#6, 0x03#6⟩),
  (0x0ACDE500#32, none, .addS32 ⟨0xb#4, 0x0d#6, 0x39#6, 0x10#6⟩),
  (0x0AE70B21#32, none, .subS32 ⟨0xb#4, 0x27#6, 0x02#6, 0x32#6⟩),
  (0x0ADE55D2#32, none, .mulS32 ⟨0xb#4, 0x1e#6, 0x15#6, 0x1d#6⟩),
  (0x0AE6D8D3#32, none, .mulhS32 ⟨0xb#4, 0x26#6, 0x36#6, 0x0d#6⟩)] : List (Word32 × Option (BitVec 9) × Instr)),
    decodeSlot .s p.1 p.2.1 = .ok p.2.2 := by decide +kernel

theorem test_words_s2 : ∀ p ∈ ([
  (0x0AE23E94#32, none, .mulhuS32 ⟨0xb#4, 0x22#6, 0x0f#6, 0x29#6⟩),
  (0x0AD38015#32, none, .divS32 ⟨0xb#4, 0x13#6, 0x20#6, 0x01#6⟩),
  (0x0AEB19E6#32, none, .divuS32 ⟨0xb#4, 0x2b#6, 0x06#6, 0x1e#6⟩),
  (0x0AEA49B7#32, none, .remS32 ⟨0xb#4, 0x2a#6, 0x12#6, 0x1b#6⟩),
  (0x0AE4F368#32, none, .remuS32 ⟨0xb#4, 0x24#6, 0x3c#6, 0x36#6⟩),
  (0x0AC6B919#32, none, .andS32 ⟨0xb#4, 0x06#6, 0x2e#6, 0x11#6⟩),
  (0x0AD5C4FA#32, none, .orS32 ⟨0xb#4, 0x15#6, 0x31#6, 0x0f#6⟩),
  (0x0AE14C2B#32, none, .xorS32 ⟨0xb#4, 0x21#6, 0x13#6, 0x02#6⟩),
  (0x0AC5972C#32, none, .shlS32 ⟨0xb#4, 0x05#6, 0x25#6, 0x32#6⟩),
  (0x0AC7687D#32, none, .shrS32 ⟨0xb#4, 0x07#6, 0x1a#6, 0x07#6⟩),
  (0x0AF74D9E#32, none, .sarS32 ⟨0xb#4, 0x37#6, 0x13#6, 0x19#6⟩),
  (0x0AC5F82F#32, none, .rotrS32 ⟨0xb#4, 0x05#6, 0x3e#6, 0x02#6⟩),
  (0x0EF7B010#32, none, .min ⟨0xb#4, 0x37#6, 0x2c#6, 0x01#6⟩),
  (0x0ECE3BC1#32, none, .minu ⟨0xb#4, 0x0e#6, 0x0e#6, 0x3c#6⟩),
  (0x0EFB11F2#32, none, .max ⟨0xb#4, 0x3b#6, 0x04#6, 0x1f#6⟩),
  (0x0ED9FEE3#32, none, .maxu ⟨0xb#4, 0x19#6, 0x3f#6, 0x2e#6⟩),
  (0x0EDA6C04#32, none, .clz ⟨0xb#4, 0x1a#6, 0x1b#6⟩),
  (0x0EC59405#32, none, .ctz ⟨0xb#4, 0x05#6, 0x25#6⟩),
  (0x0EE93406#32, none, .popc ⟨0xb#4, 0x29#6, 0x0d#6⟩),
  (0x0EF2B007#32, none, .bswap ⟨0xb#4, 0x32#6, 0x2c#6⟩),
  (0x0ED25868#32, none, .andn ⟨0xb#4, 0x12#6, 0x16#6, 0x06#6⟩)] : List (Word32 × Option (BitVec 9) × Instr)),
    decodeSlot .s p.1 p.2.1 = .ok p.2.2 := by decide +kernel

theorem test_words_s3 : ∀ p ∈ ([
  (0x0ED45819#32, none, .orn ⟨0xb#4, 0x14#6, 0x16#6, 0x01#6⟩),
  (0x12C4C7C9#32, none, .cmp ⟨0xb#4, 0x4#3, 0x31#6, 0x3c#6, 0x9#4⟩),
  (0x16CA416A#32, none, .cmpi ⟨0xb#4, 0x1#3, 0x2#3, 0x10#6, 0x0016a#19⟩),
  (0x1AC10410#32, none, .gand ⟨0xb#4, 0x1#3, 0x1#3, 0x1#3⟩),
  (0x1AC41C41#32, none, .gor ⟨0xb#4, 0x4#3, 0x7#3, 0x4#3⟩),
  (0x1AC21852#32, none, .gxor ⟨0xb#4, 0x2#3, 0x6#3, 0x5#3⟩),
  (0x1AC21053#32, none, .gandn ⟨0xb#4, 0x2#3, 0x4#3, 0x5#3⟩),
  (0x1AC2BC04#32, none, .gset ⟨0xb#4, 0x2#3, 0x2f#6⟩),
  (0x1AF20805#32, none, .gget ⟨0xb#4, 0x32#6, 0x2#3⟩),
  (0x1EDBA999#32, none, .sel ⟨0xb#4, 0x1b#6, 0x2a#6, 0x19#6, true, 0x1#3⟩),
  (0x22DA6DFB#32, none, .addi ⟨0xb#4, 0x1a#6, 0x1b#6, 0x001fb#19⟩),
  (0x26CE048B#32, none, .andi ⟨0xb#4, 0x0e#6, 0x01#6, 0x0008b#19⟩),
  (0x2AF8FDF4#32, none, .ori ⟨0xb#4, 0x38#6, 0x3f#6, 0x001f4#19⟩),
  (0x2EF4989C#32, none, .xori ⟨0xb#4, 0x34#6, 0x26#6, 0x0009c#19⟩),
  (0x32F9080E#32, none, .shli ⟨0xb#4, 0x39#6, 0x02#6, 0x0e#6⟩),
  (0x36CC6837#32, none, .shri ⟨0xb#4, 0x0c#6, 0x1a#6, 0x37#6⟩),
  (0x3AE7A825#32, none, .sari ⟨0xb#4, 0x27#6, 0x2a#6, 0x25#6⟩),
  (0x3EC70DFB#32, none, .muli ⟨0xb#4, 0x07#6, 0x03#6, 0x001fb#19⟩),
  (0x42CA006E#32, none, .movi ⟨0xb#4, 0x0a#6, 0x0006e#19⟩),
  (0x46DD4405#32, none, .movh ⟨0xb#4, 0x1d#6, 0x11#6, 0x00005#19⟩),
  (0x4AF2A296#32, none, .ld ⟨0xb#4, 0x32#6, 0x28#6, 0x5#3, 0x0016#16⟩)] : List (Word32 × Option (BitVec 9) × Instr)),
    decodeSlot .s p.1 p.2.1 = .ok p.2.2 := by decide +kernel

theorem test_words_s4 : ∀ p ∈ ([
  (0x4EF64F19#32, none, .st ⟨0xb#4, 0x36#6, 0x13#6, 0x6#3, 0x0019#16⟩),
  (0x52C51686#32, none, .ldacq ⟨0xb#4, 0x05#6, 0x05#6, 0x5#3, 0x0006#16⟩),
  (0x56CE9B29#32, none, .strel ⟨0xb#4, 0x0e#6, 0x26#6, 0x6#3, 0x0029#16⟩),
  (0x5AD00679#32, none, .atom64 ⟨0xb#4, 0x10#6, 0x01#6, 0x27#6, 0x9#4⟩),
  (0x5ED8628C#32, none, .atom32 ⟨0xb#4, 0x18#6, 0x18#6, 0x28#6, 0xc#4⟩),
  (0x62DE27E7#32, none, .atomn ⟨0xb#4, 0x1e#6, 0x09#6, 0x3e#6, 0x3#3, true⟩),
  (0x66E67C00#32, none, .qinit ⟨0xb#4, 0x26#6, 0x1f#6⟩),
  (0x66F69440#32, none, .enq ⟨0xb#4, 0x36#6, 0x25#6⟩),
  (0x66C9E080#32, none, .deq ⟨0xb#4, 0x09#6, 0x38#6⟩),
  (0x66D930F0#32, none, .enqn ⟨0xb#4, 0x19#6, 0x0c#6, 0x6#3⟩),
  (0x66CA5110#32, none, .deqn ⟨0xb#4, 0x0a#6, 0x14#6, 0x2#3⟩),
  (0x66F5A140#32, none, .qpeek ⟨0xb#4, 0x35#6, 0x28#6⟩),
  (0x66D0BD80#32, none, .qstat ⟨0xb#4, 0x10#6, 0x2f#6⟩),
  (0x66CD01C0#32, none, .qclose ⟨0xb#4, 0x0d#6⟩),
  (0x66CBC200#32, none, .rwopen ⟨0xb#4, 0x0b#6, 0x30#6⟩),
  (0x66E9F640#32, none, .rwclose ⟨0xb#4, 0x29#6, 0x3d#6⟩),
  (0x6AE40060#32, none, .fence ⟨0xb#4, 0x24#6, 0x3#3⟩),
  (0x6ACD0100#32, none, .fwait ⟨0xb#4, 0x0d#6⟩),
  (0x6AC00260#32, none, .drain ⟨0xb#4, 0x3#3⟩),
  (0x6EC00016#32, none, .join ⟨0xb#4, 0x16#5⟩),
  (0x72C7E400#32, none, .xset ⟨0xb#4, 0x7#4, 0x39#6⟩)] : List (Word32 × Option (BitVec 9) × Instr)),
    decodeSlot .s p.1 p.2.1 = .ok p.2.2 := by decide +kernel

theorem test_words_s5 : ∀ p ∈ ([
  (0x76C80136#32, none, .xadd ⟨0xb#4, 0x8#4, 0x00136#19⟩),
  (0x7AC60004#32, none, .view ⟨0xb#4, 0x06#6, 0x4#3⟩),
  (0x7EC40229#32, none, .shw ⟨0xb#4, 0x04#6, 0x4#3, 0x1#2, 0x09#5⟩),
  (0x82C20028#32, none, .slk ⟨0xb#4, 0x2#4, 0x028#10⟩),
  (0x86E101ED#32, none, .mfc ⟨0xb#4, 0x21#6, 0x001ed#19⟩),
  (0x8AC0447B#32, none, .mtc ⟨0xb#4, 0x11#6, 0x0007b#19⟩),
  (0x8ED7ACAE#32, none, .br ⟨0xb#4, 0x0017acae#31⟩),
  (0x92D68BEB#32, none, .jmp ⟨0xb#4, 0x00168beb#31⟩),
  (0x96C06800#32, none, .jmpi ⟨0xb#4, 0x1a#6⟩),
  (0x9AC83932#32, none, .call ⟨0xb#4, 0x00083932#31⟩),
  (0x9EC00000#32, none, .ret ⟨0xb#4⟩),
  (0xA01B01A6#32, none, .loop ⟨0x1b#6, 0x00#6, 0x001a6#19⟩),
  (0xA6FA0280#32, none, .lnsetBound ⟨0xb#4, 0x3a#6, 0x5#3⟩),
  (0xA6E702B1#32, none, .lnsetBind ⟨0xb#4, 0x27#6, 0x5#3, 0x8#4, true⟩),
  (0xA6C002C0#32, none, .lnsetClear ⟨0xb#4, 0x5#3⟩),
  (0xA8292C7B#32, none, .loopn ⟨0x5#3, 0x12c7b#19⟩),
  (0xAC22005A#32, none, .rpt ⟨0x22#6, 0x00#6, 0x0005a#19⟩),
  (0xB00001DC#32, none, .margin ⟨0x001dc#19⟩),
  (0xB40000B9#32, none, .segOpen ⟨0x0b9#9⟩),
  (0xB40002FB#32, none, .segClose ⟨0x0fb#9⟩),
  (0xBAC2336A#32, none, .cont ⟨0xb#4, 0x0002336a#31⟩)] : List (Word32 × Option (BitVec 9) × Instr)),
    decodeSlot .s p.1 p.2.1 = .ok p.2.2 := by decide +kernel

theorem test_words_s6 : ∀ p ∈ ([
  (0xBEC00000#32, none, .endcont ⟨0xb#4⟩),
  (0xC2C00041#32, none, .trap ⟨0xb#4, 0x00041#19⟩),
  (0xC6C00000#32, none, .tret ⟨0xb#4⟩),
  (0xCAC00000#32, none, .halt ⟨0xb#4⟩),
  (0xCEC00000#32, none, .yield ⟨0xb#4⟩),
  (0xD2CF0008#32, none, .waitev ⟨0xb#4, 0x0f#6, 0x8#4⟩),
  (0xD6C00024#32, none, .gate ⟨0xb#4, 0x24#6⟩),
  (0xDAC0A800#32, none, .ctxsv ⟨0xb#4, 0x2a#6⟩),
  (0xDEC0DC00#32, none, .ctxld ⟨0xb#4, 0x37#6⟩),
  (0xE2E8109E#32, none, .bwait ⟨0xb#4, 0x28#6, 0x4#3, 0x9e#8⟩),
  (0xE6C01409#32, none, .wmwait ⟨0xb#4, 0x05#6, 0x09#5⟩),
  (0xE6C00027#32, none, .wmwaitAll ⟨0xb#4, 0x07#5⟩),
  (0xEAFBEC00#32, none, .launch ⟨0xb#4, 0x3b#6, 0x3b#6⟩),
  (0xEAC03840#32, none, .chwait ⟨0xb#4, 0x0e#6⟩),
  (0xEAF00880#32, none, .preempt ⟨0xb#4, 0x30#6, 0x02#6⟩),
  (0xEAC548C0#32, none, .resume ⟨0xb#4, 0x05#6, 0x12#6⟩),
  (0xEADB7500#32, none, .emrd ⟨0xb#4, 0x1b#6, 0x1d#6⟩),
  (0xEAD01140#32, none, .digest ⟨0xb#4, 0x10#6, 0x04#6⟩),
  (0xEAC30180#32, none, .sleep ⟨0xb#4, 0x03#6⟩),
  (0xEECC4C00#32, none, .linkst ⟨0xb#4, 0x0c#6, 0x13#6⟩),
  (0xEED88840#32, none, .lnkcfg ⟨0xb#4, 0x18#6, 0x22#6⟩)] : List (Word32 × Option (BitVec 9) × Instr)),
    decodeSlot .s p.1 p.2.1 = .ok p.2.2 := by decide +kernel

theorem test_words_s7 : ∀ p ∈ ([
  (0xEEE5FC80#32, none, .talign ⟨0xb#4, 0x25#6, 0x3f#6⟩)] : List (Word32 × Option (BitVec 9) × Instr)),
    decodeSlot .s p.1 p.2.1 = .ok p.2.2 := by decide +kernel

theorem test_words_v1 : ∀ p ∈ ([
  (0x06C91986#32, none, .vadd ⟨0xb#4, 0x009#9, 0x006#9, 0x018#9, 0x1#2, true⟩),
  (0x0AFA77FA#32, none, .vsub ⟨0xb#4, 0x03a#9, 0x01d#9, 0x03f#9, 0x2#2, true⟩),
  (0x0EEBBEDE#32, none, .vmul ⟨0xb#4, 0x02b#9, 0x02f#9, 0x02d#9, 0x3#2, true⟩),
  (0x12E6F49E#32, none, .vfma ⟨0xb#4, 0x026#9, 0x03d#9, 0x009#9, 0x3#2, true⟩),
  (0x16C3F02A#32, none, .vmin ⟨0xb#4, 0x003#9, 0x03c#9, 0x002#9, 0x2#2, true⟩),
  (0x1AFB5EDA#32, none, .vmax ⟨0xb#4, 0x03b#9, 0x017#9, 0x02d#9, 0x2#2, true⟩),
  (0x1EFE0C06#32, none, .vabs ⟨0xb#4, 0x03e#9, 0x003#9, 0x1#2, true⟩),
  (0x22E7A406#32, none, .vneg ⟨0xb#4, 0x027#9, 0x029#9, 0x1#2, true⟩),
  (0x26DF16FA#32, none, .vdiv ⟨0xb#4, 0x01f#9, 0x005#9, 0x02f#9, 0x2#2, true⟩),
  (0x2AD52406#32, none, .vsqrt ⟨0xb#4, 0x015#9, 0x009#9, 0x1#2, true⟩),
  (0x2EC5740E#32, none, .vrcp ⟨0xb#4, 0x005#9, 0x01d#9, 0x3#2, true⟩),
  (0x32D8C006#32, none, .vrsq ⟨0xb#4, 0x018#9, 0x030#9, 0x1#2, true⟩),
  (0x36FAF00E#32, none, .vexp2 ⟨0xb#4, 0x03a#9, 0x03c#9, 0x3#2, true⟩),
  (0x3AF0B806#32, none, .vlog2 ⟨0xb#4, 0x030#9, 0x02e#9, 0x1#2, true⟩),
  (0x3EFB5C6E#32, none, .vcmp ⟨0xb#4, 0x7#3, 0x3#3, 0x017#9, 0x006#9, 0x3#2, true⟩),
  (0x42DFE85A#32, none, .vsel ⟨0xb#4, 0x01f#9, 0x03a#9, 0x005#9, 0x2#2, true⟩),
  (0x46FDCC2A#32, none, .vand ⟨0xb#4, 0x03d#9, 0x033#9, 0x002#9, 0x2#2, true⟩),
  (0x4AE5068E#32, none, .vor ⟨0xb#4, 0x025#9, 0x001#9, 0x028#9, 0x3#2, true⟩),
  (0x4ED96666#32, none, .vxor ⟨0xb#4, 0x019#9, 0x019#9, 0x026#9, 0x1#2, true⟩),
  (0x52E71406#32, none, .vnot ⟨0xb#4, 0x027#9, 0x005#9, 0x1#2, true⟩),
  (0x56C6A48A#32, none, .vshl ⟨0xb#4, 0x006#9, 0x029#9, 0x008#9, 0x2#2, true⟩)] : List (Word32 × Option (BitVec 9) × Instr)),
    decodeSlot .v p.1 p.2.1 = .ok p.2.2 := by decide +kernel

theorem test_words_v2 : ∀ p ∈ ([
  (0x5AF96EFA#32, none, .vshr ⟨0xb#4, 0x039#9, 0x01b#9, 0x02f#9, 0x2#2, true⟩),
  (0x5ED9F30E#32, none, .vsar ⟨0xb#4, 0x019#9, 0x03c#9, 0x030#9, 0x3#2, true⟩),
  (0x62E6780A#32, none, .vcvt ⟨0xb#4, 0x026#9, 0x01e#9, 0x2#2, true⟩),
  (0x66DEDA36#32, none, .vpack ⟨0xb#4, 0x01e#9, 0x036#9, 0x023#9, 0x1#2, true⟩),
  (0x6AE2C436#32, none, .vunpk ⟨0xb#4, 0x022#9, 0x031#9, 0x3#2, 0x1#2, true⟩),
  (0x6ED49C6A#32, none, .vperm ⟨0xb#4, 0x014#9, 0x027#9, 0x006#9, 0x2#2, true⟩),
  (0x72C23DFE#32, none, .vbcstLane ⟨0xb#4, 0x002#9, 0x00f#9, 0x1f#5, 0x3#2, true⟩),
  (0x72C8820E#32, none, .vbcstScalar ⟨0xb#4, 0x008#9, 0x20#6, 0x3#2, true⟩),
  (0x76EBEE2A#32, none, .vred ⟨0xb#4, 0x02b#9, 0x03b#9, 0x4#3, 0x2#3, 0x2#2, true⟩),
  (0x7AFA058A#32, none, .vcadd ⟨0xb#4, 0x03a#9, 0x001#9, 0x018#9, 0x2#2, true⟩),
  (0x7ECAB00E#32, none, .vcacc ⟨0xb#4, 0x00a#9, 0x02c#9, 0x3#2, true⟩),
  (0x82CD88BA#32, none, .vfade ⟨0xb#4, 0x00d#9, 0x022#9, 0x00b#9, 0x2#2, true⟩),
  (0x86EBF1DA#32, none, .vqdeq ⟨0xb#4, 0x02b#9, 0x03c#9, 0x01d#9, 0x2#2, true⟩),
  (0x8AFA400A#32, none, .xmov ⟨0xb#4, 0x03a#9, 0x010#9, 0x2#2, true⟩),
  (0x8EDAAC0A#32, none, .vmov ⟨0xb#4, 0x01a#9, 0x02b#9, 0x2#2, true⟩),
  (0x92C03400#32, none, .cupseed ⟨0xb#4, 0x0d#6⟩),
  (0x96E90000#32, none, .cupstat ⟨0xb#4, 0x029#9⟩),
  (0xA2DC39A7#32, none, .vld ⟨0xb#4, 0x01c#9, 0x0e#6, 0x01a#12, 0x1#2, true, true⟩),
  (0xA6F9387B#32, none, .vst ⟨0xb#4, 0x039#9, 0x0e#6, 0x007#12, 0x2#2, true, true⟩),
  (0xAACF393B#32, none, .vgth ⟨0xb#4, 0x00f#9, 0x0e#6, 0x013#9, 0x2#2, true, true⟩),
  (0xAECE3857#32, none, .vsct ⟨0xb#4, 0x00e#9, 0x0e#6, 0x005#9, 0x1#2, true, true⟩)] : List (Word32 × Option (BitVec 9) × Instr)),
    decodeSlot .v p.1 p.2.1 = .ok p.2.2 := by decide +kernel

theorem test_words_v3 : ∀ p ∈ ([
  (0xB2E05DB7#32, none, .vatom ⟨0xb#4, 0x020#9, 0x17#6, 0x01b#9, 0x0#3, 0x1#2, true, true⟩)] : List (Word32 × Option (BitVec 9) × Instr)),
    decodeSlot .v p.1 p.2.1 = .ok p.2.2 := by decide +kernel

theorem test_words_m1 : ∀ p ∈ ([
  (0x06C06380#32, none, .mbld ⟨0xb#4, 0xc#4, 0x1#2, true, true⟩),
  (0x0AC00000#32, none, .mbsw ⟨0xb#4⟩),
  (0x0EDF0390#32, none, .mma ⟨0xb#4, 0x3#3, 0xe#4, 0x1#2, true, true, 0x04#5⟩),
  (0x12E405F8#32, none, .mmaz ⟨0xb#4, 0x4#3, 0x8#4, 0x2#2, true, true, 0x1e#5⟩),
  (0x16D00537#32, none, .mscl ⟨0xb#4, 0x2#3, 0x2#2, true, 0x0d#5, 0x3#2⟩),
  (0x1AEA072D#32, none, .macc ⟨0xb#4, 0x5#3, 0x4#3, 0x3#2, true, 0x0b#5, true⟩),
  (0x1EF0073C#32, none, .mzero ⟨0xb#4, 0x6#3, 0x3#2, true, 0x0f#5⟩),
  (0x22D903A4#32, none, .mout ⟨0xb#4, 0x3#3, 0x2#4, 0x1#2, true, true, 0x09#5⟩),
  (0x26FD0FAE#32, none, .mtap ⟨0xb#4, 0x7#3, 0xa#4, 0x1#4, 0x3#2, true, true, 0x002e#16⟩)] : List (Word32 × Option (BitVec 9) × Instr)),
    decodeSlot .m p.1 p.2.1 = .ok p.2.2 := by decide +kernel

theorem test_words_n1 : ∀ p ∈ ([
  (0x06C00533#32, some 0x4#9, .lcfgSet ⟨0xb#4, 0x2#2, true, 0x3#3, 0x06#5, 0x2#2⟩),
  (0x06EB0580#32, some 0x80#9, .lcfgLoad ⟨0xb#4, 0x5#3, 0x6#4, 0x2#2, true, true⟩),
  (0x06F06F80#32, some 0x100#9, .lcfgSave ⟨0xb#4, 0x6#3, 0xd#4, 0x3#2, true, true⟩),
  (0x06C80700#32, some 0x180#9, .lcfgClear ⟨0xb#4, 0x1#3, 0x3#2, true⟩),
  (0x0AD3C381#32, none, .lscan ⟨0xb#4, 0x2#3, 0x7#4, 0x8#4, 0x1#2, true, true, true⟩),
  (0x0ECEF581#32, none, .lscanc ⟨0xb#4, 0x1#3, 0xd#4, 0xe#4, 0x2#2, true, true, true⟩),
  (0x12C26B80#32, none, .lgate ⟨0xb#4, 0x4#4, 0xd#4, 0x1#2, true, true⟩),
  (0x16F8DB8F#32, none, .lmat ⟨0xb#4, 0x7#3, 0x1#4, 0xb#4, 0x1#2, true, true, 0x0f#5⟩)] : List (Word32 × Option (BitVec 9) × Instr)),
    decodeSlot .n p.1 p.2.1 = .ok p.2.2 := by decide +kernel

theorem test_words_c1 : ∀ p ∈ ([
  (0x06C973F9#32, none, .cpy ⟨0xb#4, 0x04#5, 0xb#4, 0x9#4, 0x3#2, true, 0x3#2, 0x2#2, none, true⟩),
  (0x0AC568E8#32, none, .cpyh ⟨0xb#4, 0x2#4, 0xb#4, 0x4#4, 0x1#2, true, 0x2#2, 0x2#2, none⟩),
  (0x0ECD8378#32, none, .cpym ⟨0xb#4, 0x06#5, 0xc#4, 0x1#4, 0x2#2, true, 0x3#2, none⟩),
  (0x12E182F0#32, none, .cpyr ⟨0xb#4, 0x4#3, 0xc#4, 0x1#4, 0x1#2, true, 0x3#2, none⟩),
  (0x16D0BB6D#32, none, .cpyg ⟨0xb#4, 0x08#5, 0x5#4, 0xd#4, 0x2#2, true, 0x2#2, 0x3#2, none, true⟩),
  (0x1AEF33D0#32, none, .cpyd ⟨0xb#4, 0x17#5, 0x9#4, 0x9#4, 0x3#2, true, 0x1#2, none⟩),
  (0x1EDBDA0C#32, none, .wmark ⟨0xb#4, 0x0d#5, 0xe#4, 0xd#4, 0x3#2⟩),
  (0x22FA2200#32, none, .binit ⟨0xb#4, 0xe8#8, 0x4#3, 0x4#4⟩),
  (0x26C5E000#32, none, .arrive ⟨0xb#4, 0x17#8, 0x4#3⟩),
  (0x2ADAA780#32, none, .badd ⟨0xb#4, 0x6a#8, 0x4#3, 0xf#4⟩),
  (0x42C1E080#32, none, .frld ⟨0xb#4, 0xf#4, true⟩),
  (0x46C00080#32, none, .frst ⟨0xb#4, true⟩),
  (0x4AC18E80#32, none, .frsw ⟨0xb#4, 0xc#4, 0x7#4, true⟩),
  (0x4EC07000#32, none, .snap ⟨0xb#4, 0x3#4, 0x8#4⟩),
  (0x52C10800#32, none, .fork ⟨0xb#4, 0x8#4, 0x4#4⟩),
  (0x56C17E80#32, none, .rback ⟨0xb#4, 0xb#4, 0xf#4, true⟩),
  (0x5AC1E000#32, none, .frel ⟨0xb#4, 0xf#4⟩),
  (0x5EC02E00#32, none, .hpapp ⟨0xb#4, 0x1#4, 0x7#4⟩),
  (0x62E55600#32, none, .hpmap ⟨0xb#4, 0x12#5, 0xa#4, 0xb#4, none⟩),
  (0x66C1F200#32, none, .frstat ⟨0xb#4, 0xf#4, 0x9#4⟩)] : List (Word32 × Option (BitVec 9) × Instr)),
    decodeSlot .c p.1 p.2.1 = .ok p.2.2 := by decide +kernel

/-- The bundle of the spec's example (02, after R64): ADDI s5, s5, 128 beside VADD.f32 v70, v3, v4 with its lend. -/
theorem test_bundle_example :
    (okInstrs (decodeBundle (leBytes 4 0xA0000440 ++ leBytes 4 0x20051480 ++ leBytes 4 0x04060C40 ++ List.replicate 20 0#8))).filter
      (·.2 != .nop) = [(1, .addi ⟨0, 5, 5, 128⟩), (2, .vadd ⟨0, 70, 3, 4, 0, false⟩)] := by decide +kernel

/-- Words written out by the spec's examples: RWOPEN and VATOM (13), DIV and LD (07), FENCE (07), SHW (07), MOVI (07). -/
theorem test_words_of_examples : decodeSlot .s 0x04050425#32 none = .ok (.div ⟨0, 5, 1, 2⟩)
    ∧ decodeSlot .s 0x48040A06#32 none = .ok (.ld ⟨0, 4, 2, 4, 6⟩) ∧ decodeSlot .s 0x680A0060#32 none = .ok (.fence ⟨0, 10, 3⟩)
    ∧ decodeSlot .s 0x680A0100#32 none = .ok (.fwait ⟨0, 10⟩) ∧ decodeSlot .s 0x7C070126#32 none = .ok (.shw ⟨0, 7, 2, 1, 6⟩)
    ∧ decodeSlot .s 0x400903DB#32 (some 3#9) = .ok (.movi ⟨0, 9, 0xFDB⟩)
    ∧ decodeSlot .v 0xB0020430#32 none = .ok (.vatom ⟨0, 2, 1, 3, 0, 0, false, false⟩) := by decide +kernel

/-- Lent and sign-extended fields (R37, R201): a ten-bit immediate alone extends its sign. -/
theorem test_immediate_extends : decodeSlot .s 0x200103FF#32 none = .ok (.addi ⟨0, 1, 0, BitVec.ofInt 19 (-1)⟩)
    ∧ decodeSlot .s 0x200103FF#32 (some 0#9) = .ok (.addi ⟨0, 1, 0, 0x3FF⟩) := by decide +kernel

/-- Reserved encodings are refused by name. -/
theorem test_reserved_words : decodeSlot .s 0xFC000000#32 none = .error .illegalOpcode
    ∧ decodeSlot .s 0x0C00000F#32 none = .error .illegalOpcode ∧ decodeSlot .s 0x00000001#32 none = .error .illegalEncoding
    ∧ decodeSlot .v 0x98000000#32 none = .error .illegalOpcode ∧ decodeSlot .m 0x28000000#32 none = .error .illegalOpcode
    ∧ decodeSlot .n 0x18000000#32 none = .error .illegalOpcode ∧ decodeSlot .c 0x2C000000#32 none = .error .illegalOpcode := by
  decide +kernel

/-! ### Ill-formed instructions, one for each check -/

theorem test_illformed_guards : ∀ i ∈ ([.cmp ⟨0, 0, 1, 2, 0⟩, .cmp ⟨0, 1, 1, 2, 10⟩, .cmpi ⟨0, 0, 0, 1, 0⟩, .gand ⟨0, 0, 1, 2⟩,
    .gor ⟨0, 0, 1, 2⟩, .gxor ⟨0, 0, 1, 2⟩, .gandn ⟨0, 0, 1, 2⟩, .gset ⟨0, 0, 1⟩, .enqn ⟨0, 1, 2, 0⟩, .deqn ⟨0, 1, 2, 0⟩,
    .vcmp ⟨0, 0, 0, 1, 2, 0, false⟩] : List Instr), i.wellFormed = false := by decide

theorem test_illformed_memory : ∀ i ∈ ([.ld ⟨0, 1, 2, 7, 0⟩, .ldacq ⟨0, 1, 2, 7, 0⟩, .st ⟨0, 1, 2, 7, 0⟩, .st ⟨0, 1, 2, 1, 0⟩,
    .strel ⟨0, 1, 2, 3, 0⟩, .atom64 ⟨0, 1, 2, 3, 10⟩, .atom32 ⟨0, 1, 2, 3, 13⟩, .atomn ⟨0, 1, 2, 3, 4, false⟩,
    .vld ⟨0, 1, 16, 0, 0, false, true⟩, .vst ⟨0, 1, 16, 0, 0, false, true⟩, .vgth ⟨0, 1, 16, 2, 0, false, true⟩,
    .vsct ⟨0, 1, 16, 2, 0, false, true⟩, .vatom ⟨0, 1, 2, 3, 7, 0, false, true⟩] : List Instr), i.wellFormed = false := by decide

theorem test_illformed_control : ∀ i ∈ ([.fence ⟨0, 1, 5⟩, .drain ⟨0, 5⟩, .join ⟨0, 0⟩, .view ⟨0, 1, 0⟩, .shw ⟨0, 1, 6, 0, 0⟩,
    .shw ⟨0, 1, 0, 0, 10⟩, .loop ⟨0, 1, 1⟩, .rpt ⟨0, 1, 1⟩, .lnsetBound ⟨0, 1, 6⟩, .lnsetBind ⟨0, 1, 6, 0, false⟩,
    .lnsetClear ⟨0, 6⟩, .loopn ⟨6, 0⟩, .bwait ⟨0, 1, 5, 0⟩, .binit ⟨0, 0, 5, 0⟩, .badd ⟨0, 0, 5, 0⟩, .arrive ⟨0, 0, 5⟩,
    .vred ⟨0, 1, 2, 0, 3, 0, false⟩, .lcfgSet ⟨0, 0, false, 5, 0, 0⟩, .lcfgSet ⟨0, 0, false, 0, 0, 3⟩,
    .cpyr ⟨0, 5, 0, 0, 0, false, 1, none⟩, .cpyr ⟨0, 0, 0, 0, 0, false, 0, none⟩,
    .cpyg ⟨0, 0, 0, 0, 0, false, 3, 1, none, false⟩] : List Instr), i.wellFormed = false := by decide

/-! ### Steps: a placed word is fetched and run from reset -/

theorem test_step_runs_movi : next (step (State.reset.withFetchWord 32 0x40010005)) (fun t =>
    t.core.sReg 1 == 5#64 && t.core.pc == 0x20#48 && t.core.bundles.isEmpty) = true := by decide +kernel
theorem test_step_runs_mbsw : next (step (State.reset.withBundle (bundleBytes .m 0x08000000))) (fun t =>
    t.core.pc == 0x20#48 && t.core.ops.length == 1) = true := by
  decide +kernel
theorem test_table_word : decodeTableWord 32 0x04050425 = some (.div ⟨0, 5, 1, 2⟩) ∧ decodeTableWord 16 0 = none := by decide +kernel
theorem test_reset_runs : goes (step State.reset) = true := by decide +kernel

/-! ### The worked examples of the scalar unit (07, R204, R206, R208, R214) -/

/-- s1 to s4 of the example after R204. -/
def ex204 : State := regs [0x8000000000000000, 0xFFFFFFFFFFFFFFFF, 0, 0x180000007] (at' 1)

theorem test_r204_overflow : next (exec (.div ⟨0, 5, 1, 2⟩) ex204) (·.core.sReg 5 == 0x8000000000000000#64) = true
    ∧ next (exec (.rem ⟨0, 6, 1, 2⟩) ex204) (·.core.sReg 6 == 0#64) = true := by decide +kernel
theorem test_r204_products : next (exec (.mulh ⟨0, 7, 1, 2⟩) ex204) (·.core.sReg 7 == 0#64) = true
    ∧ next (exec (.mulhu ⟨0, 8, 1, 2⟩) ex204) (·.core.sReg 8 == 0x7FFFFFFFFFFFFFFF#64) = true := by decide +kernel
theorem test_r204_words : next (exec (.addS32 ⟨0, 9, 4, 4⟩) ex204) (·.core.sReg 9 == 0xE#64) = true
    ∧ next (exec (.sarS32 ⟨0, 10, 4, 2⟩) ex204) (·.core.sReg 10 == 0xFFFFFFFFFFFFFFFF#64) = true
    ∧ next (exec (.clz ⟨0, 11, 4⟩) ex204) (·.core.sReg 11 == 0x1F#64) = true := by decide +kernel
theorem test_r204_zero_divisor : next (exec (.divuS32 ⟨0, 12, 4, 3⟩) ex204) (fun t =>
    t.core.crGet 2 == 0x30#64 && bitsOf (t.core.crGet 4) 0 4 == 1 && t.core.sReg 12 == 0#64) = true := by decide +kernel
theorem test_r206_movi_movh : next (exec (.movi ⟨0, 9, 0xFDB⟩) ex204) (fun t =>
    next (exec (.movh ⟨0, 9, 9, 0x20248⟩) { t with core := { t.core with cur := { t.core.cur with old := [] } } })
      (·.core.sReg 9 == 0x40490FDB#64)) = true := by decide +kernel
theorem test_r208_cmpi : next (exec (.cmpi ⟨0, 2, 6, 4, BitVec.ofInt 19 (-1)⟩) ex204) (·.core.gReg 2 == 0xFFFFFFFF#32) = true := by
  decide +kernel
/-- The example after R214: FSEQ 7 gives the token 0x0000_0003_0000_0008. -/
theorem test_r214_fence : next (exec (.fence ⟨0, 10, 3⟩) { ex204 with core := { ex204.core with fseq := 7#32 } })
    (·.core.sReg 10 == 0x300000008#64) = true := by decide +kernel
/-- The example after R218. -/
theorem test_r218_shw : next (exec (.shw ⟨0, 7, 2, 1, 6⟩) (regs [0, 0, 0, 0, 0, 0, 0xFFFFFFFFFFFFFF80] (at' 1)))
    (fun t => shStride0 (t.core.shadowAt 2 1) == 0xFFFFFF80#32) = true := by decide +kernel

/-! ### States and operands that meet the hypotheses of the statements, clause by clause -/

/-- An address passes its checks, and a property of where it leads holds. -/
def placed (r : Except AccFault Place) (p : Place → Bool) : Bool := match r with | .ok q => p q | _ => false

/-- ScalarArithmeticWraps, DivisionRule: on, off, a divisor that is zero at both widths, at 32 bits only, and at neither; the overflow pairs. -/
theorem test_meets_divisions : ex204.core.on 0 = true ∧ ex204.core.on 1 = false ∧ ex204.core.cur.slot = 1 ∧ ex204.core.sVal 3 = 0#64
    ∧ ex204.core.sVal 2 ≠ 0#64 ∧ (ex204.core.sVal 1).setWidth 32 = 0#32 ∧ ex204.core.sVal 1 ≠ 0#64
    ∧ ex204.core.sVal 1 = 0x8000000000000000#64 ∧ ex204.core.sVal 2 = 0xFFFFFFFFFFFFFFFF#64
    ∧ ((regs [0x80000000, 0xFFFFFFFF] (at' 1)).core.sVal 1).setWidth 32 = 0x80000000#32
    ∧ ((regs [0x80000000, 0xFFFFFFFF] (at' 1)).core.sVal 2).setWidth 32 = 0xFFFFFFFF#32 := by decide +kernel

/-- The scalar instructions complete. -/
theorem test_scalar_complete : ∀ i ∈ ([.nop, .add ⟨0, 5, 1, 2⟩, .sub ⟨0, 5, 1, 2⟩, .mul ⟨0, 5, 1, 2⟩, .mulh ⟨0, 5, 1, 2⟩, .mulhu ⟨0, 5, 1, 2⟩,
    .div ⟨0, 5, 1, 2⟩, .divu ⟨0, 5, 1, 2⟩, .rem ⟨0, 5, 1, 2⟩, .remu ⟨0, 5, 1, 2⟩, .and ⟨0, 5, 1, 2⟩, .or ⟨0, 5, 1, 2⟩, .xor ⟨0, 5, 1, 2⟩,
    .shl ⟨0, 5, 1, 2⟩, .shr ⟨0, 5, 1, 2⟩, .sar ⟨0, 5, 1, 2⟩, .rotr ⟨0, 5, 1, 2⟩, .addS32 ⟨0, 5, 1, 2⟩, .subS32 ⟨0, 5, 1, 2⟩,
    .mulS32 ⟨0, 5, 1, 2⟩, .mulhS32 ⟨0, 5, 1, 2⟩, .mulhuS32 ⟨0, 5, 1, 2⟩, .divS32 ⟨0, 5, 1, 2⟩, .divuS32 ⟨0, 5, 1, 2⟩, .remS32 ⟨0, 5, 1, 2⟩,
    .remuS32 ⟨0, 5, 1, 2⟩, .andS32 ⟨0, 5, 1, 2⟩, .orS32 ⟨0, 5, 1, 2⟩, .xorS32 ⟨0, 5, 1, 2⟩, .shlS32 ⟨0, 5, 1, 2⟩, .shrS32 ⟨0, 5, 1, 2⟩,
    .sarS32 ⟨0, 5, 1, 2⟩, .rotrS32 ⟨0, 5, 1, 2⟩, .min ⟨0, 5, 1, 2⟩, .minu ⟨0, 5, 1, 2⟩, .max ⟨0, 5, 1, 2⟩, .maxu ⟨0, 5, 1, 2⟩,
    .clz ⟨0, 5, 1⟩, .ctz ⟨0, 5, 1⟩, .popc ⟨0, 5, 1⟩, .bswap ⟨0, 5, 1⟩, .andn ⟨0, 5, 1, 2⟩, .orn ⟨0, 5, 1, 2⟩] : List Instr),
    completes i ex204 = true := by decide +kernel

theorem test_setup_complete : ∀ i ∈ ([.cmp ⟨0, 1, 1, 2, 9⟩, .cmpi ⟨0, 1, 7, 1, 5⟩, .gand ⟨0, 1, 2, 3⟩, .gor ⟨0, 1, 2, 3⟩, .gxor ⟨0, 1, 2, 3⟩,
    .gandn ⟨0, 1, 2, 3⟩, .gset ⟨0, 1, 2⟩, .gget ⟨0, 1, 2⟩, .sel ⟨0, 1, 2, 3, true, 4⟩, .addi ⟨0, 1, 2, 3⟩, .andi ⟨0, 1, 2, 3⟩, .ori ⟨0, 1, 2, 3⟩,
    .xori ⟨0, 1, 2, 3⟩, .shli ⟨0, 1, 2, 63⟩, .shri ⟨0, 1, 2, 63⟩, .sari ⟨0, 1, 2, 63⟩, .muli ⟨0, 1, 2, 3⟩, .movi ⟨0, 1, 2⟩, .movh ⟨0, 1, 2, 3⟩,
    .xset ⟨0, 15, 1⟩, .xadd ⟨0, 15, 1⟩, .shw ⟨0, 1, 5, 3, 9⟩, .slk ⟨0, 15, 0x3FF⟩, .margin ⟨5⟩, .yield ⟨0⟩, .loop ⟨0, 0, 3⟩, .rpt ⟨0, 0, 3⟩,
    .lnsetBound ⟨0, 1, 5⟩, .lnsetBind ⟨0, 1, 5, 3, true⟩, .lnsetClear ⟨0, 5⟩, .loopn ⟨5, 0⟩, .br ⟨0, 1⟩, .call ⟨0, 1⟩, .jmp ⟨0, 1⟩,
    .jmpi ⟨0, 3⟩, .ret ⟨0⟩, .gate ⟨0, 5⟩, .waitev ⟨0, 1, 0⟩, .halt ⟨0⟩, .cont ⟨0, 1⟩, .mfc ⟨0, 1, 8⟩, .mtc ⟨0, 1, 9⟩, .join ⟨0, 31⟩,
    .drain ⟨0, 4⟩, .fwait ⟨0, 1⟩] : List Instr), completes i ex204 = true := by decide +kernel

/-- SmallRegisterWrites: valid views 1 and 4 and one whose window ends at the half's end; a view over the halves' border, one below 512, a
reserved kind. -/
theorem test_meets_views : completes (.view ⟨0, 1, 1⟩) (regs [0x0000000048100400] (at' 1)) = true
    ∧ completes (.view ⟨0, 1, 4⟩) (regs [2 ^ 29 + 0x1000 + 2 ^ 25] (at' 1)) = true
    ∧ (∀ v ∈ ([0x48100FFF, 0x48100001, 0x28100400] : List Nat), next (exec (.view ⟨0, 1, 1⟩) (regs [v] (at' 1)))
      (·.core.crGet 2 == 0x0B#64) = true) := by decide +kernel

/-- ComparesGuardsSelection: conditions 0 and 9, and of CMPI 7, holding and not. -/
theorem test_meets_compares : next (exec (.cmp ⟨0, 1, 1, 1, 0⟩) ex204) (·.core.gReg 1 == 0xFFFFFFFF#32) = true
    ∧ next (exec (.cmp ⟨0, 1, 1, 2, 0⟩) ex204) (·.core.gReg 1 == 0#32) = true
    ∧ next (exec (.cmp ⟨0, 1, 2, 1, 9⟩) ex204) (·.core.gReg 1 == 0xFFFFFFFF#32) = true
    ∧ next (exec (.cmpi ⟨0, 1, 7, 3, 1⟩) ex204) (·.core.gReg 1 == 0#32) = true := by decide +kernel

/-- GuardOffLeavesAll: a guard with lane 0 off; a V instruction with no lane on. -/
theorem test_meets_guards_off : (at' 2).core.on 1 = false ∧ (at' 2).core.guard 1 = 0#32 ∧ (at' 2).core.cur.slot = 2 := by decide +kernel

/-- TransfersGoToTargets: the highest target in range, one past it, and a misaligned one. -/
theorem test_meets_transfers : next (exec (.jmpi ⟨0, 1⟩) (regs [0xFFFFFFFFFFE0] (at' 1))) (·.core.pc == 0xFFFFFFFFFFE0#48) = true
    ∧ next (exec (.jmpi ⟨0, 1⟩) (regs [0x1000000000000] (at' 1))) (·.core.crGet 2 == 0x0A#64) = true
    ∧ next (exec (.jmpi ⟨0, 1⟩) (regs [0x21] (at' 1))) (·.core.crGet 2 == 0x0A#64) = true
    ∧ next (exec (.br ⟨0, BitVec.ofInt 31 (-2049)⟩) (at' 1)) (·.core.crGet 2 == 0x0A#64) = true
    ∧ next (exec (.call ⟨0, 2⟩) (at' 1)) (fun t => t.core.pc == 0x10040#48 && t.core.sReg 63 == 0x10020#64) = true := by decide +kernel

/-- LoopsOpenAndCountDown: a body with passes left, with its last, and one that does not end here; a count of zero, of one; LOOPN below its
bound and at it. -/
theorem test_meets_loops : countLevels 0x40#48 [⟨0x20#48, 0x40#48, 2, false, 0, false⟩] = ([⟨0x20#48, 0x40#48, 1, false, 0, false⟩], 0x20#48, true)
    ∧ countLevels 0x40#48 [⟨0x20#48, 0x40#48, 1, false, 0, false⟩] = ([], 0x60#48, true)
    ∧ countLevels 0x20#48 [⟨0x20#48, 0x40#48, 1, false, 0, false⟩] = ([⟨0x20#48, 0x40#48, 1, false, 0, false⟩], 0x40#48, false)
    ∧ next (exec (.loop ⟨1, 3, 0⟩) ex204) (fun t => t.core.loops.isEmpty && t.core.pc == 0x10060#48) = true
    ∧ next (exec (.loop ⟨1, 0, 1⟩) ex204) (fun t => t.core.loops == [⟨0x10020#48, 0x10040#48, 1, false, 0, false⟩]) = true := by decide +kernel

/-- The example after R170: level 1 with bound 4 binds x3 by 0x100. -/
def exNest (count : Nat) : State :=
  let s := xregs [0, 0, 0, 0x40000] (at' 1)
  { s with core := { s.core with nest := s.core.nest.set 1 ⟨4#32, BitVec.ofNat 32 count, ⟨3, true, 0x100#32⟩, .none⟩ } }
theorem test_meets_loopn : (let o : OpLoopn := ⟨1, BitVec.ofInt 19 (-1)⟩
      next (exec (.loopn o) (exNest 2)) (·.core.xReg 3 == 0x40100#32) = true
        ∧ next (exec (.loopn o) (exNest 3)) (·.core.xReg 3 == 0x3FD00#32) = true
        ∧ ((exNest 2).core.loopn 0x10000#48 o).pc = 0xFFE0#48 ∧ ((exNest 3).core.loopn 0x10000#48 o).pc = (at' 1).core.pc) := by
  decide +kernel

/-- MarginYieldWaitev: a request pending and none; an event wanted and set, and not set. -/
theorem test_meets_yield_waitev : next (exec (.yield ⟨0⟩) (cr 0x0C4 1 (at' 1))) (·.core.yielded) = true
    ∧ next (exec (.waitev ⟨0, 1, 4⟩) (cr 0x042 6 (at' 1))) (fun t => t.core.sReg 1 == 4#64 && !t.core.held) = true
    ∧ next (exec (.waitev ⟨0, 1, 1⟩) (cr 0x042 6 (at' 1))) (·.core.held) = true := by decide +kernel

/-- SegmentsOpenAndClose: an entry of the table at 0x2000; a segment 3 open, closed as itself and as another. -/
theorem test_meets_segments : placed ((cr 0x046 0x2000 (at' 1)).place (0x2000#64 + BitVec.ofNat 64 (8 * 511)) 8 8 .fe) (fun p =>
      isRaw p.loc && !(((cr 0x046 0x2000 (at' 1)).notePage p).accessHeld 0x2FF8#64 p.loc 8 false)
        && !(((cr 0x046 0x2000 (at' 1)).notePage p).ownWait p.loc 8)
        && !((cr 0x046 0x2000 (at' 1)).poisoned p.loc 8) && !(cr 0x046 0x2000 (at' 1)).core.segOpen) = true
    ∧ completes (.segOpen ⟨511⟩) (cr 0x046 0x2000 (at' 1)) = true
    ∧ (let s := cr 0x047 7 (at' 1)
      let u : State := { s with core := { s.core with segExp := s.core.measured } }
      s.core.segOpen = true ∧ s.core.segIndex = 3 ∧ s.core.cdepth = 0 ∧ next (exec (.segClose ⟨3⟩) u) (fun t => !(t.core.crGet 0).getLsbD 3) = true
        ∧ next (exec (.segClose ⟨4⟩) u) (fun t => (t.core.crGet 0).getLsbD 3) = true
        ∧ next (exec (.segClose ⟨3⟩) { u with core := { u.core with segExp := 1#64 } }) (fun t => (t.core.crGet 0).getLsbD 3) = true) := by decide +kernel

/-- An operation of an engine has not performed yet. -/
def waiting (eng : Nat) (s : State) : State :=
  { s with core := { s.core with
      cur := { s.core.cur with seq := 5 }
      ops := [⟨0, 0, eng, 0#48, 0#10, .mbsw ⟨0⟩, 1, 0#128, [], [], [], [], [], [], [], []⟩] } }

/-- RegionsPushAndPop: depths 0, 3 and 4, with nothing waiting and with an earlier operation. -/
theorem test_meets_regions : (at' 1).quiet false = true ∧ (waiting 2 (at' 1)).quiet false = false
    ∧ (cr 0 0x41 (at' 1)).core.cdepth = 4 ∧ (cr 0 0x31 (at' 1)).core.cdepth = 3 ∧ (at' 1).core.cdepth = 0
    ∧ next (exec (.cont ⟨0, 1⟩) (cr 0 0x31 (at' 1))) (fun t => t.core.cdepth == 4 && t.core.crGet 0x05C == 0x10020#64) = true
    ∧ next (exec (.cont ⟨0, 1⟩) (cr 0 0x41 (at' 1))) (·.core.crGet 2 == 2#64) = true
    ∧ next (exec (.cont ⟨0, 1⟩) (waiting 2 (at' 1))) (·.core.held) = true
    ∧ next (exec (.endcont ⟨0⟩) (cr 0 0x11 (at' 1))) (·.core.cdepth == 0) = true
    ∧ next (exec (.endcont ⟨0⟩) (at' 1)) (·.core.crGet 2 == 2#64) = true
    ∧ next (exec (.endcont ⟨0⟩) (cr 0 0x11 (waiting 2 (at' 1)))) (·.core.held) = true := by decide +kernel

/-- TrapsAreEntered, TrapReturn: outside a handler, inside one, with a trap asked for by dispatch; a resumable cause and each of the others. -/
theorem test_meets_traps : (at' 1).core.inTrap = false ∧ (cr 0 3 (at' 1)).core.inTrap = true ∧ (at' 1).ownBusy = false
    ∧ next (exec (.trap ⟨0, 0x7FFFF⟩) (at' 1)) (fun t => t.core.crGet 2 == 0x38#64 && t.core.crGet 4 == 0x7FFFF#64
      && t.core.crGet 3 == 0x10020#64 && t.core.crGet 0 == 3#64) = true
    ∧ next (exec (.trap ⟨0, 1⟩) (cr 0 3 (at' 1))) (·.core.mode == .dead) = true
    ∧ (let s := at' 1
      next (exec .trapEntry { s with core := { s.core with trapReq := some ⟨5#8, 0x40#48, 1#64, 0#64, 0#64, 0#64⟩ } })
        (·.core.crGet 2 == 5#64) = true) ∧ (at' 1).core.trapReq = none := by decide +kernel

theorem test_meets_tret : next (exec (.trap ⟨0, 1⟩) (at' 1)) (fun t => t.core.shadow.isSome && t.core.inTrap
      && next (exec (.tret ⟨0⟩) t) (fun u => u.core.crGet 0 == 1#64 && u.core.pc == 0x10020#48)) = true
    ∧ next (exec (.tret ⟨0⟩) (at' 1)) (·.core.crGet 2 == 2#64) = true
    ∧ (∀ c ∈ ([0x29, 0x31, 0x39] : List Nat), (cr 2 c (cr 0 3 (at' 1))).quiet true = true
      ∧ next (exec (.tret ⟨0⟩) (cr 2 c (cr 0 3 (at' 1)))) (·.core.mode == .halted) = true) := by decide +kernel

/-- HaltEndsProgram: nothing waiting, an operation waiting, a segment open. -/
theorem test_meets_halt : (at' 1).quiet true = true ∧ (waiting 2 (at' 1)).quiet true = false
    ∧ next (exec (.halt ⟨0⟩) (cr 0x047 1 (at' 1))) (fun t => t.core.mode == .halted && (t.core.crGet 0).getLsbD 3) = true := by decide +kernel

/-- GatingAndWaking: an engine that is busy, engines that are not, the array woken by the mask, an engine that wakes and one that does not. -/
theorem test_meets_gate : next (exec (.gate ⟨0, 4⟩) (waiting 0 (at' 1))) (·.core.held) = true
    ∧ next (exec (.gate ⟨0, 2⟩) (cr 0x049 4 (at' 1))) (fun t => t.core.crGet 0x049 == 2#64) = true
    ∧ (let s := cr 0x049 4 (at' 1)
      next (exec (.engineWakeDone 2) { s with core := { s.core with wake := 4 } }) (fun t => t.core.crGet 0x049 == 0#64) = true)
    ∧ goes (exec (.engineWakeDone 2) (at' 1)) = true := by decide +kernel

/-- PrivilegeIsChecked: a bundle that holds TRET, one that holds MTC of a supervisor register; both levels. -/
theorem test_meets_privilege : (∀ w ∈ ([0xC4000000, 0x88000001, 0x88000019, 0x88000104] : List Nat),
      headerCheck (bundleBytes .s w) (decodeBundle (bundleBytes .s w)) = none)
    ∧ decodeSlot .s (BitVec.ofNat 32 (slotWord (bundleBytes .s 0xC4000000) 1)) (hdLend (slotWord (bundleBytes .s 0xC4000000) 0) 1)
      = .ok (.tret ⟨0⟩)
    ∧ decodeSlot .s 0x88000001#32 none = .ok (.mtc ⟨0, 0, 1⟩) ∧ crAccess 1 = some .rs
    ∧ (at' 1).core.sup = true ∧ (cr 0 0 (at' 1)).core.sup = false
    ∧ (cr 0 0 (at' 1)).core.dispatchCheck (bundleBytes .s 0xC4000000) (decodeBundle (bundleBytes .s 0xC4000000)) [] = some ⟨5#8, 1, 0⟩ := by
  decide +kernel

/-- A core whose gang's partition is the second 64 KiB of its scratchpad. -/
def part : State := cr 0x01A 0x41 (at' 1)
def tag1 (lo : Nat) : Nat := 2 ^ 60 + lo

/-- AddressesAreChecked: the first and the last bytes of the partition and those next to it; the deck's last byte, read and written; the other
tags; an address past 48 bits; a misaligned one. -/
theorem test_meets_addresses : part.place (BitVec.ofNat 64 (tag1 0x10000)) 8 8 .rd = .ok ⟨Loc.spad 0 0x10000, none⟩
    ∧ part.place (BitVec.ofNat 64 (tag1 0x1FFF8)) 8 8 .wr = .ok ⟨Loc.spad 0 0x1FFF8, none⟩
    ∧ part.place (BitVec.ofNat 64 (tag1 0xFFF8)) 8 8 .rd = .error ⟨0x0B#8, 0#64⟩
    ∧ part.place (BitVec.ofNat 64 (tag1 0x20000)) 8 8 .rd = .error ⟨0x0B#8, 0#64⟩
    ∧ part.place (BitVec.ofNat 64 (tag1 0x10001)) 8 8 .rd = .error ⟨0x0A#8, 0#64⟩
    ∧ part.place (BitVec.ofNat 64 (4 * 2 ^ 60 + 0xFFFFFF)) 1 1 .rd = .ok ⟨Loc.deck 0 0xFFFFFF, none⟩
    ∧ part.place (BitVec.ofNat 64 (4 * 2 ^ 60)) 1 1 .wr = .error ⟨0x0B#8, 0#64⟩
    ∧ (∀ a ∈ ([3 * 2 ^ 60, 5 * 2 ^ 60, 15 * 2 ^ 60, 2 ^ 48] : List Nat), part.place (BitVec.ofNat 64 a) 8 8 .rd = .error ⟨0x0B#8, 0#64⟩)
    ∧ next (exec (.st ⟨0, 2, 1, 6, 0⟩) (regs [tag1 0x20000] part)) (fun t => t.core.crGet 2 == 0x0B#64 && t.core.crGet 4 == 17#64
      && t.core.crGet 5 == BitVec.ofNat 64 (tag1 0x20000)) = true := by decide +kernel

/-- What a load's or store's operands need, and where the address leads. -/
def reaches (a n : Nat) (k : AccKind) (s : State) (p : Place → Bool) : Bool :=
  placed (s.place (BitVec.ofNat 64 a) n n k) fun q => !(s.notePage q).accessHeld (BitVec.ofNat 64 a) q.loc n k.write
    && !(s.notePage q).ownWait q.loc n && p q

/-- LoadsReadOrAsk, StoresWriteOrSend: the own scratchpad; memory with and without a sector of L1 that holds its bytes. -/
theorem test_meets_loads : reaches (tag1 0x10000) 8 .rd part (fun q => part.ownStorage q.loc && !part.poisoned q.loc 8
      && !(part.notePage q).loadOnWay) = true
    ∧ (let s : State := { part with l1 := [⟨0#7, 0x2000 / 64, List.replicate 64 0#8, []⟩] }
      reaches 0x2038 8 .rd s (fun q => !s.ownStorage q.loc && isRaw q.loc && (s.l1Sector s.core q.loc).isSome) = true)
    ∧ reaches 0x2038 8 .rd part (fun q => !part.ownStorage q.loc && (part.l1Sector part.core q.loc).isNone
      && decide ((part.notePage q).loadsOut 1 < 8)) = true
    ∧ reaches (tag1 0x1FFF8) 8 .wr part (fun q => part.ownStorage q.loc) = true
    ∧ reaches 0x2038 8 .wr part (fun q => !part.ownStorage q.loc
      && decide ((part.notePage q).storesOut 1 < 32)) = true := by decide +kernel

/-- Loads of each type from the own scratchpad extend as R52 says; loads and stores of memory send one packet. -/
theorem test_loads_extend : (let s := (regs [tag1 0x10000] part).write (Loc.spad 0 0x10000) (leBytes 8 0x8182838485868788)
    ∀ p ∈ ([(0, 0xFFFFFFFFFFFFFF88), (1, 0x88), (2, 0xFFFFFFFFFFFF8788), (3, 0x8788), (4, 0xFFFFFFFF85868788), (5, 0x85868788),
      (6, 0x8182838485868788)] : List (BitVec 3 × Nat)), next (exec (.ld ⟨0, 2, 1, p.1, 0⟩) s) (·.core.sReg 2 == BitVec.ofNat 64 p.2) = true)
    ∧ (∀ i ∈ ([.ld ⟨0, 2, 1, 6, 0⟩, .ldacq ⟨0, 2, 1, 6, 0⟩, .st ⟨0, 2, 1, 6, 0⟩, .strel ⟨0, 2, 1, 6, 0⟩] : List Instr),
      next (exec i (regs [0x2038] part)) (·.packets.length == 1) = true) := by decide +kernel

/-- FencesAndJoin: a sound token with its record, a malformed one; an access that a fence covers and none; a busy queue and a free one. -/
theorem test_meets_fences : (let s : State := regs [0x200000005] part
      let s : State := { s with core := { s.core with fseq := 5#32, fences := [⟨5#32, 2, 0⟩] } }
      tokenBad s.core.fseq (s.core.sVal 1) = false ∧ s.coveredLeft 0 2 = false ∧ completes (.fwait ⟨0, 1⟩) s = true)
    ∧ tokenBad 5#32 0x500000005#64 = true ∧ part.coveredLeft part.core.cur.seq 4 = false
    ∧ next (exec (.ld ⟨0, 2, 1, 6, 0⟩) (regs [0x2038] part)) (fun t =>
      let u := t.upd fun c => { c with cur := { c.cur with seq := c.cur.seq + 1 } }
      u.coveredLeft u.core.cur.seq 4 && next (exec (.drain ⟨0, 4⟩) u) (·.core.held)) = true
    ∧ next (exec (.join ⟨0, 1⟩) (waiting 0 part)) (·.core.held) = true ∧ completes (.join ⟨0, 30⟩) (waiting 0 part) = true := by decide +kernel

/-- AtomicsExchange: each width on the own scratchpad and in memory, the first and last operation, and a floating one that the scratchpad
does not take. -/
theorem test_meets_atomics : (∀ n ∈ ([1, 4, 8] : List Nat), reaches (tag1 0x10000) n .at part (fun q => part.ownStorage q.loc && q.page.isNone
      && !part.poisoned q.loc n) = true ∧ reaches 0x2038 n .at part (fun q => isRaw q.loc
      && decide (part.loadsOut 1 < 8) && !part.core.cur.redo.getLsbD 0) = true)
    ∧ (∀ i ∈ ([.atom64 ⟨0, 2, 1, 3, 0⟩, .atom64 ⟨0, 2, 1, 3, 9⟩, .atom32 ⟨0, 2, 1, 3, 9⟩, .atomn ⟨0, 2, 1, 3, 0, false⟩, .atomn ⟨0, 2, 1, 3, 3, true⟩]
      : List Instr), completes i (regs [tag1 0x10000, 5, 7] part) = true
        ∧ next (exec i (regs [0x2038, 5, 7] part)) (·.packets.length == 1) = true)
    ∧ next (exec (.atom32 ⟨0, 2, 1, 3, 12⟩) (regs [tag1 0x10000, 5, 7] part)) (·.core.crGet 2 == 0x20#64) = true := by decide +kernel

/-! ### Queues -/

/-- A block of four elements of 8 bytes at 0x8000, its data at 0x20000, in a given state. -/
def block (head tail : Nat) (closed : Bool) (waitp : Nat) : Qcb :=
  ⟨0, 2, head, tail, 4 - (tail - head), 3, closed, false, false, 0xFF, waitp, 0, 0x20000⟩
def queue (head tail : Nat) (closed : Bool) (s : State) : State := s.write 0x8000 (block head tail closed 0).bytes
def req (op : QOp) : QReq := ⟨7, .core 0, op, 0x8000#64, 0x8000, (at' 1).core.crGet 0x018, true, leBytes 8 5, .entry 0 1 0 [], 0x3FF, 0#48, 0, 0, 0⟩

/-- QueueInstructionsSendRequests: a sound handle, sound parameters of QINIT (none, and one past the last sound capacity), nothing to wait for. -/
theorem test_meets_queue_instructions : (let s := regs [0x8000, 2] part
      s.queueOut = false ∧ s.core.on 0 = true ∧ (∀ k ∈ ([.rd, .wr] : List AccKind), placed (s.checkHandle 0x8000#64 k) (fun b =>
        b.loc == 0x8000 && !(s.notePage b).ownWait b.loc 64
          && (s.notePage b).releaseReady 0 s.core.cur.seq 3) = true)
      ∧ initBad 0x8000#64 2#64 = false ∧ initBad 0x8000#64 20#64 = false ∧ initBad 0x8000#64 21#64 = true ∧ bitsOf 0x8000#64 0 4 = 0)
    ∧ (∀ i ∈ ([.qinit ⟨0, 1, 2⟩, .enq ⟨0, 1, 2⟩, .deq ⟨0, 1, 2⟩, .enqn ⟨0, 1, 2, 3⟩, .deqn ⟨0, 1, 2, 3⟩, .qpeek ⟨0, 1, 2⟩, .qstat ⟨0, 1, 2⟩,
      .qclose ⟨0, 1⟩] : List Instr), next (exec i (regs [0x8000, 2] part)) (fun t => t.packets.length == 1 && t.core.held) = true) := by
  decide +kernel

/-- QueueOperationsAtSlice: an empty, a full, a wrapping and a closed queue, whose block passes its tests. -/
theorem test_meets_blocks : (∀ p ∈ ([(0, 0, false), (0, 4, false), (3, 5, false), (0, 4, true)] : List (Nat × Nat × Bool)),
      (queue p.1 p.2.1 p.2.2 (at' 1)).qcbReason 0x8000 = 0)
    ∧ isRaw 0x8000 = true ∧ ((at' 1).launches.all fun l => !l.dg) = true
    ∧ (match (queue 0 0 false (at' 1)).dataArea 0x8000 (req .enq).root true true with
      | .ok d => d == 0x20000 && isRaw (d + 32) | _ => false) = true := by decide +kernel
theorem test_meets_queue_operations :
    (let out := (queue 3 5 false (at' 1)).acceptQueue (req .enq);
      out.2 = .elem [] false ∧ (out.1.qcb 0x8000).tail = 6 ∧ (out.1.qcb 0x8000).free = 1 ∧ out.1.bytes 0x20008 8 = leBytes 8 5)
    ∧ ((queue 3 5 false (at' 1)).acceptQueue (req .deqn)).2 = .elem (List.replicate 8 0#8) false
    ∧ ((queue 3 5 false (at' 1)).acceptQueue (req .qpeek)).2 = .elem (List.replicate 8 0#8) false
    ∧ ((queue 0 4 false (at' 1)).acceptQueue (req .enqn)).2 = .refused false
    ∧ ((queue 0 0 false (at' 1)).acceptQueue (req .deqn)).2 = .refused false
    ∧ ((queue 0 4 true (at' 1)).acceptQueue (req .enqn)).2 = .refused true
    ∧ ((queue 0 4 false (at' 1)).acceptQueue (req .enq)).2 = .parked
    ∧ (match ((queue 0 0 true (at' 1)).acceptQueue (req .enq)).2 with | .fault c _ _ _ _ => c == 0x10#8 | _ => false) = true := by decide +kernel

/-- Its events: a request that has arrived and none; a withdrawal and none; released requests of a core and of a controller. -/
def asked (q : QReq) : Req := ⟨q.uid, q.agent, 0#48, 0, 1, .queue q, [], false, ⟨0x3FF, 0x3FF, 0, 0, false, 0, false⟩⟩
theorem test_meets_queue_events : (let s : State := { queue 3 5 false (at' 1) with uid := 8, reqs := [asked (req .qpeek)] }
      s.reqs.findSome? (fun r => r.queue.map fun q => (r, q)) = some (asked (req .qpeek), req .qpeek)
        ∧ (s.leaves (asked (req .qpeek))).entryStands (req .qpeek) = false)
    ∧ (let q : QReq := { req .qpeek with agent := .controller false }
      let u : State := { at' 1 with uid := 8, reqs := [asked q] }
      (u.leaves (asked q)).entryStands q = true)
    ∧ (let s : State := { at' 1 with withdrawals := [7], waiters := [req .enq] }
      s.waiters.find? (·.uid == 7) = some (req .enq) ∧ next (exec .withdrawalNotice s) (·.waiters.isEmpty) = true)
    ∧ next (exec .releasedRequestReturn { at' 1 with released := [req .enq] }) (·.released.isEmpty) = true
    ∧ next (exec .releasedRequestReturn { at' 1 with released := [{ req .enq with agent := .controller true }] }) (·.reqs.length == 1) = true
    ∧ goes (exec .queueRequest (at' 1)) = true := by decide +kernel

/-! ### Windows, slices and packets -/

def win (opened closed : BitVec 64) (closing : Bool) (waits : Option Nat) : Window := ⟨0, 1#3, 0x4000, 256, opened, 0#64, closed, closing, 5, 0, waits⟩
def ones : BitVec 64 := BitVec.allOnes 64

/-- WindowsOpenAndClose: a window that waits for its slices, that all have opened, that is open, closing and closed; a sound range and its
neighbour; a parameter outside the rules. -/
theorem test_meets_windows : (let s := regs [0x4000, 2 ^ 32 + 256] part
      next (exec (.rwopen ⟨0, 1, 2⟩) s) (fun t => t.core.held && t.windows == [⟨0, 1#3, 0x4000, 256, 0#64, 0#64, 0#64, false, 0, 0, some 0⟩]) = true
        ∧ next (exec (.rwopen ⟨0, 1, 2⟩) { s with windows := [win 0#64 0#64 false (some 0)] }) (·.core.held) = true
        ∧ next (exec (.rwopen ⟨0, 1, 2⟩) { s with windows := [win ones 0#64 false (some 0)] }) (fun t => !t.core.held) = true
        ∧ placed (s.place 0x4000#64 1 1 .wr) (fun q => q.loc == 0x4000 && q.page.isSome) = true)
    ∧ (let s := regs [1] part
      next (exec (.rwclose ⟨0, 1, 2⟩) { s with windows := [win ones 0#64 false none] }) (fun t => t.core.held
          && t.windows.all (·.closing)) = true
        ∧ next (exec (.rwclose ⟨0, 1, 2⟩) { s with windows := [win ones ones true (some 0)] }) (fun t => t.core.sReg 2 == 5#64
          && t.windows.isEmpty) = true
        ∧ next (exec (.rwclose ⟨0, 1, 2⟩) s) (·.core.crGet 2 == 0x0B#64) = true) := by decide +kernel

/-- Its slices: slice 63 opens; a closing window with an update held; an update that a window holds. -/
theorem test_meets_window_slices :
    next (exec (.windowOpenAtSlice 63) { at' 1 with windows := [win (ones >>> 1) 0#64 false (some 0)] }) (fun t =>
      t.windows.all (·.opened == ones)) = true
    ∧ next (exec (.windowCloseAtSlice (BitVec.ofNat 6 (homeSlice 0x4000)))
        { at' 1 with windows := [win ones 0#64 true (some 0)],
                     heldUpds := [⟨BitVec.ofNat 6 (homeSlice 0x4000), none, 0, 1#3, 0x4000, 4, 0, ⟨0, 9, false, false, 0⟩, 0#32, 5⟩] })
        (fun t => t.heldUpds.isEmpty && t.num 0x4000 4 == 5) = true
    ∧ (let r : Req := ⟨7, .host, 0#48, 0, 1, .update ⟨⟨0, 9, false, false, 0⟩, 0#32, 0, 0⟩, [⟨0x4000, 0x4000#64, 4, 0, leBytes 4 5⟩], false,
        ⟨0x3FF, 0x3FF, 0, 0, false, 0, false⟩⟩
      next (exec .heldUpdateArrival { at' 1 with reqs := [r], windows := [win ones 0#64 false none] })
        (fun t => t.heldUpds.length == 1 && t.num 0x4000 4 == 0) = true)
    ∧ goes (exec .heldUpdateArrival (at' 1)) = true := by decide +kernel

def tag0 : Tag := ⟨0x3FF, 0x3FF, 0, 0, false, 0, false⟩
def load1 : Req := ⟨7, .core 0, 0x40#48, 0, 1, .load (.sreg 2 4), [⟨0x4000, 0x4000#64, 4, 0, []⟩], false, tag0⟩
def store1 : Req := ⟨7, .core 0, 0x40#48, 0, 1, .store, [⟨0x4000, 0x4000#64, 4, 0, leBytes 4 5⟩], false, tag0⟩
def atom1 : Req := ⟨7, .core 0, 0x40#48, 0, 1, .atom ⟨0, 9, false, false, 0⟩ 0#64 (.sreg 2 4), [⟨0x4000, 0x4000#64, 4, 0, leBytes 4 5⟩], false, tag0⟩
/-- The line of 0x4000 is filled, and it holds 0x80000001. -/
def filled (rs : List Req) : State :=
  let s := (at' 1).writeNum 0x4000 4 0x80000001
  { s with lines := [⟨0x40, 0xF#4, [], none⟩], reqs := rs, uid := 8 }

/-- SlicesPerformRequests: a read, a write and an atomic whose line is there; a miss; a decode in flight; an eviction. -/
theorem test_meets_slices : next (exec .sliceReadRequest (filled [load1])) (fun t => t.replies.map (fun x => x.parts.map (·.data))
        == [[leBytes 4 0x80000001]]) = true
    ∧ next (exec .sliceWriteRequest (filled [store1])) (·.num 0x4000 4 == 5) = true
    ∧ next (exec .sliceAtomicRequest (filled [atom1])) (fun t => t.num 0x4000 4 == 0x80000006 && t.replies.length == 1) = true
    ∧ (filled [load1]).partReady ⟨0x4000, 0x4000#64, 4, 0, []⟩ = true ∧ isRaw 0x4004 = true
    ∧ next (exec (.missFill 0x40) { at' 1 with misses := [0x40] }) (fun t => t.misses.isEmpty && t.lines.length == 1) = true
    ∧ goes (exec (.lineEviction 0x40) (filled [])) = true := by decide +kernel

/-- A format region of Q4G at 0x10_0000, with the decode of its first tile in flight. -/
def region : State :=
  let s := ((at' 1).devPut 0x140 (BitVec.ofNat 64 (0x100000 + 13 * 2 ^ 52 + 2 ^ 63))).devPut 0x141 0x110000#64
  { s.devPut 0x142 0x120000#64 with decodes := [⟨0, 0, false, []⟩] }
theorem test_meets_decode : region.fmtOn 0 = true ∧ region.decodes.find? (fun d => d.region == (0#4 : BitVec 4).toNat && d.tile == 0)
    = some ⟨0, 0, false, []⟩ := by decide +kernel

/-- RepliesWriteTheirDestination: a sound reply of type .s32 and one with an error; a lane's value; LDACQ's. -/
def reply1 (bad : Bool) : Reply := ⟨7, 0#7, .sreg 2 4, [⟨0x4000, 0x4000#64, 4, 0, leBytes 4 0x80000001⟩], bad, 0x40#48, 0, 1, 0, tag0, 0, 1, 0#16, 0, true⟩
theorem test_meets_replies : next (exec .loadReplyArrival { at' 1 with replies := [reply1 false] })
      (·.core.sReg 2 == 0xFFFFFFFF80000001#64) = true
    ∧ next (exec .loadReplyArrival { at' 1 with replies := [reply1 true] }) (fun t => t.core.crGet 2 == 0x29#64 && t.core.sReg 2 == 0#64
      && t.core.crGet 3 == 0x40#64) = true
    ∧ next (exec .loadReplyArrival { at' 1 with replies := [{ reply1 false with dest := .lanes 0x20000 }] })
      (fun t => t.num (t.st 0x20000) 4 == 0x80000001) = true
    ∧ (let b : Bundle := ⟨0, 0x40, 0x60, false, 0, 0, [⟨1, .nop, 1, true, false, []⟩], [], [], [], none, 0, 0, 0, [], 0, false, 0, 0, 0⟩
      next (exec .loadReplyArrival ({ at' 1 with replies := [{ reply1 false with dest := .acq 2 4 }] }.upd fun c => { c with bundles := [b] }))
        (fun t => t.core.bundles.isEmpty && t.core.sReg 2 == 0xFFFFFFFF80000001#64) = true) := by decide +kernel

def packet1 (granted : Bool) (resends : Nat) : Packet := ⟨7, .core 0, 0, 3, tag0, resends, 0#16, false, granted, false, some store1⟩
/-- PacketsTravelOrAreLost: a bid on channel 3; a granted packet; one due; one that timed out with a resend left and with none; a notice. -/
theorem test_meets_packets : next (exec (.pipRevolution 3) { at' 1 with packets := [packet1 false 0] })
      (fun t => t.packets.all (·.granted)) = true
    ∧ next (exec (.pipRevolution 64) { at' 1 with replies := [{ reply1 false with granted := false }] }) (fun t => t.replies.all (·.granted)) = true
    ∧ next (exec (.pipRevolution 3) { at' 1 with transits := [⟨8, 4, 3, tag0, 0, 0, 0, false, .fill 0x40⟩] })
      (fun t => t.transits.all (·.granted)) = true
    ∧ (let s : State := { at' 1 with packets := [packet1 true 0] }
      s.packets.all (fun p => s.inOrder p && s.roomFor p)) = true
    ∧ next (exec (.packetArrival 7) { at' 1 with packets := [packet1 true 0] }) (fun t => t.reqs.length == 1
      && t.packets.all (·.payload.isNone)) = true
    ∧ goes (exec (.endToEndAck 7) { at' 1 with packets := [packet1 true 0] }) = true
    ∧ next (exec (.packetOverdue 7) { at' 1 with packets := [packet1 false 0], clock := 10912 }) (fun t => t.core.crGet 0x00A == 1#64
      && t.packets.all (·.tag.ovd)) = true
    ∧ next (exec (.packetOverdue 7) { at' 1 with packets := [packet1 false 0], clock := 10911 }) (fun t => t.core.crGet 0x00A == 0#64) = true
    ∧ next (exec (.resendTimeout 7) { at' 1 with packets := [packet1 true 3], clock := 10923 }) (fun t =>
      t.packets.map (fun p => (p.resends, p.tag.slack)) == [(4, 0)]) = true
    ∧ next (exec (.resendTimeout 7) { at' 1 with packets := [packet1 true 4], clock := 13654 }) (fun t => t.packets.isEmpty
      && (t.core.crGet 0).getLsbD 3) = true
    ∧ next (exec (.resetNoticeArrival 3 5) { at' 1 with notices := [(3, 5)] }) (·.notices.isEmpty) = true := by decide +kernel

/-! ### Vector units -/

/-- The V0 slot with 128 vector registers at store address 0x20000; sh0 has an element and a result type; v3 and v4 hold words in lanes 0 and 1. -/
def vec (ty oty : Nat) : State :=
  let s := cr 0x011 (0x400 + 0x80 * 2 ^ 13 + 2 ^ 27) (at' 2)
  let s : State := { s with core := { s.core with shapes := [(0, BitVec.ofNat 128 (ty + 0x2000 + oty * 2 ^ 14))] } }
  ((s.setLane 0x20180 0 0x40490FDB).setLane 0x20180 1 0xBF800000).setLane 0x20200 0 0x3F800000

/-- VectorArithmeticByLane and the others on lanes: what VecReady asks for, with three sources, at the last register, under stochastic rounding with a
word to draw, and for VSEL. -/
theorem test_meets_vec_ready : VecReady (vec 0 0) 0#4 0#2 false false true (typeIn arithTypes)
    [((vec 0 0).core.vAddr 3, false), ((vec 0 0).core.vAddr 4, false), ((vec 0 0).core.vAddr 5, false)] [(vec 0 0).core.vAddr 127] := by
  refine ⟨?_, ?_, ?_, ?_, ?_, ?_, ?_, ?_, ?_, fun _ h => absurd h ?_, ?_⟩ <;> decide +kernel
def drawing : State :=
  let s := vec 0 0
  { s with core := { s.core with shapes := [(0, 0x2040#128)], cupQ := [0x1234F100#32] } }
theorem test_meets_vec_drawing : VecReady drawing 0#4 0#2 false false true (typeIn arithTypes) [(drawing.core.vAddr 3, false)]
    [drawing.core.vAddr 6] := by
  have hb : drawing.core.curBundle = none := by decide +kernel
  refine ⟨?_, ?_, ?_, ?_, ?_, ?_, ?_, ?_, ?_, fun _ _ => ⟨?_, ?_, fun b h => absurd (hb.symm.trans h) nofun⟩, ?_⟩ <;> decide +kernel
theorem test_meets_vec_select : VecReady (vec 9 9) 9#4 0#2 false true false anyType [((vec 9 9).core.vAddr 3, true)] [(vec 9 9).core.vAddr 6] := by
  refine ⟨?_, ?_, ?_, ?_, ?_, ?_, ?_, ?_, ?_, fun h => absurd h ?_, ?_⟩ <;> decide +kernel
/-- Registers that exist, and the first that does not. -/
theorem test_vec_registers : (vec 0 0).core.vAddr 127 = some 0x23F80 ∧ (vec 0 0).core.vAddr 128 = none
    ∧ (vec 0 0).core.partnerAddr 3 = some 0x20200 ∧ (drawing.core.cupQ.length < 16) := by decide +kernel

/-- The V instructions complete on FP32, on integers, and on the narrow types. -/
theorem test_vector_float_complete : ∀ i ∈ ([.vadd ⟨0, 6, 3, 4, 0, false⟩, .vsub ⟨0, 6, 3, 4, 0, false⟩, .vmul ⟨0, 6, 3, 4, 0, false⟩,
    .vfma ⟨0, 6, 3, 4, 0, false⟩, .vmin ⟨0, 6, 3, 4, 0, false⟩, .vmax ⟨0, 6, 3, 4, 0, false⟩, .vabs ⟨0, 6, 3, 0, false⟩, .vneg ⟨0, 6, 3, 0, false⟩,
    .vdiv ⟨0, 6, 3, 4, 0, false⟩, .vsqrt ⟨0, 6, 4, 0, false⟩, .vrcp ⟨0, 6, 3, 0, false⟩, .vrsq ⟨0, 6, 4, 0, false⟩, .vexp2 ⟨0, 6, 4, 0, false⟩,
    .vlog2 ⟨0, 6, 4, 0, false⟩, .vcmp ⟨0, 2, 1, 3, 4, 0, false⟩, .vcadd ⟨0, 6, 3, 4, 0, false⟩, .vcacc ⟨0, 6, 3, 0, false⟩,
    .vfade ⟨0, 6, 3, 4, 0, false⟩, .vcvt ⟨0, 6, 3, 0, false⟩, .cupseed ⟨0, 1⟩, .cupstat ⟨0, 6⟩] : List Instr),
    completes i (vec 0 0) = true := by decide +kernel
theorem test_vector_word_complete : (∀ i ∈ ([.vsel ⟨0, 6, 3, 4, 0, false⟩, .vand ⟨0, 6, 3, 4, 0, false⟩, .vor ⟨0, 6, 3, 4, 0, false⟩,
    .vxor ⟨0, 6, 3, 4, 0, false⟩, .vnot ⟨0, 6, 3, 0, false⟩, .vshl ⟨0, 6, 3, 4, 0, false⟩, .vshr ⟨0, 6, 3, 4, 0, false⟩,
    .vsar ⟨0, 6, 3, 4, 0, false⟩, .vperm ⟨0, 6, 3, 4, 0, false⟩, .vbcstLane ⟨0, 6, 3, 31, 0, false⟩, .vbcstScalar ⟨0, 6, 3, 0, false⟩,
    .vmov ⟨0, 6, 3, 0, false⟩, .xmov ⟨0, 6, 3, 0, false⟩, .vred ⟨0, 6, 3, 0, 2, 0, false⟩] : List Instr), completes i (vec 9 9) = true)
    ∧ completes (.vpack ⟨0, 6, 3, 4, 0, false⟩) (vec 0 2) = true ∧ completes (.vunpk ⟨0, 6, 3, 1, 0, false⟩) (vec 2 0) = true
    ∧ completes (.vqdeq ⟨0, 6, 3, 4, 0, false⟩) (vec 13 0) = true ∧ goes (exec .cupGenerate drawing) = true := by decide +kernel

/-- π to each narrower format under nearest even (04, after R100), and stochastically to BF16 in lanes 0 and 1. -/
theorem test_r100_pi : (∀ p ∈ ([(1, 0x4248), (2, 0x4049), (3, 0x45), (4, 0x42)] : List (Nat × Nat)),
      (convert 0 p.1 0 0 false 0x40490FDB).bits = p.2)
    ∧ (convert 0 2 4 (laneBits 0x1234F100 0 0) false 0x40490FDB).bits = 0x404A
    ∧ (convert 0 2 4 (laneBits 0x1234F100 1 0) false 0x40490FDB).bits = 0x4049 := by decide +kernel
/-- The compensated sum of the example after R108. -/
theorem test_r108_pair : (let step (p : Pair) : Pair := (cacc p 0x33000000).1
      let p := step (step ⟨0x3F800000, 0⟩)
      p = ⟨0x3F800000, 0x33800000⟩ ∧ step p = ⟨0x3F800001, 0xB3000000⟩) := by decide +kernel
/-- The words of the Cholesky bundle (08). -/
theorem test_words_of_cholesky : decodeSlot .v 0x3C2D0864#32 none = .ok (.vcmp ⟨0, 5, 5, 2, 6, 1, false⟩)
    ∧ decodeSlot .v 0x88163C00#32 none = .ok (.xmov ⟨0, 22, 15, 0, false⟩) := by decide +kernel
/-- The crossing addresses of the split view (03, after R75): v70. -/
theorem test_r75_split : (cr 0x011 0x48100400 (at' 2)).core.vAddr 70 = some 0x21180 := by decide +kernel

/-- VectorMemoryMovesLanes: lanes in the own scratchpad, in memory, and in the register store, for one register and an index register. -/
def vmem : State := regs [tag1 0x10000, 0x4000] (xregs [0, 0x22000] (cr 0x01A 0x41 (vec 9 9)))
theorem test_meets_vector_memory : (VmReady vmem 0#4 (vmem.core.activeShape 0 false) anyType [vmem.core.vAddr 3, vmem.core.vAddr 4])
    ∧ VmReady vmem 0#4 (vmem.core.activeShape 0 false) (vatomTypes 6) [vmem.core.vAddr 127] :=
  ⟨by constructor <;> decide +kernel, by constructor <;> decide +kernel⟩
theorem test_meets_lanes_reach : (∀ j ∈ ([0, 31] : List Nat), reaches (tag1 (0x10000 + 4 * j)) 4 .rd vmem (fun q => vmem.ownStorage q.loc) = true
      ∧ reaches (tag1 (0x10000 + 4 * j)) 4 .wr vmem (fun q => vmem.ownStorage q.loc) = true
      ∧ reaches (0x4000 + 4 * j) 4 .rd vmem (fun q => !vmem.ownStorage q.loc && (vmem.l1Sector vmem.core q.loc).isNone) = true
      ∧ reaches (0x4000 + 4 * j) 4 .at vmem (fun q => isPhys q.loc && !isRemote q.loc) = true)
    ∧ vmem.storeWait none [(0x20200, 128)] [(0x20180, 128)] = false ∧ vmem.core.nearOk 0 0x22000 128 = true
    ∧ vmem.core.wmWait 3 0x22000 4 = false := by decide +kernel
theorem test_vector_memory_complete : (∀ i ∈ ([.vld ⟨0, 6, 1, 0, 0, false, false⟩, .vst ⟨0, 3, 1, 0, 0, false, false⟩,
    .vgth ⟨0, 6, 1, 5, 0, false, false⟩, .vsct ⟨0, 3, 1, 5, 0, false, false⟩, .vatom ⟨0, 3, 1, 5, 0, 0, false, true⟩,
    .vld ⟨0, 6, 1, 0, 0, false, true⟩, .vst ⟨0, 3, 1, 0, 0, false, true⟩, .vgth ⟨0, 6, 1, 5, 0, false, true⟩,
    .vsct ⟨0, 3, 1, 5, 0, false, true⟩] : List Instr), completes i vmem = true)
    ∧ next (exec (.vld ⟨0, 6, 2, 0, 0, false, false⟩) vmem) (fun t => t.packets.length == 1) = true
    ∧ next (exec (.vst ⟨0, 3, 1, 0, 0, false, false⟩) vmem) (fun t => t.num (Loc.spad 0 0x10000) 4 == 0x40490FDB
      && t.num (Loc.spad 0 0x10004) 4 == 0xBF800000) = true
    ∧ next (exec (.vatom ⟨0, 3, 2, 5, 0, 0, false, false⟩) vmem) (fun t => t.core.crGet 0x127 == 1#64 && !t.packets.isEmpty) = true := by decide +kernel

/-! ### The matrix array and the Ladder -/

/-- A shape: type, result type, group, strides, rows and columns, over 32 lanes. -/
def shape' (ty oty group st0 st1 rows cols : Nat) : BitVec 128 :=
  BitVec.ofNat 128 (ty + 0x2000 + oty * 2 ^ 14 + group * 2 ^ 18 + st0 * 2 ^ 32 + st1 * 2 ^ 64 + rows * 2 ^ 96 + cols * 2 ^ 112)

/-- An engine's slot with sh0; view 1 opens 0x20000 to 0x2FFFF, and eight accumulators lie from 0x40000. -/
def eng (slot : Nat) (sh : BitVec 128) : State :=
  let s := cr 0x011 (0x400 + 0x200 * 2 ^ 13 + 2 ^ 27) (cr 0x013 (0x800 + 0x800 * 2 ^ 13 + 3 * 2 ^ 27) (at' slot))
  { s with core := { s.core with shapes := [(4 * (slot - 2), sh)] } }

/-- One operation has joined an engine's queue; nothing is held and no trap was entered. -/
def joins (i : Instr) (e : Nat) (s : State) : Bool :=
  completes i s && next (exec i s) fun t => (t.core.queue e).length == (s.core.queue e).length + 1

/-- What an engine's instruction needs, as the statements ask for it. -/
def ready' (s : State) (ok : BitVec 128 → Bool) (e : Nat) (reads writes : List (Nat × Nat)) : Bool :=
  s.core.on 0 && !(s.core.crGet 0x049).getLsbD (s.core.cur.slot - 2) && shapeClean (s.core.activeShape 0 false)
    && ok (s.core.activeShape 0 false) && !s.engWait e reads writes
theorem ready'_meets (s : State) (ok : BitVec 128 → Bool) (e : Nat) (reads writes : List (Nat × Nat)) (h : ready' s ok e reads writes = true) :
    EngReady s 0#4 (s.core.activeShape 0 false) ok e reads writes := by
  simp only [ready', Bool.and_eq_true, Bool.not_eq_true'] at h
  exact ⟨h.1.1.1.1, h.1.1.1.2, h.1.1.2, h.1.2, h.2⟩

/-- The stationary record of a buffer: a type, a group, valid. -/
def rec' (ty group : Nat) (s : State) : State := cr 0x01C (ty * 2 ^ 16 + group * 2 ^ 20 + 2 ^ 22) s
def mat (ty : Nat) : State := xregs [0x20000, 0x80] (eng 4 (shape' ty 0 0 128 0 2 3))

/-- MatrixInstructionsQueue: codes of each kind that fit below 64 KiB, at the last offset that does; rows and accumulators that are free; one
repetition and three. -/
theorem test_meets_matrix : ready' (mat 5) (fun _ => true) 0 [] [] = true
    ∧ (∀ p ∈ ([(5, 0, 0xFF80), (13, 2, 0xFFB8), (15, 0, 0xFF60), (2, 0, 0xFFC0)] : List (Nat × Nat × Nat)),
      (codeBytes p.1).isSome = true ∧ p.2.2 % 8 = 0 ∧ p.2.2 + columnBytes p.1 p.2.1 = 0x10000)
    ∧ (let w := (rec' 5 0 (mat 5)).core.mbrec 0
      ready' (rec' 5 0 (mat 5)) (fun sh => pairsPlain w (shType sh)) 0 [(0x20000, 128), (0x20080, 128)] [(0x40000, 2048)] = true)
    ∧ (let w := (rec' 13 1 (mat 5)).core.mbrec 0
      ready' (rec' 13 1 (mat 5)) (fun sh => pairsGrouped w (shType sh)) 0 [(0x20000, 128), (0x20080, 128)] [(0x40000, 2048), (0x48000, 2048)] = true
        ∧ 128 / tileGroup (recType w) (recGroup w) = 2)
    ∧ (let w := (rec' 14 0 (mat 0)).core.mbrec 0
      ready' (rec' 14 0 (mat 0)) (fun sh => recValid w && (shType sh == 0 || shType sh == 9) && shOtype sh == 0 && decide (shRound sh ≤ 3)
        && isGrouped (recType w) && decide (3 < 128 / tileGroup (recType w) (recGroup w)) && rowsFit sh 30 1) 0 [(0x47800, 2048)] [(0x47800, 2048)] = true)
    ∧ rowsFit (shape' 5 0 0 128 0 2 3) 26 3 = true ∧ rowsFit (shape' 5 0 0 128 0 2 3) 27 3 = false
    ∧ (mat 5).core.aAddr 7 = some 0x78000 ∧ (mat 5).core.storeOk 0x20000 128 = true ∧ (mat 5).core.storeOk 0x2FF80 128 = true
    ∧ (mat 5).core.storeOk 0x2FF81 128 = false ∧ (mat 5).core.engWaits 0 = false := by decide +kernel

theorem test_matrix_complete : joins (.mbld ⟨0, 2, 0, false, true⟩) 0 (xregs [0, 0, 0xFF80] (mat 5)) = true ∧ joins (.mbsw ⟨0⟩) 0 (mat 5) = true
    ∧ joins (.mma ⟨0, 7, 0, 0, false, true, 30⟩) 0 (rec' 5 0 (mat 5)) = true
    ∧ joins (.mmaz ⟨0, 0, 0, 0, false, true, 30⟩) 0 (rec' 13 1 (mat 5)) = true
    ∧ joins (.mtap ⟨0, 1, 0, 1, 0, false, true, 0x1000⟩) 0 (rec' 5 0 (mat 5)) = true
    ∧ joins (.mscl ⟨0, 1, 0, false, 30, 3⟩) 0 (rec' 14 0 (mat 0)) = true ∧ joins (.mzero ⟨0, 1, 0, false, 30⟩) 0 (mat 5) = true
    ∧ joins (.macc ⟨0, 1, 2, 0, false, 30, false⟩) 0 (mat 0) = true ∧ joins (.macc ⟨0, 1, 2, 0, false, 30, true⟩) 0 (mat 9) = true
    ∧ joins (.mout ⟨0, 1, 0, 0, false, true, 30⟩) 0 (mat 0) = true
    ∧ next (exec (.matrixStatusAccess 0x01B 0xFFFF) (cr 0x01B 0x7F01 (mat 0))) (·.core.crGet 0x01B == 1#64) = true := by decide +kernel
/-- An accumulator that does not exist: trap 0x0B. -/
theorem test_matrix_traps : next (exec (.mzero ⟨0, 1, 0, false, 31⟩) (mat 5)) (·.core.crGet 2 == 0x0B#64) = true
    ∧ next (exec (.mma ⟨0, 7, 0, 0, false, true, 30⟩) (rec' 2 0 (mat 5))) (·.core.crGet 2 == 0x0B#64) = true := by decide +kernel

/-- The state after an instruction has joined, or the state itself. -/
def after (i : Instr) (s : State) : State := match exec i s with | .next t => t | _ => s

/-- The head of a queue can perform. -/
def performs' (s : State) (e : Nat) (p : EngineOp → Bool) : Bool := match (s.core.queue e).head? with
  | some o => o.old.isEmpty && s.core.crGet 0x00D == 0#64 && s.poison.isEmpty && p o
  | none => false

/-- MatrixOperationsPerform: each operation at the head of its queue, its rows apart; what MZERO, MACC and MOUT then leave, and the partial of
A row (1, 2) with the column (3, 4). -/
theorem test_meets_matrix_operations : performs' (after (.mbld ⟨0, 2, 0, false, false⟩) (mat 5)) 0
        (fun o => o.extra == [1] && columnBytes (shType o.shape) (shGroup o.shape) == 128) = true
    ∧ performs' (after (.mma ⟨0, 7, 0, 0, false, true, 30⟩) (rec' 5 0 (mat 5))) 0 (fun o => o.addrs == [0x20000, 0x20080] && o.regs == [0x78000]
        && o.extra == [0, 30]) = true
    ∧ performs' (after (.mmaz ⟨0, 0, 0, 0, false, true, 30⟩) (rec' 13 1 (mat 5))) 0 (fun o => o.regs == [0x40000, 0x48000]) = true
    ∧ performs' (after (.mzero ⟨0, 1, 0, false, 30⟩) (mat 5)) 0 (fun o => o.regs == [0x48000]) = true
    ∧ performs' (after (.mscl ⟨0, 1, 0, false, 30, 3⟩) (rec' 14 0 (mat 0))) 0 (fun o => o.regs == [0x48000]) = true
    ∧ performs' (after (.macc ⟨0, 1, 2, 0, false, 30, false⟩) (mat 0)) 0 (fun o => o.regs == [0x48000, 0x50000] && o.rep == 1) = true
    ∧ performs' (after (.mout ⟨0, 1, 0, 0, false, true, 30⟩) (mat 0)) 0 (fun o => o.regs == [0x48000] && o.addrs == [0x20000]) = true := by decide +kernel
theorem test_matrix_operations : (let s := after (.mzero ⟨0, 1, 0, false, 31⟩) ((eng 4 (shape' 0 0 0 0 0 1 1)).writeNum ((at' 4).st 0x4FC04) 4 7)
      (s.num (s.st 0x4FC04) 4 = 7 ∧ next (exec .mOperationDone s) (fun t => t.num (t.st 0x4FC04) 4 == 0 && t.core.ops.isEmpty) = true))
    ∧ (let s := after (.mout ⟨0, 0, 0, 0, false, false, 0⟩)
          ((xregs [0x20000] (eng 4 (shape' 0 2 0 0 0 1 1))).writeNum ((at' 4).st 0x40000) 4 0x40490FDB)
      next (exec .mOperationDone s) (fun t => t.num (t.st 0x20000) 2 == 0x4049) = true)
    ∧ (let b : StatBuf := ⟨true, 5, 0, 0, [(0, 3#8), (1, 0xFC#8)]⟩
      (plainDot b 5 ([1#8, 2#8] ++ List.replicate 126 0#8) 0).bits = (2 ^ 32 - 5)) := by decide +kernel

/-- LadderInstructionsQueue, LadderOperationsPerform: chunks of 4 in one repetition, and every row where it should be; each operation at the head. -/
def lad : State := xregs [0x20000, 0x24000] (eng 5 (shape' 0 0 0 0 0 2 3))
theorem test_meets_ladder : ready' lad (fun sh => shType sh == 0 && decide (shRound sh ≤ 3)) 1 [(0x20000, 128)] [(0x24000, 128)] = true
    ∧ lad.core.storeOk 0x20000 256 = true ∧ 0x20000 % 128 = 0 ∧ lad.core.engWaits 1 = false
    ∧ confChunk lad.core.nconf = 4 ∧ confLanes lad.core.nconf = 32
    ∧ (scanRows lad.core.nconf true 0x20000 0x24000).all (fun u => u.a % 4 == 0 && lad.core.storeOk u.a u.n) = true
    ∧ rowsFit (shape' 0 0 0 0 0 2 3) 30 1 = true := by decide +kernel
theorem test_ladder_complete : (∀ i ∈ ([.lcfgSet ⟨0, 0, false, 4, 31, 2⟩, .lcfgClear ⟨0, 7, 0, false⟩, .lcfgLoad ⟨0, 7, 0, 0, false, true⟩,
      .lcfgSave ⟨0, 7, 0, 0, false, true⟩, .lscan ⟨0, 7, 0, 1, 0, false, true, true⟩, .lscanc ⟨0, 7, 0, 1, 0, false, true, false⟩,
      .lgate ⟨0, 0, 1, 0, false, true⟩, .lmat ⟨0, 7, 0, 1, 0, false, true, 0⟩] : List Instr), joins i 1 lad = true)
    ∧ next (exec (.lcfgSet ⟨0, 0, false, 4, 31, 2⟩) lad) (·.core.crGet 0x01F == BitVec.ofNat 64 (4 + 8 * 31 + 2 * 256)) = true
    ∧ next (exec (.ladderStatusAccess 0x01E 3) (cr 0x01E 7 lad)) (·.core.crGet 0x01E == 4#64) = true := by decide +kernel
theorem test_meets_ladder_operations : (∀ i ∈ ([.lcfgSet ⟨0, 0, false, 4, 31, 2⟩, .lcfgClear ⟨0, 7, 0, false⟩, .lcfgLoad ⟨0, 7, 0, 0, false, true⟩,
      .lcfgSave ⟨0, 7, 0, 0, false, true⟩, .lscan ⟨0, 7, 0, 1, 0, false, true, true⟩, .lscanc ⟨0, 7, 0, 1, 0, false, true, false⟩,
      .lgate ⟨0, 0, 1, 0, false, true⟩, .lmat ⟨0, 7, 0, 1, 0, false, true, 0⟩] : List Instr),
      performs' (after i lad) 1 (fun o => o.rep == 1) = true) := by decide +kernel
/-- A carry saved: hi below, lo 128 bytes on; cleared, it reads zero. -/
theorem test_ladder_carries : (let s : State := { lad with core := { lad.core with carries := [(32 * 7 + 1, 0x200000001#64)] } }
      next (exec .nOperationDone (after (.lcfgSave ⟨0, 7, 0, 0, false, false⟩) s)) (fun t => t.num (t.st 0x20004) 4 == 1
        && t.num (t.st 0x20084) 4 == 2) = true
      ∧ next (exec .nOperationDone (after (.lcfgClear ⟨0, 7, 0, false⟩) s)) (fun t => t.core.carry 7 1 == ⟨0, 0⟩) = true) := by decide +kernel

/-! ### Copies, watermarks, barriers and frames -/

/-- C0 with two rows of three elements; a partition of the second 64 KiB of the scratchpad; view 1 as before. -/
def cop (ty : Nat) : State :=
  xregs [0x10000, 0x22000, 0x20000, 0, 0x12000, 1, 0x4000, 0, 0x12000, 0] (cr 0x01A 0x41 (eng 6 (shape' ty 0 0 16 12 2 3)))

/-- The rows of a copy pass their checks, and nothing holds it. -/
def checks (s : State) (f : CopyForm) (ms : List RowMove) (ssp : Nat) (n : Nat) : Bool :=
  match s.checkMoves f ms with
  | .ok (segs, _) => segs.length == n && !s.copyHeld ssp segs []
  | .error _ => false

/-- CopiesJoinTheirUnit: tiles that a copy takes, rows that pass, nothing that holds them; an empty mask; rows at the deck's end. -/
theorem test_meets_copies : (let s := cop 0
      let sh := s.core.activeShape 0 false
      s.core.on 0 = true ∧ (s.core.crGet 0x049).getLsbD 4 = false ∧ shapeClean sh = true ∧ tileOk sh = true
        ∧ checks s ⟨1, 4, fun m => [(3, m.dst)], false, false, .wr⟩ ((List.range 2).map fun r => ⟨r, 0x10000 + 16 * r, 0x20000 + 12 * r, 12, false, 0⟩) 1 2 = true
        ∧ s.core.storeOk 0x22000 8 = true ∧ s.storeWait (some 2) [(0x22000, 8)] [] = false ∧ s.poisoned (s.st 0x22000) 8 = false
        ∧ (s.core.xVal 5) ≠ 0#32 ∧ (s.core.xVal 9) = 0#32 ∧ (s.core.xVal 4).toNat < 2 ^ 22)
    ∧ 0xFE0000 / 65536 + 2 ≤ 256 ∧ 0xFEFFFD % 65536 + rowBytes (shape' 5 0 0 0 0 2 3) = 65536 ∧ tileOk (shape' 13 0 0 0 0 2 3) = false := by
  decide +kernel
theorem test_copies_complete : joins (.cpy ⟨0, 0, 0, 2, 0, false, 1, 3, none, false⟩) 2 (cop 0) = true
    ∧ joins (.cpy ⟨0, 0, 6, 2, 0, false, 0, 3, none, false⟩) 2 (cop 0) = true
    ∧ joins (.cpyg ⟨0, 0, 0, 2, 0, false, 1, 3, none, false⟩) 2 (cop 0) = true
    ∧ joins (.cpyh ⟨0, 0, 4, 2, 0, false, 1, 3, none⟩) 2 (cop 0) = true
    ∧ joins (.cpym ⟨0, 0, 0, 4, 0, false, 1, none⟩) 2 (cop 0) = true ∧ completes (.cpym ⟨0, 0, 0, 8, 0, false, 1, none⟩) (cop 0) = true
    ∧ joins (.cpyr ⟨0, 0, 0, 6, 0, false, 1, none⟩) 2 (cop 9) = true
    ∧ joins (.cpyd ⟨0, 0, 0, 7, 0, false, 1, none⟩) 2 (cop 5) = true := by decide +kernel

/-- CopiesLand: a segment of two, the last of them, and a barrier's operations at the head of their unit's queue. -/
def copied : State := after (.cpy ⟨0, 0, 0, 2, 0, false, 1, 3, none, false⟩) ((cop 0).writeNum (Loc.spad 0 0x10010) 4 77)
theorem test_meets_landing : (copied.core.unitItems 2).length = 2
    ∧ (match (copied.core.unitItems 2)[1]? with
      | some (o, 1, some g) => copied.core.mayLand o g && o.addrs.isEmpty && o.old.isEmpty && (wChannel o.instr).isNone
          && (countBar o.instr).isNone && !copied.poisoned g.src g.n && o.segs.length == 2
      | _ => false) = true ∧ copied.launches = []
    ∧ next (exec (.copyCompletion false 1) copied) (fun t => t.num (t.st 0x2000C) 4 == 77 && t.core.ops.length == 1
      && next (exec (.copyCompletion false 0) t) (fun u => u.core.ops.isEmpty)) = true
    ∧ goes (exec (.copyCompletion true 0) copied) = true := by decide +kernel
def bar (i : Instr) : State := after i (xregs [3, 5] (at' 6))
theorem test_meets_barrier_operations : (∀ i ∈ ([.binit ⟨0, 7, 4, 1⟩, .badd ⟨0, 7, 4, 1⟩, .arrive ⟨0, 7, 4⟩] : List Instr),
      (match ((bar i).core.unitItems 2)[0]? with
        | some (o, 0, none) => ((bar i).core.earlier o).isEmpty && (bar i).releaseReady 0 o.seq 1 && o.regs.headD 1 == 0
        | _ => false) = true)
    ∧ next (exec (.copyCompletion false 0) (bar (.binit ⟨0, 7, 4, 1⟩))) (fun t => t.core.barrier 7 == (5, 0, false)) = true
    ∧ next (exec (.copyCompletion false 0) (bar (.badd ⟨0, 7, 4, 1⟩))) (fun t => t.core.barrier 7 == (0, 5, true)) = true
    ∧ next (exec (.copyCompletion false 0) (bar (.arrive ⟨0, 7, 4⟩))) (fun t => t.core.barrier 7 == (0, 1, true)) = true := by decide +kernel

/-- WatermarksAndBarriers: the longest window and one byte more; a mark that has been reached and one that has not; a barrier that is
complete and one that is not; a core of the gang and one outside it. -/
theorem test_meets_watermarks : (let s := xregs [0x10000, 0x1000] (at' 6)
      joins (.binit ⟨0, 7, 0, 1⟩) 2 s = true ∧ joins (.badd ⟨0, 7, 4, 1⟩) 2 s = true ∧ joins (.arrive ⟨0, 7, 4⟩) 2 s = true
        ∧ s.core.gang.size = 1 ∧ (0#3).toNat < s.core.gang.size
        ∧ completes (.wmark ⟨0, 31, 0, 1, 1⟩) s = true ∧ 0x10000 + 0x1000 ≤ spaceSize 1 ∧ s.core.ops = []
        ∧ next (exec (.wmark ⟨0, 31, 0, 1, 1⟩) s) (fun t => t.core.crGet 0x09F == BitVec.ofNat 64 (0x400 + 2 ^ 42 + 0x40 * 2 ^ 44)) = true)
    ∧ (let s := regs [0x10040] (cr 0x09F (0x400 + 2 ^ 42 + 0x40 * 2 ^ 44) (at' 1))
      (completes (.wmwait ⟨0, 1, 31⟩) s = false ∧ next (exec (.wmwait ⟨0, 1, 31⟩) s) (·.core.held) = true)
        ∧ completes (.wmwait ⟨0, 1, 31⟩) (cr 0x0BF 1 s) = true ∧ next (exec (.wmwaitAll ⟨0, 31⟩) (cr 0x0BF 1 s)) (·.core.held) = true
        ∧ completes (.wmwaitAll ⟨0, 31⟩) (cr 0x0BF 0x40 s) = true ∧ completes (.wmwaitAll ⟨0, 30⟩) s = true)
    ∧ (let s := at' 1
      s.core.whoCore 4 = some 0 ∧ s.core.initDue s.core.cur.seq (fun _ => true) = false
        ∧ next (exec (.bwait ⟨0, 2, 4, 7⟩) s) (fun t => t.core.sReg 2 == 0#64 && !t.core.held) = true
        ∧ next (exec (.bwait ⟨0, 2, 4, 7⟩) { s with core := { s.core with barExp := [(7, 1#32)] } }) (·.core.held) = true) := by decide +kernel

/-- The slot of the frame instructions, with FMROOT at 0x50000, counts at 0x30000, two banks of one page, and frames 1 (one page, 0x50),
2 (its snapshot), 3 (free, room for a history of 4 pages) and 4 (5 tokens in page 0x60). -/
def frames : State :=
  let s := cr 0x00E (1 * 64 + 2 + 2 ^ 12) (xregs [0x10000, 1, 2, 3, 4, 0] (cr 0x01A 0x41 (eng 6 (shape' 0 0 0 0 0 1 1))))
  let s := ((s.devPut 0x120 0x50001#64).devPut 0x121 0x30000#64)
  (((((((((s.writeNum 0x50000 8 0x4003).writeNum 0x4040 8 0x11).writeNum 0x4050 4 0x50).writeNum 0x4080 8 0x15).writeNum 0x4090 4 0x50).writeNum
    0x40C8 8 (0x8000 + 4 * 2 ^ 48)).writeNum 0x4100 8 (1 + 5 * 2 ^ 16)).writeNum 0x4108 8 (0x9000 + 4 * 2 ^ 48)).writeNum 0x9000 4 0x60).writeNum
    0x30050 1 2 |>.writeNum 0x30060 1 1

/-- A frame that a name leads to. -/
def framed (r : Except FrErr FrEntry) (p : FrEntry → Bool) : Bool := match r with | .ok e => p e | .error _ => false
/-- FrameInstructionsAreAccepted: what the engine needs; each kind of frame; the banks as each clause wants them. -/
theorem test_meets_frames : FrReady frames 0#4 true [1, 0] [0x50] := by
  refine ⟨?_, ?_, ?_, ?_, ?_, fun _ => ⟨?_, ?_⟩⟩ <;> decide +kernel
theorem test_meets_frame_entries : framed (frames.frLive 1#32 (some false)) (fun e => e.npg == 1 && !e.comp && e.live == [0x50]
      && (frames.tally ((e.live ++ frames.hist e).map cntUp) [] []).isOk
      && (match frames.tally ((e.live ++ frames.hist e).map cntDown) [] [] with | .ok b => b.isEmpty | _ => false)) = true
    ∧ framed (frames.frLive 2#32 (some true)) (fun e => !e.comp) = true
    ∧ framed (frames.frName true 3#32) (fun d => !d.v && d.hcap == 4 && (frames.frGood d).isOk) = true
    ∧ framed (frames.frLive 4#32 (some false)) (fun e => e.hcap == 4 && e.htok == 5 && frames.count (pageOf (frames.num e.hlist 4)) == 1) = true
    ∧ frames.core.ownsSpad 0x10000 4096 = true ∧ frames.core.ownsSpad 0x10000 (4096 * 5) = true ∧ bankPages (frames.core.crGet 0x00E) = 1
    ∧ (frames.core.bank true).state = 0 ∧ (frames.core.bank true).storing = false ∧ frames.core.act' = false
    ∧ frames.bankWait (Loc.spad 0 0x10000) (4096 * 5) true = false := by decide +kernel
/-- The active bank holds a frame. -/
def banked (f : Nat) (dirty : BitVec 12) : State :=
  { frames with core := { frames.core with bank0 := ⟨BitVec.ofNat 32 f, 2, false, false, 1, false, dirty, false, false, none⟩ } }
theorem test_frames_complete : joins (.frld ⟨0, 1, false⟩) 4 frames = true ∧ joins (.frsw ⟨0, 1, 5, false⟩) 4 frames = true
    ∧ joins (.frsw ⟨0, 1, 5, false⟩) 4 (banked 1 0) = true
    ∧ joins (.frsw ⟨0, 1, 5, false⟩) 4 { frames with core := { frames.core with bank1 := (banked 1 0).core.bank0 } } = true
    ∧ joins (.frst ⟨0, true⟩) 4 ((banked 1 0).writeNum 0x30050 1 1) = true ∧ joins (.frst ⟨0, false⟩) 4 (banked 1 0) = true
    ∧ joins (.snap ⟨0, 1, 3⟩) 4 frames = true ∧ joins (.fork ⟨0, 4, 3⟩) 4 frames = true ∧ joins (.rback ⟨0, 1, 2, true⟩) 4 frames = true
    ∧ joins (.frel ⟨0, 1⟩) 4 frames = true ∧ joins (.hpapp ⟨0, 4, 0⟩) 4 frames = true
    ∧ joins (.hpmap ⟨0, 4, 4, 0, none⟩) 4 (xregs [0x10000, 1, 2, 3, 4, 0] frames) = true
    ∧ joins (.frstat ⟨0, 1, 0⟩) 4 (xregs [0x20000, 1] frames) = true
    ∧ joins (.frstat ⟨0, 1, 0⟩) 4 ((xregs [0x20000, 1] frames).devPut 0x120 0) = true := by decide +kernel

/-- FrameOperationsPerform: a load of 16 bytes, a shared page's count, an empty queue; the lookahead and what keeps it from beginning. -/
def frop (i : Instr) (acts : List Nat) (segs : List Seg) (extra : List Nat) (writes : List (Nat × List Byte)) : State :=
  { frames with core := { frames.core with ops := [⟨0, 0, 4, 0#48, 0#10, i, 1, 0#128, [1], acts, [], [], segs, extra, [], writes⟩] } }
def frload : State :=
  let s := (frop (.frld ⟨0, 1, false⟩) [] [pageMove 0x500000 (Loc.spad 0 0x10000) 16] [1] []).writeNum 0x500004 4 9
  { s with core := { s.core with bank1 := { BankDesc.empty with state := 1 } } }
theorem test_meets_frame_operations : next (exec .frameOperationDone frload) (fun t => t.num (Loc.spad 0 0x10004) 4 == 9 && t.core.bank1.state == 2 && t.core.ops.isEmpty) = true
    ∧ next (exec .frameOperationDone (frop (.snap ⟨0, 1, 3⟩) [cntUp 0x50] [] [] [(0x40C0, leBytes 8 0x15)]))
      (fun t => t.count 0x50 == 3 && t.num 0x40C0 8 == 0x15) = true
    ∧ isRaw (frames.countAt 0x50) = true ∧ isRaw 0x40C0 = true ∧ frames.podBack = [] ∧ goes (exec .frameOperationDone frames) = true := by decide +kernel
/-- The inbound queue at 0x8000 holds session 0; FRLQ names it and frame 1. -/
def look : State :=
  let s := cr 0x00F (0x8000 + 2 ^ 48 + 2 ^ 63) (queue 0 1 false frames)
  { s with core := { s.core with mode := .running } }
theorem test_meets_lookahead : (match look.peekHead with | .ok (some n) => n == (0, 0x8000, 0) | _ => false) = true
    ∧ next (exec .lookaheadPeek look) (fun t => t.core.bank1 == ⟨1, 1, false, false, 1, true, 0, false, false, some (0x8000, 0)⟩) = true
    ∧ (let d : BankDesc := ⟨1, 1, false, false, 1, true, 0, false, false, none⟩
      let s : State := { look with core := { look.core with bank0 := d } }
      framed (s.frLive d.frame (some false)) (fun e => e.npg == d.npg && e.live == [0x50] && isPhys (pagePa 0x50)) = true)
    ∧ (frames.core.crGet 0x00F).getLsbD 63 = false ∧ goes (exec .lookaheadLoadDone frames) = true := by decide +kernel

/-! ### Links -/

/-- Link 3 in both directions: enabled with all wavelengths, lit, in a given state. -/
def link3 (up : BitVec 2) (lit active : BitVec 16) (ctl : Nat) (inward : Bool) : Link :=
  { Link.reset inward 3 with ctl := BitVec.ofNat 64 (0x1FFFE1 + ctl), lit := lit, active := active, up := up, sent := 9, acked := 4, next := 6 }
def linked (up : BitVec 2) (lit active : BitVec 16) (s : State) : State :=
  { s with links := [link3 up lit active 0 false, link3 up lit active (2 ^ 21 + 0xFE * 2 ^ 32) true] }

/-- LinkInstructions: both directions, a selector past the last; a CTL with and without EN, a WIN; a training link and one that has
finished; TALIGN of the time reference. -/
theorem test_meets_link_instructions : (let s := linked 2 0xFFFF 0xFFFF (regs [3, 0x103, 0x200, 0x303, 0x400, 0x1FFFE0, 0x1FFFE1] (at' 1))
      next (exec (.linkst ⟨0, 2, 8⟩) s) (fun t => t.core.sReg 8 == BitVec.ofNat 64 (0xFFFF + 16 * 2 ^ 16 + 2 * 2 ^ 21)) = true
        ∧ next (exec (.linkst ⟨0, 3, 8⟩) s) (·.core.crGet 2 == 0x0B#64) = true
        ∧ next (exec (.lnkcfg ⟨0, 5, 6⟩) s) (·.core.crGet 2 == 0x0B#64) = true
        ∧ next (exec (.lnkcfg ⟨0, 3, 6⟩) s) (·.core.crGet 2 == 0x0B#64) = true
        ∧ next (exec (.lnkcfg ⟨0, 4, 6⟩) s) (fun t => (t.link true 3).win == 0x1FFFE0#64) = true
        ∧ next (exec (.lnkcfg ⟨0, 1, 6⟩) s) (fun t => (t.link false 3).up == 0#2 && !t.core.held) = true
        ∧ next (exec (.lnkcfg ⟨0, 1, 7⟩) s) (fun t => (t.link false 3).up == 1#2 && t.core.held) = true
        ∧ s.core.cur.rep ≠ 0
        ∧ (let u : State := { s with core := { s.core with cur := { s.core.cur with rep := 0 } } }
          goes (exec (.lnkcfg ⟨0, 1, 7⟩) u) = true ∧ next (exec (.lnkcfg ⟨0, 1, 7⟩) (linked 1 0 0 u)) (·.core.held) = true)
        ∧ next (exec (.talign ⟨0, 1, 9⟩) s) (fun t => t.stamps == [⟨3, 9, 0, 0⟩] && t.core.held) = true
        ∧ next (exec (.talign ⟨0, 2, 9⟩) s) (·.core.crGet 2 == 0x0B#64) = true) := by decide +kernel
/-- Its exchange: no TALIGN waits; one waits, with an offset of 3 half ns (θ −2 of them), one of 7 ns, and one of −7. -/
theorem test_meets_exchange : next (exec (.timestampExchange 3 0 0 0 0) (at' 1)) (·.peerOut.length == 1) = true
    ∧ next (exec (.timestampExchange 3 0 0 0 0) (linked 2 0xFFFF 0xFFFF (at' 1))) (·.peerAnswers.length == 1) = true
    ∧ (let s := linked 2 0xFFFF 0xFFFF (at' 1)
      let b : Bundle := ⟨0, 0#48, 0#48, false, 0#10, 0#8, [⟨1, .talign ⟨0, 1, 9⟩, 1, true, true, []⟩], [], [], [], none, 0#64, 0#64, 0#64, [], 0, false, 0#8, 0#64, 0#64⟩
      let u : State := { s with stamps := [⟨3, 9, 0, 0⟩], core := { s.core with bundles := [b] } }
      next (exec (.timestampExchange 3 100 107 0 0) u) (fun t => t.core.sReg 9 == 2#64 && t.time == u.time && t.stamps.isEmpty) = true
        ∧ next (exec (.timestampExchange 3 100 118 0 0) u) (fun t => t.core.sReg 9 == 7#64 && t.time == u.time + 7#64) = true
        ∧ next (exec (.timestampExchange 3 110 100 0 0) u) (fun t => t.core.sReg 9 == BitVec.ofInt 64 (-7) && t.slowing == 14) = true) := by
  decide +kernel

/-- LinkEvents: light lost from a link that stays up over four wavelengths, that fails over three, that was down; restored; a restripe, a
replay; training that ends up and failed; a quad dark for too long. -/
theorem test_meets_light : next (exec (.lightLost false 3 0xFFF0) (linked 2 0xFFFF 0xFFFF (at' 1))) (fun t =>
      (t.link false 3).up == 2#2 && (t.link false 3).active == 0xF#16) = true
    ∧ next (exec (.lightLost false 3 0xFFF8) (linked 2 0xFFFF 0xFFFF (at' 1))) (fun t => (t.link false 3).up == 3#2
      && (t.devGet 0x100).getLsbD 12) = true
    ∧ goes (exec (.lightLost false 3 0xFFFF) (linked 0 0xFFFF 0 (at' 1))) = true
    ∧ next (exec (.lightRestored false 3 0xF0) (linked 2 0xF 0xF (at' 1))) (fun t => (t.link false 3).lit == 0xFF#16
      && (t.link false 3).active == 0xF#16) = true
    ∧ (linked 2 0xFFFF 0xFFFF (at' 1)).transmitQueue 3 = []
    ∧ (let s := after (.lightLost false 3 0xF0) (linked 2 0xFFFF 0xFFFF (at' 1))
      (s.link false 3).lost ≠ [] ∧ next (exec (.restripeDone false 3) s) (fun t => (t.link false 3).replay == 5#32
        && (t.link false 3).lost.isEmpty) = true)
    ∧ next (exec (.linkReplay 3) (linked 2 0xF 0xF (at' 1))) (fun t => (t.link false 3).replay == 5#32) = true
    ∧ next (exec (.linkTrained false 3) (linked 1 0xF 0xF (at' 1))) (fun t => (t.link false 3).up == 2#2) = true
    ∧ next (exec (.linkTrained false 3) (linked 1 0xF 0x7 (at' 1))) (fun t => (t.link false 3).up == 3#2) = true
    ∧ next (exec (.quadDarkTimeout false 3 1) { linked 2 0xF 0xF (at' 1) with time := 1000000001#64 }) (fun t =>
      (t.devGet 0x100).getLsbD 13) = true
    ∧ next (exec (.quadDarkTimeout false 3 1) { linked 2 0xF 0xF (at' 1) with time := 1000000000#64 }) (fun t =>
      (t.devGet 0x100) == 0#64) = true := by decide +kernel
theorem test_meets_flits : (let s := linked 2 0xF 0xF (at' 1)
      next (exec (.flitReceived 3 6 true) s) (fun t => (t.link true 3).next == 7) = true
        ∧ next (exec (.flitReceived 3 6 false) s) (fun t => (t.link true 3).awaiting) = true ∧ goes (exec (.flitReceived 3 7 true) s) = true
        ∧ next (exec (.linkAckReceived 3 9) s) (fun t => (t.link false 3).acked == 9) = true
        ∧ goes (exec (.linkAckReceived 3 4) s) = true ∧ goes (exec (.linkAckReceived 3 10) s) = true) := by decide +kernel
/-- Peers: a window of one GiB at 0, its last byte and the next; each access; answers to a core's load, and one that waits too long. -/
def peer : State :=
  let s := linked 2 0xF 0xF (at' 1)
  { s with links := [link3 2 0xF 0xF 0 false, { link3 2 0xF 0xF 0 true with win := 0x10000#64 }] }
theorem test_meets_peers : next (exec (.remoteAccessArrival 3 (.read 1) 0 0x3FFFFFFF []) peer) (·.packets.length == 1) = true
    ∧ next (exec (.remoteAccessArrival 3 (.read 1) 0 0x40000000 []) peer) (fun t => t.packets.isEmpty && t.peerAnswers.length == 1) = true
    ∧ (∀ k ∈ ([.write, .add, .swap] : List RemoteKind), next (exec (.remoteAccessArrival 3 k 0 0x4000 (leBytes 8 5)) peer)
      (·.packets.length == 1) = true)
    ∧ next (exec (.remoteAccessArrival 3 .cas 0 0x4000 (leBytes 16 5)) peer) (·.packets.length == 1) = true
    ∧ peer.mapped 0x3FFFFFFF = true
    ∧ (let m : Remote := ⟨7, { load1 with parts := [⟨0x100000000000, 0x4000#64, 4, 0, []⟩] }, 2, some 3, 0, 0, 1, .sent, 0, 0⟩
      let s : State := { peer with remotes := [m] }
      m.req.fits (leBytes 4 5) false = true ∧ m.req.fits [] false = false
        ∧ next (exec (.remoteAckReturn 7 (leBytes 4 5) false) s) (fun t => t.transits.length == 1 && t.remotes.length == 1) = true
        ∧ next (exec (.remoteAckReturn 7 [] false) s) (·.transits.isEmpty) = true
        ∧ (∀ b ∈ ([true, false] : List Bool), let u : State :=
            { s with transits := [⟨9, 0, 1, tag0, 0, 0, 0, true, .back 7 (if b then [] else leBytes 4 5) b⟩] }
          u.transits.all u.served = true ∧ next (exec (.packetArrival 9) u)
            (fun t => t.replies.map (·.poisoned) == [b] && t.remotes.isEmpty) = true)
        ∧ next (exec (.remoteWaitTimeout 7) { peer with remotes := [{ m with link := none, stage := .slice }], clock := 2 ^ 20 }) (fun t =>
          t.replies.all (·.poisoned) && t.replies.length == 1) = true
        ∧ goes (exec (.remoteWaitTimeout 7) { s with clock := 2 ^ 20 }) = true) := by decide +kernel

/-! ### Save areas, meters and launch instructions -/

/-- ContextSavesAndLoads: an area at 1 MiB lies as it should for a write and a read; saved, it loads. -/
def area : State := regs [0x100000, 77] (at' 1)
theorem test_meets_area (k : AccKind) (hk : k = .wr ∨ k = .rd) : AreaLies area (area.core.sVal 1) k fun i => 0x100000 + 65536 * i := by
  have h : ∀ k ∈ ([.wr, .rd] : List AccKind), ∀ i < 17, isRaw (0x100000 + 65536 * i) = true ∧ isRaw (0x100000 + 65536 * i + 65535) = true
      ∧ placed (area.place (area.core.sVal 1 + BitVec.ofNat 64 (65536 * i)) 65536 1 k) (fun q => q.loc == 0x100000 + 65536 * i) = true := by
    decide +kernel
  refine ⟨by decide +kernel, by decide +kernel, fun i hi => ?_, fun i _ j _ _ => by show 0x100000 + 65536 * i + 65536 ≤ 0x100000 + 65536 * j ∨ 0x100000 + 65536 * j + 65536 ≤ 0x100000 + 65536 * i; omega⟩
  obtain ⟨h1, h2, h3⟩ := h k (by rcases hk with rfl | rfl <;> simp) i hi
  refine ⟨h1, h2, ?_⟩
  unfold placed at h3
  split at h3
  · next q hq =>
    obtain ⟨l, pg⟩ := q
    simp only [beq_iff_eq] at h3
    subst h3
    exact ⟨pg, hq⟩
  · simp at h3
theorem test_meets_save : area.quiet true = true ∧ area.areaHeld (area.core.sVal 1) = false ∧ area.poison = [] ∧ area.launches = []
    := by decide +kernel
def saved : State :=
  let s := (regs [0x100000, 5] (at' 1)).writeNum 0x100000 8 0x15CB7 |>.writeNum 0x100110 8 77 |>.writeNum 0x100008 8 0x8020
  (List.range 7).foldl (fun s i => s.writeNum (0x100488 + 8 * i) 8 (Cr.reset (0x011 + i)).toNat) s
theorem test_meets_load : saved.areaBad ((List.range 17).map fun i => 0x100000 + 65536 * i) = false
    ∧ (saved.writeNum 0x100490 8 (2 * 2 ^ 27 + 2 ^ 31)).areaBad ((List.range 17).map fun i => 0x100000 + 65536 * i) = true
    ∧ ((List.range 32).all fun ch => saved.num (0x101020 + 64 * ch) 8 / 2 ^ 36 % 2 == 0) = true ∧ saved.quiet true = true
    ∧ next (exec (.ctxld ⟨0, 1⟩) saved) (fun u => u.core.sReg 2 == 77#64 && u.core.pc == 0x8020#48) = true := by decide +kernel

/-- A launch on core 0 from queue 5 of the east die, running, with meter 7; its record enters at 0x40000 under the root of the core. -/
def gang1 : Gang := ⟨0, [0], 0, false, 1, 1, 0, 0, true, none, [], 0, 0, [], []⟩
def record1 : List Byte := leBytes 8 (0x40000 + 2 ^ 51) ++ leBytes 8 0x10000 ++ leBytes 8 0x80000 ++ List.replicate 104 0#8
def image1 : List Byte := leBytes 8 0x51A7 ++ List.replicate 1016 0#8 ++ leBytes 8 (2 ^ 10 + 2 ^ 16) ++ leBytes 8 0
def launch1 (phase : Phase) : Launch :=
  ⟨false, 0, 5, 3, 7, record1, image1, [gang1], phase, 0, 0, 0, none, false, false, 0, 0, some 0#64, 0, 0, false, false, false, 0, 0, 0⟩
def launched (s : State) : State := { s with launches := [launch1 .running] }

/-- EmrdReadsMeters: supervisor level; kernel level with its own meter, another, and one it would clear; a bit too high. -/
theorem test_meets_meters : (let s : State := regs [7, 0x87, 0x100, 8] { launched (at' 1) with meters := [(7, 99#64)] }
      next (exec (.emrd ⟨0, 1, 5⟩) s) (fun t => t.core.sReg 5 == 99#64 && t.meters == [(7, 99#64)]) = true
        ∧ next (exec (.emrd ⟨0, 2, 5⟩) s) (fun t => t.core.sReg 5 == 99#64 && Cells.get 0#64 t.meters 7 == 0#64) = true
        ∧ next (exec (.emrd ⟨0, 3, 5⟩) s) (fun t => t.core.crGet 2 == 0x0B#64) = true
        ∧ (let u := cr 0 0 s
          u.core.sup = false ∧ (u.launchOf u.core).map (·.meter.toNat) = some 7
            ∧ next (exec (.emrd ⟨0, 1, 5⟩) u) (fun t => t.core.sReg 5 == 99#64) = true
            ∧ next (exec (.emrd ⟨0, 2, 5⟩) u) (·.core.crGet 2 == 5#64) = true
            ∧ next (exec (.emrd ⟨0, 4, 5⟩) u) (·.core.crGet 2 == 5#64) = true)) := by decide +kernel

/-- LaunchInstructions: a record at 0x40000 that LAUNCH reads, as a tail child and for queue 5; children outstanding and none. -/
def rec4 (tail : Bool) : State :=
  let r := leBytes 8 (0x40000 + 2 ^ 51 + if tail then 2 ^ 48 else 0) ++ record1.drop 8
  (launched (regs [0x40000, 0, 0x8000 + 64 * 5 + 4] (at' 1))).write 0x40000 r |>.devPut 0x0C8 0x8000#64
theorem test_meets_launch : (rec4 true).queueOut = false ∧ (rec4 true).core.held = false
    ∧ (rec4 true).releaseReady 0 (rec4 true).core.cur.seq 3 = true
    ∧ ((List.range 16).all fun i => reaches (0x40000 + 8 * i) 8 .rd (rec4 true) fun q => q.loc == 0x40000 + 8 * i && isRaw q.loc) = true
    ∧ (rec4 true).poison = []
    ∧ next (exec (.launch ⟨0, 2, 1⟩) (rec4 true)) (fun t => t.launches.all (fun l => l.tail.isSome && l.children == 1)) = true
    ∧ (let s := rec4 false
      placed (s.checkHandle 0x8144#64 .wr) (fun b => b.loc == s.queuePa false 5 && !s.ownWait b.loc 64) = true
        ∧ next (exec (.launch ⟨0, 3, 1⟩) s) (fun t => t.packets.length == 1 && t.core.held) = true) := by decide +kernel
theorem test_meets_chwait : next (exec (.chwait ⟨0, 9⟩) (at' 1)) (·.core.sReg 9 == 0#64) = true
    ∧ (let s : State := { at' 1 with launches := [{ launch1 .running with childrenDone := 2, childWorst := 1 }] }
      next (exec (.chwait ⟨0, 9⟩) s) (·.core.sReg 9 == 0x100000002#64) = true)
    ∧ (let s : State := { at' 1 with launches := [{ launch1 .running with children := 1 }] }
      next (exec (.chwait ⟨0, 9⟩) s) (·.core.held) = true) := by decide +kernel
/-- PREEMPT and RESUME: no launch of the name, one that is over, one that ends, one that drains; one that stands and one that is stopped. -/
theorem test_meets_preempt : (let s := launched (regs [1, 0, 2 ^ 17, 2 ^ 18] (at' 1))
      next (exec (.preempt ⟨0, 1, 9⟩) s) (·.core.sReg 9 == 1#64) = true
        ∧ next (exec (.preempt ⟨0, 2, 9⟩) { s with launches := [launch1 .retired] }) (·.core.sReg 9 == 2#64) = true
        ∧ next (exec (.preempt ⟨0, 3, 9⟩) s) (fun t => t.launches.all (fun l => l.phase == .retired && l.verdict == 2#2)) = true
        ∧ next (exec (.preempt ⟨0, 4, 9⟩) s) (·.core.crGet 2 == 0x0B#64) = true
        ∧ s.draining gang1 = false ∧ gang1.cores.all (s.ended gang1) = false ∧ s.slotsTaken < s.slots
        ∧ next (exec (.preempt ⟨0, 2, 9⟩) s) (fun t => t.core.held && (t.core.crGet 0x0C4).getLsbD 0 && t.launches.all (·.stopped)) = true
        ∧ (let u : State := { s with core := { s.core with cur := { s.core.cur with rep := 0 } } }
          next (exec (.preempt ⟨0, 2, 9⟩) u) (·.core.held) = true
            ∧ next (exec (.preempt ⟨0, 2, 9⟩) { u with launches := [launch1 .retired] }) (·.core.sReg 9 == 0#64) = true)
        ∧ next (exec (.resume ⟨0, 1, 9⟩) s) (·.core.sReg 9 == 1#64) = true ∧ next (exec (.resume ⟨0, 2, 9⟩) s) (·.core.sReg 9 == 2#64) = true
        ∧ next (exec (.resume ⟨0, 3, 9⟩) s) (·.core.crGet 2 == 0x0B#64) = true
        ∧ next (exec (.resume ⟨0, 2, 9⟩) { s with launches := [{ launch1 .running with stopped := true }] }) (fun t => t.core.sReg 9 == 0#64
          && t.launches.all (!·.stopped)) = true) := by decide +kernel
theorem test_meets_digest_sleep : (let s := regs [0x4000, 1, 0, 65537, 2, 3] (at' 1)
      completes (.digest ⟨0, 1, 2⟩) s = true ∧ reaches 0x4000 256 .rd s (fun q => q.loc == 0x4000 && isRaw q.loc) = true
        ∧ next (exec (.digest ⟨0, 1, 3⟩) s) (·.core.crGet 2 == 0x0B#64) = true ∧ next (exec (.digest ⟨0, 1, 4⟩) s) (·.core.crGet 2 == 0x0B#64) = true
        ∧ completes (.digest ⟨0, 1, 5⟩) s = true ∧ reaches 0x4100 256 .rd s (fun q => q.loc == 0x4100) = true)
    ∧ (let cpu (v : Nat) (trap : Nat) : State :=
        { at' 1 with east := { (at' 1).east with cpu := { (cr 0 (1 + 2 * trap) (regs [v] (at' 1))).core with mode := .running } } }
      next (exec (.sleep ⟨0, 1⟩) (cpu 2 0)) (fun t => t.east.asked == some (2#2, 0#3)) = true
        ∧ next (exec (.sleep ⟨0, 1⟩) (cpu 3 0)) (·.east.cpu.crGet 2 == 0x0B#64) = true
        ∧ next (exec (.sleep ⟨0, 1⟩) (cpu 3 1)) (fun t => (t.devGet 0x100).getLsbD 1) = true
        ∧ next (exec (.sleep ⟨0, 1⟩) (at' 1)) (·.east.asked.isNone) = true) := by decide +kernel

/-! ### Control registers through MFC and MTC -/

/-- MfcReadsRegisters, MtcWritesByAccessCode: registers of every access code, of the core and of the device; an access that waits and one that
does not; a format region that would be unsound. -/
theorem test_meets_registers : (at' 1).accessWaits 0x008 = false ∧ (at' 1).core.bundles = []
    ∧ crAccess 0x008 = some .ro ∧ crAccess 0x009 = some .rw ∧ crAccess 0x042 = some .w1c ∧ crAccess 0x00D = some .rw ∧ crAccess 0x001 = some .rs ∧ crAccess 0x107 = some .rs
    ∧ crOfDevice 0x107 = true ∧ crOfDevice 0x001 = false
    ∧ (waiting 0 (at' 1)).accessWaits 0x01B = true ∧ (waiting 0 (at' 1)).writeWaits 0x01B 0 = true
    ∧ next (exec (.mfc ⟨0, 1, 0x01B⟩) (waiting 0 (at' 1))) (·.core.held) = true
    ∧ next (exec (.mtc ⟨0, 1, 0x01B⟩) (waiting 0 (at' 1))) (·.core.held) = true
    ∧ next (exec (.mfc ⟨0, 9, 0x008⟩) { at' 1 with time := 77#64 }) (·.core.sReg 9 == 77#64) = true
    ∧ next (exec (.mtc ⟨0, 1, 0x00D⟩) (regs [0xFF] (at' 1))) (·.core.crGet 0x00D == 0x7F#64) = true
    ∧ next (exec (.mtc ⟨0, 1, 0x001⟩) (regs [0xFF] (at' 1))) (·.core.crGet 0x001 == 0xFF#64) = true
    ∧ next (exec (.mtc ⟨0, 1, 0x107⟩) (regs [5] (at' 1))) (·.devGet 0x107 == 5#64) = true
    ∧ next (exec (.mtc ⟨0, 1, 0x042⟩) (regs [1] (cr 0x042 3 (at' 1)))) (·.core.crGet 0x042 == 2#64) = true
    ∧ next (exec (.mtc ⟨0, 1, 0x008⟩) (regs [5] (at' 1))) (·.time == 0#64) = true
    ∧ (at' 1).fmtBad 0x140 (BitVec.ofNat 64 (12 * 2 ^ 52 + 2 ^ 63)) = true
    ∧ next (exec (.mtc ⟨0, 1, 0x140⟩) (regs [12 * 2 ^ 52 + 2 ^ 63] (at' 1))) (·.core.crGet 2 == 0x0B#64) = true := by decide +kernel

/-! ### The sequencer and the step -/

/-- A bundle whose only word is MOVI s1, 5, about to be fetched; the same behind a cold cache, and at an address without a page. -/
def about (w : Nat) : State := State.reset.withBundle (bundleBytes .s w)
def u1 (s : State) : State := State.passTime { s with turn := s.turn + 1 }
theorem test_meets_dispatch : (let s := about 0x40010005
      let bs := bundleBytes .s 0x40010005
      let is := okInstrs (decodeBundle bs)
      s.core.mayDispatch = true ∧ s.fetch = .bytes bs
        ∧ s.core.dispatchCheck bs (decodeBundle bs) (is.flatMap fun p => itemsOf s.core (slotWord bs 0) p.1 p.2) = none
        ∧ s.dispatchWaits (slotWord bs 0) (((is.find? (·.1 == 1)).map (·.2)).getD .nop) = false ∧ loopCheck s.core (slotWord bs 0) is = none
        ∧ s.core.loops = [] ∧ s.core.replay = 0#8
        ∧ next (exec .bundleDispatch s) (fun t => t.core.bundles.map (fun b => b.entries.map (·.instr)) == [[.movi ⟨0, 1, 5⟩]]) = true
        ∧ next (exec .bundleDispatch { s with core := { s.core with icache := [] } }) (·.core.bundles.isEmpty) = true
        ∧ next (exec .fetchMissFill { s with core := { s.core with icache := [] } }) (·.core.icache.length == 1) = true
        ∧ next (exec .bundleDispatch { s with core := { s.core with pc := 0x7FFFFFFFFFE0#48 } }) (·.core.trapReq.isSome) = true)
    ∧ next (exec .bundleDispatch (about 0xFC000000)) (·.core.trapReq.isSome) = true
    ∧ (let s := about (0xA8 * 2 ^ 24)
      let u := s.upd fun c => { c with loops := [⟨0#48, 0x40#48, 5, false, 0, true⟩] }
      next (exec .bundleDispatch u) (·.core.trapReq.isSome) = true) := by decide +kernel
theorem test_meets_waiting_dispatch : (let b : Bundle := ⟨0, 0#48, 0#48, false, 0#10, 0#8, [⟨1, .mfc ⟨0, 1, 0x040⟩, 1, true, true, []⟩], [], [], [], none, 0#64, 0#64, 0#64,
        [], 0, false, 0#8, 0#64, 0#64⟩
      let s := (about 0xB0000005).upd fun c => { c with bundles := [b] }
      s.dispatchWaits 0 (.margin ⟨5⟩) = true ∧ next (exec .bundleDispatch s) (·.core.bundles.length == 1) = true) := by decide +kernel
theorem test_meets_watchdog : (let s := cr 0x04A 5 (at' 1)
      let b : Bundle := ⟨0, 0x40#48, 0#48, false, 0#10, 0#8, [⟨1, .nop, 1, true, true, []⟩], [], [], [], none, 0#64, 0#64, 0#64, [], 0, false, 0#8, 0#64, 0#64⟩
      let u : State := { s with core := { s.core with wdCount := 5, bundles := [b] } }
      next (exec .watchdogExpiry s) (·.core.trapReq.isNone) = true
        ∧ next (exec .watchdogExpiry u) (fun t => t.core.trapReq.isSome && t.core.bundles.isEmpty && t.core.drain) = true
        ∧ next (exec .trapEntry { s with core := { s.core with trapReq := some ⟨0x39#8, 0#48, 0x40#64, 1#64, 0#64, 0#64⟩ } }) (fun t =>
          t.core.crGet 2 == 0x39#64 && t.core.shadow.isSome && t.core.crGet 4 == 0x40#64) = true
        ∧ goes (exec .wholeCoreStall (at' 1)) = true ∧ (at' 1).stalls = false ∧ (cr 0x040 0 u).stalls = true
        ∧ next (exec .wholeCoreStall (cr 0x040 0 u)) (fun t => t.core.crGet 0x009 == 1#64 && (t.core.crGet 0x042).getLsbD 0) = true)
    ∧ next (exec .timerEvent { cr 0x043 7 (at' 1) with time := 7#64 }) (fun t => (t.core.crGet 0x042).getLsbD 2) = true
    ∧ next (exec .timerEvent { cr 0x043 7 (at' 1) with time := 6#64 }) (fun t => !(t.core.crGet 0x042).getLsbD 2) = true := by decide +kernel

/-- StepRunsDecodedInstruction: the conditions of each clause. -/
theorem test_meets_step : (let s := about 0x40010005
      let bs := bundleBytes .s 0x40010005
      let c := (u1 s).core
      let is := okInstrs (decodeBundle bs)
      s.agenda = [] ∧ (s.turn + 1) % 64 ≠ 0 ∧ c.mayDispatch = true ∧ (u1 s).fetch = .bytes bs
        ∧ c.watchdogDue = false ∧ c.fired = 0#8 ∧ hdSync (slotWord bs 0) = false ∧ is.filter (·.2 != .nop) = [(1, .movi ⟨0, 1, 5⟩)]
        ∧ c.dispatchCheck bs (decodeBundle bs) (is.flatMap fun p => itemsOf c (slotWord bs 0) p.1 p.2) = none ∧ loopCheck c (slotWord bs 0) is = none
        ∧ c.bundles = [] ∧ c.loops = [] ∧ c.replay = 0#8) := by decide +kernel
theorem test_meets_no_loads (n : Nat) : (u1 (about 0x40010005)).loadItems n = [] := rfl
theorem test_meets_next_entry : (let s := after .bundleDispatch (about 0x40010005)
      let u := u1 s
      s.agenda = [] ∧ (s.turn + 1) % 64 ≠ 0 ∧ u.core.mode = .running ∧ u.core.trapDue = false ∧ u.core.watchdogDue = false
        ∧ (match u.nextNow with | some (b, e) => e.instr == .movi ⟨0, 1, 5⟩ && !b.sync | none => false) = true
        ∧ (let v : State := { u with core := { u.core with yielded := true } }
          v.core.mayDispatch = false ∧ (checkStep v).isNone = true ∧ v.core.crGet 0x040 ≠ 0#64 ∧ v.nextNow.isSome = true)
        ∧ (let v : State := { u with core := { u.core with fired := 4#8 } }
          (match v.nextNow with | some (b, e) => e.instr == .movi ⟨0, 1, 5⟩ && !b.sync | none => false) = true))
    ∧ (let s := about 0x40010005
      let w := cr 0x04A 5 { s with core := { s.core with wdCount := 9 } }
      let d : State := { s with core := { s.core with trapReq := some ⟨5#8, 0#48, 0#64, 0#64, 0#64, 0#64⟩ } }
      (u1 w).core.watchdogDue = true ∧ next (step w) (·.core.trapReq.isSome) = true
        ∧ (u1 d).core.trapDue = true ∧ (u1 d).core.watchdogDue = false ∧ next (step d) (·.core.crGet 2 == 5#64) = true)
    ∧ (let s : State := { about 0x40010005 with agenda := [.timerEvent] }
      mayStand .timerEvent = true ∧ goes (step s) = true) := by decide +kernel

/-! ### Controllers and the life of a launch -/

/-- Queue 5 of the east die holds record1, whose image lies at 0x80000. -/
def listed : State :=
  let b : Qcb := ⟨4, 2, 0, 1, 3, 3, false, false, false, 7, 0, 0, 0x20000⟩
  let s := (((at' 1).write 0x8140 b.bytes).writeNum 0x20000 8 (0x40000 + 2 ^ 51)).writeNum 0x20008 8 0x10000 |>.writeNum 0x20010 8 0x80000 |>.writeNum 0x80000 8 0x51A7 |>.writeNum 0x80400 8 (2 ^ 10 + 2 ^ 16)
  { (s.devPut 0x0C8 0x8000#64).devPut 0x122 0x10000#64 with core := { s.core with mode := .idle } }
theorem test_meets_head : isRaw (listed.queuePa false 5) = true ∧ isRaw (listed.queuePa false 5 + 63) = true
    ∧ listed.byte (listed.queuePa false 5) ≠ 0#8 ∧ listed.qcbReason 0x8140 = 0 ∧ (listed.qcb 0x8140).code = 4
    ∧ (match listed.dataArea 0x8140 0x10000#64 true false with | .ok d => d == 0x20000 | _ => false) = true
    ∧ next (exec (.backgroundHeadRead false 5) listed) (fun t => ((t.lq false 5).head.map (·.2.record)) == some record1) = true
    ∧ next (exec (.backgroundHeadRead false 5) (listed.writeNum 0x8150 8 0)) (·.launchQueues.isEmpty == false) = true := by decide +kernel
/-- What a decision sees of queue 5, and that nothing refuses its record but, perhaps, the fuse of its core, which is free. -/
def seen5 : State := listed.seeHead false 5
theorem test_meets_decision : (listed.ctl false).places = true
    ∧ (([0, 4, 6, 63] : List (BitVec 6)).all fun n => (match listed.queueHead false n.toNat with | .error 0 => true | _ => false)) = true
    ∧ (match (seen5.lq false 5).candidate with | some c => c.record == record1 && !c.waiting && c.lid.isNone | none => false) = true
    ∧ seen5.num 0x80000 8 = 0x51A7 ∧ seen5.num 0x80400 8 = 2 ^ 10 + 2 ^ 16
    ∧ recBad seen5 record1 = false ∧ (match seen5.depBad record1 with | none => true | some _ => false) = true ∧ imageBad image1 = false
    ∧ nestBad image1 = false ∧ partsBad image1 (imgDescs image1) = false ∧ preemptCost image1 (imgDescs image1) ≤ 3000
    ∧ imgDescs image1 = [⟨0, 1, false, 1, 1, 0, 0⟩] ∧ (seen5.holders ((gangsOf 0 (imgDescs image1)).flatMap fun g => g.resources)).isEmpty = true
    ∧ (seen5.ctl false).reserved = [] ∧ (seen5.lq false 5).held = [] := by decide +kernel
/-- The DEQ of queue 5 that returns. -/
def decided : State := listed.updLq false 5 fun q => { q with deciding := some (launch1 .starting) }
theorem test_meets_decided : (decided.lq false 5).deciding.isSome = true
    ∧ next (exec (.launchRecordDequeued false) decided) (fun t => t.launches.map (fun l => (l.phase, l.queue, l.meter)) == [(.starting, 5, 7)]
      && (t.qcb 0x8140).free == 4) = true
    ∧ ((decided.lq false 5).head.bind (·.2.lid)).isNone = true
    ∧ goes (exec (.launchRecordDequeued false) listed) = true
    ∧ decided.deqWaits false 5 (imageSlack (launch1 .starting).image) = false
    ∧ next (exec (.launchRecordDequeued false) { decided with east := { decided.east with stopped := true } }) (·.launches.isEmpty) = true
    ∧ goes (exec (.placementDecision false) { listed with east := { listed.east with stopped := true } }) = true := by decide +kernel
theorem test_meets_start : (let s : State := { listed with launches := [launch1 .starting] }
      (s.launches.find? (·.phase == .starting)).isSome = true ∧ gang1.cores = [s.core.id] ∧ recKeep record1 = false)
    ∧ goes (exec .launchStart (at' 1)) = true := by decide +kernel
/-- A gang that is drained, and one that is not; a slot that lies in memory, and one that does not. -/
def drained' : State :=
  let s := cr 0x0C4 1 { listed with launches := [launch1 .running] }
  { s with core := { s.core with mode := .halted, bundles := [] } }
theorem test_meets_preemption : drained'.draining gang1 = true ∧ drained'.settled = true ∧ (drained'.upd (·.beginDrain)).drained = true ∧ drained'.freeSlot = some 0
    ∧ isRaw (drained'.slotAt 0 0 + 0xFFFFFF) = true
    ∧ isRaw ((drained'.devPut 0x0CA 0x3FFFFF000000#64).slotAt 0 0 + 0xFFFFFF) = false
    ∧ drained'.core.cupQ.length ≤ 16 ∧ drained'.core.loops = [] ∧ drained'.core.cont = [] ∧ drained'.core.nest.length ≤ 6 ∧ gang1.psize ≤ 64
    ∧ (let s : State := { drained' with core := { drained'.core with mode := .running } }
      s.core.cupQ.length = 0 ∧ s.settled = false ∧ next (exec (.preemption 0) s) (fun t => t.launches.all fun l => l.preempts == 0) = true)
    ∧ (let s : State := { drained' with core := { drained'.core with ops := frload.core.ops } }
      s.settled = true ∧ (s.upd (·.beginDrain)).drained = false
        ∧ next (exec (.preemption 0) s) (fun t => t.core.drain && t.launches.all fun l => l.preempts == 0) = true)
    ∧ next (exec (.preemption 0) (launched (at' 1))) (fun t => t.launches.all fun l => l.preempts == 0) = true := by decide +kernel
/-- A launch that still runs, one whose cores have all ended, one that retired, one with a window open. -/
theorem test_meets_complete : (let s := launched (at' 1)
      s.mayRetire (launch1 .running) = false ∧ next (exec (.launchComplete false 0) s) (·.launches.length == 1) = true
        ∧ goes (exec (.launchComplete false 1) s) = true)
    ∧ (let l := { launch1 .running with gangs := [{ gang1 with halted := [0] }] }
      let s : State := { at' 1 with launches := [l] }
      s.mayRetire l = true ∧ s.windows.any (·.launch == l.key) = false ∧ next (exec (.launchComplete false 0) s) (·.launches.isEmpty) = true)
    ∧ (let l := { launch1 .retired with record := record1.take 40 ++ leBytes 8 0x8003 ++ record1.drop 48 }
      let s : State := { at' 1 with launches := [l] }
      recCq l.record % 16 = 3 ∧ recParent l.record = none
        ∧ next (exec (.launchComplete false 0) s) (fun t => t.launches.isEmpty && t.reqs.length == 1) = true
        ∧ next (exec (.launchComplete false 0) { s with windows := [win ones 0#64 false none] }) (fun t => t.windows.all (·.closing)
          && t.launches.length == 1) = true) := by decide +kernel
theorem test_meets_sleep : goes (exec (.sleepStateEntry false) (at' 1)) = true
    ∧ (let s : State := { at' 1 with east := { (at' 1).east with asked := some (0, 0) } }
      next (exec (.sleepStateEntry false) s) (fun t => t.east.asleep == 1 && t.east.asked.isNone) = true)
    ∧ (let s : State := { at' 1 with east := { (at' 1).east with asleep := 2, waking := true }, links := [link3 0 0xF 0 0 true] }
      next (exec (.wake false) s) (fun t => t.east.asleep == 0 && (t.link true 3).up == 1#2) = true)
    ∧ goes (exec (.wake true) (at' 1)) = true
    ∧ next (exec .meterUpdate { at' 1 with charged := [(7, 5999#96)] }) (fun t => Cells.get 0#64 t.meters 7 == 5#64) = true := by decide +kernel

/-! ### The host -/

/-- HostWindows: registers that BAR0 shows; memory that BAR4 reaches and that it does not; a slot that is enabled with elements of 8 bytes, of
4064 at most, of more, and one that is not; cores that exist and one that does not; writes to each kind of register; completions. -/
theorem test_meets_host_windows : crAccess 0x107 = some .rs ∧ crAccess 0x100 ≠ none ∧ crAccess 0x100 ≠ some .wo
    ∧ next (exec (.hostMemoryAccess 0 false (8 * 0x107) (List.replicate 8 0#8)) (at' 1)) (fun t => t.answers == [(0x838, leBytes 8 0x3FF)]) = true
    ∧ next (exec (.hostMemoryAccess 4 true 0x4000 (leBytes 4 5)) (at' 1)) (·.packets.length == 1) = true
    ∧ next (exec (.hostMemoryAccess 4 false 0x4000 (leBytes 4 0)) (at' 1)) (·.packets.length == 1) = true
    ∧ isRaw 0xBFFFFFFFFF = true ∧ isRaw 0xC000000000 = false
    ∧ next (exec (.hostMemoryAccess 4 false 0xBFFFFFFFFE (leBytes 4 0)) (at' 1)) (fun t => t.packets.isEmpty && t.answers.isEmpty
      && t.aer == [(false, 0xBFFFFFFFFE)]) = true
    ∧ next (exec (.hostMemoryAccess 4 true 0x40FE (leBytes 4 5)) (at' 1)) (·.packets.length == 2) = true
    ∧ next (exec (.queueWindowStagingWrite 2 0xFDF [1#8, 2#8]) (at' 1)) (fun t => Cells.get 0#8 t.qwStage 0x2FDF == 1#8
      && Cells.get 0#8 t.qwStage 0x2FE0 == 0#8) = true := by decide +kernel
def slot2 (cfg : Nat) : State := { (at' 1).devPut 0x122 0x10000#64 with qwCfg := [(2, BitVec.ofNat 64 cfg)] }
theorem test_meets_queue_window : (match (slot2 0).walk 0x10000#64 0x8000 with | .ok p => p.w && isRaw (p.pa + (0x8000 - p.va)) | _ => false) = true
    ∧ next (exec (.queueWindowCommit 2) (slot2 0x8000)) (fun t => Cells.get 0#8 t.qwStatus 2 == 5#8) = true
    ∧ next (exec (.queueWindowDeqn 2) (slot2 0x8000)) (fun t => Cells.get 0#8 t.qwStatus 2 == 5#8) = true
    ∧ next (exec (.queueWindowCommit 2) (slot2 (0x8000 + 2 ^ 63))) (·.packets.length == 1) = true
    ∧ next (exec (.queueWindowDeqn 2) (slot2 (0x8000 + 2 ^ 63))) (·.packets.length == 1) = true
    ∧ next (exec (.queueWindowCommit 2) (slot2 (0x8009 + 2 ^ 63))) (fun t => Cells.get 0#8 t.qwStatus 2 == 4#8) = true
    ∧ next (exec (.queueWindowDeqn 2) (slot2 (0x8001 + 2 ^ 63))) (fun t => Cells.get 0#8 t.qwStatus 2 == 4#8) = true
    ∧ 8 * 2 ^ 8 ≤ 4064
    ∧ (let s := slot2 (0x8000 + 2 ^ 63)
      ∀ u ∈ ([after (.queueWindowCommit 2) s, after (.hostMemoryAccess 4 true 0x4000 (leBytes 4 5)) s] : List State),
        u.hostOps = [] ∧ (u.pending.any fun q => q.agent == .host && decide (q.uid < u.uid)) = true
          ∧ next (exec (.queueWindowCommit 2) u) (fun t => t.hostOps.length == 1 && t.packets.length == 1) = true) := by decide +kernel
theorem test_meets_doorbell : goes (exec (.doorbellWrite 128) (at' 1)) = true
    ∧ next (exec (.registerWrite 0x107 5) (at' 1)) (·.devGet 0x107 == 5#64) = true
    ∧ next (exec (.registerWrite 0x20003 (BitVec.allOnes 64)) (at' 1)) (fun t => Cells.get 0#64 t.qwCfg 3 == 0x83FFFFFFFFFFFFFF#64) = true := by decide +kernel
/-- Cores that retired are gone; of the others the fuses say whether they exist, and the fuses are free. -/
theorem test_meets_gone : { at' 1 with retiredCores := [5] }.coreGone 5 = true ∧ { at' 1 with retiredSlices := [5] }.sliceGone 5 = true :=
  ⟨by simp [State.coreGone], by simp [State.sliceGone]⟩
theorem test_meets_host_completions : (let w (u : Nat) : Remote :=
        ⟨u, { store1 with parts := [⟨0x10000000100, 0x4000#64, 4, 0, leBytes 4 5⟩] }, 16, none, 0, 0, 1, .port, 0, 0⟩
      let s : State := { at' 1 with remotes := [w 7, w 8] }
      next (exec (.hostWindowCompletion 7 [] false) s) (fun t => t.hostWrites == [(0x100, leBytes 4 5)] && t.remotes.length == 1) = true
        ∧ next (exec (.hostWindowCompletion 8 [] false) s) (fun t => t.remotes.length == 2) = true ∧ goes (exec (.hostWindowCompletion 9 [] false) s) = true
        ∧ (let r : Remote := { w 7 with req := { load1 with parts := [⟨0x10000000100, 0x4000#64, 4, 0, []⟩] } }
          let u : State := { at' 1 with remotes := [{ r with stage := .sent }] }
          let v : State := { at' 1 with remotes := [{ r with stage := .fabric }], transits := [⟨9, 5, 0, tag0, 0, 0, 0, true, .out 7⟩] }
          next (exec (.hostWindowCompletion 7 (leBytes 4 5) false) u) (·.transits.length == 1) = true
            ∧ next (exec (.hostWindowCompletion 7 [] false) u) (·.transits.isEmpty) = true
            ∧ next (exec (.hostWindowCompletion 7 (leBytes 4 5) false) { at' 1 with remotes := [r] }) (·.transits.isEmpty) = true
            ∧ v.transits.all v.served = true ∧ next (exec (.packetArrival 9) v) (fun t => t.remotes.map (·.stage) == [.sent]
              && t.hostReads == [⟨.read 4, 0x100, []⟩]) = true)) := by
  decide +kernel

/-- HostRegisterWrites: cluster 0 reset and left; a sound region and an unsound one; TBINV of each kind, and one that waits; frames busy and not;
each class of register. -/
theorem test_meets_host_registers : next (exec (.hrstWrite (BitVec.ofNat 64 (2 ^ 63))) (launched (at' 1))) (fun t => t.core.mode == .idle && t.core.cr.isEmpty
      && t.notices.length == 32 && t.launches.all (fun l => l.phase == .retired)) = true
    ∧ goes (exec (.hrstWrite 0) (at' 1)) = true
    ∧ region.fmtBad 0x142 0x120000#64 = false ∧ (at' 1).fmtBad 0x140 (BitVec.ofNat 64 (12 * 2 ^ 52 + 2 ^ 63)) = true
    ∧ next (exec (.formatRegionWrite 0x143 7) region) (fun t => t.decodes.all (·.stale)) = true
    ∧ (let e : TlbEntry := ⟨0, 5, false, 0x10000, 0x10000, 0x30000, true, true, true⟩
      let s : State := { at' 1 with tlb := [e] }
      (∀ v ∈ ([5 * 2 ^ 48 + 2 ^ 16, 5 * 2 ^ 48 + 2 ^ 60, 2 * 2 ^ 60] : List Nat), s.tbinvWaits (BitVec.ofNat 64 v) = false
        ∧ next (exec (.tbinvWrite (BitVec.ofNat 64 v)) s) (·.tlb.isEmpty) = true)
        ∧ next (exec (.tbinvWrite (BitVec.ofNat 64 (6 * 2 ^ 48 + 2 ^ 60))) s) (·.tlb.length == 1) = true
        ∧ (cr 0x018 5 (waiting 0 s)).tbinvWaits (BitVec.ofNat 64 (2 * 2 ^ 60)) = true)
    ∧ frames.framesBusy = false ∧ next (exec (.frameRegisterWrite 0x120 0x50000) frames) (·.devGet 0x120 == 0x50000#64) = true
    ∧ (waiting 4 (at' 1)).framesBusy = true ∧ goes (exec (.frameRegisterWrite 0x125 0) frames) = true
    ∧ next (exec (.registerWrite 0x121 5) (waiting 4 (at' 1))) (fun t => t.heldWrites == [(0x121, 5)]) = true
    ∧ goes (exec (.sliceRegisterWrite 0x125 0) (at' 1)) = true ∧ goes (exec (.controllerRegisterWrite 0x0C8 0x8000) (at' 1)) = true
    ∧ next (exec (.controllerRegisterWrite 0x0C5 0x1FF) (at' 1)) (·.core.crGet 0x0C5 == 0xFF#64) = true
    ∧ next (exec (.vectorStatusAccess 0x021 3) (cr 0x02A 9 (cr 0x02B 9 (cr 0x02C 9 (at' 1))))) (fun t => t.core.crGet 0x02A == 0#64 && t.core.crGet 0x02B == 0#64
      && t.core.crGet 0x02C == 9#64) = true
    ∧ next (exec (.vectorStatusAccess 0x022 1) (cr 0x022 3 (at' 1))) (·.core.crGet 0x022 == 2#64) = true ∧ crAccess 0x022 = some .w1c
    ∧ next (exec (.evpendClear 1) (cr 0x042 3 (at' 1))) (·.core.crGet 0x042 == 2#64) = true
    ∧ next (exec (.frlqWrite (BitVec.allOnes 64)) (at' 1)) (·.core.crGet 0x00F == 0x803FFFFFFFFFFFC0#64) = true := by decide +kernel

/-- ErrorsResetsBoot: the error that passes the threshold, and the one after; a dump in memory and outside it; an image that is sound and next, of
which the checks pass or do not (the keys are free), and one that is not; time enough and not; a nonce of 32 bytes. -/
def image : BootImage :=
  ⟨leBytes 2 0xB07A ++ [1#8, 0#8] ++ leBytes 4 0 ++ leBytes 8 4 ++ leBytes 8 0x8000 ++ List.replicate 104 0#8, leBytes 4 77⟩
theorem test_meets_errors : next (exec (.correctedError (some 0)) (launched ((at' 1).devPut 0x10B 1 |>.devPut 0x10A 1))) (fun t =>
      (t.devGet 0x100).getLsbD 15 && t.launches.all (·.verdict == 1#2)) = true
    ∧ next (exec (.correctedError none) ((at' 1).devPut 0x10B 1 |>.devPut 0x10A 2)) (fun t => t.devGet 0x100 == 0#64 && t.devGet 0x10A == 3#64) = true
    ∧ isRaw (bitsOf ((at' 1).devGet 0x106) 20 26 * 2 ^ 20) = true
    ∧ next (exec (.fatalError 5) ((at' 1).devPut 0x106 (BitVec.allOnes 64))) (fun t =>
      (t.devGet 0x100).getLsbD 1 && t.mem == (at' 1).mem) = true
    ∧ next (exec .deviceReset (at' 1)) (fun t => t.core.mode == .idle) = true ∧ goes (exec .functionLevelReset (at' 1)) = true
    ∧ imageSound image = true ∧ leNat ((image.header.drop 2).take 1) = State.reset.bootNext
    ∧ imageSound { image with body := [] } = false ∧ goes (exec (.bootImageLoad { image with body := [] }) State.reset) = true
    ∧ (1000000000 ≤ ({ State.reset with clock := 1000000000 } : State).clock) ∧ State.reset.clock < 1000000000
    ∧ next (exec (.attestationCommand (List.replicate 32 1#8)) (at' 1)) (·.answers.length == 1) = true
    ∧ goes (exec (.attestationCommand []) (at' 1)) = true := by decide +kernel

theorem test_meets_retired : goes (exec (.coreOrSliceRetired true 5) (at' 1)) = true ∧ goes (exec (.coreOrSliceRetired false 5) (at' 1)) = true := by
  decide +kernel

/-! ### Encoding and the invariant -/

/-- EncodeDecodeRoundTrip: a well-formed instruction of each slot class; one with lent bits. -/
theorem test_meets_encoding : ∀ p ∈ ([(.s, .movi ⟨15, 63, 0x7FFFF⟩), (.v, .vfma ⟨1, 511, 0, 511, 3, true⟩), (.m, .mtap ⟨0, 7, 15, 15, 3, true, true, 0xFFFF⟩),
      (.n, .lscan ⟨15, 7, 15, 15, 3, true, true, true⟩), (.c, .cpy ⟨0, 31, 15, 15, 3, true, 3, 3, none, true⟩)] : List (SlotClass × Instr)),
    p.2.slotClass = some p.1 ∧ p.2.wellFormed = true ∧ (match encode p.2 with
      | some e => decodeSlot p.1 (BitVec.ofNat 32 e.word) e.lend == .ok p.2
      | none => false) = true := by decide +kernel
theorem test_meets_invariant : State.reset.Inv := ⟨rfl, rfl⟩
theorem test_step_from_invariant : goes (step State.reset) = true ∧ Memory.wf (after .nop (about 0x40010005)).mem = true := by decide +kernel

/-! ### Clauses at their boundaries -/

/-- TrapReturn: a misaligned TPC in a handler; TRAP in a bundle whose other entries are still there. -/
theorem test_meets_trap_bounds : next (exec (.tret ⟨0⟩) (cr 3 0x10021 (cr 2 5 (cr 0 3 (at' 1))))) (·.core.mode == .dead) = true
    ∧ bitsOf ((cr 3 0x10021 (at' 1)).core.crGet 3) 0 5 ≠ 0 ∧ (at' 1).accessWaits 0x008 = false
    ∧ goes (exec .trapEntry (at' 1)) = true ∧ (at' 1).core.trapReq.isNone = true := by decide +kernel

/-- HostRegisterWrites, MtcWritesByAccessCode: DGAREA while a launch keeps its digest, and while none does. -/
theorem test_meets_digest_area : (let s : State := { at' 1 with launches := [{ launch1 .running with record := leBytes 8 (2 ^ 52) ++ record1.drop 8 }] }
      s.digesting = true ∧ next (exec (.controllerRegisterWrite 0x0CC 0x1000) s) (·.devGet 0x0CC == 0#64) = true)
    ∧ (at' 1).digesting = false ∧ next (exec (.controllerRegisterWrite 0x0CC 0x100000) (at' 1)) (·.devGet 0x0CC == 0x100000#64) = true := by
  decide +kernel

/-- PacketsTravelOrAreLost: a decoded line in the reserved class, alone, against a bid, and in the revolution that is its own; granted. -/
def line1 : DecLine := ⟨0x40, 0, 0, List.replicate 256 1#8, false⟩
def delivers (granted : Bool) : State := { at' 1 with reserved := [⟨8, 0, 3, 0, 0#16, 0, granted, .delivery line1⟩] }
theorem test_meets_reserved : next (exec (.pipRevolution 3) (delivers false)) (·.reserved.all (·.granted)) = true
    ∧ (let s : State := { delivers false with packets := [packet1 false 0] }
      s.eighth = false ∧ next (exec (.pipRevolution 3) s) (fun t => t.packets.all (·.granted) && t.reserved.all (!·.granted)) = true
        ∧ (let u : State := { s with clock := 84 }
          u.eighth = true ∧ next (exec (.pipRevolution 3) u) (fun t => t.packets.all (!·.granted) && t.reserved.all (·.granted)) = true))
    ∧ next (exec (.packetArrival 8) (delivers true)) (fun t => t.decoded == [line1] && t.reserved.isEmpty) = true
    ∧ (let s : State := { at' 1 with lines := [⟨0x40, 0xF#4, [(0, 1#1)], none⟩] }
      next (exec (.lineEviction 0x40) s) (fun t => t.lines.isEmpty && t.reserved.length == 1) = true) := by decide +kernel

/-- PairsPackAndCup: VPACK under a guard that lets no lane take part. -/
theorem test_meets_pack_no_lanes : (vec 0 2).core.lanesOn 1 ((vec 0 2).core.activeShape 0 false) = []
    ∧ next (exec (.vpack ⟨1, 6, 3, 4, 0, false⟩) (vec 0 2)) (fun t => t.mem == (vec 0 2).mem) = true := by decide +kernel

/-- CopiesLand: a part of a segment, its first byte and its last. -/
theorem test_meets_part_landing : next (exec (.copyCompletion false (1 + 2 ^ 32 * 11 + 2 ^ 64)) copied) (fun t => t.core.ops.all fun o => o.segs.length == 2) = true
    ∧ next (exec (.copyCompletion false (1 + 2 ^ 64)) copied) (fun t => t.core.ops.all fun o => o.segs.length == 2) = true
    ∧ next (exec (.copyCompletion false (1 + 2 ^ 64 * 4)) copied) (fun t => t.num (t.st 0x2000C) 4 == 77) = true := by decide +kernel

/-- FrameInstructionsAreAccepted: behind a FREL that is queued, its frame cannot be loaded: the check reads what it leaves. -/
theorem test_meets_frames_ahead : (let s := after (.frel ⟨0, 1⟩) frames
      s.core.ops.length = 1 ∧ framed (s.framesAhead.frLive 1#32 none) (fun _ => true) = false
        ∧ next (exec (.frld ⟨0, 1, false⟩) s) (·.core.crGet 2 == 0x18#64) = true
        ∧ joins (.fork ⟨0, 4, 3⟩) 4 s = true) := by decide +kernel

/-- StepRunsDecodedInstruction: a SYNC bundle that holds one entry. -/
theorem test_meets_sync : (let w := leBytes 4 (2 ^ 30) ++ (bundleBytes .s 0x40010005).drop 4
      hdSync (slotWord w 0) = true ∧ next (step (State.reset.withBundle w)) (fun t => t.core.sReg 1 == 5#64 && t.core.bundles.isEmpty) = true) := by
  decide +kernel

/-- SlicesPerformRequests: of two requests at a scratchpad the one with the least slack goes; a later one of the same agent to the line
does not pass. -/
def tag5 : Tag := ⟨5, 5, 0, 0, false, 0, false⟩
theorem test_grants_least_slack : (let there (r : Req) : Req := { r with parts := r.parts.map fun p => { p with loc := Loc.spad 1 0x4000 } }
      let s := filled [there { store1 with uid := 6, agent := .host }, there { load1 with tag := tag5 }]
      next (exec .sliceWriteRequest s) (·.num (Loc.spad 1 0x4000) 4 == 0) = true
        ∧ next (exec .sliceReadRequest s) (fun t => t.replies.map (·.uid) == [7]) = true)
    ∧ (let s := filled [load1, { store1 with uid := 6, tag := tag5 }]
      next (exec .sliceWriteRequest s) (·.num 0x4000 4 == 0x80000001) = true
        ∧ (s.grants (·.reads)).map (·.uid) = some 7) := by decide +kernel

/-- SlicesPerformRequests, R363: a decode that a write has met, its line on its way, and the read that merged before. -/
theorem test_meets_stale_decode : next (exec (.tileDecodeDone 0 0) { region with decodes := [⟨0, 0, true, [(line1, [7])]⟩] })
      (fun t => t.reserved.map (·.load) == [.answer line1 [7]] && t.decoded.isEmpty) = true
    ∧ next (exec (.packetArrival 8) { at' 1 with reqs := [load1], reserved := [⟨8, 0, 3, 0, 0#16, 0, true, .answer line1 [7]⟩] })
      (fun t => t.decoded.isEmpty && next (exec .sliceReadRequest t) (fun u => u.replies.map (fun x => x.parts.map (·.data))
        == [[List.replicate 4 1#8]])) = true := by decide +kernel

/-- LaunchLifeCycle: a queue whose block is all zeros is not used. -/
theorem test_meets_unused_queue : (List.range 64).all (fun k => (at' 1).byte ((at' 1).queuePa false 5 + k) == 0#8) = true
    ∧ next (exec (.backgroundHeadRead false 5) (at' 1)) (fun t => (t.lq false 5).head.isNone && !(t.lq false 5).failing) = true := by
  decide +kernel

/-- AddressesAreChecked: a walk whose root points to a table and whose second level maps a page of 1 GiB, and one that ends at an entry that
maps nothing; a peer's partition from its first byte to its last, and the bytes next to it. -/
theorem test_meets_walk : Points (at' 1) 0x4000 0 0x10000 0x11000
    ∧ LeafAt (at' 1) 0x4000 1 0x11000 ⟨0, 0, 2 ^ 30, true, true, true, false⟩ ∧ WalkFails (at' 1) (2 ^ 30) 1 0x11000 1
    ∧ ((at' 1).tlbHit 0 ((at' 1).core.crGet 0x018) 0x4000).isNone = true ∧ bitsOf ((at' 1).core.crGet 0x018) 12 34 * 4096 = 0x10000
    ∧ placed ((at' 1).place 0x4000#64 8 8 .rd) (·.loc == 0x4000) = true
    ∧ (match (at' 1).place 0x40000000#64 8 8 .rd with | .error f => f == ⟨0x08#8, 1#64⟩ | .ok _ => false) = true := by
  simp only [Points, LeafAt, WalkFails, TableLies]
  decide +kernel
theorem test_meets_peer_partition :
    (let s : State := { at' 1 with launches := [{ launch1 .running with gangs := [{ gang1 with home := 4, cores := [4] }] }] }
      let a (lo : Nat) : Word64 := BitVec.ofNat 64 (2 ^ 61 + 2 ^ 22 + lo)
      (∀ lo ∈ ([0x10000, 0x1FFF8] : List Nat), placed (s.place (a lo) 8 8 .rd) (fun q => q.loc == Loc.spad 1 lo && q.page.isSome) = true)
        ∧ ∀ lo ∈ ([0xFFF8, 0x20000] : List Nat), (match s.place (a lo) 8 8 .rd with | .error f => f == ⟨0x0B#8, 0#64⟩ | .ok _ => false) = true) := by
  decide +kernel

/-- QueueOperationsAtSlice: an empty open queue and an empty closed one. -/
theorem test_meets_empty_queues : (∀ op ∈ ([.deq, .qpeek] : List QOp),
      (let out := (queue 0 0 false (at' 1)).acceptQueue (req op);
        out.2 = .parked ∧ (out.1.qcb 0x8000).waitc = 1 ∧ out.1.waiters.length = 1)
        ∧ (match ((queue 0 0 true (at' 1)).acceptQueue (req op)).2 with | .fault c t _ _ _ => c == 0x10#8 && t == 0x801 | _ => false) = true)
    ∧ ((queue 0 0 true (at' 1)).acceptQueue (req .deqn)).2 = .refused true := by decide +kernel

/-- WindowsOpenAndClose: RWOPEN's traps; whichever slice serves a home slice, its Rack full with a place left in its spill area, with none
left, and with no area; a slice at which the window broke. -/
theorem test_meets_window_traps :
    (∀ p ∈ ([(0x4001, 2 ^ 32 + 256, 0x0A), (2 ^ 60, 2 ^ 32 + 256, 0x0A), (0x4000, 2 ^ 35 + 256, 0x0B), (0x4000, 2 ^ 32, 0x0B), (0x4000, 2 ^ 32 + 255, 0x0B),
        (0x4000, 2 ^ 32 + 2 ^ 30, 0x0B)] : List (Nat × Nat × Nat)),
      next (exec (.rwopen ⟨0, 1, 2⟩) (regs [p.1, p.2.1] part)) (·.core.crGet 2 == BitVec.ofNat 64 p.2.2) = true)
    ∧ next (exec (.rwopen ⟨0, 1, 2⟩) { regs [0x4000, 2 ^ 33 + 256] part with windows := [win ones 0#64 false none] })
      (·.core.crGet 2 == 0x0B#64) = true := by decide +kernel
def racked (k : BitVec 6) (area : Nat) : State :=
  { (at' 1).devPut 0x125 (BitVec.ofNat 64 area) with
    heldUpds := List.replicate 16 ⟨k, none, 0, 1#3, 0x4010, 4, 0, ⟨0, 9, false, false, 0⟩, 0#32, 5⟩ }
theorem test_meets_spill : (∀ k : BitVec 6, let s := racked k (1 + 2 ^ 16)
      (s.heldUpds.filter fun y => y.slice == k && y.spot.isNone).length = 16
        ∧ s.spillArea k.toNat = some (0x10000 + k.toNat * 0x10000, 2048) ∧ s.freeSpot k 2048 = some 0
        ∧ isRaw (0x10000 + k.toNat * 0x10000 + 32) = true ∧ (racked k 0).spillArea k.toNat = none)
    ∧ (let r : Req := { store1 with kind := .update ⟨⟨0, 9, false, false, 0⟩, 0#32, 0, 0⟩ }
      let s : State := { at' 1 with reqs := [r], windows := [win ones 0#64 false none] }
      s.grants s.heldReq = some r ∧ s.windowFor 0 0x4000 = some (win ones 0#64 false none)
        ∧ (let u : State := { s with windows := [{ win ones 0#64 false none with broken := ones }] }
          next (exec .heldUpdateArrival u) (fun t => t.num 0x4000 4 == 5 && t.heldUpds.isEmpty && t.windows.all (·.applied == 6)) = true)) := by
  decide +kernel

/-- AtomicsExchange: the floating operations in memory. -/
theorem test_meets_float_atomics : ∀ f ∈ ([10, 11, 12] : List (BitVec 4)),
    next (exec (.atom32 ⟨0, 2, 1, 3, f⟩) (regs [0x2038, 5, 7] part)) (·.packets.length == 1) = true := by decide +kernel

/-- What a segment that lands must be, of any copy. -/
def landable (s : State) (j : Nat) (p : EngineOp → Seg → Bool) : Bool :=
  match (s.core.unitItems 2)[j]? with
  | some (o, i, some g) => i == j && s.core.mayLand o g && g.got.isNone && !g.zero && !s.poisoned g.src g.n && o.addrs.isEmpty && o.old.isEmpty
      && (!isPhys g.src || isRaw g.src) && p o g
  | _ => false

/-- CopiesLand: a row that fills the window of channel 5, one that only begins it, one that a barrier counts. -/
theorem test_meets_marks : (let s := after (.cpy ⟨0, 5, 0, 2, 0, false, 1, 3, none, true⟩) (cr 0x085 (0x20000 / 64 + 3 * 2 ^ 42 + 2 ^ 44) (cop 0))
      landable s 0 (fun o g => wChannel o.instr == some (5, 3) && !s.byFabric g.dst && (s.core.canon 3 g.dva).1 == 3 && runsMeet (s.core.canon 3 g.dva).2 g.n 0x20000 64) = true
        ∧ next (exec (.copyCompletion false 0) s) (fun t => t.core.crGet 0x0A5 == 0#64 && next (exec (.copyCompletion false 0) t) (fun u =>
          u.core.crGet 0x0A5 == 1#64)) = true)
    ∧ (let s := after (.cpy ⟨0, 0, 0, 2, 0, false, 1, 3, some 7, false⟩) (cop 0)
      landable s 0 (fun o g => countBar o.instr == some 7 && s.countCore g.dst == some 0) = true
        ∧ next (exec (.copyCompletion false 0) s) (fun t => t.core.barrier 7 == (0, 12, true)) = true) := by decide +kernel

def resegs (f : Seg → Seg) (s : State) : State :=
  s.upd fun c => { c with ops := c.ops.map fun o => { o with segs := o.segs.map f } }
/-- CPYR of words to memory, outside a window and within one of which it is an update; a source of three destinations; a destination on a
cluster that the fabric reaches; the store that has performed there. -/
def adds : State :=
  resegs (fun g => { g with n := 4 }) (after (.cpyr ⟨0, 0, 0, 6, 0, false, 1, none⟩) ((cop 9).writeNum (Loc.spad 0 0x10000) 4 77 |>.writeNum 0x4000 4 5))
theorem test_meets_reductions : landable adds 0 (fun o g => !adds.byFabric g.dst && rowAlign o.shape == 4
      && (List.range g.n).all (fun k => isRaw (g.dst + k)) && g.more.isEmpty) = true ∧ adds.windowFor 0 0x4000 = none
    ∧ next (exec (.copyCompletion false 0) adds) (fun t => t.num 0x4000 4 == 82 && t.heldUpds.isEmpty) = true
    ∧ next (exec (.copyCompletion false 0) { adds with windows := [win ones 0#64 false none] }) (fun t => t.num 0x4000 4 == 5 && !t.heldUpds.isEmpty)
      = true := by decide +kernel
theorem test_meets_pieces : (let s := resegs (fun g => { g with more := [Loc.spad 0 0x13000, Loc.spad 1 0x13000] }) copied
      landable s 0 (fun _ g => g.more.length == 2) = true
        ∧ next (exec (.copyCompletion false 0) s) (fun t => t.core.ops.map (fun o => o.segs.length) == [4]) = true)
    ∧ (let s := resegs (fun g => { g with dst := Loc.spad 5 0x10000 }) copied
      landable s 0 (fun _ g => s.byFabric g.dst && g.more.isEmpty) = true
        ∧ next (exec (.copyCompletion false 0) s) (fun t => t.packets.length == 1 && t.core.ops.all fun o => o.segs.length == 2) = true)
    ∧ (let s : State := { resegs (fun g => { g with sent := 8 }) copied with reqs := [{ store1 with parts := [⟨Loc.spad 5 0x10000, 0#64, 4, 0, leBytes 4 5⟩] }] }
      (s.grants (·.kind == .store)).isSome = true
        ∧ next (exec .sliceWriteRequest s) (fun t => t.core.ops.map (fun o => o.segs.length) == [1]) = true) := by decide +kernel

/-- FrameOperationsPerform: FRST of the idle bank's chunk 0; FREL and RBACK of the frame a bank holds; HPMAP with a barrier; the last use of a
page, with a Pod at 0x8000 and with none. -/
def readdr (as : List Nat) (s : State) : State := s.upd fun c => { c with ops := c.ops.map fun o => { o with addrs := as } }
theorem test_meets_frame_banks : (let b : BankDesc := ⟨1#32, 2, false, false, 1, false, 1#12, false, false, none⟩
      let s : State := (frop (.frst ⟨0, false⟩) [] [pageMove (Loc.spad 0 0x10000) 0x500000 16] [1, 0] []).upd fun c =>
        { c with bank1 := { b with storing := true } }
      next (exec .frameOperationDone s) (fun t => t.core.bank1.stored && !t.core.bank1.storing && t.core.bank1.dirty == 0#12) = true
        ∧ (let u (i : Instr) (as : List Nat) : State := readdr as ((frop i [] [] [] []).upd fun c => { c with bank0 := b, bank1 := { b with frame := 2#32 } })
          next (exec .frameOperationDone (u (.frel ⟨0, 1⟩) [1])) (fun t => t.core.bank0 == .empty && t.core.bank1.frame == 2#32) = true
            ∧ next (exec .frameOperationDone (u (.rback ⟨0, 1, 2, true⟩) [1, 2])) (fun t => t.core.bank0 == .empty && t.core.bank1 == .empty) = true
            ∧ next (exec .frameOperationDone (u (.rback ⟨0, 1, 2, false⟩) [2, 1])) (fun t => t.core.bank0.frame == 1#32 && t.core.bank1 == .empty) = true))
    ∧ next (exec .frameOperationDone (frop (.hpmap ⟨0, 4, 4, 0, some 7⟩) [] [pageMove 0x600000 (Loc.spad 0 0x10000) 4096] [] []))
      (fun t => t.core.barrier 7 == (0, 4096, true)) = true := by decide +kernel
theorem test_meets_pod : (let s := (frop (.frel ⟨0, 4⟩) [cntDown 0x60] [] [] [])
      let p := (s.write 0x8000 ({ block 0 1 false 0 with cap := 2, code := 0 }).bytes).devPut 0x123 0x8000 |>.devPut 0x122 0x10000
      s.count 0x60 = 1 ∧ (match s.podOpen.2 with | .error _ => true | .ok _ => false) = true
        ∧ next (exec .frameOperationDone s) (fun t => t.devGet 0x124 == 1#64) = true
        ∧ (match p.podOpen.2 with | .ok d => d == (0x8000, 0x20000) | .error _ => false) = true
        ∧ next (exec .frameOperationDone p) (fun t => t.num 0x20008 8 == 0x60 && (t.qcb 0x8000).tail == 2) = true) := by decide +kernel

/-- SequencerEvents: beside a CUPSEED a draw whose shape an earlier entry's swap still decides; RET dispatched again, its entry issued before,
with an s63 that no bundle can begin at. -/
theorem test_meets_seed_and_astray : (let b : Bundle := ⟨0, 0#48, 0#48, false, 0#10, 0#8, [⟨3, .vadd ⟨0, 6, 3, 4, 0, true⟩, 1, true, true, []⟩], [], [], [], none, 0#64, 0#64,
        0#64, [], 0, false, 0#8, 0#64, 0#64⟩
      let is : List (Nat × Instr) := [(2, .cupseed ⟨0, 1⟩), (3, .vadd ⟨0, 6, 3, 4, 0, false⟩)]
      (((at' 1).upd fun c => { c with bundles := [b] }).core.seedWaits is = true) ∧ (at' 1).core.seedWaits is = false)
    ∧ (let s := (about 0x9C000000).upd fun c => { c with replay := 0x80#8, s := [(63, 0x21#64)] }
      next (exec .bundleDispatch s) (fun t => t.core.trapReq == some ⟨0x0A#8, s.core.pc, 1#64, 0x21#64, 0#64, 0#64⟩) = true) := by decide +kernel

end Sys2Proof.Tests
end

section
/-! SUPPORT. Writes of control registers by access code (R5, R6, R197). -/

namespace Sys2Proof.Machine

/-! ### Registers of the device, and the hold -/

theorem State.devGet_devPut (s : State) (n : Nat) (v : Word64) (m : Nat) :
    (s.devPut n v).devGet m = if m = n then v else s.devGet m := by
  by_cases h : m = n
  · subst h
    simp [State.devGet, Cells.get_put]
  · by_cases hv : v = Dev.reset n
    · simp [State.devGet, Cells.put, hv, Cells.get_erase, h]
    · simp [State.devGet, Cells.put, hv, Cells.get_insert_ne _ _ h, Cells.get_erase, h]

/-- R156, R159: holding an entry marks it alone. -/
theorem State.hold_holds (s : State) : ∃ t, s.hold = .next t ∧ Holds s t := by
  refine ⟨_, rfl, rfl, ?_⟩
  simp only [State.upd_core, CoreState.passCheck, CoreState.updBundle_bundles, List.map_map]
  refine List.map_congr_left fun b _ => ?_
  by_cases hb : b.seq = s.core.cur.seq
  · simp only [Function.comp_apply, if_pos hb, List.map_map]
    congr 1
    refine List.map_congr_left fun e _ => ?_
    by_cases he : e.slot = s.core.cur.slot <;> simp [he]
  · simp [hb]

/-! ### What a write of each access code does -/

/-- The registers of which a write has an effect of its own: VSF0, VSF1, MSTAT, TBINV, HRST, DBELL. -/
def hasOwnWrite (n : Nat) : Prop := n ∈ [0x019, 0x01B, 0x020, 0x021, 0x104, 0x105]

theorem access_of_hasOwnWrite {n : Nat} (h : hasOwnWrite n) :
    crAccess n = some .wo ∨ crAccess n = some .w1c ∧ (n = 0x01B ∨ n = 0x020 ∨ n = 0x021) := by
  simp only [hasOwnWrite, List.mem_cons, List.not_mem_nil, or_false] at h
  rcases h with rfl | rfl | rfl | rfl | rfl | rfl <;> decide

theorem not_hasOwnWrite_of_access {n : Nat} (h : crAccess n = some .ro ∨ crAccess n = some .rw ∨ crAccess n = some .rs) :
    ¬hasOwnWrite n := by
  intro hn
  rcases access_of_hasOwnWrite hn with ha | ⟨ha, -⟩ <;> simp [ha] at h

theorem crAccess_format {n : Nat} (h : 0x140 ≤ n) (h' : n ≤ 0x17F) : crAccess n = some .rs := by
  unfold crAccess
  repeat rw [if_neg (by omega)]
  rw [if_pos h']

/-- A register that is not the device's own lies below those of the device, DGAREA, RWSPL and the format regions among them. -/
theorem lt_of_crOfDevice_false {n : Nat} (h : crOfDevice n = false) : n < 0x0C6 ∨ n = 0x127 := by
  simp only [crOfDevice, Bool.and_eq_false_iff, decide_eq_false_iff_not, bne_eq_false_iff_eq] at h
  omega

/-- No rule but the access code of the register says what a write of it does. -/
structure PlainWrite (s : State) (n : Nat) : Prop where
  noOwn : ¬hasOwnWrite n
  noDigest : ¬(n = 0x0CC ∧ s.digesting = true)
  noSpill : ¬(n = 0x125 ∧ s.windows ≠ [])
  noFormat : ¬(0x140 ≤ n ∧ n ≤ 0x17F)

variable {s : State} {n : Nat} (v : Word64)

theorem PlainWrite.of_core (ho : ¬hasOwnWrite n) (hd : crOfDevice n = false) : PlainWrite s n := by
  have hn := lt_of_crOfDevice_false hd
  exact ⟨ho, by omega, by omega, by omega⟩

theorem PlainWrite.of_ro (h : crAccess n = some .ro) : PlainWrite s n := by
  refine ⟨not_hasOwnWrite_of_access (.inl h), ?_, ?_, fun hn => by simp [crAccess_format hn.1 hn.2] at h⟩ <;>
    rintro ⟨rfl, -⟩ <;> revert h <;> decide

theorem PlainWrite.writeReg_ro (hp : PlainWrite s n) (h : crAccess n = some .ro) : s.writeReg n v = s := by
  obtain ⟨ho, hcc, hsp, hf⟩ := hp
  simp only [hasOwnWrite, List.mem_cons, List.not_mem_nil, or_false, not_or] at ho
  simp only [State.writeReg, ho, hcc, hsp, hf, h, if_false]

theorem PlainWrite.writeReg_writable (hp : PlainWrite s n) (h : crAccess n = some .rw ∨ crAccess n = some .rs) :
    s.writeReg n v = if crOfDevice n then s.devPut n (masked (s.devGet n) v (crWritable n))
      else s.upd fun c => c.crPut n (masked (c.crGet n) v (crWritable n)) := by
  obtain ⟨ho, hcc, hsp, hf⟩ := hp
  simp only [hasOwnWrite, List.mem_cons, List.not_mem_nil, or_false, not_or] at ho
  rcases h with h | h <;> simp only [State.writeReg, ho, hcc, hsp, hf, h, if_false]

theorem PlainWrite.writeReg_w1c (hp : PlainWrite s n) (h : crAccess n = some .w1c) :
    s.writeReg n v = if crOfDevice n then s.devPut n (s.devGet n &&& ~~~v) else s.upd (·.clearBits n v) := by
  obtain ⟨ho, hcc, hsp, hf⟩ := hp
  simp only [hasOwnWrite, List.mem_cons, List.not_mem_nil, or_false, not_or] at ho
  simp only [State.writeReg, ho, hcc, hsp, hf, h, if_false]

theorem State.writeReg_digestArea (hn : n = 0x0CC) (h : s.digesting = true) : s.writeReg n v = s := by
  simp [State.writeReg, hn, h]

theorem State.writeReg_spillArea (hn : n = 0x125) (h : s.windows ≠ []) : s.writeReg n v = s := by
  simp [State.writeReg, hn, h]

/-! ### MTC -/

theorem execMtc_writes {o : OpMtc} (hon : s.core.on o.g = true) (hw : s.writeWaits o.c.toNat (s.core.sVal o.a) = false)
    (hf : ¬(0x140 ≤ o.c.toNat ∧ o.c.toNat ≤ 0x17F)) :
    exec (.mtc o) s = .next (s.writeReg o.c.toNat (s.core.sVal o.a)) := by
  have h : ¬(0x140 ≤ o.c.toNat ∧ o.c.toNat ≤ 0x17F ∧ s.fmtBad o.c.toNat (s.core.sVal o.a) = true) := fun h => hf ⟨h.1, h.2.1⟩
  show execMtc o s = _
  simp only [execMtc, State.whenOn_on _ _ hon, if_neg h, hw, Bool.false_eq_true, if_false]

theorem execMtc_waits {o : OpMtc} (hon : s.core.on o.g = true) (hw : s.writeWaits o.c.toNat (s.core.sVal o.a) = true)
    (hf : o.c.toNat < 0x140) : exec (.mtc o) s = s.hold := by
  have h : ¬(0x140 ≤ o.c.toNat ∧ o.c.toNat ≤ 0x17F ∧ s.fmtBad o.c.toNat (s.core.sVal o.a) = true) := by omega
  show execMtc o s = _
  simp only [execMtc, State.whenOn_on _ _ hon, if_neg h, hw, if_true]

theorem execMtc_badFormat {o : OpMtc} (hon : s.core.on o.g = true)
    (hf : 0x140 ≤ o.c.toNat ∧ o.c.toNat ≤ 0x17F ∧ s.fmtBad o.c.toNat (s.core.sVal o.a) = true) :
    exec (.mtc o) s = s.trap0B := by
  show execMtc o s = _
  simp only [execMtc, State.whenOn_on _ _ hon, if_pos hf]

end Sys2Proof.Machine
end

section
/-! The statement on MTC. -/

open Sys2Proof Sys2Proof.Machine

/-- Settles O17, by the access code of the register. -/
theorem mtcWritesByAccessCode : Obligations.MtcWritesByAccessCode := by
  unfold Obligations.MtcWritesByAccessCode
  intro o s hon n v mask
  refine ⟨fun ha hw => ?readOnly, fun ha hd hw => ?coreWrite, fun ha hd h1B h20 h21 hw => ?coreClear,
    fun hn hdg hw => ?digestArea, fun hn hwin hw => ?spillArea, fun ha hd hlt hcc hsp hw => ?device,
    fun hlt hw => ?waits, fun hlo hhi hbad => execMtc_badFormat hon ⟨hlo, hhi, hbad⟩⟩
  case readOnly =>
    have hp : PlainWrite s n := .of_ro ha
    rw [execMtc_writes hon hw hp.noFormat, hp.writeReg_ro _ ha]
  case coreWrite =>
    have hp : PlainWrite s n := .of_core (not_hasOwnWrite_of_access (.inr ha)) hd
    refine ⟨_, execMtc_writes hon hw hp.noFormat, ?_⟩
    rw [hp.writeReg_writable _ ha, hd]
    exact s.writesCr_crPut _ _
  case coreClear =>
    have ho : ¬hasOwnWrite n := fun h => by
      rcases access_of_hasOwnWrite h with hwo | ⟨-, h | h | h⟩
      · simp [hwo] at ha
      · exact h1B h
      · exact h20 h
      · exact h21 h
    have hp : PlainWrite s n := .of_core ho hd
    refine ⟨_, execMtc_writes hon hw hp.noFormat, ?_⟩
    rw [hp.writeReg_w1c _ ha, hd]
    exact s.writesCr_crPut _ _
  case digestArea =>
    rw [execMtc_writes hon hw (by omega), State.writeReg_digestArea _ hn hdg]
  case spillArea =>
    rw [execMtc_writes hon hw (by omega), State.writeReg_spillArea _ hn hwin]
  case device =>
    have hp : PlainWrite s n := ⟨not_hasOwnWrite_of_access (.inr (.inr ha)), fun h => by simp [hcc h.1] at h,
      fun h => h.2 (hsp h.1), by omega⟩
    refine ⟨_, execMtc_writes hon hw hp.noFormat, ?_⟩
    rw [hp.writeReg_writable _ (.inr ha), hd]
    exact ⟨State.devGet_devPut s n _, rfl⟩
  case waits =>
    rw [execMtc_waits hon hw hlt]
    exact s.hold_holds
end

section
/-! SUPPORT. What the device writes on its own account: bytes in memory, records to the host. -/

namespace Sys2Proof.Machine

/-! ### What such a write can change -/

/-- The second state is the first but for storage: bytes, poison, the lines and the decoded view of the slices, and the requests
that are on their way to storage. -/
def StorageOnly (s t : State) : Prop :=
  ∃ mem poison lines decoded reserved decodes reqs uid, t = { s with
    mem := mem, poison := poison, lines := lines, decoded := decoded, reserved := reserved, decodes := decodes, reqs := reqs, uid := uid }

theorem StorageOnly.refl (s : State) : StorageOnly s s := ⟨_, _, _, _, _, _, _, _, rfl⟩

theorem StorageOnly.trans {s t u : State} (h : StorageOnly s t) (h' : StorageOnly t u) : StorageOnly s u := by
  obtain ⟨_, _, _, _, _, _, _, _, rfl⟩ := h
  obtain ⟨_, _, _, _, _, _, _, _, rfl⟩ := h'
  exact ⟨_, _, _, _, _, _, _, _, rfl⟩

section
variable {s t : State} (h : StorageOnly s t)
include h

theorem StorageOnly.core : t.core = s.core := by obtain ⟨_, _, _, _, _, _, _, _, rfl⟩ := h; rfl
theorem StorageOnly.dev : t.dev = s.dev := by obtain ⟨_, _, _, _, _, _, _, _, rfl⟩ := h; rfl
theorem StorageOnly.east : t.east = s.east := by obtain ⟨_, _, _, _, _, _, _, _, rfl⟩ := h; rfl
theorem StorageOnly.west : t.west = s.west := by obtain ⟨_, _, _, _, _, _, _, _, rfl⟩ := h; rfl
theorem StorageOnly.bootNext : t.bootNext = s.bootNext := by obtain ⟨_, _, _, _, _, _, _, _, rfl⟩ := h; rfl
theorem StorageOnly.devGet (n : Nat) : t.devGet n = s.devGet n := by simp [State.devGet, h.dev]

end

/-! ### Bytes read back -/

variable (s : State)

theorem State.bytes_eq_map (loc n : Nat) : s.bytes loc n = (List.range n).map fun i => s.byte (loc + i) := by
  induction n generalizing loc with
  | zero => rfl
  | succ n ih =>
    have h : s.bytes loc (n + 1) = s.byte loc :: s.bytes (loc + 1) n := rfl
    rw [h, ih, List.range_succ_eq_map, List.map_cons, List.map_map]
    simp [Function.comp_def, Nat.add_assoc, Nat.add_comm 1]

theorem State.byte_of_mem {s t : State} (h : t.mem = s.mem) (l : Nat) : t.byte l = s.byte l := by
  rw [State.byte, h, State.byte]

theorem State.num_of_mem {s t : State} (h : t.mem = s.mem) (l n : Nat) : t.num l n = s.num l n := by
  rw [State.num, State.bytes, h, State.num, State.bytes]

theorem State.bytes_congr {s t : State} {loc n : Nat} (h : ∀ i < n, t.byte (loc + i) = s.byte (loc + i)) :
    t.bytes loc n = s.bytes loc n := by
  rw [State.bytes_eq_map, State.bytes_eq_map]
  exact List.map_congr_left fun i hi => h i (List.mem_range.mp hi)

/-- A part of what a write put somewhere, read back. -/
theorem State.bytes_write_part (loc : Nat) (bs : List Byte) {o n : Nat} (h : o + n ≤ bs.length) :
    (s.write loc bs).bytes (loc + o) n = (bs.drop o).take n := by
  rw [State.bytes_eq_map]
  refine List.ext_getElem (by simp; omega) fun i hi hi' => ?_
  have hlt : o + i < bs.length := by simp at hi; omega
  simp [State.byte_write, Nat.add_assoc, hlt]

/-! ### Memory and remote windows -/

theorem isPhys_of_isRaw {pa : Nat} (h : isRaw pa = true) : isPhys pa = true ∧ isDecoded pa = false := by
  simp only [isRaw, isPhys, isDecoded, decide_eq_true_eq, Bool.and_eq_false_iff, decide_eq_false_iff_not] at *
  omega

theorem State.markLine_eq (key : Option Nat) (line lo n : Nat) : ∃ ls, s.markLine key line lo n = { s with lines := ls } := by
  unfold State.markLine
  dsimp only
  split <;> exact ⟨_, rfl⟩

/-- Marking changes the lines alone. -/
theorem State.markBytes_eq (key : Option Nat) (pa n : Nat) : ∃ ls, s.markBytes key pa n = { s with lines := ls } := by
  unfold State.markBytes
  generalize List.range _ = l
  induction l generalizing s with
  | nil => exact ⟨_, rfl⟩
  | cons i t ih =>
    obtain ⟨ls, h⟩ := s.markLine_eq key (pa / 256 + i) (if i = 0 then pa % 256 else 0)
      ((if 256 < pa % 256 + n - 256 * i then 256 else pa % 256 + n - 256 * i) - if i = 0 then pa % 256 else 0)
    obtain ⟨ls', h'⟩ := ih { s with lines := ls }
    exact ⟨ls', by rw [List.foldl_cons, h, h']⟩

/-- A write to raw memory for no launch: its bytes, and storage alone. -/
theorem State.performWrite_raw {pa : Nat} (h : isRaw pa = true) (bs : List Byte) :
    (s.performWrite none pa bs).mem = (s.write pa bs).mem ∧ StorageOnly s (s.performWrite none pa bs) := by
  obtain ⟨hp, hd⟩ := isPhys_of_isRaw h
  obtain ⟨ls, hm⟩ := ((s.dropDecoded pa bs.length).write pa bs).markBytes_eq none pa bs.length
  have he : s.performWrite none pa bs = { (s.dropDecoded pa bs.length).write pa bs with lines := ls } := by
    rw [← hm]
    simp [State.performWrite, hp, hd]
  rw [he]
  exact ⟨rfl, _, _, _, _, _, _, _, _, rfl⟩

theorem State.sendLines_frame (die : Bool) (sl fuel pa : Nat) (bs : List Byte) :
    (s.sendLines die sl fuel pa bs).mem = s.mem ∧ StorageOnly s (s.sendLines die sl fuel pa bs) := by
  induction fuel generalizing s pa bs with
  | zero => exact ⟨rfl, .refl s⟩
  | succ fuel ih =>
    unfold State.sendLines
    dsimp only
    split
    · exact ⟨rfl, .refl s⟩
    · obtain ⟨hm, hs⟩ := ih _ _ _
      exact ⟨hm, .trans ⟨_, _, _, _, _, _, _, _, rfl⟩ hs⟩

theorem State.deviceWrite_storageOnly (die : Bool) (sl pa : Nat) (bs : List Byte) :
    StorageOnly s (s.deviceWrite die sl pa bs) := by
  unfold State.deviceWrite
  split
  · exact (s.performWrite_raw ‹_› bs).2
  · split
    · exact (s.sendLines_frame ..).2
    · exact .refl s

theorem State.deviceWrite_mem (die : Bool) (sl pa : Nat) (bs : List Byte) :
    (s.deviceWrite die sl pa bs).mem = if isRaw pa then (s.write pa bs).mem else s.mem := by
  unfold State.deviceWrite
  split
  · exact (s.performWrite_raw ‹_› bs).1
  · split
    · exact (s.sendLines_frame ..).1
    · rfl

/-! ### Pieces written one after another -/

/-- Pieces by offset, written from a base as the dump of R459 is. -/
def State.writePieces (s : State) (base : Nat) (ps : List (Nat × List Byte)) : State :=
  ps.foldl (fun s p => s.deviceWrite false 0 (base + p.1) p.2) s

@[simp] theorem State.writePieces_cons (base : Nat) (p : Nat × List Byte) (ps : List (Nat × List Byte)) :
    s.writePieces base (p :: ps) = (s.deviceWrite false 0 (base + p.1) p.2).writePieces base ps := rfl

theorem State.writePieces_storageOnly (base : Nat) (ps : List (Nat × List Byte)) : StorageOnly s (s.writePieces base ps) := by
  induction ps generalizing s with
  | nil => exact .refl s
  | cons p ps ih => exact .trans (s.deviceWrite_storageOnly ..) (ih _)

theorem State.writePieces_mem_of_not_raw {base : Nat} {ps : List (Nat × List Byte)} (h : ∀ p ∈ ps, isRaw (base + p.1) = false) :
    (s.writePieces base ps).mem = s.mem := by
  induction ps generalizing s with
  | nil => rfl
  | cons p ps ih =>
    obtain ⟨hp, hps⟩ := List.forall_mem_cons.mp h
    rw [State.writePieces_cons, ih _ hps, State.deviceWrite_mem, hp]
    rfl

/-- A byte that no piece covers stands. -/
theorem State.byte_writePieces_outside {base l : Nat} {ps : List (Nat × List Byte)}
    (h : ∀ p ∈ ps, l < base + p.1 ∨ base + p.1 + p.2.length ≤ l) : (s.writePieces base ps).byte l = s.byte l := by
  induction ps generalizing s with
  | nil => rfl
  | cons p ps ih =>
    obtain ⟨hp, hps⟩ := List.forall_mem_cons.mp h
    rw [State.writePieces_cons, ih _ hps]
    unfold State.byte
    rw [State.deviceWrite_mem]
    split
    · exact s.byte_write_outside _ _ hp
    · rfl

/-- What the first piece put in memory is read back, where the later ones leave it. -/
theorem State.bytes_writePieces_first {base o n : Nat} {bs : List Byte} {ps : List (Nat × List Byte)} (hraw : isRaw base = true)
    (hn : o + n ≤ bs.length) (h : ∀ p ∈ ps, o + n ≤ p.1) :
    (s.writePieces base ((0, bs) :: ps)).bytes (base + o) n = (bs.drop o).take n := by
  rw [← s.bytes_write_part base bs hn]
  refine State.bytes_congr fun i hi => ?_
  rw [State.writePieces_cons, State.byte_writePieces_outside _ fun p hp => .inl (by have := h p hp; omega)]
  unfold State.byte
  rw [State.deviceWrite_mem, Nat.add_zero, if_pos hraw]

/-! ### Records to the host -/

/-- R443: a record that goes out is a request; one that cannot is counted in register 0x0C6. -/
theorem State.sendRecord_eq (handle root : Word64) (sl cls lid core : Nat) (die : Bool) (body : List Byte) :
    ∃ d r u, s.sendRecord handle root sl cls lid core die body = { s with dev := d, reqs := r, uid := u }
      ∧ ∀ n, n ≠ 0x0C6 → (s.sendRecord handle root sl cls lid core die body).devGet n = s.devGet n := by
  unfold State.sendRecord
  split
  · exact ⟨_, s.reqs, s.uid, rfl, fun n hn => by rw [State.lostRecord, State.devGet_devPut, if_neg hn]⟩
  · exact ⟨s.dev, _, _, rfl, fun _ _ => rfl⟩

theorem State.sendHost_eq (cls core : Nat) (die : Bool) (body : List Byte) :
    ∃ d r u, s.sendHost cls core die body = { s with dev := d, reqs := r, uid := u }
      ∧ ∀ n, n ≠ 0x0C6 → (s.sendHost cls core die body).devGet n = s.devGet n :=
  s.sendRecord_eq ..

/-- R460: asking for a replacement sets its bits of HSTAT, sends a record, and changes nothing else. -/
theorem State.replacement_eq (b : Nat) : ∃ d r u, s.replacement b = { s with dev := d, reqs := r, uid := u } := by
  obtain ⟨d, r, u, h, -⟩ := (s.devPut 0x100 (s.devGet 0x100 ||| BitVec.ofNat 64 (4 + 2 ^ (12 + b)))).sendHost_eq 6 0 false
    (leBytes 8 (2 + 2 ^ (16 + b)))
  exact ⟨d, r, u, h⟩

theorem State.replacement_frame (b : Nat) : (s.replacement b).core = s.core ∧ (s.replacement b).mem = s.mem
    ∧ (∀ k, (s.replacement b).coreGone k = s.coreGone k) ∧ ∀ k, (s.replacement b).sliceGone k = s.sliceGone k := by
  obtain ⟨d, r, u, h⟩ := s.replacement_eq b
  rw [h]
  exact ⟨rfl, rfl, fun _ => rfl, fun _ => rfl⟩

theorem State.devGet_replacement (b : Nat) {n : Nat} (hn : n ≠ 0x0C6) : (s.replacement b).devGet n
    = if n = 0x100 then s.devGet 0x100 ||| BitVec.ofNat 64 (4 + 2 ^ (12 + b)) else s.devGet n := by
  obtain ⟨d, r, u, -, h⟩ := (s.devPut 0x100 (s.devGet 0x100 ||| BitVec.ofNat 64 (4 + 2 ^ (12 + b)))).sendHost_eq 6 0 false
    (leBytes 8 (2 + 2 ^ (16 + b)))
  exact (h n hn).trans (State.devGet_devPut ..)

/-- R460: bit 2 of HSTAT and the bit of the reason stand after it. -/
theorem State.asksReplacement (b : Nat) (hb : b ≤ 3) : AsksReplacement (s.replacement b) b := by
  have h : (s.replacement b).devGet 0x100 = s.devGet 0x100 ||| BitVec.ofNat 64 (4 + 2 ^ (12 + b)) := by
    rw [State.devGet_replacement _ _ (by decide), if_pos rfl]
  unfold AsksReplacement
  rw [h]
  interval_cases b <;> simp

/-! ### Registers of the device written in a row -/

theorem State.devGet_foldl_devPut (base : Nat) (f : Nat → Word64) (n m : Nat) :
    ((List.range n).foldl (fun s k => s.devPut (base + k) (f k)) s).devGet m
      = if base ≤ m ∧ m < base + n then f (m - base) else s.devGet m := by
  induction n with
  | zero => simp
  | succ n ih =>
    rw [List.range_succ, List.foldl_append, List.foldl_cons, List.foldl_nil, State.devGet_devPut, ih]
    by_cases h : m = base + n
    · simp [h]
    · have : (base ≤ m ∧ m < base + (n + 1)) ↔ (base ≤ m ∧ m < base + n) := by omega
      simp only [h, this, if_false]

theorem State.foldl_devPut_eq (f : Nat → Nat) (g : Nat → Word64) (l : List Nat) :
    ∃ d, l.foldl (fun s k => s.devPut (f k) (g k)) s = { s with dev := d } := by
  induction l generalizing s with
  | nil => exact ⟨_, rfl⟩
  | cons k l ih =>
    obtain ⟨d, h⟩ := ih (s.devPut (f k) (g k))
    exact ⟨d, h⟩

theorem bitsOf_setBits (v : Word64) {x : Nat} (h : x < 16) : bitsOf (setBits v 4 4 x) 4 4 = x := by
  have hv := v.isLt
  simp only [bitsOf, setBits, BitVec.toNat_ofNat]
  omega

end Sys2Proof.Machine
end

section
/-! SUPPORT. Errors, boot and attestation (R455 to R460). -/

namespace Sys2Proof.Machine

variable (s : State)

/-! ### Corrected errors (R435, R460) -/

/-- R435: a launch with that key has a verdict afterwards. -/
theorem State.correctLaunch_verdict (key : Nat) : ∀ m ∈ (s.correctLaunch key).launches, m.key = key → m.verdict ≠ 0#2 := by
  intro m hm hk
  obtain ⟨l, -, rfl⟩ := List.mem_map.mp hm
  by_cases hl : l.key = key
  · by_cases hv : l.verdict = 0#2 <;> simp [hl, hv]
  · simp [hl] at hk

/-- The state in which a corrected error is counted: the launch that read the data is corrected. -/
def State.readerCorrected (s : State) (reader : Option (BitVec 7)) : State :=
  match reader with
  | some k => s.correctLaunch (s.coreAt k).launchKey
  | none => s

theorem State.readerCorrected_eq (reader : Option (BitVec 7)) : ∃ ls, s.readerCorrected reader = { s with launches := ls } := by
  cases reader <;> exact ⟨_, rfl⟩

/-- R460: the register of corrected errors counts on, a replacement is asked for past the threshold, and only the launches, the
registers of the device and the requests on their way change. -/
theorem execCorrectedError_cases (reader : Option (BitVec 7)) :
    ∃ t, exec (.correctedError reader) s = .next t
      ∧ (∃ d r u, t = { s.readerCorrected reader with dev := d, reqs := r, uid := u })
      ∧ t.devGet 0x10A = BitVec.ofNat 64 (((s.devGet 0x10A).toNat + 1) % 2 ^ 32)
      ∧ ((s.devGet 0x10B).toNat ≠ 0 → (s.devGet 0x10A).toNat ≤ (s.devGet 0x10B).toNat →
        (s.devGet 0x10B).toNat < ((s.devGet 0x10A).toNat + 1) % 2 ^ 32 → AsksReplacement t 3) := by
  refine ⟨_, rfl, ?_⟩
  dsimp only
  split
  case isTrue h =>
    refine ⟨State.replacement_eq _ 3, ?_, fun _ _ _ => State.asksReplacement _ 3 (by decide)⟩
    rw [State.devGet_replacement _ _ (by decide), if_neg (by decide), State.devGet_devPut, if_pos rfl]
  case isFalse h =>
    refine ⟨⟨_, _, _, rfl⟩, ?_, fun h0 h1 h2 => absurd ⟨h0, h1, h2⟩ h⟩
    rw [State.devGet_devPut, if_pos rfl]

/-! ### The dump of a fatal error (R459) -/

/-- A register of the device written and a vector sent: no more than that changes. -/
theorem State.sendMsix_devPut (n : Nat) (x : Word64) (v : BitVec 6) : let t := (s.devPut n x).sendMsix v
    t.mem = s.mem ∧ t.core = s.core ∧ t.east = s.east ∧ t.west = s.west ∧ t.devGet n = x := by
  have hd : (s.devPut n x).devGet n = x := by rw [State.devGet_devPut, if_pos rfl]
  unfold State.sendMsix
  split <;> exact ⟨rfl, rfl, rfl, rfl, hd⟩

theorem length_flatMap_range {α : Type} (n k : Nat) {f : Nat → List α} (h : ∀ i, (f i).length = k) :
    ((List.range n).flatMap f).length = n * k := by
  simp [List.length_flatMap, h]

theorem State.length_dumpCore (k : Nat) : (s.dumpCore k).length = 64 := by simp [State.dumpCore, word]

theorem State.length_dumpSlice (k : Nat) : (s.dumpSlice k).length = 32 := by simp [State.dumpSlice]

/-- The dump but for its head: cores, slices, links outward and inward. -/
def State.dumpBody (s : State) : List (Nat × List Byte) :=
  let links (inward : Bool) : List Byte := (List.range 256).flatMap fun n => word (s.link inward (BitVec.ofNat 8 n)).status
  [(0x1000, (List.range 128).flatMap s.dumpCore), (0x3000, (List.range 64).flatMap s.dumpSlice),
    (0x3800, links false), (0x4000, links true)]

def State.dumpHead (s : State) (cause : BitVec 8) : List Byte :=
  leBytes 8 (0xDEAD + cause.toNat * 2 ^ 16) ++ word s.time ++ word (s.readDev 0x100)

theorem State.dump_eq (cause : BitVec 8) : s.dump cause = (0, s.dumpHead cause) :: s.dumpBody := rfl

@[simp] theorem State.length_dumpHead (cause : BitVec 8) : (s.dumpHead cause).length = 24 := by simp [State.dumpHead, word]

/-- Every piece after the head lies in the 0x4800 bytes of the dump, beyond its first 0x1000. -/
theorem State.dumpBody_bounds : ∀ p ∈ s.dumpBody, 0x1000 ≤ p.1 ∧ p.1 < 0x4800 ∧ p.1 + p.2.length ≤ 0x4800 := by
  have hlinks (inward : Bool) :
      ((List.range 256).flatMap fun n => word (s.link inward (BitVec.ofNat 8 n)).status).length = 256 * 8 :=
    length_flatMap_range 256 8 fun i => length_leBytes _ _
  simp only [State.dumpBody, List.forall_mem_cons, List.not_mem_nil, false_imp_iff, implies_true, and_true, hlinks,
    length_flatMap_range 128 64 s.length_dumpCore, length_flatMap_range 64 32 s.length_dumpSlice]
  decide

theorem State.dump_bounds (cause : BitVec 8) : ∀ p ∈ s.dump cause, p.1 < 0x4800 ∧ p.1 + p.2.length ≤ 0x4800 := by
  rw [State.dump_eq]
  refine List.forall_mem_cons.mpr ⟨by simp, fun p hp => (s.dumpBody_bounds p hp).2⟩

/-- The dump's place is a whole megabyte, so that it lies in raw memory or outside it as a whole. -/
theorem isRaw_dump (base : Nat) {o : Nat} (h : o < 0x4800) : isRaw (base * 2 ^ 20 + o) = isRaw (base * 2 ^ 20) := by
  simp only [isRaw, decide_eq_decide]
  omega

/-- R459: both controllers stopped. -/
def State.stopControllers (s : State) : State :=
  { s with east := { s.east with stopped := true }, west := { s.west with stopped := true } }

/-- R459: the place of the dump. -/
def State.dumpBase (s : State) : Nat := bitsOf (s.devGet 0x106) 20 26 * 2 ^ 20

/-- R459: the state once the dump is written. -/
def State.dumped (s : State) (cause : BitVec 8) : State :=
  s.stopControllers.writePieces s.dumpBase (s.stopControllers.dump cause)

theorem State.dumped_storageOnly (cause : BitVec 8) : StorageOnly s.stopControllers (s.dumped cause) :=
  State.writePieces_storageOnly _ _ _

/-- After the dump, FATAL sets and the vector goes out. -/
theorem State.fatal_eq (cause : BitVec 8) :
    ∃ v, s.fatal cause = ((s.dumped cause).devPut 0x100 (s.devGet 0x100 ||| 2#64)).sendMsix v := by
  have hd : s.devGet 0x100 = (s.dumped cause).devGet 0x100 := ((s.dumped_storageOnly cause).devGet 0x100).symm
  rw [hd]
  exact ⟨_, rfl⟩

/-- What a fatal error leaves but for the memory that the dump reaches. -/
theorem State.fatal_frame (cause : BitVec 8) : (s.fatal cause).mem = (s.dumped cause).mem ∧ (s.fatal cause).core = s.core
    ∧ (s.fatal cause).east = { s.east with stopped := true } ∧ (s.fatal cause).west = { s.west with stopped := true }
    ∧ (s.fatal cause).devGet 0x100 = s.devGet 0x100 ||| 2#64 := by
  obtain ⟨v, hf⟩ := s.fatal_eq cause
  have hs := s.dumped_storageOnly cause
  obtain ⟨hmem, hcore, heast, hwest, hdev⟩ := (s.dumped cause).sendMsix_devPut 0x100 (s.devGet 0x100 ||| 2#64) v
  rw [hf]
  exact ⟨hmem, hcore.trans hs.core, heast.trans hs.east, hwest.trans hs.west, hdev⟩

theorem State.dumped_mem_of_not_raw (cause : BitVec 8) (h : isRaw s.dumpBase = false) : (s.dumped cause).mem = s.mem :=
  State.writePieces_mem_of_not_raw _ fun p hp => (isRaw_dump _ (s.stopControllers.dump_bounds cause p hp).1).trans h

theorem State.byte_dumped_outside (cause : BitVec 8) {l : Nat} (h : l < s.dumpBase ∨ s.dumpBase + 0x4800 ≤ l) :
    (s.dumped cause).byte l = s.byte l := by
  refine State.byte_writePieces_outside s.stopControllers fun p hp => ?_
  have := s.stopControllers.dump_bounds cause p hp
  omega

/-- A number in the head of the dump, read back. -/
theorem State.num_dumped_head (cause : BitVec 8) {o n : Nat} (hraw : isRaw s.dumpBase = true) (hn : o + n ≤ 24) :
    (s.dumped cause).num (s.dumpBase + o) n = leNat (((s.stopControllers.dumpHead cause).drop o).take n) := by
  unfold State.num State.dumped
  rw [State.dump_eq, State.bytes_writePieces_first _ hraw (by simpa using hn)]
  intro p hp
  have := s.stopControllers.dumpBody_bounds p hp
  omega

theorem State.num_dumped_magic (cause : BitVec 8) (hraw : isRaw s.dumpBase = true) :
    (s.dumped cause).num s.dumpBase 4 = 0xDEAD + cause.toNat * 2 ^ 16 := by
  have hc := cause.isLt
  have h : ((s.stopControllers.dumpHead cause).drop 0).take 4 = leBytes 4 (0xDEAD + cause.toNat * 2 ^ 16) := rfl
  have := s.num_dumped_head cause (o := 0) (n := 4) hraw (by decide)
  rw [Nat.add_zero, h, leNat_leBytes] at this
  rw [this]
  exact Nat.mod_eq_of_lt (by omega)

theorem State.num_dumped_time (cause : BitVec 8) (hraw : isRaw s.dumpBase = true) :
    (s.dumped cause).num (s.dumpBase + 8) 8 = s.time.toNat := by
  have ht := s.time.isLt
  have h : ((s.stopControllers.dumpHead cause).drop 8).take 8 = leBytes 8 s.time.toNat := rfl
  rw [s.num_dumped_head cause hraw (by decide), h, leNat_leBytes]
  exact Nat.mod_eq_of_lt (by omega)

/-! ### Boot (R455, R456) -/

variable {s} {i : BootImage}

/-- R455: the image is one, and the next in order. -/
def State.expects (s : State) (i : BootImage) : Prop := imageSound i = true ∧ bootKind i = s.bootNext ∧ bootKind i ≤ 3

theorem State.expects_iff (s : State) (i : BootImage) :
    (!imageSound i || bootKind i != s.bootNext || decide (3 < bootKind i)) = false ↔ s.expects i := by
  simp [State.expects, and_assoc]

theorem State.boot_not_expected (h : ¬s.expects i) : s.boot i = s :=
  if_pos (Bool.eq_true_of_not_eq_false fun hf => h ((s.expects_iff i).mp hf))

theorem State.boot_expected (h : s.expects i) :
    (!imageSound i || bootKind i != s.bootNext || decide (3 < bootKind i)) = false := (s.expects_iff i).mpr h

/-- R455: BOOTERR takes the number of the check that fails. -/
theorem State.boot_refused (h : s.expects i) (he : bootError i ≠ 0) :
    s.boot i = s.devPut 0x100 (setBits (s.devGet 0x100) 4 4 (bootError i)) := by
  simp only [State.boot, State.boot_expected h, Bool.false_eq_true, if_false, he, ne_eq, not_false_eq_true, if_true]

theorem bootError_lt (i : BootImage) : bootError i < 16 := by
  unfold bootError
  dsimp only
  split_ifs <;> decide

/-- The first failing check of R455 as the statement counts it. -/
theorem bootError_eq (i : BootImage) : bootError i =
    if Config.sha512 (imgField i 0x18 32) ≠ Config.keySlot (keySlotOf i) then 1
    else if Config.slotRevoked (keySlotOf i) = true then 2
    else if imgNum i 4 4 < Config.svnFuse (bootKind i) then 3
    else if Config.edVerify (BitVec.ofNat 256 (imgNum i 0x18 32)) (imgField i 0 0x38 ++ i.body)
      (BitVec.ofNat 512 (imgNum i 0x38 64)) = false then 4 else 0 := by
  simp only [bootError, Bool.not_eq_true']

theorem State.boot_refused_hstat (h : s.expects i) (he : bootError i ≠ 0) : bitsOf ((s.boot i).devGet 0x100) 4 4 = bootError i
    ∧ s.boot i = { s with dev := (s.boot i).dev } ∧ ∀ m, m ≠ 0x100 → (s.boot i).devGet m = s.devGet m := by
  rw [State.boot_refused h he]
  refine ⟨?_, rfl, fun m hm => by rw [State.devGet_devPut, if_neg hm]⟩
  rw [State.devGet_devPut, if_pos rfl, bitsOf_setBits _ (bootError_lt i)]

/-- R456: MEAS after an image is taken into it. -/
def State.bootMeasure (s : State) (i : BootImage) : BitVec 512 :=
  Config.sha512 (s.meas ++ leBytes 64 (Config.sha512 (i.header ++ i.body)).toNat)

/-- R455, R456: an image in its place and measured, the next in order awaited. -/
def State.bootLoaded (s : State) (i : BootImage) : State :=
  let t := (List.range 8).foldl (fun t k => t.devPut (0x110 + k) ((s.bootMeasure i >>> (64 * k)).setWidth 64))
    (s.performWrite none (imgNum i 0x10 8) i.body)
  { t with bootNext := t.bootNext + 1 }

/-- R455: the second image has started both controllers' processors. -/
def State.bootStarted (s : State) (i : BootImage) : State :=
  if bootKind i = 2 then (s.bootLoaded i).startFirmware (imgNum i 0x10 8) else s.bootLoaded i

theorem State.boot_of_expects (h : s.expects i) (he : bootError i = 0) : s.boot i =
    if (s.bootStarted i).bootNext = 4 then (s.bootStarted i).devPut 0x100 ((s.bootStarted i).devGet 0x100 ||| 1#64)
    else s.bootStarted i :=
  (if_neg (by rw [State.boot_expected h]; decide)).trans (if_neg (not_not.mpr he))

theorem State.isRaw_of_expects (h : s.expects i) : isRaw (imgNum i 0x10 8) = true := by
  have hs := h.1
  simp only [imageSound, Bool.and_eq_true] at hs
  obtain ⟨⟨⟨-, hraw⟩, -⟩, -⟩ := hs
  exact hraw

/-- What loading an image leaves, but for what the controllers then run. -/
theorem State.bootLoaded_eq (h : s.expects i) : ∃ t d, StorageOnly s t ∧ t.mem = (s.write (imgNum i 0x10 8) i.body).mem
    ∧ s.bootLoaded i = { t with dev := d, bootNext := s.bootNext + 1 } := by
  obtain ⟨hm, hs⟩ := s.performWrite_raw (State.isRaw_of_expects h) i.body
  obtain ⟨d, hd⟩ := (s.performWrite none (imgNum i 0x10 8) i.body).foldl_devPut_eq (0x110 + ·)
    (fun k => (s.bootMeasure i >>> (64 * k)).setWidth 64) (List.range 8)
  refine ⟨_, d, hs, hm, ?_⟩
  rw [State.bootLoaded, hd, ← hs.bootNext]

theorem State.bootStarted_frame (h : s.expects i) : (s.bootStarted i).bootNext = s.bootNext + 1 ∧ (s.bootStarted i).core = s.core
    ∧ (s.bootStarted i).mem = (s.write (imgNum i 0x10 8) i.body).mem := by
  obtain ⟨t, d, hs, hm, he⟩ := State.bootLoaded_eq h
  rw [State.bootStarted, he]
  split <;> exact ⟨rfl, hs.core, hm⟩

theorem State.devGet_bootStarted (h : s.expects i) (n : Nat) : (s.bootStarted i).devGet n
    = if 0x110 ≤ n ∧ n < 0x110 + 8 then (s.bootMeasure i >>> (64 * (n - 0x110))).setWidth 64 else s.devGet n := by
  obtain ⟨-, hs⟩ := s.performWrite_raw (State.isRaw_of_expects h) i.body
  have hd : (s.bootStarted i).dev = ((List.range 8).foldl (fun t k =>
      t.devPut (0x110 + k) ((s.bootMeasure i >>> (64 * k)).setWidth 64)) (s.performWrite none (imgNum i 0x10 8) i.body)).dev := by
    unfold State.bootStarted State.bootLoaded
    split <;> rfl
  rw [← hs.devGet n, ← State.devGet_foldl_devPut _ 0x110 (fun k => (s.bootMeasure i >>> (64 * k)).setWidth 64) 8 n]
  exact congrArg (Cells.get (Dev.reset n) · n) hd

/-- R455, R456: what an accepted image leaves. -/
structure Booted (i : BootImage) (s t : State) : Prop where
  bootNext : t.bootNext = s.bootNext + 1
  core : t.core = s.core
  mem : t.mem = (s.write (imgNum i 0x10 8) i.body).mem
  measure : ∀ k < 8, t.devGet (0x110 + k) = (s.bootMeasure i >>> (64 * k)).setWidth 64
  firmware : bootKind i = 2 → ∀ die, (t.ctl die).cpu.mode = .running ∧ (t.ctl die).cpu.pc = BitVec.ofNat 48 (imgNum i 0x10 8)

theorem State.bootStarted_booted (h : s.expects i) : Booted i s (s.bootStarted i) := by
  obtain ⟨hn, hc, hm⟩ := State.bootStarted_frame h
  refine ⟨hn, hc, hm, fun k hk => ?_, fun hk die => ?_⟩
  · rw [State.devGet_bootStarted h, if_pos (by omega), Nat.add_sub_cancel_left]
  · rw [State.bootStarted, if_pos hk]
    cases die <;> exact ⟨rfl, rfl⟩

/-- HSTAT, which says that the device is ready, is no part of it. -/
theorem Booted.devPut_hstat {t : State} (h : Booted i s t) (v : Word64) : Booted i s (t.devPut 0x100 v) :=
  ⟨h.bootNext, h.core, h.mem, fun k hk => by rw [State.devGet_devPut, if_neg (by omega), h.measure k hk], h.firmware⟩

/-- R455: after the third image the device is ready. -/
theorem State.boot_accepted (h : s.expects i) (he : bootError i = 0) : s.boot i =
    if s.bootNext = 3 then (s.bootStarted i).devPut 0x100 ((s.bootStarted i).devGet 0x100 ||| 1#64) else s.bootStarted i := by
  rw [State.boot_of_expects h he, (State.bootStarted_booted h).bootNext]
  exact if_congr (by omega) rfl rfl

theorem State.boot_booted (h : s.expects i) (he : bootError i = 0) : Booted i s (s.boot i) := by
  rw [State.boot_accepted h he]
  split
  · exact (State.bootStarted_booted h).devPut_hstat _
  · exact State.bootStarted_booted h

theorem State.hstat_boot (h : s.expects i) (he : bootError i = 0) :
    (s.boot i).devGet 0x100 = if s.bootNext = 3 then s.devGet 0x100 ||| 1#64 else s.devGet 0x100 := by
  have hd : (s.bootStarted i).devGet 0x100 = s.devGet 0x100 := by rw [State.devGet_bootStarted h, if_neg (by decide)]
  rw [State.boot_accepted h he, apply_ite (State.devGet · 0x100), State.devGet_devPut, if_pos rfl, hd]

theorem Booted.bytes {t : State} (h : Booted i s t) : t.bytes (imgNum i 0x10 8) i.body.length = i.body := by
  have hb : t.bytes (imgNum i 0x10 8) i.body.length = (s.write (imgNum i 0x10 8) i.body).bytes (imgNum i 0x10 8 + 0) i.body.length := by
    unfold State.bytes
    rw [h.mem, Nat.add_zero]
  rw [hb, State.bytes_write_part _ _ _ (by omega), List.drop_zero, List.take_length]

theorem Booted.byte_outside {t : State} (h : Booted i s t) {l : Nat}
    (hl : l < imgNum i 0x10 8 ∨ imgNum i 0x10 8 + i.body.length ≤ l) : t.byte l = s.byte l := by
  have hb : t.byte l = (s.write (imgNum i 0x10 8) i.body).byte l := State.byte_of_mem h.mem l
  rw [hb, State.byte_write_outside _ _ _ hl]

/-! ### Retirement (R460) -/

/-- R460: a part that retires is gone, and nothing of core or memory moves. -/
theorem execCoreOrSliceRetired_cases (slice : Bool) (k : BitVec 7) (s : State) :
    ∃ t, exec (.coreOrSliceRetired slice k) s = .next t ∧ AsksReplacement t 2 ∧ t.core = s.core ∧ t.mem = s.mem
      ∧ (slice = false → t.coreGone k = true) ∧ (slice = true → t.sliceGone (k.setWidth 6) = true) := by
  cases slice
  · let u : State := { s with retiredCores := k :: s.retiredCores.filter (· != k) }
    obtain ⟨hcore, hmem, hgone, -⟩ := u.replacement_frame 2
    exact ⟨_, rfl, u.asksReplacement 2 (by decide), hcore, hmem, fun _ => (hgone k).trans (by simp [u, State.coreGone]), nofun⟩
  · let u : State := { s with retiredSlices := k.setWidth 6 :: s.retiredSlices.filter (· != k.setWidth 6) }
    obtain ⟨hcore, hmem, -, hgone⟩ := u.replacement_frame 2
    exact ⟨_, rfl, u.asksReplacement 2 (by decide), hcore, hmem, nofun, fun _ => (hgone _).trans (by simp [u, State.sliceGone])⟩

end Sys2Proof.Machine
end

section
/-! The statement on errors, resets, boot, attestation and retirement. -/

open Sys2Proof Sys2Proof.Machine

/-- Settles O55, event by event. -/
theorem errorsResetsBoot : Obligations.ErrorsResetsBoot := by
  unfold Obligations.ErrorsResetsBoot
  refine ⟨fun reader s => ?corrected, fun cause s => ?fatal, fun s => ?resets, fun i s => ?boot, fun nonce s => ?attestation,
    fun slice k s => ?retired⟩
  case corrected =>
    obtain ⟨t, ht, ⟨d, r, u, hf⟩, hc, ha⟩ := execCorrectedError_cases s reader
    obtain ⟨ls, hl⟩ := s.readerCorrected_eq reader
    refine ⟨t, ht, hc, by rw [hf, hl], by rw [hf, hl], ha, ?_⟩
    rintro k rfl m hm
    rw [hf] at hm
    exact s.correctLaunch_verdict _ m hm
  case fatal =>
    obtain ⟨hmem, hcore, heast, hwest, hstat⟩ := s.fatal_frame cause
    refine ⟨s.fatal cause, rfl, ?_, ?_, ?_, ?_, fun h => ?_, fun h => ⟨?_, ?_, fun l hl => ?_⟩⟩
    · rw [hstat]
      simp
    · rw [heast]
    · rw [hwest]
    · exact hcore
    · rw [hmem]
      exact s.dumped_mem_of_not_raw cause h
    · rw [State.num_of_mem hmem]
      exact s.num_dumped_magic cause h
    · rw [State.num_of_mem hmem]
      exact s.num_dumped_time cause h
    · rw [State.byte_of_mem hmem]
      exact s.byte_dumped_outside cause hl
  case resets =>
    refine ⟨fun h => ?_, rfl, fun h => ?_⟩
    · exact congrArg Host.Outcome.next (if_neg (Bool.eq_false_iff.mp h))
    · exact congrArg Host.Outcome.next (if_pos h)
  case boot =>
    intro field kind pa slot good error measured offer
    have herr : bootError i = error := bootError_eq i
    have offers (n : Instr) (b : Bool) (hn : exec n s = .next (State.boot { s with imageCame := b } i)) :
        offer n { s with imageCame := b } := by
      refine ⟨fun h => hn.trans (congrArg _ (State.boot_not_expected h)), fun h he => ?_, fun h he => ?_⟩
      · have hb := State.boot_booted (s := { s with imageCame := b }) h (herr.trans he)
        have hstat := State.hstat_boot (s := { s with imageCame := b }) h (herr.trans he)
        refine ⟨_, hn, hb.bootNext, hb.bytes, fun _ => hb.byte_outside, hb.core, hb.measure,
          hb.firmware, fun h3 => ?_, fun h3 => hstat.trans (if_neg h3)⟩
        rw [hstat, if_pos h3]
        simp
      · obtain ⟨h1, h2, h3⟩ := State.boot_refused_hstat (s := { s with imageCame := b }) h (herr ▸ he)
        exact ⟨_, hn, h1.trans herr, h2, h3⟩
    refine ⟨offers _ true rfl, fun hc hi => offers _ s.imageCame ?_, fun h => if_pos h⟩
    exact if_neg (by simp [hi, Nat.not_lt.mpr hc])
  case attestation =>
    exact ⟨fun h => if_pos h, fun h => if_neg (not_not.mpr h)⟩
  case retired =>
    exact execCoreOrSliceRetired_cases slice k s
end

section
/-! SUPPORT. The state that an instruction goes on with, for refutations that evaluate one. -/

namespace Sys2Proof.Machine

/-- The state after an instruction or event, the same state where there is none. -/
def stateAfter (s : State) (i : Instr) : State := match exec i s with | .next t => t | _ => s

theorem stateAfter_eq {s t : State} {i : Instr} (h : exec i s = .next t) : stateAfter s i = t := by simp only [stateAfter, h]

end Sys2Proof.Machine
end

section
/-! The statement on copies that land, and the segment that refutes it. -/

open Sys2Proof Sys2Proof.Machine

namespace Sys2Proof.Machine

/-- Two bytes of zeros across the end of a scratchpad: the first lies in that of the cluster next to cluster 0, the second in that of
cluster 2, which core 0 reaches over the light fabric alone. -/
def splitZeros : Seg :=
  { src := 0, dst := Loc.spad 2 0 - 1, n := 2, zero := true, sva := 0, dva := 0, row := 0, tag := 0, sent := 0, more := [], got := none }

/-- A copy in the queue of unit C0 with that one segment. -/
def splitCopy : EngineOp :=
  { uid := 0, seq := 0, eng := 2, pc := 0#48, slack := 0#10, instr := .cpy ⟨0, 0, 0, 2, 0, false, 1, 2, none, false⟩, rep := 1
    shape := Shape.reset, addrs := [], regs := [], locks := [], busy := [], segs := [splitZeros], extra := [], old := [], writes := [] }

/-- Core 0 after reset, with that copy in its queue. -/
def splitState : State := { State.reset with core := { State.reset.core with ops := [splitCopy] } }

theorem splitCopy_isItem : (splitState.core.unitItems 2)[0]? = some (splitCopy, 0, some splitZeros) := by decide +kernel

theorem splitZeros_mayLand : splitState.core.mode ≠ .dead ∧ splitState.core.mayLand splitCopy splitZeros = true := by decide +kernel

/-- R12, R396: whether a segment goes by the fabric is not the same for all of its parts. -/
theorem byFabric_splitZeros : splitState.byFabric splitZeros.dst = false ∧ splitState.byFabric (splitZeros.dst + 1) = true := by
  decide +kernel

/-- The second byte alone goes out in a packet. -/
theorem splitPart_sendsPacket :
    (stateAfter splitState (.copyCompletion false (0 + 2 ^ 32 * 1 + 2 ^ 64 * 1))).packets.length = 1 := by decide +kernel

end Sys2Proof.Machine

/-- Refutes O41: its first clause asks of a segment that its first byte does not go by the fabric, and says of every part of it that no
packet goes out. A part whose own first byte lies in the scratchpad of a further cluster does go out in one. -/
theorem not_copiesLand : ¬ Obligations.CopiesLand := by
  unfold Obligations.CopiesLand
  rintro ⟨hpart, -⟩
  obtain ⟨hmode, hland⟩ := splitZeros_mayLand
  obtain ⟨t, ht, -, -, -, -, -, -, -, -, hpackets⟩ := hpart false 0 1 1 splitState splitCopy 0 splitZeros splitCopy_isItem (by decide)
    (by decide) (by decide) hmode hland rfl rfl byFabric_splitZeros.1 rfl rfl (fun _ h => nomatch h) rfl rfl (fun h => absurd h (by decide))
    (fun h => nomatch h) (fun h => nomatch h) (fun _ h => nomatch h)
  have hsent := splitPart_sendsPacket
  rw [stateAfter_eq ht, hpackets] at hsent
  exact absurd hsent (by decide)
end

section
/-! The statement on the operations of the frame engine, and the storage that refutes it. -/

open Sys2Proof Sys2Proof.Machine

namespace Sys2Proof.Machine

/-- The load of one byte of memory into the idle bank of cluster 0. -/
def byteLoad : Seg := pageMove 0x1000 (Loc.spad 0 0) 1

/-- An FRLD at the head of the frame engine's queue that loads this byte into bank 0. -/
def byteLoadOp : EngineOp :=
  { uid := 0, seq := 0, eng := 4, pc := 0#48, slack := 0#10, instr := .frld ⟨0, 0, false⟩, rep := 1, shape := Shape.reset, addrs := []
    regs := [], locks := [], busy := [], segs := [byteLoad], extra := [0], old := [], writes := [] }

/-- Storage that is not in canonical form: it lists the byte twice, as 1 and behind that as 2. -/
def listedTwice : State :=
  { State.reset with
    mem := [(0x1000, 1#8), (0x1000, 2#8)]
    core := { State.reset.core with ops := [byteLoadOp], bank0 := { BankDesc.empty with state := 1 } } }

/-- The byte reads as it is listed first. -/
theorem byte_listedTwice : listedTwice.byte byteLoad.src = 1#8 := by decide +kernel

/-- A copy of listed bytes leaves what is listed last. -/
theorem frameOperationDone_listedTwice : (stateAfter listedTwice .frameOperationDone).byte (byteLoad.dst + 0) = 2#8 := by decide +kernel

end Sys2Proof.Machine

/-- Refutes O44: no premise asks for storage in canonical form, and where a byte is listed twice a load brings another one than its source
reads as. -/
theorem not_frameOperationsPerform : ¬ Obligations.FrameOperationsPerform := by
  unfold Obligations.FrameOperationsPerform
  rintro ⟨-, -, -, -, -, -, hload, -⟩
  obtain ⟨t, ht, hbytes, -⟩ := hload listedTwice byteLoadOp ⟨0, 0, false⟩ byteLoad 0 rfl rfl rfl rfl rfl rfl rfl (by decide +kernel)
    (by decide) (by decide) (by decide) (by decide)
  have hbyte := frameOperationDone_listedTwice
  rw [stateAfter_eq ht, hbytes 0 (by decide), Nat.add_zero, byte_listedTwice] at hbyte
  exact absurd hbyte (by decide)
end

section
/-! SUPPORT. The controllers' view of their launch queues, their decision and their DEQ (R367, R417, R418, R421, R424). -/

namespace Sys2Proof.Machine

variable (s : State) (die : Bool) (n : BitVec 6)

/-! ### What a controller holds of a queue -/

/-- The queue that a controller of `die` holds under number `n`. -/
def LaunchQueue.named (q : LaunchQueue) (die : Bool) (n : BitVec 6) : Prop := q.die = die ∧ q.n = n

theorem State.lq_named : (s.lq die n).named die n := by
  unfold State.lq
  cases h : s.launchQueues.find? fun q => q.die == die && q.n == n with
  | none => exact ⟨rfl, rfl⟩
  | some q => simpa [LaunchQueue.named] using List.find?_some h

/-- A change of one queue that leaves its name is seen there and nowhere else. -/
theorem State.lq_updLq {f : LaunchQueue → LaunchQueue} (hf : (f (s.lq die n)).named die n) (d : Bool) (m : BitVec 6) :
    (s.updLq die n f).lq d m = if d = die ∧ m = n then f (s.lq die n) else s.lq d m := by
  obtain ⟨hd, hn⟩ := hf
  let rest := s.launchQueues.filter fun q => !(q.die == die && q.n == n)
  have hlq : (s.updLq die n f).lq d m = ((if f (s.lq die n) = ⟨die, n, [], none, none, false⟩ then rest else f (s.lq die n) :: rest).find?
      fun q => q.die == d && q.n == m).getD ⟨d, m, [], none, none, false⟩ := rfl
  rw [hlq]
  by_cases h : d = die ∧ m = n
  · obtain ⟨rfl, rfl⟩ := h
    have hrest : rest.find? (fun q => q.die == d && q.n == m) = none := List.find?_eq_none.mpr fun q hq => by
      simpa [← not_and_or] using (List.mem_filter.mp hq).2
    rw [if_pos (And.intro rfl rfl)]
    by_cases hdef : f (s.lq d m) = ⟨d, m, [], none, none, false⟩
    · rw [if_pos hdef, hrest, hdef, Option.getD_none]
    · simp [hdef, hd, hn]
  · have hrest : rest.find? (fun q => q.die == d && q.n == m) = s.launchQueues.find? fun q => q.die == d && q.n == m := by
      rw [List.find?_filter]
      congr 1
      funext q
      by_cases hq : q.die = d ∧ q.n = m
      · obtain ⟨rfl, rfl⟩ := hq
        simpa [← not_and_or] using h
      · have hq' : (q.die == d && q.n == m) = false := by simpa using hq
        simp [hq']
    have hname : ¬(die = d ∧ n = m) := fun hc => h ⟨hc.1.symm, hc.2.symm⟩
    rw [if_neg h]
    split
    · rw [hrest, State.lq]
    · rw [List.find?_cons_of_neg (by simpa [hd, hn] using hname), hrest, State.lq]

/-! ### The background read (R367, R417, R418) -/

/-- What the controller holds of a queue once a background read has shown it `x` in the state `s`. -/
def LaunchQueue.sees (q : LaunchQueue) (s : State) (x : Except Nat (Option (Nat × List Byte))) : LaunchQueue :=
  match x with
  | .error 0 => { q with head := none }
  | .error _ => { q with head := none, failing := true }
  | .ok none => { q with head := none, failing := false }
  | .ok (some (h, r)) => { q with
      failing := false
      head := match q.head with
        | some (h', c) => if h' = h ∧ c.record = r then some (h', c) else some (h, s.queued r none none)
        | none => some (h, s.queued r none none) }

theorem LaunchQueue.sees_named {q : LaunchQueue} (h : q.named die n) (x : Except Nat (Option (Nat × List Byte))) :
    (q.sees s x).named die n := by
  unfold LaunchQueue.sees
  split <;> exact h

theorem LaunchQueue.sees_error (q : LaunchQueue) {why : Nat} (h : why ≠ 0) :
    (q.sees s (.error why)).head = none ∧ (q.sees s (.error why)).failing = true := by
  obtain ⟨k, rfl⟩ := Nat.exists_eq_succ_of_ne_zero h
  exact ⟨rfl, rfl⟩

/-- R418: the head that is there is seen with its HEAD count and its record, as before if it is the same. -/
theorem LaunchQueue.sees_head (q : LaunchQueue) (h : Nat) (r : List Byte) :
    ∃ c, (q.sees s (.ok (some (h, r)))).head = some (h, c) ∧ c.record = r := by
  have hnew : ∃ c, some (h, s.queued r none none) = some (h, c) ∧ c.record = r := ⟨_, rfl, rfl⟩
  cases hq : q.head with
  | none => simpa [LaunchQueue.sees, hq] using hnew
  | some p =>
    obtain ⟨h', c⟩ := p
    by_cases hsame : h' = h ∧ c.record = r
    · exact ⟨c, by simp [LaunchQueue.sees, hq, hsame], hsame.2⟩
    · simpa [LaunchQueue.sees, hq, hsame] using hnew

/-- A background read changes what the controller holds of its queue; where it reports the queue, a record goes out. -/
theorem State.seeHead_eq : ∃ d r u, s.seeHead die n
    = { s.updLq die n fun q => q.sees s (s.queueHead die n.toNat) with dev := d, reqs := r, uid := u } := by
  unfold State.seeHead
  match s.queueHead die n.toNat with
  | .ok none => exact ⟨_, _, _, rfl⟩
  | .ok (some (_, _)) => exact ⟨_, _, _, rfl⟩
  | .error 0 => exact ⟨_, _, _, rfl⟩
  | .error (k + 1) =>
    dsimp only
    by_cases hf : (s.lq die n).failing = true
    · exact ⟨_, _, _, if_pos hf⟩
    · obtain ⟨d, r, u, h, -⟩ := (s.updLq die n fun q => { q with head := none, failing := true }).sendHost_eq 6 0 die
        (leBytes 8 (1 + (k + 1) * 2 ^ 8 + n.toNat * 2 ^ 16 + (if die then 2 ^ 22 else 0)))
      exact ⟨d, r, u, (if_neg hf).trans h⟩

theorem State.lq_seeHead (d : Bool) (m : BitVec 6) : (s.seeHead die n).lq d m
    = if d = die ∧ m = n then (s.lq die n).sees s (s.queueHead die n.toNat) else s.lq d m := by
  obtain ⟨_, _, _, h⟩ := s.seeHead_eq die n
  rw [h]
  exact s.lq_updLq die n (f := fun q => q.sees s (s.queueHead die n.toNat)) (LaunchQueue.sees_named s die n (s.lq_named die n) _) d m

theorem State.seeHead_frame : (s.seeHead die n).mem = s.mem ∧ (s.seeHead die n).core = s.core
    ∧ (s.seeHead die n).launches = s.launches := by
  obtain ⟨_, _, _, h⟩ := s.seeHead_eq die n
  rw [h]
  exact ⟨rfl, rfl, rfl⟩

/-- R417: a queue without storage for its block, or with a block of zeros, is not used. -/
theorem State.queueHead_unused {k : Nat} (h : (isRaw (s.queuePa die k) && isRaw (s.queuePa die k + 63)) = false
    ∨ ∀ i < 64, s.byte (s.queuePa die k + i) = 0#8) : s.queueHead die k = .error 0 := by
  refine if_pos ?_
  rcases h with h | h
  · simp [h]
  · have hz : (s.bytes (s.queuePa die k) 64).all (· == 0#8) = true := by
      rw [State.bytes_eq_map]
      simpa using h
    simp [hz]

/-- R417: what a read of a used queue gives. -/
theorem State.queueHead_used {k : Nat} (hlo : isRaw (s.queuePa die k) = true) (hhi : isRaw (s.queuePa die k + 63) = true)
    (hb : ∃ i < 64, s.byte (s.queuePa die k + i) ≠ 0#8) : s.queueHead die k =
      if s.qcbReason (s.queuePa die k) ≠ 0 then .error (s.qcbReason (s.queuePa die k))
      else if (s.qcb (s.queuePa die k)).code ≠ 4 then .error 0x11
      else match s.dataArea (s.queuePa die k) (s.devGet 0x122) true false with
        | .error _ => .error 0x0B
        | .ok data => if (s.qcb (s.queuePa die k)).free = (s.qcb (s.queuePa die k)).capacity then .ok none
          else .ok (some ((s.qcb (s.queuePa die k)).head, (s.headElem (s.queuePa die k) data).1)) := by
  have hz : (s.bytes (s.queuePa die k) 64).all (· == 0#8) = false := by
    rw [State.bytes_eq_map]
    simpa using hb
  exact if_neg (by simp [hlo, hhi, hz])

/-! ### The order of candidates (R424) -/

theorem Candidate.mem_insert {c x : Candidate} (q : BitVec 6) {l : List Candidate} : x ∈ c.insert q l ↔ x = c ∨ x ∈ l := by
  induction l with
  | nil => simp [Candidate.insert]
  | cons d t ih =>
    unfold Candidate.insert
    split
    · simp
    · simp only [List.mem_cons, ih]
      tauto

theorem Candidate.insert_pairwise (c : Candidate) (q : BitVec 6) {l : List Candidate} (h : l.Pairwise fun a b => a.rank q ≤ b.rank q) :
    (c.insert q l).Pairwise fun a b => a.rank q ≤ b.rank q := by
  induction l with
  | nil => simp [Candidate.insert]
  | cons d t ih =>
    obtain ⟨hd, ht⟩ := List.pairwise_cons.mp h
    unfold Candidate.insert
    split
    case isTrue hle => exact List.pairwise_cons.mpr ⟨List.forall_mem_cons.mpr ⟨hle, fun x hx => hle.trans (hd x hx)⟩, h⟩
    case isFalse hlt =>
      refine List.pairwise_cons.mpr ⟨fun x hx => ?_, ih ht⟩
      rcases (Candidate.mem_insert q).mp hx with rfl | hx
      · exact Nat.le_of_not_le hlt
      · exact hd x hx

theorem State.candidates_pairwise :
    (s.candidates die).Pairwise fun a b => a.rank (s.ctl die).lastQ ≤ b.rank (s.ctl die).lastQ := by
  unfold State.candidates
  generalize s.gangCandidates die ++ _ = l
  induction l with
  | nil => exact .nil
  | cons c t ih => exact c.insert_pairwise _ ih

/-! ### Controllers -/

theorem State.ctl_updCtl (f : Controller → Controller) : (s.updCtl die f).ctl die = f (s.ctl die) := by
  cases die <;> rfl

theorem State.updCtl_eq_self {f : Controller → Controller} (h : f (s.ctl die) = s.ctl die) : s.updCtl die f = s := by
  cases die
  · exact congrArg (fun c => ({ s with east := c } : State)) h
  · exact congrArg (fun c => ({ s with west := c } : State)) h

theorem State.lq_updCtl (f : Controller → Controller) (d : Bool) (m : BitVec 6) : (s.updCtl die f).lq d m = s.lq d m := by
  cases die <;> rfl

/-! ### The decision (R421, R424) -/

/-- R424: a single candidate is considered once, when its priority comes. -/
theorem State.considerAt_single (c : Candidate) :
    (List.range 8).foldl (State.considerAt die [c]) s = s.consider c := by
  have hat (t : State) (i : Nat) : State.considerAt die [c] t i = if c.prio.toNat = 7 - i then t.consider c else t := by
    by_cases h : c.prio.toNat = 7 - i
    · have hf : [c].filter (fun c => c.prio.toNat == 7 - i) = [c] := by simp [h]
      simp only [State.considerAt, hf, if_pos h]
      rfl
    · have hf : [c].filter (fun c => c.prio.toNat == 7 - i) = [] := by simp [h]
      simp only [State.considerAt, hf, if_neg h]
      rfl
  have hp := c.prio.isLt
  have hr : List.range 8 = [0, 1, 2, 3, 4, 5, 6, 7] := rfl
  simp only [hr, List.foldl_cons, List.foldl_nil, hat]
  interval_cases c.prio.toNat <;> rfl

variable {s die}

theorem State.reservedFor_eq_nil {c : Candidate} (h : (s.ctl c.die).reserved = []) : s.reservedFor c = [] := by
  simp [State.reservedFor, h]

/-- R418: a record at the head of its queue waits for its DEQ once it is chosen. -/
theorem State.chooseRecord_head {c : Candidate} (h : (s.lq c.die c.n).held = []) (r : QueuedRecord) (l : Launch) :
    s.chooseRecord c r l = s.updLq c.die c.n fun q => { q with deciding := some l } := if_pos (by simp [h])

/-- R424: a record that is not refused, whose resources are free and not reserved, is chosen, and its queue is the one last placed. -/
theorem State.consider_places {c : Candidate} {r : QueuedRecord} (hw : c.what = .record r) (href : s.candRefusal c.die c.n r = 0)
    (hres : (s.ctl c.die).reserved = []) (hheld : (s.lq c.die c.n).held = [])
    (hfree : s.holders ((gangsOf 0 (imgDescs ((s.readImage r.record).getD []))).flatMap (·.resources)) = []) :
    ∃ l, ((s.consider c).lq c.die c.n).deciding = some l ∧ l.record = r.record
      ∧ l.gangs = gangsOf 0 (imgDescs ((s.readImage r.record).getD [])) ∧ l.phase = .starting ∧ l.prio = c.prio
      ∧ ((s.consider c).ctl c.die).lastQ = c.n := by
  let t := s.updCtl c.die fun k => { k with lastQ := c.n, reserved := k.reserved.filter fun p => p.2 != c.n }
  let l := t.newLaunch c r ((s.readImage r.record).getD []) (gangsOf 0 (imgDescs ((s.readImage r.record).getD []))) 0
  have hcons : s.consider c = t.chooseRecord c r l := by simp [State.consider, hw, href, hfree, State.reservedFor_eq_nil hres, t, l]
  rw [State.chooseRecord_head (by rw [State.lq_updCtl]; exact hheld)] at hcons
  refine ⟨l, ?_, rfl, rfl, rfl, rfl, ?_⟩
  · rw [hcons, State.lq_updLq _ _ _ (State.lq_named ..), if_pos (And.intro rfl rfl)]
  · rw [hcons]
    exact congrArg Controller.lastQ (State.ctl_updCtl ..)

theorem Controller.filter_reserved_eq_self {k : Controller} (h : k.reserved = []) (p : Nat × BitVec 6 → Bool) :
    { k with reserved := k.reserved.filter p } = k := by
  cases k
  cases h
  rfl

/-- What a decision begins with: every queue's head is seen, and records that wait for another are held. -/
def State.allSeen (s : State) (die : Bool) : State := queueNumbers.foldl (fun s n => (s.seeHead die n).holdRecord die n) s

theorem execPlacementDecision_idle (h : (s.ctl die).places = false) : exec (.placementDecision die) s = .next s :=
  if_pos (by simp [h])

theorem execPlacementDecision_single {c : Candidate} (h : (s.ctl die).places = true) (hc : (s.allSeen die).candidates die = [c])
    (hres : ((s.allSeen die).ctl die).reserved = []) : exec (.placementDecision die) s = .next ((s.allSeen die).consider c) := by
  have hkeep : ((s.allSeen die).updCtl die fun k => { k with reserved := k.reserved.filter fun p => [c].any fun c => c.n == p.2
      && match c.what with | .record _ => true | .gang .. => false }) = s.allSeen die :=
    State.updCtl_eq_self _ _ (Controller.filter_reserved_eq_self hres _)
  have he : exec (.placementDecision die) s = .next ((List.range 8).foldl (State.considerAt die ((s.allSeen die).candidates die))
      ((s.allSeen die).updCtl die fun k => { k with reserved := k.reserved.filter fun p => ((s.allSeen die).candidates die).any fun c => c.n == p.2
        && match c.what with | .record _ => true | .gang .. => false })) := if_neg (by simp [h])
  rw [he, hc, State.considerAt_single]
  exact congrArg (fun t => Host.Outcome.next (State.consider t c)) hkeep

/-! ### The DEQ (R418) -/

/-- The queue of a die whose DEQ is on its way, with the launch it is for. -/
def State.nextDequeue (s : State) (die : Bool) : Option (BitVec 6 × Launch) :=
  s.launchQueues.findSome? fun q => if q.die == die then q.deciding.map fun l => (q.n, l) else none

/-- What the DEQ of queue `n` gives. -/
def State.dequeued (s : State) (die : Bool) (n : BitVec 6) : State × Option (List Byte) :=
  (s.updLq die n fun q => { q with deciding := none, head := none }).dequeueRecord die n

theorem execLaunchRecordDequeued_none (h : s.nextDequeue die = none) : exec (.launchRecordDequeued die) s = .next s := by
  show execLaunchRecordDequeued die s = _
  unfold execLaunchRecordDequeued
  rw [show (s.launchQueues.findSome? _) = none from h]

theorem execLaunchRecordDequeued_waits {n : BitVec 6} {l : Launch} (h : s.nextDequeue die = some (n, l))
    (hw : (s.ctl die).stopped = true ∨ s.deqWaits die n (imageSlack l.image) = true) : exec (.launchRecordDequeued die) s = .next s := by
  show execLaunchRecordDequeued die s = _
  unfold execLaunchRecordDequeued
  rw [show (s.launchQueues.findSome? _) = some (n, l) from h]
  exact if_pos (by simpa using hw)

section
variable {n : BitVec 6} {l : Launch} (h : s.nextDequeue die = some (n, l)) (hs : (s.ctl die).stopped = false)
  (hw : s.deqWaits die n (imageSlack l.image) = false)
include h hs hw

theorem execLaunchRecordDequeued_empty (hd : (s.dequeued die n).2 = none) :
    exec (.launchRecordDequeued die) s = .next (s.dequeued die n).1 := by
  show execLaunchRecordDequeued die s = _
  unfold execLaunchRecordDequeued
  rw [show (s.launchQueues.findSome? _) = some (n, l) from h]
  refine (if_neg (by simp [hs, hw])).trans ?_
  show (match s.dequeued die n with | (s, none) => _ | (s, some r) => _) = _
  generalize s.dequeued die n = p at hd ⊢
  obtain ⟨t, r⟩ := p
  cases hd
  rfl

/-- R418, R434: the record decided for is a launch with the next LID, unless it had one. -/
theorem execLaunchRecordDequeued_launch (hd : (s.dequeued die n).2 = some l.record) (hl : (s.lq die n).head.bind (·.2.lid) = none) :
    exec (.launchRecordDequeued die) s = let t := (s.dequeued die n).1
      .next { (t.takeLid die).2 with launches := t.launches ++ [{ l with lid := (t.ctl die).nextLid }] } := by
  show execLaunchRecordDequeued die s = _
  unfold execLaunchRecordDequeued
  rw [show (s.launchQueues.findSome? _) = some (n, l) from h]
  refine (if_neg (by simp [hs, hw])).trans ?_
  show (match s.dequeued die n with | (s, none) => _ | (s, some r) => _) = _
  generalize s.dequeued die n = p at hd ⊢
  obtain ⟨t, r⟩ := p
  cases hd
  refine (if_pos rfl).trans ?_
  rw [hl]
  cases die <;> rfl

end

theorem State.takeLid_mem (s : State) (die : Bool) : (s.takeLid die).2.mem = s.mem := by cases die <;> rfl

end Sys2Proof.Machine
end

section
/-! SUPPORT. The start of a launch (R88, R89, R435). -/

namespace Sys2Proof.Machine

variable (s : State)

/-! ### Storage alone -/

theorem StorageOnly.coreAt {s t : State} (h : StorageOnly s t) (id : BitVec 7) : t.coreAt id = s.coreAt id := by
  obtain ⟨_, _, _, _, _, _, _, _, rfl⟩ := h
  rfl

theorem StorageOnly.launches {s t : State} (h : StorageOnly s t) : t.launches = s.launches := by
  obtain ⟨_, _, _, _, _, _, _, _, rfl⟩ := h
  rfl

/-- A status word goes to memory or out over a channel. -/
theorem State.putStatus_cases (r : List Byte) (v : Nat) : s.putStatus r v = s
    ∨ (∃ pa, isRaw pa = true ∧ s.putStatus r v = s.performWrite none pa (leBytes 8 v))
    ∨ ∃ q u, s.putStatus r v = { s with reqs := q, uid := u } := by
  unfold State.putStatus
  dsimp only
  split
  · exact .inl rfl
  · split
    · exact .inl rfl
    · split
      · exact .inl rfl
      · split
        · exact .inr (.inl ⟨_, ‹_›, rfl⟩)
        · split
          · exact .inr (.inr ⟨_, _, rfl⟩)
          · exact .inl rfl

theorem State.putStatus_storageOnly (r : List Byte) (v : Nat) : StorageOnly s (s.putStatus r v) := by
  rcases s.putStatus_cases r v with h | ⟨pa, hraw, h⟩ | ⟨q, u, h⟩
  · rw [h]
    exact .refl s
  · rw [h]
    exact (s.performWrite_raw hraw _).2
  · rw [h]
    exact ⟨_, _, _, _, _, _, _, _, rfl⟩

/-- Nothing that lies in a scratchpad or a store changes with a status word. -/
theorem State.byte_putStatus (r : List Byte) (v : Nat) {l : Nat} (h : 2 ^ 46 ≤ l) : (s.putStatus r v).byte l = s.byte l := by
  rcases s.putStatus_cases r v with he | ⟨pa, hraw, he⟩ | ⟨q, u, he⟩
  · rw [he]
  · have hpa : pa < 0xC000000000 := of_decide_eq_true hraw
    rw [he, State.byte_of_mem (s.performWrite_raw hraw _).1, State.byte_write_outside]
    exact .inr (by rw [length_leBytes]; omega)
  · rw [he]
    rfl

/-! ### Tables of a launch image -/

theorem Cells.get_foldl_put {w : Nat} {d : BitVec w} (m : Cells w) (lo : Nat) (f : Nat → BitVec w) (n i : Nat) :
    Cells.get d ((List.range n).foldl (fun m k => Cells.put d m (lo + k) (f k)) m) i
      = if lo ≤ i ∧ i < lo + n then f (i - lo) else Cells.get d m i := by
  induction n with
  | zero => simp
  | succ n ih =>
    rw [List.range_succ, List.foldl_append, List.foldl_cons, List.foldl_nil, Cells.get_put, ih]
    by_cases h : i = lo + n
    · simp [h]
    · have : (lo ≤ i ∧ i < lo + (n + 1)) ↔ (lo ≤ i ∧ i < lo + n) := by omega
      simp only [h, this, if_false]

theorem get_tableOf {w : Nat} (d : BitVec w) (n : Nat) (f : Nat → Nat) {i : Nat} (h : i < n) :
    Cells.get d (tableOf d n f) i = BitVec.ofNat w (f i) := by
  have := Cells.get_foldl_put (d := d) [] 0 (fun k => BitVec.ofNat w (f k)) n i
  simp only [Nat.zero_add, Nat.zero_le, true_and, h, if_true, Nat.sub_zero] at this
  exact this

/-! ### A core as the launch leaves it (R88) -/

section
variable (c : CoreState) (l : Launch) (g : Gang) (k p : Nat)

/-- R196: the core, its matrix unit awake. -/
def CoreState.woken (c : CoreState) : CoreState := if (c.crGet 0x049).getLsbD 2 then c.wakeM else c

/-- The control registers that a launch without KEEP puts in place, in order. -/
def Launch.registers (c : CoreState) (l : Launch) (g : Gang) (k p : Nat) : List (Nat × Word64) :=
  let word (o : Nat) : Word64 := BitVec.ofNat 64 (numAt l.image o 8)
  let t0 := firstTile (imgTiles l.image) p (g.k0 + k)
  [(0x000, BitVec.ofNat 64 (if recSup l.record then 1 else 0)), (0x001, c.crGet 0x001),
    (0x04A, c.crGet 0x04A), (0x0C5, c.crGet 0x0C5), (0x018, recRoot l.record), (0x01A, BitVec.ofNat 64 (g.pbase + g.psize * 64)),
    (0x00E, BitVec.ofNat 64 g.banks.toNat), (0x00F, if k = 0 then g.frlq else 0#64), (0x046, word 0x08),
    (0x050, BitVec.ofNat 64 t0), (0x051, BitVec.ofNat 64 (firstTile (imgTiles l.image) p (g.k0 + k + 1) - t0)), (0x052, word 0x10),
    (0x053, word 0x18), (0x00D, word 0x78),
    (0x0C0, BitVec.ofNat 64 (l.lid.toNat + l.queue.toNat * 2 ^ 16 + if l.die then 2 ^ 22 else 0)),
    (0x0C1, BitVec.ofNat 64 (recTenant l.record)), (0x0C2, BitVec.ofNat 64 (recEvq l.record))]
    ++ (List.range 7).map fun i => (0x011 + i, if imgView l.image (i + 1) = 0#64 then Cr.reset (0x010 + (i + 1)) else imgView l.image (i + 1))

theorem CoreState.launched_id : (c.launched l g k p false).id = c.id := by
  unfold CoreState.launched
  split <;> simp [CoreState.reset, CoreState.wakeM]

theorem CoreState.launched_mode : (c.launched l g k p false).mode = .running := rfl

theorem CoreState.launched_pc : (c.launched l g k p false).pc = BitVec.ofNat 48 (recEntry l.record) := rfl

theorem CoreState.launched_bundles : (c.launched l g k p false).bundles = [] ∧ (c.launched l g k p false).loops = [] := by
  simp [CoreState.launched, CoreState.reset]

theorem CoreState.sReg_launched (n : BitVec 6) : (c.launched l g k p false).sReg n
    = if n = 1#6 then recArg l.record 0 else if n = 2#6 then recArg l.record 1 else 0#64 := by
  have hs : (c.launched l g k p false).s = (((CoreState.reset c.id).setS 1#6 (recArg l.record 0)).setS 2#6 (recArg l.record 1)).s := by
    simp [CoreState.launched, CoreState.reset]
  rw [CoreState.sReg, hs]
  refine (CoreState.sReg_setS _ _ _ n).trans ?_
  rw [CoreState.sReg_setS]
  by_cases h2 : n = 2#6
  · subst h2
    rfl
  · simp only [h2, if_false]
    rfl

theorem CoreState.xReg_launched (n : BitVec 4) :
    (c.launched l g k p false).xReg n = BitVec.ofNat 32 (numAt l.image (0x380 + 4 * n.toNat) 4) :=
  get_tableOf _ _ _ n.isLt

theorem CoreState.gReg_launched {n : BitVec 3} (h : n ≠ 0#3) :
    (c.launched l g k p false).gReg n = BitVec.ofNat 32 (numAt l.image (0x3C0 + 4 * n.toNat) 4) := by
  have hn : n.toNat ≠ 0 := fun h0 => h (BitVec.eq_of_toNat_eq h0)
  have hget := get_tableOf 0#32 8 (fun i => if i = 0 then 0 else numAt l.image (0x3C0 + 4 * i) 4) n.isLt
  rw [CoreState.gReg, if_neg h]
  exact hget.trans (by rw [if_neg hn])

/-- The core after reset but for the arguments of the launch. -/
def Launch.fresh (l : Launch) (id : BitVec 7) : CoreState :=
  (({ CoreState.reset id with s := [] } : CoreState).setS 1#6 (recArg l.record 0)).setS 2#6 (recArg l.record 1)

theorem CoreState.cr_launched :
    (c.launched l g k p false).cr = ((l.fresh c.woken.id).crPuts (Launch.registers c.woken l g k p)).cr := by
  simp only [CoreState.launched, Bool.false_eq_true, if_false, Nat.add_zero, Nat.zero_mul, List.append_nil, false_and, Launch.registers,
    CoreState.woken, Launch.fresh]

theorem CoreState.crGet_launched (n : Nat) : (c.launched l g k p false).crGet n
    = ((Launch.registers c.woken l g k p).reverse.lookup n).getD (Cr.reset n) := by
  have hfresh : (l.fresh c.woken.id).crGet n = Cr.reset n := by
    simp [CoreState.crGet, Launch.fresh, CoreState.reset]
  rw [← hfresh, ← CoreState.crGet_crPuts, CoreState.crGet, CoreState.cr_launched]
  rfl

/-- R88: STATUS, PTBR, the partition, the launch's number and the tenant. -/
theorem CoreState.crGet_launched_fixed : let c := c.launched l g k p false
    c.crGet 0 = (if recSup l.record = true then 1#64 else 0#64) ∧ c.crGet 0x018 = recRoot l.record
      ∧ c.crGet 0x01A = BitVec.ofNat 64 (g.pbase + g.psize * 64) ∧ c.crGet 0x0C1 = BitVec.ofNat 64 (recTenant l.record)
      ∧ c.crGet 0x0C0 = BitVec.ofNat 64 (l.lid.toNat + l.queue.toNat * 2 ^ 16 + if l.die = true then 2 ^ 22 else 0) := by
  simp only [CoreState.crGet_launched]
  refine ⟨?_, rfl, rfl, rfl, rfl⟩
  show BitVec.ofNat 64 (if recSup l.record = true then 1 else 0) = _
  split <;> rfl

/-- R88: a view that the image names. -/
theorem CoreState.crGet_launched_view {i : Nat} (h : i < 7) (hv : imgView l.image (i + 1) ≠ 0#64) :
    (c.launched l g k p false).crGet (0x011 + i) = imgView l.image (i + 1) := by
  rw [CoreState.crGet_launched]
  interval_cases i <;> exact if_neg hv

end

/-! ### A core among the others -/

/-- A core is there: the one whose turn it is or a parked one. -/
def State.hasCore (s : State) (id : BitVec 7) : Prop := id = s.core.id ∨ ∃ c ∈ s.parked, c.id = id

variable {s} {id : BitVec 7}

theorem State.hasCore.parked (h : s.hasCore id) (hc : ¬s.core.id = id) : ∃ d, s.parked.find? (·.id == id) = some d ∧ d.id = id := by
  obtain ⟨c, hmem, hcid⟩ := h.resolve_left (Ne.symm hc)
  obtain ⟨d, hd⟩ := Option.isSome_iff_exists.mp (List.find?_isSome.mpr ⟨c, hmem, by simp [hcid]⟩ : (s.parked.find? (·.id == id)).isSome)
  exact ⟨d, hd, by simpa using List.find?_some hd⟩

theorem State.coreAt_updCore (h : s.hasCore id) {f : CoreState → CoreState} (hf : ∀ c, (f c).id = c.id) :
    (s.updCore id f).coreAt id = f (s.coreAt id) := by
  unfold State.coreAt State.updCore
  by_cases hc : s.core.id = id
  · simp [hc, hf]
  · obtain ⟨d, hd, hdid⟩ := h.parked hc
    have hp : ((fun c => c.id == id) ∘ fun c => if (c.id == id) = true then f c else c) = fun c : CoreState => c.id == id := by
      funext x
      by_cases hx : x.id = id <;> simp [hx, hf]
    simp only [hc, if_false, List.find?_map, hp, hd]
    simp [hdid]

theorem State.hasCore_updCore {f : CoreState → CoreState} (hf : ∀ c, (f c).id = c.id) (k : BitVec 7) (h : s.hasCore id) :
    (s.updCore k f).hasCore id := by
  unfold State.updCore
  by_cases hc : s.core.id = k
  · rw [if_pos hc]
    exact h.imp (fun h => h.trans (hf _).symm) fun h => h
  · rw [if_neg hc]
    refine h.imp (fun h => h) fun ⟨c, hmem, hcid⟩ => ⟨if (c.id == k) = true then f c else c, List.mem_map.mpr ⟨c, hmem, rfl⟩, ?_⟩
    split
    · rw [hf, hcid]
    · exact hcid

theorem State.updCore_mem (s : State) (id : BitVec 7) (f : CoreState → CoreState) : (s.updCore id f).mem = s.mem := by
  unfold State.updCore
  split <;> rfl

/-- R134: a core that clears its L1 changes nothing else; turns are given back. -/
theorem State.asCore_l1Clear (h : s.hasCore id) : ((s.asCore id State.l1Clear).coreAt id = s.coreAt id)
    ∧ (s.asCore id State.l1Clear).mem = s.mem ∧ (s.asCore id State.l1Clear).launches = s.launches := by
  by_cases hc : s.core.id = id
  · subst hc
    simp [State.asCore, State.l1Clear, State.focus, State.coreAt]
  · obtain ⟨d, hd, hdid⟩ := h.parked hc
    have hdc : ¬id = s.core.id := Ne.symm hc
    simp [State.asCore, State.focus, hc, hd, State.l1Clear, hdc, State.coreAt, hdid]

/-! ### The start (R88, R435) -/

variable {l : Launch} {g : Gang}

theorem State.coreAt_zeroBytes (s : State) (a n : Nat) (k : BitVec 7) : (s.zeroBytes a n).coreAt k = s.coreAt k := rfl

theorem State.hasCore_zeroBytes {a n : Nat} (h : s.hasCore id) : (s.zeroBytes a n).hasCore id := h

theorem State.coreAt_updLaunch (s : State) (k : Nat) (f : Launch → Launch) (i : BitVec 7) :
    (s.updLaunch k f).coreAt i = s.coreAt i := rfl

theorem State.updLaunch_mem (s : State) (k : Nat) (f : Launch → Launch) : (s.updLaunch k f).mem = s.mem := rfl

/-- The storage that a launch of one core finds: its partition and its store read as zero. -/
def State.cleared (s : State) (g : Gang) (id : BitVec 7) : State :=
  (s.ticked.zeroBytes g.partAt (65536 * g.psize)).zeroBytes (Loc.store id.toNat 0) (2 ^ 20)

theorem State.coreAt_cleared (k : BitVec 7) : (s.cleared g id).coreAt k = s.coreAt k := by
  rw [State.cleared, State.coreAt_zeroBytes, State.coreAt_zeroBytes]
  rfl

theorem State.hasCore_cleared (h : s.hasCore id) : (s.cleared g id).hasCore id := by
  unfold State.cleared
  exact State.hasCore_zeroBytes (State.hasCore_zeroBytes h)

/-- What the start of a launch of one core without KEEP does before its status word is written. -/
def State.begin (s : State) (l : Launch) (g : Gang) (id : BitVec 7) : State :=
  let t := ((s.cleared g id).updCore id fun c => c.launched l g 0 1 false).asCore id State.l1Clear
  t.updLaunch l.key fun m => { m with phase := .running, gangs := m.gangs.map fun g => { g with billed := t.cycle } }

theorem State.startLaunch_single (hg : l.gangs = [g]) (hc : g.cores = [id]) (hk : recKeep l.record = false) :
    s.startLaunch l = (s.begin l g id).putStatus l.record (l.lid.toNat + 2 ^ 19) := by
  simp [State.startLaunch, State.begin, State.cleared, hg, hc, hk]

theorem State.coreAt_begin (h : s.hasCore id) : (s.begin l g id).coreAt id = (s.coreAt id).launched l g 0 1 false := by
  have hid (c : CoreState) : (c.launched l g 0 1 false).id = c.id := c.launched_id l g 0 1
  have hu : (s.cleared g id).hasCore id := State.hasCore_cleared h
  unfold State.begin
  rw [State.coreAt_updLaunch, (State.asCore_l1Clear (State.hasCore_updCore hid id hu)).1, State.coreAt_updCore hu hid,
    State.coreAt_cleared]

theorem State.byte_begin (h : s.hasCore id) (a : Nat) : (s.begin l g id).byte a
    = if Loc.store id.toNat 0 ≤ a ∧ a < Loc.store id.toNat 0 + 2 ^ 20 then 0#8
      else if g.partAt ≤ a ∧ a < g.partAt + 65536 * g.psize then 0#8 else s.byte a := by
  have hid (c : CoreState) : (c.launched l g 0 1 false).id = c.id := c.launched_id l g 0 1
  have hu : (s.cleared g id).hasCore id := State.hasCore_cleared h
  have hmem : (s.begin l g id).mem = (s.cleared g id).mem := by
    unfold State.begin
    rw [State.updLaunch_mem, (State.asCore_l1Clear (State.hasCore_updCore hid id hu)).2.1, State.updCore_mem]
  rw [State.byte_of_mem hmem, State.cleared, State.byte_zeroBytes, State.byte_zeroBytes]
  exact congrArg (ite _ _) (congrArg (ite _ _) (State.byte_of_mem rfl _))

theorem State.launches_begin : ∀ m ∈ (s.begin l g id).launches, m.key = l.key → m.phase = .running := by
  intro m hm hkey
  unfold State.begin at hm
  obtain ⟨m', -, rfl⟩ := List.mem_map.mp hm
  by_cases hk : m'.key = l.key
  · simp [hk]
  · have hne : (m'.key == l.key) = false := by simpa using hk
    rw [hne] at hkey
    exact absurd hkey hk

end Sys2Proof.Machine
end

section
/-! SUPPORT. What accounting leaves of launches, writes that count for nothing, the end of a launch (R430, R434, R440, R441). -/

namespace Sys2Proof.Machine

/-! ### Accounting -/

/-- A launch with other energy, another verdict and cause, and gangs billed at other times. -/
def Launch.Alike (l m : Launch) : Prop :=
  ∃ pj v c, ∃ f : Gang → Gang, (∀ g, ∃ b, f g = { g with billed := b })
    ∧ m = { l with picojoule := pj, verdict := v, cause := c, gangs := l.gangs.map f }

/-- A launch with the same verdict and cause, alike otherwise. -/
def Launch.Billed (l m : Launch) : Prop := l.Alike m ∧ m.verdict = l.verdict ∧ m.cause = l.cause

theorem Launch.alike_settled (l : Launch) (pj : Nat) (v : BitVec 2) (c : BitVec 8) :
    l.Alike { l with picojoule := pj, verdict := v, cause := c } :=
  ⟨pj, v, c, id, fun g => ⟨g.billed, rfl⟩, by rw [List.map_id]⟩

theorem Launch.Alike.refl (l : Launch) : l.Alike l := l.alike_settled l.picojoule l.verdict l.cause

theorem Launch.Alike.trans {l m n : Launch} (h : l.Alike m) (h' : m.Alike n) : l.Alike n := by
  obtain ⟨_, _, _, f, hf, rfl⟩ := h
  obtain ⟨pj, v, c, f', hf', rfl⟩ := h'
  refine ⟨pj, v, c, f' ∘ f, fun g => ?_, by simp⟩
  obtain ⟨b, hb⟩ := hf g
  obtain ⟨b', hb'⟩ := hf' (f g)
  exact ⟨b', by rw [Function.comp_apply, hb', hb]⟩

theorem Launch.Billed.refl (l : Launch) : l.Billed l := ⟨.refl l, rfl, rfl⟩

theorem Launch.Billed.trans {l m n : Launch} (h : l.Billed m) (h' : m.Billed n) : l.Billed n := by
  obtain ⟨ha, hv, hc⟩ := h
  obtain ⟨ha', hv', hc'⟩ := h'
  exact ⟨ha.trans ha', hv'.trans hv, hc'.trans hc⟩

/-- Launches are changed as `R` says, and what is charged, metered and counted; nothing else. -/
def Accounts (R : Launch → Launch → Prop) (s t : State) : Prop :=
  ∃ (f : Launch → Launch) (ch : Cells 96) (ms : Cells 64) (tk : Nat), (∀ l, R l (f l))
    ∧ t = { s with launches := s.launches.map f, charged := ch, meters := ms, tick := tk }

theorem Accounts.trans {R : Launch → Launch → Prop} (hR : ∀ {l m n}, R l m → R m n → R l n) {s t u : State}
    (h : Accounts R s t) (h' : Accounts R t u) : Accounts R s u := by
  obtain ⟨f, _, _, _, hf, rfl⟩ := h
  obtain ⟨f', ch, ms, tk, hf', rfl⟩ := h'
  exact ⟨f' ∘ f, ch, ms, tk, fun l => hR (hf l) (hf' (f l)), by simp⟩

theorem Accounts.mono {R R' : Launch → Launch → Prop} (hR : ∀ l m, R l m → R' l m) {s t : State} (h : Accounts R s t) : Accounts R' s t := by
  obtain ⟨f, ch, ms, tk, hf, he⟩ := h
  exact ⟨f, ch, ms, tk, fun l => hR _ _ (hf l), he⟩

theorem Accounts.counts {R : Launch → Launch → Prop} (hR : ∀ l, R l l) (s : State) (ch : Cells 96) (ms : Cells 64) (tk : Nat) :
    Accounts R s { s with charged := ch, meters := ms, tick := tk } :=
  ⟨id, ch, ms, tk, hR, by rw [List.map_id]⟩

theorem Accounts.refl {R : Launch → Launch → Prop} (hR : ∀ l, R l l) (s : State) : Accounts R s s :=
  .counts hR s s.charged s.meters s.tick

theorem Accounts.updLaunch {R : Launch → Launch → Prop} (hR : ∀ l, R l l) {f : Launch → Launch} (hf : ∀ l, R l (f l)) (s : State) (key : Nat) :
    Accounts R s (s.updLaunch key f) := by
  refine ⟨fun l => if l.key == key then f l else l, s.charged, s.meters, s.tick, fun l => ?_, rfl⟩
  dsimp only
  split
  · exact hf l
  · exact hR l

variable {s t : State}

theorem Accounts.core {R : Launch → Launch → Prop} (h : Accounts R s t) : t.core = s.core := by
  obtain ⟨_, _, _, _, _, rfl⟩ := h
  rfl

theorem Accounts.mem {R : Launch → Launch → Prop} (h : Accounts R s t) : t.mem = s.mem := by
  obtain ⟨_, _, _, _, _, rfl⟩ := h
  rfl

theorem Accounts.dev {R : Launch → Launch → Prop} (h : Accounts R s t) : t.dev = s.dev := by
  obtain ⟨_, _, _, _, _, rfl⟩ := h
  rfl

theorem Accounts.replies {R : Launch → Launch → Prop} (h : Accounts R s t) : t.replies = s.replies := by
  obtain ⟨_, _, _, _, _, rfl⟩ := h
  rfl

theorem Accounts.launches {R : Launch → Launch → Prop} (h : Accounts R s t) : ∃ f, (∀ l, R l (f l)) ∧ t.launches = s.launches.map f := by
  obtain ⟨f, _, _, _, hf, rfl⟩ := h
  exact ⟨f, hf, rfl⟩

theorem Launch.Alike.key {l m : Launch} (h : l.Alike m) : m.key = l.key := by
  obtain ⟨_, _, _, _, _, rfl⟩ := h
  rfl

theorem State.chargeMeter_accounts (s : State) (m pj : Nat) : Accounts Launch.Billed s (s.chargeMeter m pj) := by
  unfold State.chargeMeter
  split
  · exact .refl .refl s
  · exact .counts .refl s _ s.meters s.tick

/-- R441: a charge bills. -/
theorem State.charge_accounts (s : State) (key kind n : Nat) : Accounts Launch.Billed s (s.charge key kind n) := by
  unfold State.charge
  split
  · exact .refl .refl s
  · exact (Accounts.updLaunch .refl (fun l => ⟨l.alike_settled _ _ _, rfl, rfl⟩) s key).trans .trans (State.chargeMeter_accounts ..)

theorem State.bill_accounts (s : State) (key k0 now : Nat) :
    Accounts Launch.Billed s (s.updGang key k0 fun g => { g with billed := now }) := by
  refine Accounts.updLaunch .refl (fun l => ⟨⟨l.picojoule, l.verdict, l.cause, _, fun g => ?_, rfl⟩, rfl, rfl⟩) s key
  dsimp only
  split
  · exact ⟨now, rfl⟩
  · exact ⟨g.billed, rfl⟩

/-- R441: a gang's time up to `now` charged. -/
def State.billGang (now : Nat) (l : Launch) (s : State) (g : Gang) : State :=
  if g.placed && l.phase == .running then
    (s.charge l.key 14 ((now - g.billed) * g.cores.length)).updGang l.key g.k0 fun g => { g with billed := now } else s

/-- R441: the time of every gang charged. -/
def State.billAll (s : State) : State := s.launches.foldl (fun t l => l.gangs.foldl (State.billGang s.cycle l) t) s

theorem State.flush_eq (s : State) : s.flush = { s.billAll with
    meters := (List.range 128).foldl (fun m i =>
      Cells.put 0#64 m i (BitVec.ofNat 64 ((Cells.get 0#96 s.billAll.charged i).toNat / 1000))) s.billAll.meters } := rfl

theorem State.billGang_accounts (now : Nat) (l : Launch) (s : State) (g : Gang) : Accounts Launch.Billed s (s.billGang now l g) := by
  unfold State.billGang
  split
  · exact (s.charge_accounts ..).trans .trans (State.bill_accounts ..)
  · exact .refl .refl s

theorem State.flush_accounts (s : State) : Accounts Launch.Billed s s.flush := by
  have hall : Accounts Launch.Billed s s.billAll := List.foldlRecOn s.launches _ (.refl .refl s) fun t ht l _ =>
    List.foldlRecOn l.gangs _ ht fun u hu g _ => hu.trans .trans (u.billGang_accounts s.cycle l g)
  rw [s.flush_eq]
  exact hall.trans .trans (.counts .refl _ s.billAll.charged _ s.billAll.tick)

/-- R441: after an update each meter shows its nanojoules. -/
theorem State.meters_flush (s : State) {i : Nat} (h : i < 128) :
    Cells.get 0#64 s.flush.meters i = BitVec.ofNat 64 ((Cells.get 0#96 s.flush.charged i).toNat / 1000) := by
  have := Cells.get_foldl_put (d := 0#64) s.billAll.meters 0
    (fun i => BitVec.ofNat 64 ((Cells.get 0#96 s.billAll.charged i).toNat / 1000)) 128 i
  simp only [Nat.zero_add, Nat.zero_le, true_and, h, if_true, Nat.sub_zero] at this
  rw [s.flush_eq]
  exact this

theorem State.noteTaint_accounts (s : State) (l : Launch) (g : Gang) : Accounts Launch.Alike s (s.noteTaint l g) := by
  unfold State.noteTaint
  split
  · refine (Accounts.updLaunch .refl (fun m => ?_) s l.key).trans .trans
      (.counts .refl (State.taintLaunch s l.key _) s.charged s.meters (s.tick + 1))
    split
    · exact .refl m
    · exact m.alike_settled m.picojoule _ _
  · exact .refl .refl s

/-! ### Changes of storage -/

/-- Controllers, launches, the time, the replies and the core stand, but for what the core notes of its banks. -/
structure Still (s t : State) : Prop where
  dev : t.dev = s.dev
  launches : t.launches = s.launches
  time : t.time = s.time
  replies : t.replies = s.replies
  core : ∃ b0 b1, t.core = { s.core with bank0 := b0, bank1 := b1 }

theorem Still.refl (s : State) : Still s s := ⟨rfl, rfl, rfl, rfl, _, _, rfl⟩

theorem Still.trans {s t u : State} (h : Still s t) (h' : Still t u) : Still s u := by
  obtain ⟨b0, b1, hc⟩ := h.core
  obtain ⟨b0', b1', hc'⟩ := h'.core
  exact ⟨h'.dev.trans h.dev, h'.launches.trans h.launches, h'.time.trans h.time, h'.replies.trans h.replies, b0', b1', by rw [hc', hc]⟩

theorem Still.core_id {s t : State} (h : Still s t) : t.core.id = s.core.id := by
  obtain ⟨b0, b1, hc⟩ := h.core
  rw [hc]

theorem StorageOnly.still {s t : State} (h : StorageOnly s t) : Still s t := by
  obtain ⟨_, _, _, _, _, _, _, _, rfl⟩ := h
  exact ⟨rfl, rfl, rfl, rfl, _, _, rfl⟩

theorem CoreState.dirtyBank_banks (c : CoreState) (b : Bool) (loc n : Nat) :
    ∃ b0 b1, c.dirtyBank b loc n = { c with bank0 := b0, bank1 := b1 } := by
  unfold CoreState.dirtyBank
  dsimp only
  split
  · exact ⟨_, _, rfl⟩
  · cases b <;> exact ⟨_, _, rfl⟩

/-- R338: a write to a scratchpad is noted in the banks alone. -/
theorem State.noteSpad_still (s : State) (loc n : Nat) : Still s (s.noteSpad loc n) := by
  unfold State.noteSpad
  split
  · exact .refl s
  · refine ⟨rfl, rfl, rfl, rfl, ?_⟩
    dsimp only
    split
    · obtain ⟨b0, b1, h⟩ := s.core.dirtyBank_banks false loc n
      obtain ⟨b0', b1', h'⟩ := (s.core.dirtyBank false loc n).dirtyBank_banks true loc n
      exact ⟨b0', b1', by rw [h', h]⟩
    · exact ⟨_, _, rfl⟩

theorem State.write_still (s : State) (loc : Nat) (bs : List Byte) : Still s (s.write loc bs) := ⟨rfl, rfl, rfl, rfl, _, _, rfl⟩

/-- A write that is made for no launch, or outside physical memory, changes storage alone. -/
theorem State.performWrite_still (s : State) {key : Option Nat} {loc : Nat} (h : key = none ∨ isPhys loc = false) (bs : List Byte) :
    Still s (s.performWrite key loc bs) := by
  unfold State.performWrite
  split
  · exact .refl s
  · split
    case isTrue hp =>
      cases h.resolve_right (by simp [hp])
      obtain ⟨ls, hm⟩ := ((s.dropDecoded loc bs.length).write loc bs).markBytes_eq none loc bs.length
      dsimp only
      rw [hm]
      exact ⟨rfl, rfl, rfl, rfl, _, _, rfl⟩
    case isFalse => exact (s.write_still loc bs).trans (State.noteSpad_still ..)

/-! ### A launch that retires, and its completion (R430, R434) -/

/-- The launch of a die with an LID. -/
def State.theLaunch (s : State) (die : Bool) (lid : BitVec 16) : Option Launch := s.launches.find? fun l => l.die == die && l.lid == lid

theorem State.theLaunch_named {die : Bool} {lid : BitVec 16} {l : Launch} (h : s.theLaunch die lid = some l) : l.die = die ∧ l.lid = lid := by
  simpa using List.find?_some h

theorem Launch.key_eq_iff {l m : Launch} : m.key = l.key ↔ m.die = l.die ∧ m.lid = l.lid := by
  have hl := l.lid.isLt
  have hm := m.lid.isLt
  rw [BitVec.toNat_inj.symm]
  unfold Launch.key
  cases l.die <;> cases m.die <;> simp <;> omega

/-- R438: the digest of a launch is gathered from storage. -/
theorem State.collectDigest_still (s : State) (key : Nat) : Still s (s.collectDigest key).1 := by
  unfold State.collectDigest
  refine List.foldlRecOn s.digestEntries _ (motive := fun p : State × Nat => Still s p.1) (.refl s) fun p hp a _ => ?_
  dsimp only
  split
  · exact hp.trans (State.performWrite_still _ (.inl rfl) _)
  · exact hp

/-- What is left of a completion once its digest is gathered. -/
def State.finish (s : State) (l : Launch) : State :=
  let s := s.countChild l
  let s := { s with launches := s.launches.filter fun m => m.key != l.key }
  (s.putStatus l.record (l.lid.toNat + l.verdict.toNat * 2 ^ 16 + 2 ^ 18 + (if l.gangs.isEmpty then 0 else 2 ^ 19))).sendCompletion l

theorem State.complete_eq (s : State) (l : Launch) : ∃ t d, Still s.flush t
    ∧ s.complete l = t.finish { (s.flush.launches.find? fun m => m.key == l.key).getD l with digest := d } := by
  unfold State.complete
  dsimp only
  generalize (s.flush.launches.find? fun m => m.key == l.key).getD l = m
  split
  case isTrue => exact ⟨_, _, s.flush.collectDigest_still m.key, rfl⟩
  case isFalse => exact ⟨_, _, .refl _, rfl⟩

theorem State.launches_sendCompletion (s : State) (l : Launch) : (s.sendCompletion l).launches = s.launches := by
  unfold State.sendCompletion
  dsimp only
  split
  · rfl
  · split <;> rfl

theorem State.finish_launches (s : State) (l : Launch) : ∀ m ∈ (s.finish l).launches, m.key ≠ l.key := by
  unfold State.finish
  intro m hm
  rw [State.launches_sendCompletion, (State.putStatus_storageOnly ..).launches] at hm
  simpa using (List.mem_filter.mp hm).2

/-- R434: with a 64-byte completion queue the record is the last request to go out. -/
theorem State.sendCompletion_last (s : State) {l : Launch} (h : recCq l.record % 16 = 3) : ∃ r q, (s.sendCompletion l).reqs.getLast? = some r
    ∧ r.kind = .queue q ∧ q.op = .enq ∧ q.handle.toNat = recCq l.record % 2 ^ 64 ∧ q.elem = l.completion s.time := by
  have hto : (BitVec.ofNat 64 (recCq l.record)).toNat = recCq l.record % 2 ^ 64 := BitVec.toNat_ofNat ..
  have hne : BitVec.ofNat 64 (recCq l.record) ≠ 0#64 := fun h0 => by
    have := congrArg BitVec.toNat h0
    rw [hto, BitVec.toNat_ofNat] at this
    omega
  have hcode : bitsOf (BitVec.ofNat 64 (recCq l.record)) 0 4 = 3 := by
    rw [bitsOf, hto]
    omega
  unfold State.sendCompletion
  simp only [hne, hcode, if_false, ne_eq, not_true_eq_false]
  exact ⟨_, _, List.getLast?_concat .., rfl, rfl, hto, rfl⟩

theorem numAt_leBytes_append (n v : Nat) (t : List Byte) : numAt (leBytes n v ++ t) 0 n = v % 256 ^ n := by
  rw [numAt, List.drop_zero, List.take_left' (length_leBytes n v), leNat_leBytes]

theorem numAt_append_skip {bs : List Byte} {k : Nat} (h : bs.length = k) (t : List Byte) (o n : Nat) :
    numAt (bs ++ t) (k + o) n = numAt t o n := by
  rw [numAt, ← h, List.drop_append, List.drop_eq_nil_of_le (Nat.le_add_right ..), Nat.add_sub_cancel_left, List.nil_append, numAt]

/-- R434: the fields of a completion record. -/
theorem Launch.completion_fields (l : Launch) (time : Word64) : (l.completion time).length = 64
    ∧ numAt (l.completion time) 0 8 % 2 ^ 16 = l.lid.toNat ∧ numAt (l.completion time) 0 8 / 2 ^ 23 % 4 = l.verdict.toNat
    ∧ numAt (l.completion time) 8 8 = time.toNat ∧ numAt (l.completion time) 48 8 = l.cause.toNat := by
  have hlid := l.lid.isLt
  have hqueue := l.queue.isLt
  have hverdict := l.verdict.isLt
  have htime := time.isLt
  have hcause := l.cause.isLt
  have skip (v : Nat) (t : List Byte) (o n : Nat) : numAt (leBytes 8 v ++ t) (8 + o) n = numAt t o n :=
    numAt_append_skip (length_leBytes 8 v) t o n
  unfold Launch.completion
  simp only [word, List.append_assoc]
  refine ⟨by simp [length_leBytes], ?_, ?_, ?_, ?_⟩
  · rw [numAt_leBytes_append]
    split <;> split <;> split <;> split <;> omega
  · rw [numAt_leBytes_append]
    split <;> split <;> split <;> split <;> omega
  · rw [skip _ _ 0, numAt_leBytes_append]
    omega
  · rw [skip _ _ 40, skip _ _ 32, skip _ _ 24, skip _ _ 16, skip _ _ 8, skip _ _ 0, numAt_leBytes_append]
    omega

end Sys2Proof.Machine
end

section
/-! SUPPORT. LAUNCH_COMPLETE (R430, R434). -/

namespace Sys2Proof.Machine

variable {s t : State} {die : Bool} {lid : BitVec 16} {l : Launch}

/-- A change of launches that leaves their names leaves the order in which they are found. -/
theorem find?_map_named {f : Launch → Launch} (hf : ∀ l, (f l).die = l.die ∧ (f l).lid = l.lid) (ls : List Launch) :
    (ls.map f).find? (fun l => l.die == die && l.lid == lid) = (ls.find? fun l => l.die == die && l.lid == lid).map f := by
  rw [List.find?_map]
  congr 2
  funext l
  simp [hf l]

theorem find?_eq_some_of_imp {α : Type} {p q : α → Bool} {xs : List α} {x : α} (h : xs.find? p = some x) (hx : q x = true)
    (hqp : ∀ y, q y = true → p y = true) : xs.find? q = some x := by
  obtain ⟨-, as, bs, rfl, has⟩ := List.find?_eq_some_iff_append.mp h
  refine List.find?_eq_some_iff_append.mpr ⟨hx, as, bs, rfl, fun a ha => ?_⟩
  by_contra hq
  have := has a ha
  rw [hqp a (by simpa using hq)] at this
  exact absurd this (by decide)

theorem Accounts.theLaunch {R : Launch → Launch → Prop} (hR : ∀ l m, R l m → l.Alike m) (h : Accounts R s t)
    (hl : s.theLaunch die lid = some l) : ∃ m, t.theLaunch die lid = some m ∧ R l m := by
  obtain ⟨f, _, _, _, hf, rfl⟩ := h
  refine ⟨f l, ?_, hf l⟩
  refine (find?_map_named (fun l => ?_) s.launches).trans (congrArg (Option.map f) hl)
  obtain ⟨_, _, _, _, _, he⟩ := hR _ _ (hf l)
  rw [he]
  exact ⟨rfl, rfl⟩

theorem State.theLaunch_by_key (h : s.theLaunch die lid = some l) : s.launches.find? (·.key == l.key) = some l := by
  obtain ⟨hd, hi⟩ := State.theLaunch_named h
  refine find?_eq_some_of_imp h (by simp) fun m hm => ?_
  obtain ⟨hd', hi'⟩ := Launch.key_eq_iff.mp (by simpa using hm : m.key = l.key)
  simp [hd', hi', hd, hi]

/-- R430: a launch without a tail child puts none at the head of its queue. -/
theorem State.tailToHead_none (h : s.theLaunch die lid = some l) (hp : l.phase ≠ .retired) (ht : l.tail = none) :
    s.tailToHead l.key = s := by
  have hf : s.launches.find? (fun m => m.key == l.key && m.phase != .retired) = some l :=
    find?_eq_some_of_imp (s.theLaunch_by_key h) (by simp [hp]) fun m hm => by simp_all
  unfold State.tailToHead
  rw [hf]
  dsimp only
  rw [ht]

/-- R430: a launch that retires is there still, and has its tail as before. -/
theorem State.theLaunch_retireLaunch (h : s.theLaunch die lid = some l) (hp : l.phase ≠ .retired) (ht : l.tail = none) :
    ∃ m, (s.retireLaunch l).theLaunch die lid = some m ∧ m.tail = none := by
  have hacc : Accounts Launch.Alike s (l.gangs.foldl (fun s g => s.noteTaint l g) s.flush) :=
    List.foldlRecOn l.gangs _ (s.flush_accounts.mono fun _ _ h => h.1) fun t ht g _ => ht.trans .trans (t.noteTaint_accounts l g)
  obtain ⟨m, hm, halike⟩ := hacc.theLaunch (fun _ _ h => h) h
  have hmkey := halike.key
  obtain ⟨_, _, _, _, _, rfl⟩ := halike
  have hsame := State.tailToHead_none hm hp ht
  rw [hmkey] at hsame
  unfold State.retireLaunch
  dsimp only
  rw [hsame]
  refine ⟨_, (find?_map_named (fun l' => ?_) _).trans (congrArg (Option.map _) hm), ?_⟩
  · dsimp only
    split <;> exact ⟨rfl, rfl⟩
  · dsimp only
    split <;> exact ht

theorem execLaunchComplete_none (h : s.theLaunch die lid = none) : exec (.launchComplete die lid) s = .next s := by
  show execLaunchComplete die lid s = _
  unfold execLaunchComplete
  rw [State.theLaunch] at h
  simp only [h]

section
variable (h : s.theLaunch die lid = some l)
include h

theorem execLaunchComplete_some : exec (.launchComplete die lid) s =
    if (s.ctl die).stopped || (l.phase != .retired && !s.mayRetire l) then .next s
    else if s.windows.any (·.launch == l.key) then
      .next { s with windows := s.windows.map fun w => if w.launch = l.key then { w with closing := true, waits := none } else w }
    else match (if l.phase == .retired then s else s.retireLaunch l).theLaunch die lid with
      | none => .next (if l.phase == .retired then s else s.retireLaunch l)
      | some m => if m.tail.isSome && !m.tailDone then .next (if l.phase == .retired then s else s.retireLaunch l)
        else .next ((if l.phase == .retired then s else s.retireLaunch l).complete m) := by
  show execLaunchComplete die lid s = _
  unfold execLaunchComplete
  rw [State.theLaunch] at h
  simp only [h]
  rfl

theorem execLaunchComplete_waits (hw : (s.ctl die).stopped = true ∨ (l.phase ≠ .retired ∧ s.mayRetire l = false)) :
    exec (.launchComplete die lid) s = .next s := by
  rw [execLaunchComplete_some h]
  exact if_pos (by simpa using hw)

variable (hs : (s.ctl die).stopped = false) (hr : l.phase = .retired ∨ s.mayRetire l = true)
include hs hr

/-- R387: the windows of a launch that would end are closed first. -/
theorem execLaunchComplete_closes (hw : s.windows.any (·.launch == l.key) = true) : exec (.launchComplete die lid) s = .next { s with
    windows := s.windows.map fun w => if w.launch = l.key then { w with closing := true, waits := none } else w } := by
  rw [execLaunchComplete_some h, if_neg (by rcases hr with hr | hr <;> simp [hs, hr]), if_pos hw]

/-- R434: a launch without windows and tail child becomes complete. -/
theorem execLaunchComplete_completes (hw : s.windows.any (·.launch == l.key) = false) (ht : l.tail = none) :
    ∃ t m, exec (.launchComplete die lid) s = .next (t.complete m) ∧ m.key = l.key ∧ (l.phase = .retired → t = s ∧ m = l) := by
  rw [execLaunchComplete_some h, if_neg (by rcases hr with hr | hr <;> simp [hs, hr]), if_neg (by simp [hw])]
  by_cases hp : l.phase = .retired
  · refine ⟨s, l, ?_, rfl, fun _ => ⟨rfl, rfl⟩⟩
    simp [hp, h, ht]
  · obtain ⟨m, hm, hmt⟩ := State.theLaunch_retireLaunch h hp ht
    obtain ⟨hd, hi⟩ := State.theLaunch_named h
    obtain ⟨hd', hi'⟩ := State.theLaunch_named hm
    refine ⟨s.retireLaunch l, m, ?_, Launch.key_eq_iff.mpr ⟨hd'.trans hd.symm, hi'.trans hi.symm⟩, fun hp' => absurd hp' hp⟩
    simp [hp, hm, hmt]

end

/-- R434: a complete launch is gone. -/
theorem State.launches_complete (s : State) (l : Launch) : ∀ m ∈ (s.complete l).launches, m.key ≠ l.key := by
  obtain ⟨t, d, -, he⟩ := s.complete_eq l
  rw [he]
  have hkey : ((s.flush.launches.find? fun m => m.key == l.key).getD l).key = l.key := by
    cases hf : s.flush.launches.find? fun m => m.key == l.key with
    | none => rfl
    | some m => simpa using List.find?_some hf
  exact fun m hm hk => t.finish_launches _ m hm (hk.trans hkey.symm)

/-- R434: the last request of a completion is its record. -/
theorem State.complete_last (h : s.theLaunch die lid = some l) (hcq : recCq l.record % 16 = 3) (hpar : recParent l.record = none) :
    ∃ r q, (s.complete l).reqs.getLast? = some r ∧ r.kind = .queue q ∧ q.op = .enq ∧ q.handle.toNat = recCq l.record % 2 ^ 64
      ∧ q.elem.length = 64 ∧ numAt q.elem 0 8 % 2 ^ 16 = l.lid.toNat ∧ numAt q.elem 0 8 / 2 ^ 23 % 4 = l.verdict.toNat
      ∧ numAt q.elem 8 8 = s.time.toNat ∧ numAt q.elem 48 8 = l.cause.toNat := by
  obtain ⟨m, hm, ⟨halike, hverdict, hcause⟩⟩ := s.flush_accounts.theLaunch (fun _ _ h => h.1) h
  obtain ⟨u, d, hstill, he⟩ := s.complete_eq l
  have hfind := State.theLaunch_by_key hm
  rw [halike.key] at hfind
  rw [hfind, Option.getD_some] at he
  have htime : u.time = s.time := hstill.time.trans (by obtain ⟨_, _, _, _, _, he⟩ := s.flush_accounts; rw [he])
  obtain ⟨hrec, hlid⟩ : m.record = l.record ∧ m.lid = l.lid := by
    obtain ⟨_, _, _, _, _, rfl⟩ := halike
    exact ⟨rfl, rfl⟩
  have hnochild : u.countChild { m with digest := d } = u := by
    unfold State.countChild
    rw [show recParent ({ m with digest := d } : Launch).record = none from (congrArg recParent hrec).trans hpar]
  rw [he, State.finish, hnochild]
  generalize hv : State.putStatus _ _ _ = v
  have hvt : v.time = s.time := by
    rw [← hv, (State.putStatus_storageOnly ..).still.time]
    exact htime
  obtain ⟨r, q, hr, hq, hop, hh, hel⟩ := v.sendCompletion_last (l := { m with digest := d }) ((congrArg (recCq · % 16) hrec).trans hcq)
  obtain ⟨hlen, hl, hve, hti, hca⟩ := Launch.completion_fields { m with digest := d } v.time
  rw [← hel] at hlen hl hve hti hca
  exact ⟨r, q, hr, hq, hop, hh.trans (congrArg (recCq · % 2 ^ 64) hrec), hlen, hl.trans (congrArg BitVec.toNat hlid),
    hve.trans (congrArg BitVec.toNat hverdict), hti.trans (congrArg BitVec.toNat hvt), hca.trans (congrArg BitVec.toNat hcause)⟩

end Sys2Proof.Machine
end

section
/-! SUPPORT. The sleep of a die and its waking (R445, R457). -/

namespace Sys2Proof.Machine

variable (s : State) {t : State}

/-! ### Links -/

theorem State.link_named (d : Bool) (n : BitVec 8) : (s.link d n).inward = d ∧ (s.link d n).n = n := by
  unfold State.link
  cases h : s.links.find? fun l => l.inward == d && l.n == n with
  | none => exact ⟨rfl, rfl⟩
  | some l => simpa using List.find?_some h

theorem Link.place_inj {l k : Link} (h : l.place = k.place) : l.inward = k.inward ∧ l.n = k.n := by
  have hn (l : Link) : l.n.toNat = l.place % 256 := by
    have := l.n.isLt
    unfold Link.place
    split <;> omega
  have hi (l : Link) : l.inward = decide (256 ≤ l.place) := by
    have := l.n.isLt
    unfold Link.place
    cases l.inward
    · exact (decide_eq_false (by simpa using this)).symm
    · exact (decide_eq_true (Nat.le_add_left ..)).symm
  exact ⟨by rw [hi l, hi k, h], BitVec.eq_of_toNat_eq (by rw [hn l, hn k, h])⟩

/-- A link put in its place is found there; the others stand. -/
theorem find?_putLink (l : Link) (ls : List Link) (d : Bool) (n : BitVec 8) : (putLink l ls).find? (fun k => k.inward == d && k.n == n)
    = if (l.inward == d && l.n == n) = true then some l else ls.find? fun k => k.inward == d && k.n == n := by
  induction ls with
  | nil =>
    rw [putLink, List.find?_cons]
    cases l.inward == d && l.n == n <;> rfl
  | cons k t ih =>
    unfold putLink
    split
    case isTrue h =>
      obtain ⟨hi, hn⟩ := Link.place_inj h
      rw [List.find?_cons, List.find?_cons, ← hi, ← hn]
      cases l.inward == d && l.n == n <;> rfl
    case isFalse hne =>
      split
      · rw [List.find?_cons]
        cases l.inward == d && l.n == n <;> rfl
      · rw [List.find?_cons, ih, List.find?_cons]
        cases hk : k.inward == d && k.n == n
        · rfl
        · have hl : (l.inward == d && l.n == n) = false := by
            by_contra hl
            simp only [Bool.not_eq_false, Bool.and_eq_true, beq_iff_eq] at hl hk
            exact hne (by rw [Link.place, Link.place, hl.1, hl.2, hk.1, hk.2])
          simp [hl]

theorem State.link_setLink (l : Link) (d : Bool) (n : BitVec 8) :
    (s.setLink l).link d n = if (l.inward == d && l.n == n) = true then l else s.link d n := by
  unfold State.link State.setLink
  rw [find?_putLink]
  split <;> rfl

/-- A change of all links that leaves their names. -/
theorem State.link_map {f : Link → Link} (hf : ∀ l, (f l).inward = l.inward ∧ (f l).n = l.n) (h : t.links = s.links.map f) (d : Bool) (n : BitVec 8) :
    t.link d n = f (s.link d n) ∨ (t.link d n = Link.reset d n ∧ s.link d n = Link.reset d n) := by
  have hp : ((fun l => l.inward == d && l.n == n) ∘ f) = fun l : Link => l.inward == d && l.n == n := by
    funext l
    simp [hf l]
  unfold State.link
  rw [h, List.find?_map, hp]
  cases s.links.find? fun l => l.inward == d && l.n == n with
  | none => exact .inr ⟨rfl, rfl⟩
  | some l => exact .inl rfl

/-! ### What accesses on their way out leave -/

/-- Storage, held updates, L1, controllers, scalar registers and the states of links stand. -/
structure Sends (s t : State) : Prop where
  scalars : t.core.s = s.core.s
  mem : t.mem = s.mem
  heldUpds : t.heldUpds = s.heldUpds
  l1 : t.l1 = s.l1
  ctl : ∀ die, t.ctl die = s.ctl die
  up : ∀ d n, (t.link d n).up = (s.link d n).up

theorem Sends.refl : Sends s s := ⟨rfl, rfl, rfl, rfl, fun _ => rfl, fun _ _ => rfl⟩

variable {s}

theorem Sends.trans {u : State} (h : Sends s t) (h' : Sends t u) : Sends s u :=
  ⟨h'.scalars.trans h.scalars, h'.mem.trans h.mem, h'.heldUpds.trans h.heldUpds, h'.l1.trans h.l1, fun die => (h'.ctl die).trans (h.ctl die),
    fun d n => (h'.up d n).trans (h.up d n)⟩

theorem Accounts.sends {R : Launch → Launch → Prop} (h : Accounts R s t) : Sends s t := by
  obtain ⟨_, _, _, _, _, rfl⟩ := h
  exact ⟨rfl, rfl, rfl, rfl, fun _ => rfl, fun _ _ => rfl⟩

variable (s)

theorem State.updCore_sends (id : BitVec 7) {f : CoreState → CoreState} (hf : ∀ c, (f c).s = c.s) : Sends s (s.updCore id f) := by
  unfold State.updCore
  split
  · exact ⟨hf s.core, rfl, rfl, rfl, fun _ => rfl, fun _ _ => rfl⟩
  · exact ⟨rfl, rfl, rfl, rfl, fun _ => rfl, fun _ _ => rfl⟩

theorem State.crPut_sends (id : BitVec 7) (n : Nat) (f : CoreState → Word64) : Sends s (s.updCore id fun c => c.crPut n (f c)) :=
  s.updCore_sends id fun _ => rfl

theorem State.sendRecord_sends (handle root : Word64) (sl cls lid core : Nat) (die : Bool) (body : List Byte) :
    Sends s (s.sendRecord handle root sl cls lid core die body) := by
  obtain ⟨_, _, _, h, -⟩ := s.sendRecord_eq handle root sl cls lid core die body
  rw [h]
  exact ⟨rfl, rfl, rfl, rfl, fun _ => rfl, fun _ _ => rfl⟩

theorem State.setEvent_sends (id : BitVec 7) (bit : Nat) : Sends s (s.setEvent id bit) := by
  have hset := s.crPut_sends id 0x042 fun c => c.crGet 0x042 ||| BitVec.ofNat 64 (2 ^ bit)
  unfold State.setEvent
  dsimp only
  split
  · unfold State.sendCoreEvent State.sendLaunch
    split
    · exact hset
    · exact hset.trans (State.sendRecord_sends ..)
  · exact hset

theorem State.countOverdue_sends (a : Agent) (old new : Tag) : Sends s (s.countOverdue a old new) := by
  unfold State.countOverdue
  split
  · split
    · exact (s.crPut_sends _ 0x00A _).trans (State.setEvent_sends _ _ 1)
    · exact .refl s
  · exact .refl s

theorem State.chargeFor_sends (r : Req) (kind n : Nat) : Sends s (s.chargeFor r kind n) := by
  unfold State.chargeFor
  split
  · exact (s.charge_accounts _ kind n).sends
  · exact .refl s

theorem State.dispatch_sends (src ch pass : Nat) (t : Tag) (what : Moved) : Sends s (s.dispatch src ch pass t what) :=
  ⟨rfl, rfl, rfl, rfl, fun _ => rfl, fun _ _ => rfl⟩

theorem State.updRemote_sends (u : Nat) (f : Remote → Remote) : Sends s (s.updRemote u f) :=
  ⟨rfl, rfl, rfl, rfl, fun _ => rfl, fun _ _ => rfl⟩

theorem State.updPeerOut_sends (u : Nat) (f : PeerAnswer → PeerAnswer) : Sends s (s.updPeerOut u f) :=
  ⟨rfl, rfl, rfl, rfl, fun _ => rfl, fun _ _ => rfl⟩

/-- Flits counted on a link leave it as up as it was. -/
theorem State.setSent_sends (n : BitVec 8) (k : Nat) : Sends s (s.setLink { s.link false n with sent := k }) := by
  refine ⟨rfl, rfl, rfl, rfl, fun _ => rfl, fun d m => ?_⟩
  rw [State.link_setLink]
  split
  case isTrue h =>
    obtain ⟨hi, hn⟩ := s.link_named false n
    simp only [Bool.and_eq_true, beq_iff_eq, hi, hn] at h
    rw [← h.1, ← h.2]
  case isFalse => rfl

theorem State.sendOut_sends (n : BitVec 8) (w : Waiting) : Sends s (s.sendOut n w) := by
  unfold State.sendOut
  dsimp only
  split
  · split
    · exact .refl s
    · exact (s.setSent_sends n _).trans ⟨rfl, rfl, rfl, rfl, fun _ => rfl, fun _ _ => rfl⟩
  · split
    · exact .refl s
    · exact (((s.setSent_sends n _).trans (State.chargeFor_sends ..)).trans (State.countOverdue_sends ..)).trans (State.updRemote_sends ..)

theorem State.transmit_sends (n : BitVec 8) : Sends s (s.transmit n) := by
  unfold State.transmit
  dsimp only
  split
  · exact List.foldlRecOn (s.transmitQueue n) _ (.refl s) fun t ht w _ => ht.trans (t.sendOut_sends n w)
  · exact .refl s

theorem State.assignOne_sends (m : Remote) : Sends s (s.assignOne m) := by
  unfold State.assignOne
  dsimp only
  split
  · exact .refl s
  · split
    · exact .refl s
    · exact ((s.updRemote_sends ..).trans (State.countOverdue_sends ..)).trans (State.dispatch_sends ..)

theorem State.assignAnswer_sends (a : PeerAnswer) : Sends s (s.assignAnswer a) := by
  unfold State.assignAnswer
  dsimp only
  split
  · exact .refl s
  · split
    · split
      · exact (s.updPeerOut_sends ..).trans (State.transmit_sends ..)
      · exact (s.updPeerOut_sends ..).trans (State.dispatch_sends ..)
    · exact (s.updPeerOut_sends ..).trans (State.dispatch_sends ..)

theorem State.assign_sends : Sends s s.assign := by
  have hone : Sends s (s.waitingRemotes.foldl State.assignOne s) :=
    List.foldlRecOn s.waitingRemotes _ (.refl s) fun t ht m _ => ht.trans (t.assignOne_sends m)
  unfold State.assign
  exact List.foldlRecOn _ _ hone fun t ht a _ => ht.trans (t.assignAnswer_sends a)

theorem State.unlink_sends (n : BitVec 8) : Sends s (s.unlink n) := by
  unfold State.unlink
  dsimp only
  refine Sends.trans ?_ (State.assign_sends _)
  exact ⟨rfl, rfl, rfl, rfl, fun _ => rfl, fun _ _ => rfl⟩

/-! ### What retention loses (R457) -/

theorem State.byte_freeBytes (lo n a : Nat) :
    (s.freeBytes lo n).byte a = if lo ≤ a ∧ a < lo + n then Config.freeByte s.tick a else s.byte a := by
  refine (Cells.get_foldl_put s.mem lo (fun i => Config.freeByte s.tick (lo + i)) n a).trans ?_
  split
  case isTrue h => rw [Nat.add_sub_cancel' h.1]
  case isFalse => rfl

theorem State.freeBytes_eq (lo n : Nat) : ∃ m p, s.freeBytes lo n = { s with mem := m, poison := p } := ⟨_, _, rfl⟩

theorem State.charge_tick (key kind n : Nat) : (s.charge key kind n).tick = s.tick := by
  unfold State.charge State.chargeMeter
  dsimp only
  split
  · rfl
  · split <;> rfl

/-- R440: the charge for what goes back to memory is an account. -/
theorem State.chargeBack_accounts (line : Nat) : Accounts Launch.Billed s (s.chargeBack line) ∧ (s.chargeBack line).tick = s.tick := by
  unfold State.chargeBack
  split
  · split
    · exact ⟨s.charge_accounts .., s.charge_tick ..⟩
    · exact ⟨.refl .refl s, rfl⟩
  · exact ⟨.refl .refl s, rfl⟩

/-- R136: a die's slices charge for the bytes that go back. -/
def State.writtenBack (s : State) (half : Nat) : State :=
  (s.lines.filter fun l => homeSlice (l.line * 256) / 32 == half).foldl (fun s l => s.chargeBack l.line) s

theorem State.writtenBack_accounts (half : Nat) : Accounts Launch.Billed s (s.writtenBack half) ∧ (s.writtenBack half).tick = s.tick := by
  refine List.foldlRecOn (motive := fun t : State => Accounts Launch.Billed s t ∧ t.tick = s.tick) _ _ ⟨.refl .refl s, rfl⟩
    fun t ⟨ht, htick⟩ l _ => ?_
  obtain ⟨ha, hk⟩ := t.chargeBack_accounts l.line
  exact ⟨ht.trans .trans ha, hk.trans htick⟩

/-- R457: the storage of a die lost. -/
def State.wiped (s : State) (half : Nat) : State :=
  (s.freeBytes (Loc.spad (16 * half) 0) (16 * 2 ^ 22)).freeBytes (Loc.store (64 * half) 0) (64 * 2 ^ 20)

theorem State.byte_wiped (half a : Nat) : (s.wiped half).byte a
    = if Loc.store (64 * half) 0 ≤ a ∧ a < Loc.store (64 * half) 0 + 64 * 2 ^ 20 then Config.freeByte s.tick a
      else if Loc.spad (16 * half) 0 ≤ a ∧ a < Loc.spad (16 * half) 0 + 16 * 2 ^ 22 then Config.freeByte s.tick a else s.byte a := by
  obtain ⟨m, p, h⟩ := s.freeBytes_eq (Loc.spad (16 * half) 0) (16 * 2 ^ 22)
  have htick : (s.freeBytes (Loc.spad (16 * half) 0) (16 * 2 ^ 22)).tick = s.tick := by rw [h]
  unfold State.wiped
  rw [State.byte_freeBytes, State.byte_freeBytes, htick]

theorem State.wiped_eq (half : Nat) : ∃ m p, s.wiped half = { s with mem := m, poison := p } := by
  obtain ⟨m, p, h⟩ := s.freeBytes_eq (Loc.spad (16 * half) 0) (16 * 2 ^ 22)
  obtain ⟨m', p', h'⟩ := (s.freeBytes (Loc.spad (16 * half) 0) (16 * 2 ^ 22)).freeBytes_eq (Loc.store (64 * half) 0) (64 * 2 ^ 20)
  exact ⟨m', p', by rw [State.wiped, h', h]⟩

/-- R457: a link of a die as sleep leaves it. -/
def Link.darkened (die : Bool) (l : Link) : Link := if l.n.getLsbD 7 == die then { l with up := 0#2, lost := [], acked := l.sent } else l

theorem Link.darkened_named (die : Bool) (l : Link) : (l.darkened die).inward = l.inward ∧ (l.darkened die).n = l.n := by
  unfold Link.darkened
  split <;> exact ⟨rfl, rfl⟩

/-- R457: what the die held, lost, before its accesses look for other links. -/
def State.lostIn (s : State) (die : Bool) (half : Nat) : State :=
  let mine (line : Nat) : Bool := homeSlice (line * 256) / 32 == half
  { (s.writtenBack half).wiped half with
    heldUpds := ((s.writtenBack half).wiped half).heldUpds.filter fun u => !(u.slice.toNat / 32 == half && u.spot.isNone)
    l1 := ((s.writtenBack half).wiped half).l1.filter fun e => dieOf e.owner != die
    lines := ((s.writtenBack half).wiped half).lines.filter fun l => !mine l.line
    decoded := ((s.writtenBack half).wiped half).decoded.filter fun d => !mine d.line
    reserved := ((s.writtenBack half).wiped half).reserved.filter fun p => !p.delivers fun d => mine d.line
    links := ((s.writtenBack half).wiped half).links.map (Link.darkened die)
    tick := ((s.writtenBack half).wiped half).tick + 1 }

theorem State.powerDown_sends (die : Bool) : Sends (s.lostIn die (if die then 1 else 0)) (s.powerDown die) := by
  have heq : s.powerDown die = ((s.lostIn die (if die then 1 else 0)).links.filter fun l => !l.inward && l.n.getLsbD 7 == die).foldl
      (fun s l => s.unlink l.n) (s.lostIn die (if die then 1 else 0)) := rfl
  rw [heq]
  exact List.foldlRecOn _ _ (.refl _) fun t ht l _ => ht.trans (t.unlink_sends l.n)

section
variable (die : Bool) (half : Nat)

theorem State.lostIn_frame : (s.lostIn die half).core = s.core ∧ (∀ d, (s.lostIn die half).ctl d = s.ctl d)
    ∧ (s.lostIn die half).heldUpds = s.heldUpds.filter (fun u => !(u.slice.toNat / 32 == half && u.spot.isNone))
    ∧ (s.lostIn die half).l1 = s.l1.filter (fun e => dieOf e.owner != die)
    ∧ (s.lostIn die half).links = s.links.map (Link.darkened die) := by
  obtain ⟨⟨f, ch, ms, tk, -, he⟩, -⟩ := s.writtenBack_accounts half
  obtain ⟨m, p, hw⟩ := (s.writtenBack half).wiped_eq half
  unfold State.lostIn
  rw [hw, he]
  exact ⟨rfl, fun _ => rfl, rfl, rfl, rfl⟩

theorem State.byte_lostIn (a : Nat) : (s.lostIn die half).byte a
    = if Loc.store (64 * half) 0 ≤ a ∧ a < Loc.store (64 * half) 0 + 64 * 2 ^ 20 then Config.freeByte s.tick a
      else if Loc.spad (16 * half) 0 ≤ a ∧ a < Loc.spad (16 * half) 0 + 16 * 2 ^ 22 then Config.freeByte s.tick a else s.byte a := by
  obtain ⟨hacc, htick⟩ := s.writtenBack_accounts half
  have hmem : (s.lostIn die half).mem = ((s.writtenBack half).wiped half).mem := by
    unfold State.lostIn
    with_reducible rfl
  rw [State.byte_of_mem hmem, State.byte_wiped, htick, State.byte_of_mem hacc.mem]

end

theorem State.up_lostIn (die : Bool) (half : Nat) (d : Bool) {n : BitVec 8} (h : n.getLsbD 7 = die) :
    ((s.lostIn die half).link d n).up = 0#2 := by
  obtain ⟨-, -, -, -, hlinks⟩ := s.lostIn_frame die half
  rcases s.link_map (Link.darkened_named die) hlinks d n with hl | ⟨hl, -⟩
  · rw [hl, Link.darkened, (s.link_named d n).2, h, if_pos (beq_self_eq_true die)]
  · rw [hl]
    rfl

/-- R457: what is left of a die's storage, updates, L1 and links once it has gone to retention. -/
theorem State.powerDown_loses (die : Bool) : let k := if die = true then 1 else 0
    (∀ d, (s.powerDown die).ctl d = s.ctl d) ∧ (s.powerDown die).core.s = s.core.s ∧ (∀ l < 2 ^ 46, (s.powerDown die).byte l = s.byte l)
      ∧ (∀ a, Loc.store (64 * k) 0 ≤ a → a < Loc.store (64 * k) 0 + 64 * 2 ^ 20 → (s.powerDown die).byte a = Config.freeByte s.tick a)
      ∧ (∀ a, Loc.spad (16 * k) 0 ≤ a → a < Loc.spad (16 * k) 0 + 16 * 2 ^ 22 → (s.powerDown die).byte a = Config.freeByte s.tick a)
      ∧ (∀ u ∈ (s.powerDown die).heldUpds, u ∈ s.heldUpds ∧ ¬(u.slice.toNat / 32 = k ∧ u.spot = none))
      ∧ (∀ e ∈ (s.powerDown die).l1, dieOf e.owner ≠ die)
      ∧ ∀ d (n : BitVec 8), n.getLsbD 7 = die → ((s.powerDown die).link d n).up = 0#2 := by
  intro k
  have hsends := s.powerDown_sends die
  obtain ⟨hcore, hctl, hupds, hl1, -⟩ := s.lostIn_frame die k
  have hbyte (a : Nat) := (State.byte_of_mem hsends.mem a).trans (s.byte_lostIn die k a)
  refine ⟨fun d => (hsends.ctl d).trans (hctl d), hsends.scalars.trans (congrArg CoreState.s hcore), fun l hl => ?_, fun a hlo hhi => ?_,
    fun a hlo hhi => ?_, fun u hu => ?_, fun e he => ?_, fun d n hn => (hsends.up d n).trans (s.up_lostIn die k d hn)⟩
  · rw [hbyte, if_neg (by simp only [Loc.store]; omega), if_neg (by simp only [Loc.spad]; omega)]
  · rw [hbyte, if_pos ⟨hlo, hhi⟩]
  · rw [hbyte, if_pos (And.intro hlo hhi), ite_self]
  · rw [hsends.heldUpds, hupds] at hu
    obtain ⟨hmem, hk⟩ := List.mem_filter.mp hu
    exact ⟨hmem, fun ⟨hslice, hspot⟩ => by simp [hslice, hspot] at hk⟩
  · rw [hsends.l1, hl1] at he
    simpa using (List.mem_filter.mp he).2

/-! ### Going to sleep and waking (R445) -/

/-- R445: a controller that has entered a sleep state. -/
def State.slept (s : State) (die : Bool) (st : BitVec 2) : State := s.updCtl die fun c => { c with asked := none, asleep := st.toNat + 1 }

theorem State.slept_frame (die : Bool) (st : BitVec 2) :
    (s.slept die st).ctl die = { s.ctl die with asked := none, asleep := st.toNat + 1 } ∧ (s.slept die st).core = s.core
      ∧ (s.slept die st).mem = s.mem ∧ (s.slept die st).links = s.links ∧ (s.slept die st).heldUpds = s.heldUpds
      ∧ (s.slept die st).tick = s.tick := by
  cases die <;> exact ⟨rfl, rfl, rfl, rfl, rfl, rfl⟩

variable {s} {die : Bool}

theorem execSleepStateEntry_stays (h : (s.ctl die).asked = none ∨ (s.ctl die).stopped = true) :
    exec (.sleepStateEntry die) s = .next s := by
  show execSleepStateEntry die s = _
  unfold execSleepStateEntry
  split
  · rfl
  · rename_i ha
    exact if_pos (by simp [h.resolve_left (by simp [ha])])

/-- R445: a die without a gang that runs enters the state at once. -/
theorem execSleepStateEntry_enters {st : BitVec 2} {p : BitVec 3} (ha : (s.ctl die).asked = some (st, p)) (hs : (s.ctl die).stopped = false)
    (hl : ∀ l ∈ s.launches, l.die = die → l.phase ≠ .starting ∧ s.runningGangs l = [])
    (hq : ∀ q ∈ s.launchQueues, q.die = die → q.deciding = none) : 
    exec (.sleepStateEntry die) s = .next (if st = 0#2 then s.slept die st else (s.slept die st).powerDown die) := by
  have hgs : (s.launches.flatMap fun l => if l.die = die then (s.runningGangs l).map fun g => (l, g) else []) = [] := by
    refine List.flatMap_eq_nil_iff.mpr fun l hm => ?_
    split
    · rw [(hl l hm ‹_›).2]
      rfl
    · rfl
  have hls : s.launches.any (fun l => l.die == die && l.phase == .starting) = false := by
    simpa using fun l hm hd => (hl l hm hd).1
  have hqs : s.launchQueues.any (fun q => q.die == die && q.deciding.isSome) = false := by
    simpa using hq
  show execSleepStateEntry die s = _
  unfold execSleepStateEntry
  rw [ha]
  simp only [hgs, hls, hqs, hs]
  rfl

theorem execWake_stays (h : (s.ctl die).stopped = true ∨ (s.ctl die).waking = false ∨ (s.ctl die).asked ≠ none) :
    exec (.wake die) s = .next s :=
  if_pos (by rcases h with h | h | h <;> simp [h, Option.isSome_iff_ne_none])

/-- R458: a link of a die that was in service trains once the die wakes. -/
def Link.wakened (die : Bool) (l : Link) : Link :=
  if l.enabled && l.up == 0#2 && l.n.getLsbD 7 == die then { l with up := 1#2, replay := 0#32 } else l

theorem Link.wakened_named (die : Bool) (l : Link) : (l.wakened die).inward = l.inward ∧ (l.wakened die).n = l.n := by
  unfold Link.wakened
  split <;> exact ⟨rfl, rfl⟩

/-- R445: a controller that wakes, its links with it where they were down. -/
theorem execWake_wakes (hs : (s.ctl die).stopped = false) (hw : (s.ctl die).waking = true) (ha : (s.ctl die).asked = none) :
    ∃ t, exec (.wake die) s = .next t ∧ t.ctl die = { s.ctl die with asleep := 0, waking := false } ∧ t.core = s.core ∧ t.mem = s.mem
      ∧ t.links = if (s.ctl die).asleep ≤ 1 then s.links else s.links.map (Link.wakened die) := by
  have hexec : exec (.wake die) s = .next { s.updCtl die (fun c => { c with asleep := 0, waking := false }) with
      links := if (s.ctl die).asleep ≤ 1 then s.links else s.links.map (Link.wakened die) } := by
    show execWake die s = _
    unfold execWake
    dsimp only
    rw [if_neg (by simp [hs, hw, ha])]
    split <;> cases die <;> rfl
  refine ⟨_, hexec, ?_, ?_, ?_, rfl⟩ <;> cases die <;> rfl

end Sys2Proof.Machine
end

section
/-! SUPPORT. The save of a core (R427, R428). -/

namespace Sys2Proof.Machine

variable (s : State)

/-! ### What a save leaves alone -/

theorem State.upd_banks_still (b : Bool) (d : BankDesc) : Still s (s.upd (·.setBank b d)) := by
  cases b <;> exact ⟨rfl, rfl, rfl, rfl, _, _, rfl⟩

theorem State.ticked_still : Still s s.ticked := ⟨rfl, rfl, rfl, rfl, _, _, rfl⟩

theorem State.setPoison_still (loc n : Nat) : Still s (s.setPoison loc n) := ⟨rfl, rfl, rfl, rfl, _, _, rfl⟩

/-- Bytes outside physical memory that an abandoned operation leaves as they are or as it would have left them. -/
theorem State.mixBytes_still (full : State) {loc : Nat} (h : 2 ^ 46 ≤ loc) (n : Nat) : Still s (s.mixBytes full loc n) := by
  unfold State.mixBytes
  refine List.foldlRecOn _ _ s.ticked_still fun t ht i _ => ?_
  have hphys : isPhys (loc + i) = false := decide_eq_false (by omega)
  have hw := ht.trans (t.performWrite_still (key := some s.core.launchKey) (.inr hphys) [full.byte (loc + i)])
  dsimp only
  split
  · exact hw.trans (State.setPoison_still ..)
  · exact hw

theorem State.abandonLook_still (b : Bool) : Still s (s.abandonLook b) := by
  unfold State.abandonLook
  dsimp only
  split
  · refine (s.mixBytes_still _ ?_ _).trans (State.upd_banks_still _ b _)
    simp only [State.bankAt, Loc.spad]
    omega
  · exact .refl s

theorem State.guardDigest_still (t : State) (loc n : Nat) : Still t (s.guardDigest t loc n) := by
  unfold State.guardDigest
  extract_lets v base top lo hi
  split
  · exact t.write_still ..
  · exact .refl t

theorem State.writeBlock_still (pa : Nat) (bs : List Byte) : Still s (s.writeBlock pa bs) :=
  (s.performWrite_still (.inl rfl) bs).trans (s.guardDigest_still ..)

theorem State.unpark_still (w : QReq) : Still s (s.unpark w) := by
  unfold State.unpark
  refine Still.trans ?_ (State.writeBlock_still _ _ _)
  exact ⟨rfl, rfl, rfl, rfl, _, _, rfl⟩

/-- R374: no answer is taken where none is on its way. -/
theorem State.takeAnswers_none {id : BitVec 7} (h : s.replies.all (·.core != id) = true) : s.takeAnswers id = s := by
  have hr : ∀ x ∈ s.replies, (x.core == id) = false := by simpa using h
  unfold State.takeAnswers
  extract_lets one mine
  have hmine : ∀ x ∈ s.replies, mine x = false := fun x hx => by simp only [mine, hr x hx, Bool.false_and]
  have hnone : s.replies.filter mine = [] := List.filter_eq_nil_iff.mpr fun x hx => by rw [hmine x hx]; decide
  have hother : s.replies.filter (!mine ·) = s.replies := List.filter_eq_self.mpr fun x hx => by rw [hmine x hx]; rfl
  rw [hnone, hother]
  rfl

theorem State.withdrawParked_still {id : BitVec 7} (h : s.replies.all (·.core != id) = true) : Still s (s.withdrawParked id) := by
  unfold State.withdrawParked
  rw [s.takeAnswers_none h]
  exact List.foldlRecOn _ _ (.refl s) fun t ht w _ => ht.trans (t.unpark_still w)

/-! ### Pieces in a slot -/

theorem State.moveBytes_storageOnly (src : Nat) {dst : Nat} (h : isRaw dst = true) (n : Nat) : StorageOnly s (s.moveBytes src dst n) := by
  obtain ⟨_, _, _, _, _, _, _, _, he⟩ := (s.performWrite_raw h (s.bytes src n)).2
  unfold State.moveBytes
  rw [he]
  exact ⟨_, _, _, _, _, _, _, _, rfl⟩

theorem State.slotSave_storageOnly (die : Bool) (sl src pa n : Nat) : StorageOnly s (s.slotSave die sl src pa n) := by
  unfold State.slotSave
  split
  · exact s.moveBytes_storageOnly src ‹_› n
  · exact s.deviceWrite_storageOnly ..

/-- A byte outside the place in the slot stands. -/
theorem State.byte_deviceWrite_outside (die : Bool) (sl : Nat) {pa : Nat} {bs : List Byte} {l : Nat} (h : l < pa) :
    (s.deviceWrite die sl pa bs).byte l = s.byte l := by
  unfold State.byte
  rw [State.deviceWrite_mem]
  split
  · exact s.byte_write_outside _ _ (.inl h)
  · rfl

theorem State.byte_slotSave_outside (die : Bool) (sl src : Nat) {pa l : Nat} (h : l < pa) (n : Nat) :
    (s.slotSave die sl src pa n).byte l = s.byte l := by
  unfold State.slotSave
  split
  · refine (State.byte_of_mem ?_ l).trans (s.byte_write_outside pa (s.bytes src n) (.inl h))
    exact (s.performWrite_raw ‹_› (s.bytes src n)).1
  · exact s.byte_deviceWrite_outside die sl h

theorem State.granuleSave_storageOnly (die : Bool) (sl base g : Nat) : StorageOnly s (s.granuleSave die sl base g) := by
  unfold State.granuleSave
  split
  · exact (s.deviceWrite_storageOnly ..).trans (State.slotSave_storageOnly ..)
  · exact s.slotSave_storageOnly ..

theorem State.byte_granuleSave_outside (die : Bool) (sl : Nat) {base l : Nat} (h : l < base) (g : Nat) :
    (s.granuleSave die sl base g).byte l = s.byte l := by
  unfold State.granuleSave
  split
  · rw [State.byte_slotSave_outside _ _ _ _ (by omega), State.byte_deviceWrite_outside _ _ _ h]
  · exact s.byte_slotSave_outside die sl _ (by omega) 1024

/-- Granules saved from a base on. -/
def State.saveGranules (s : State) (die : Bool) (sl base : Nat) (gs : List Nat) : State := gs.foldl (fun s g => s.granuleSave die sl base g) s

theorem State.saveGranules_storageOnly (die : Bool) (sl base : Nat) (gs : List Nat) : StorageOnly s (s.saveGranules die sl base gs) :=
  List.foldlRecOn gs _ (.refl s) fun t ht g _ => ht.trans (t.granuleSave_storageOnly die sl base g)

theorem State.byte_saveGranules_outside (die : Bool) (sl : Nat) {base l : Nat} (h : l < base) (gs : List Nat) :
    (s.saveGranules die sl base gs).byte l = s.byte l :=
  List.foldlRecOn (motive := fun t : State => t.byte l = s.byte l) gs _ rfl fun t ht g _ =>
    (t.byte_granuleSave_outside die sl h g).trans ht

/-- Pieces by offset, written for a die's controller from a base. -/
def State.putPieces (s : State) (die : Bool) (sl base : Nat) (ps : List (Nat × List Byte)) : State :=
  ps.foldl (fun s p => s.deviceWrite die sl (base + p.1) p.2) s

theorem State.putPieces_append (die : Bool) (sl base : Nat) (ps qs : List (Nat × List Byte)) :
    s.putPieces die sl base (ps ++ qs) = (s.putPieces die sl base ps).putPieces die sl base qs := List.foldl_append ..

theorem State.putPieces_storageOnly (die : Bool) (sl base : Nat) (ps : List (Nat × List Byte)) :
    StorageOnly s (s.putPieces die sl base ps) :=
  List.foldlRecOn ps _ (.refl s) fun t ht _ _ => ht.trans (t.deviceWrite_storageOnly ..)

theorem State.byte_putPieces_outside (die : Bool) (sl base : Nat) {l : Nat} {ps : List (Nat × List Byte)} (h : ∀ p ∈ ps, l < base + p.1) :
    (s.putPieces die sl base ps).byte l = s.byte l :=
  List.foldlRecOn (motive := fun t : State => t.byte l = s.byte l) ps _ rfl fun t ht p hp =>
    (t.byte_deviceWrite_outside die sl (h p hp)).trans ht

/-- A piece among others, the later of which lie above it. -/
def IsPiece (ps : List (Nat × List Byte)) (o : Nat) (bs : List Byte) : Prop :=
  ∃ pre post, ps = pre ++ (o, bs) :: post ∧ ∀ p ∈ post, o + bs.length ≤ p.1

/-- What a piece holds in memory is read back, where the later ones lie above it. -/
theorem State.bytes_putPieces (die : Bool) (sl : Nat) {base o k n : Nat} {bs : List Byte} {ps : List (Nat × List Byte)}
    (h : IsPiece ps o bs) (hraw : isRaw (base + o) = true) (hn : k + n ≤ bs.length) :
    (s.putPieces die sl base ps).bytes (base + o + k) n = (bs.drop k).take n := by
  obtain ⟨pre, post, rfl, hpost⟩ := h
  rw [State.putPieces_append]
  generalize s.putPieces die sl base pre = t
  rw [← t.bytes_write_part (base + o) bs hn]
  refine State.bytes_congr fun i hi => ?_
  have hp : ∀ p ∈ post, base + o + k + i < base + p.1 := fun _ hp => by have := hpost _ hp; omega
  refine (State.byte_putPieces_outside _ die sl base hp).trans (State.byte_of_mem ?_ _)
  rw [State.deviceWrite_mem, if_pos hraw]

/-! ### The save of a core -/

theorem take_drop_flatMap_range {α : Type} {f : Nat → List α} {k : Nat} (hf : ∀ i, (f i).length = k) {n i : Nat} (h : i < n) :
    (((List.range n).flatMap f).drop (k * i)).take k = f i := by
  induction n with
  | zero => omega
  | succ n ih =>
    have hlen := length_flatMap_range n k hf
    rw [List.range_succ, List.flatMap_append, List.flatMap_singleton]
    rcases Nat.lt_succ_iff_lt_or_eq.mp h with hi | rfl
    · have hle : k * i + k ≤ n * k := by nlinarith
      rw [List.drop_append_of_le_length (by omega), List.take_append_of_le_length (by rw [List.length_drop]; omega), ih hi]
    · rw [List.drop_left' (by rw [hlen, Nat.mul_comm]), List.take_of_length_le (hf i).le]

/-- R427: one more pre-emption counted in LPRE. -/
def CoreState.counted (c : CoreState) : CoreState := c.crPut 0x0C4 (setBits (c.crGet 0x0C4) 32 32 (bitsOf (c.crGet 0x0C4) 32 32 + 1))

/-- The core as its save begins: what its lookahead loads is abandoned, its saves are counted. -/
def State.readied (s : State) : State := ((s.abandonLook false).abandonLook true).upd CoreState.counted

/-- R374: the core's requests withdrawn, those released too. -/
def State.unqueued (s : State) : State :=
  { s.withdrawParked s.core.id with
    released := (s.withdrawParked s.core.id).released.filter fun q => q.agent != Agent.core s.core.id }

/-- R428: what a core's part of a slot holds beside its save area. -/
def State.slotPieces (s : State) (c : CoreState) (pc : BitVec 48) : List (Nat × List Byte) :=
  [(0x3000, word c.mstat ++ word (c.crGet 0x01C) ++ word (c.crGet 0x01D)), (0x3018, word (c.crGet 0x127)),
    (0x3020, word s.frbnk ++ word (c.crGet 0x00F)), (0x3030, leBytes 8 pc.toNat), (0x3038, c.saveMasks),
    (0x3048, leBytes 8 (bitsOf (c.crGet 0x0C0) 0 23 + bitsOf (c.crGet 0x0C4) 0 2 * 2 ^ 23 + bitsOf (c.crGet 0x0C4) 32 32 * 2 ^ 32)),
    (0x3050, c.bank0.bytes ++ c.bank1.bytes)]

/-- R428: a core that has been saved. -/
def CoreState.savedAway (c : CoreState) : CoreState :=
  { (c.crPut 0x0C4 (c.crGet 0x0C4 &&& ~~~1#64)) with
    mode := .idle, bundles := [], past := [], ops := [], held := false, trapReq := none, replay := 0#8, replays := [], redo := [], redos := [], slacks := []
    fired := 0#8, drain := false, yielded := false, stalled := false, group := .start, shadow := none, fences := [], bank0 := .empty, bank1 := .empty }

/-- R428: the items of a core's part of a slot, which is zero elsewhere. -/
def State.partPieces (s : State) (c : CoreState) : List (Nat × List Byte) :=
  (0, List.replicate 65536 0#8) :: (c.rewound.1.saveArea 2 c.rewound.2 (c.ops.filterMap (·.remainder)) ++ s.slotPieces c c.rewound.2)

/-- R428: all that a save writes. -/
def State.slotWritten (s : State) (die : Bool) (base : Nat) : State :=
  let c := s.readied.core
  let t := s.readied.unqueued
  (t.putPieces die (t.coreSlack c) base (t.partPieces c)).saveGranules die (t.coreSlack c) (base + 0x10000)
    (granules (c.savedViews.map c.viewReg))

theorem State.saveCore_eq (die : Bool) (base : Nat) : s.saveCore die base = ((s.slotWritten die base).charge s.readied.core.launchKey 13
    (1024 + 16 * (granules (s.readied.core.savedViews.map s.readied.core.viewReg)).length)).upd CoreState.savedAway := by
  unfold State.slotWritten State.partPieces
  dsimp only
  rw [State.putPieces, List.foldl_cons, List.foldl_append]
  rfl

/-- The scalar registers as a save area holds them. -/
def CoreState.sBytes (c : CoreState) : List Byte := (List.range 64).flatMap fun i => leBytes 8 (Cells.get 0#64 c.s i).toNat
def CoreState.xBytes (c : CoreState) : List Byte := (List.range 16).flatMap fun i => leBytes 4 (Cells.get 0#32 c.x i).toNat

/-- The first items of a save area, and that the others lie above them. -/
theorem CoreState.saveArea_split (c : CoreState) (version : Nat) (pc : BitVec 48) (rem : List Remainder) : ∃ a b d e top,
    c.saveArea version pc rem = [(0, a), (8, leBytes 8 pc.toNat), (0x10, b), (0x18, d), (0x20, e), (0x100, c.sBytes), (0x300, c.xBytes)] ++ top
      ∧ ∀ p ∈ top, 0x340 ≤ p.1 := by
  refine ⟨_, _, _, _, _, rfl, ?_⟩
  simp only [List.append_eq, List.forall_mem_append, List.forall_mem_cons, List.forall_mem_map]
  simp [Nat.le_add_right_of_le]

/-- R428: where the sequencer has no bundle, the core's part of a slot holds its PC and its scalar registers. -/
theorem State.partPieces_hold {c : CoreState} (hb : c.bundles = []) : IsPiece (s.partPieces c) 8 (leBytes 8 c.pc.toNat)
    ∧ IsPiece (s.partPieces c) 0x100 c.sBytes ∧ IsPiece (s.partPieces c) 0x300 c.xBytes := by
  have hrew : c.rewound = (c, c.pc) := by rw [CoreState.rewound, hb]
  have hs : c.sBytes.length = 64 * 8 := length_flatMap_range 64 8 fun i => length_leBytes 8 _
  have hx : c.xBytes.length = 16 * 4 := length_flatMap_range 16 4 fun i => length_leBytes 4 _
  obtain ⟨a, b, d, e, top, hsplit, htop⟩ := c.saveArea_split 2 c.pc (c.ops.filterMap (·.remainder))
  have habove : ∀ p ∈ top ++ s.slotPieces c c.pc, 0x340 ≤ p.1 := by
    refine List.forall_mem_append.mpr ⟨htop, ?_⟩
    simp [State.slotPieces]
  have hparts : s.partPieces c = [(0, List.replicate 65536 0#8), (0, a), (8, leBytes 8 c.pc.toNat), (0x10, b), (0x18, d), (0x20, e),
      (0x100, c.sBytes), (0x300, c.xBytes)] ++ (top ++ s.slotPieces c c.pc) := by
    rw [State.partPieces, hrew, hsplit]
    rfl
  rw [hparts]
  generalize List.replicate 65536 0#8 = z
  generalize top ++ s.slotPieces c c.pc = rest at habove
  refine ⟨⟨[(0, z), (0, a)], _, rfl, ?_⟩, ⟨[(0, z), (0, a), (8, _), (0x10, b), (0x18, d), (0x20, e)], _, rfl, ?_⟩,
    ⟨[(0, z), (0, a), (8, _), (0x10, b), (0x18, d), (0x20, e), (0x100, _)], _, rfl, ?_⟩⟩
  · simp only [List.append_eq, List.forall_mem_append, List.forall_mem_cons, length_leBytes]
    exact ⟨by simp, fun p hp => (by decide : 8 + 8 ≤ 0x340).trans (habove p hp)⟩
  · simp only [List.append_eq, List.forall_mem_append, List.forall_mem_cons, hs]
    exact ⟨by simp, fun p hp => (by decide : 0x100 + 64 * 8 ≤ 0x340).trans (habove p hp)⟩
  · simp only [hx]
    exact habove

section
variable {s}

theorem State.upd_frame (s : State) (f : CoreState → CoreState) : (s.upd f).core = f s.core ∧ (s.upd f).mem = s.mem
    ∧ (s.upd f).launches = s.launches ∧ (s.upd f).replies = s.replies := ⟨rfl, rfl, rfl, rfl⟩

theorem State.released_still (s : State) (q : List QReq) : Still s { s with released := q } := ⟨rfl, rfl, rfl, rfl, _, _, rfl⟩

theorem CoreState.counted_id (c : CoreState) : c.counted.id = c.id := by
  rw [CoreState.counted, CoreState.crPut_id]

theorem State.readied_frame : (∃ b0 b1, s.readied.core = CoreState.counted { s.core with bank0 := b0, bank1 := b1 })
    ∧ s.readied.launches = s.launches ∧ s.readied.replies = s.replies := by
  have hstill := (s.abandonLook_still false).trans (State.abandonLook_still _ true)
  obtain ⟨b0, b1, hc⟩ := hstill.core
  obtain ⟨hcore, -, hlaunches, hreplies⟩ := ((s.abandonLook false).abandonLook true).upd_frame CoreState.counted
  rw [hc] at hcore
  rw [State.readied, hlaunches, hreplies]
  exact ⟨⟨b0, b1, hcore⟩, hstill.launches, hstill.replies⟩

theorem CoreState.savedAway_frame (c : CoreState) : c.savedAway.id = c.id ∧ c.savedAway.mode = .idle
    ∧ (c.savedAway.crGet 0x0C4).getLsbD 0 = false ∧ c.savedAway.bundles = [] ∧ c.savedAway.ops = [] := by
  refine ⟨rfl, rfl, ?_, rfl, rfl⟩
  show ((c.crPut 0x0C4 (c.crGet 0x0C4 &&& ~~~1#64)).crGet 0x0C4).getLsbD 0 = false
  rw [CoreState.crGet_crPut, if_pos rfl, BitVec.getLsbD_and]
  simp

variable (h : s.replies.all (·.core != s.core.id) = true)
include h

theorem State.unqueued_still : Still s s.unqueued := by
  unfold State.unqueued
  exact (s.withdrawParked_still h).trans (State.released_still _ _)

theorem State.slotWritten_still (die : Bool) (base : Nat) : Still s.readied (s.slotWritten die base) := by
  obtain ⟨⟨b0, b1, hc⟩, -, hr⟩ := s.readied_frame
  have h' : s.readied.replies.all (·.core != s.readied.core.id) = true := by
    rw [hc, hr, CoreState.counted_id]
    exact h
  unfold State.slotWritten
  extract_lets c t
  exact (State.unqueued_still h').trans ((t.putPieces_storageOnly ..).trans (State.saveGranules_storageOnly ..)).still

/-- R427, R428: a core that is saved is idle and empty, and is not asked any more. -/
theorem State.saveCore_frame (die : Bool) (base : Nat) : (∃ f, (∀ l, Launch.Billed l (f l)) ∧ (s.saveCore die base).launches = s.launches.map f)
    ∧ (s.saveCore die base).core.id = s.core.id ∧ (s.saveCore die base).core.mode = .idle
    ∧ ((s.saveCore die base).core.crGet 0x0C4).getLsbD 0 = false ∧ (s.saveCore die base).core.bundles = []
    ∧ (s.saveCore die base).core.ops = [] := by
  obtain ⟨⟨b0, b1, hc⟩, hl, -⟩ := s.readied_frame
  have hw := State.slotWritten_still h die base
  have hacc := (s.slotWritten die base).charge_accounts s.readied.core.launchKey 13
    (1024 + 16 * (granules (s.readied.core.savedViews.map s.readied.core.viewReg)).length)
  rw [State.saveCore_eq]
  generalize (s.slotWritten die base).charge _ _ _ = t at hacc ⊢
  obtain ⟨hid, hrest⟩ := t.core.savedAway_frame
  obtain ⟨hcore, -, hlaunches, -⟩ := t.upd_frame CoreState.savedAway
  rw [hcore, hlaunches]
  refine ⟨?_, hid.trans ?_, hrest⟩
  · obtain ⟨f, ch, ms, tk, hf, he⟩ := hacc
    exact ⟨f, hf, by rw [he, ← hl, ← hw.launches]⟩
  · rw [hacc.core, hw.core_id, hc, CoreState.counted_id]

omit h in
/-- The save area lies below the granules. -/
theorem State.bytes_saveCore (die : Bool) {base l n : Nat} (hl : l + n ≤ base + 0x10000) : (s.saveCore die base).bytes l n
    = (s.readied.unqueued.putPieces die (s.readied.unqueued.coreSlack s.readied.core) base
      (s.readied.unqueued.partPieces s.readied.core)).bytes l n := by
  refine State.bytes_congr fun i hi => ?_
  have hacc := (s.slotWritten die base).charge_accounts s.readied.core.launchKey 13
    (1024 + 16 * (granules (s.readied.core.savedViews.map s.readied.core.viewReg)).length)
  rw [State.saveCore_eq]
  generalize (s.slotWritten die base).charge _ _ _ = t at hacc ⊢
  obtain ⟨-, hmem, -, -⟩ := t.upd_frame CoreState.savedAway
  rw [State.byte_of_mem hmem, State.byte_of_mem hacc.mem, State.slotWritten, State.byte_saveGranules_outside _ _ _ (by omega)]

omit h in
/-- R428: a core without a bundle under way is saved as it stands. -/
theorem State.num_saveCore (die : Bool) {base : Nat} (hb : s.core.bundles = []) (hraw : isRaw (base + 0xFFFFFF) = true) :
    (∀ n, (s.saveCore die base).num (base + 0x100 + 8 * n.toNat) 8 = (s.core.sReg n).toNat)
      ∧ (∀ n, (s.saveCore die base).num (base + 0x300 + 4 * n.toNat) 4 = (s.core.xReg n).toNat)
      ∧ (s.saveCore die base).num (base + 8) 8 = s.core.pc.toNat := by
  have hraw' {o : Nat} (ho : o ≤ 0xFFFFFF) : isRaw (base + o) = true := by
    have := of_decide_eq_true hraw
    exact decide_eq_true (by omega)
  obtain ⟨⟨b0, b1, hc⟩, -, -⟩ := s.readied_frame
  obtain ⟨hrb, hrpc, hrs, hrx⟩ : s.readied.core.bundles = [] ∧ s.readied.core.pc = s.core.pc ∧ s.readied.core.s = s.core.s
      ∧ s.readied.core.x = s.core.x := by
    rw [hc, CoreState.counted, CoreState.crPut_bundles, CoreState.crPut_pc, CoreState.crPut_s, CoreState.crPut_x]
    exact ⟨hb, rfl, rfl, rfl⟩
  obtain ⟨hpc, hs, hx⟩ := s.readied.unqueued.partPieces_hold hrb
  refine ⟨fun n => ?_, fun n => ?_, ?_⟩
  · have hn := n.isLt
    have hlen : 8 * n.toNat + 8 ≤ s.readied.core.sBytes.length := by
      rw [CoreState.sBytes, length_flatMap_range 64 8 fun i => length_leBytes 8 _]
      omega
    rw [State.num, State.bytes_saveCore _ (by omega), State.bytes_putPieces _ _ _ hs (hraw' (by decide)) hlen, CoreState.sBytes,
      take_drop_flatMap_range (fun i => length_leBytes 8 _) hn, leNat_leBytes, hrs]
    exact Nat.mod_eq_of_lt (s.core.sReg n).isLt
  · have hn := n.isLt
    have hlen : 4 * n.toNat + 4 ≤ s.readied.core.xBytes.length := by
      rw [CoreState.xBytes, length_flatMap_range 16 4 fun i => length_leBytes 4 _]
      omega
    rw [State.num, State.bytes_saveCore _ (by omega), State.bytes_putPieces _ _ _ hx (hraw' (by decide)) hlen, CoreState.xBytes,
      take_drop_flatMap_range (fun i => length_leBytes 4 _) hn, leNat_leBytes, hrx]
    exact Nat.mod_eq_of_lt (s.core.xReg n).isLt
  · have hlen : 0 + 8 ≤ (leBytes 8 s.readied.core.pc.toNat).length := (length_leBytes 8 _).ge
    have hpcLt := s.core.pc.isLt
    have hbytes := s.readied.unqueued.bytes_putPieces die (s.readied.unqueued.coreSlack s.readied.core) hpc (base := base)
      (hraw' (by decide)) hlen
    rw [State.num, State.bytes_saveCore _ (by omega), ← Nat.add_zero (base + 8), hbytes, List.drop_zero,
      List.take_of_length_le (length_leBytes 8 _).le, leNat_leBytes, hrpc]
    omega

end

end Sys2Proof.Machine
end

section
/-! SUPPORT. PREEMPTION of a gang of one core (R426 to R428). -/

namespace Sys2Proof.Machine

variable {s : State} {l : Launch} {g : Gang} {id : BitVec 7} {slot : Nat}

theorem State.asCore_self {f : State → State} (h : s.core.id = id) (hf : (f s).core.id = id) : s.asCore id f = f s := by
  have hfocus : s.focus id = s := if_pos h
  rw [State.asCore, hfocus, h]
  exact if_pos hf

theorem State.asCore_saveCore {die : Bool} {base : Nat} (h : s.core.id = id) (hf : (s.saveCore die base).core.id = id) :
    s.asCore id (fun s => s.saveCore die base) = s.saveCore die base := State.asCore_self h hf

theorem State.updLaunch_single {m : Launch} {key : Nat} (h : s.launches = [m]) (hk : m.key = key) (f : Launch → Launch) :
    (s.updLaunch key f).launches = [f m] := by
  simp [State.updLaunch, h, hk]

theorem State.updGang_single {m : Launch} {key : Nat} (h : s.launches = [m]) (hk : m.key = key) (f : Gang → Gang) (hg : m.gangs = [g]) :
    (s.updGang key g.k0 f).launches = [{ m with gangs := [f g] }] := by
  rw [State.updGang, State.updLaunch_single h hk, hg, List.map_singleton, if_pos rfl]

/-! ### The save of a gang -/

/-- R441: the state when a gang is to be saved, what it owes charged and its taint noted. -/
def State.settledFor (s : State) (l : Launch) (g : Gang) : State := s.flush.noteTaint l g

/-- R428: the gang's partition saved, its cores still to be. -/
def State.partitionSaved (s : State) (l : Launch) (g : Gang) (slot : Nat) : State :=
  ((s.settledFor l g).slotSave l.die (imageSlack l.image) g.partAt ((s.settledFor l g).slotAt slot 0 + 0x440000) (65536 * g.psize)).charge
    l.key 13 (1024 * g.psize)

theorem State.settledFor_accounts : Accounts Launch.Alike s (s.settledFor l g) :=
  (s.flush_accounts.mono fun _ _ h => h.1).trans .trans (s.flush.noteTaint_accounts l g)

theorem State.slotAt_of_dev {t : State} (h : t.dev = s.dev) (k : Nat) : t.slotAt slot k = s.slotAt slot k := by
  rw [State.slotAt, State.devGet, h, ← State.devGet, State.slotAt]

theorem State.partitionSaved_frame : (s.partitionSaved l g slot).core = s.core ∧ (s.partitionSaved l g slot).dev = s.dev
    ∧ (s.partitionSaved l g slot).replies = s.replies
    ∧ ∃ f, (∀ l, Launch.Alike l (f l)) ∧ (s.partitionSaved l g slot).launches = s.launches.map f := by
  have hacc : Accounts Launch.Alike s (s.settledFor l g) := State.settledFor_accounts
  unfold State.partitionSaved
  have hslot := (s.settledFor l g).slotSave_storageOnly l.die (imageSlack l.image) g.partAt ((s.settledFor l g).slotAt slot 0 + 0x440000)
    (65536 * g.psize)
  generalize (s.settledFor l g).slotSave _ _ _ _ _ = t at hslot ⊢
  have hcharge := t.charge_accounts l.key 13 (1024 * g.psize)
  obtain ⟨f, hf, hl⟩ := hacc.launches
  obtain ⟨f', hf', hl'⟩ := hcharge.launches
  refine ⟨hcharge.core.trans (hslot.core.trans hacc.core), hcharge.dev.trans (hslot.dev.trans hacc.dev),
    hcharge.replies.trans (hslot.still.replies.trans hacc.replies), f' ∘ f, fun l => (hf l).trans (hf' (f l)).1, ?_⟩
  rw [hl', hslot.launches, hl, List.map_map]

theorem State.sendLaunch_frame (s : State) (evq root : Word64) (sl cls lid core : Nat) (die : Bool) (body : List Byte) :
    (s.sendLaunch evq root sl cls lid core die body).core = s.core ∧ (s.sendLaunch evq root sl cls lid core die body).mem = s.mem
      ∧ (s.sendLaunch evq root sl cls lid core die body).launches = s.launches := by
  unfold State.sendLaunch
  split
  · exact ⟨rfl, rfl, rfl⟩
  · obtain ⟨_, _, _, h, -⟩ := s.sendRecord_eq evq root sl cls lid core die body
    rw [h]
    exact ⟨rfl, rfl, rfl⟩

/-- R428: a gang as it is noted in its launch once it is saved. -/
def Gang.away (v : State) (slot : Nat) (g h : Gang) : Gang :=
  { h with placed := false, saved := some slot, halted := g.cores.filter (v.ended g),
           parkedOn := (v.waiters.filter fun w => g.cores.any fun k => w.agent == .core k).map (·.qpa),
           kept := g.cores.map fun k => (v.coreAt k).keptNow }

/-- R427: a pre-emption that took `used` cycles counted in its launch. -/
def Launch.preempted (used : Nat) (l : Launch) : Launch :=
  { l with preempts := l.preempts + 1, overrun := l.overrun || decide (l.drn < used) }

/-- R428: every core of a gang saved in turn. -/
def State.coresSaved (s : State) (l : Launch) (g : Gang) (slot : Nat) : State :=
  (List.range g.cores.length).foldl (fun s k => s.asCore (g.cores[k]?.getD 0#7) (·.saveCore l.die (s.slotAt slot k))) (s.partitionSaved l g slot)

/-- R428: the launch of a gang that has been saved. -/
def State.gangAway (s : State) (l : Launch) (g : Gang) (slot : Nat) : State :=
  ((s.coresSaved l g slot).updGang l.key g.k0 (g.away (s.settledFor l g) slot)).updLaunch l.key (Launch.preempted (s.cycle - g.since))

theorem State.saveGang_eq (s : State) (l : Launch) (g : Gang) (slot : Nat) : s.saveGang l g slot =
    if s.cycle - g.since ≤ l.drn then s.gangAway l g slot
    else (s.gangAway l g slot).sendLaunch (BitVec.ofNat 64 (recEvq l.record)) (recRoot l.record) (imageSlack l.image) 5 l.lid.toNat
      g.home.toNat l.die (leBytes 8 (s.cycle - g.since)) := rfl

theorem State.saveGang_frame (s : State) (l : Launch) (g : Gang) (slot : Nat) :
    (s.saveGang l g slot).core = (s.coresSaved l g slot).core ∧ (s.saveGang l g slot).mem = (s.coresSaved l g slot).mem
      ∧ (s.saveGang l g slot).launches = (s.gangAway l g slot).launches := by
  have haway : (s.gangAway l g slot).core = (s.coresSaved l g slot).core ∧ (s.gangAway l g slot).mem = (s.coresSaved l g slot).mem := by
    unfold State.gangAway
    exact ⟨rfl, rfl⟩
  rw [State.saveGang_eq]
  split
  · exact ⟨haway.1, haway.2, rfl⟩
  · obtain ⟨hc, hm, hl⟩ := (s.gangAway l g slot).sendLaunch_frame (BitVec.ofNat 64 (recEvq l.record)) (recRoot l.record)
      (imageSlack l.image) 5 l.lid.toNat g.home.toNat l.die (leBytes 8 (s.cycle - g.since))
    exact ⟨hc.trans haway.1, hm.trans haway.2, hl⟩

section
variable (hc : g.cores = [id]) (hid : s.core.id = id) (hr : s.replies.all (·.core != s.core.id) = true)
include hc hid hr

/-- R428: the one core of a gang is saved at the start of its slot. -/
theorem State.coresSaved_single : s.coresSaved l g slot = (s.partitionSaved l g slot).saveCore l.die (s.slotAt slot 0) := by
  obtain ⟨hcore, hdev, hreplies, -⟩ := s.partitionSaved_frame (l := l) (g := g) (slot := slot)
  have hr' : (s.partitionSaved l g slot).replies.all (·.core != (s.partitionSaved l g slot).core.id) = true := by
    rw [hreplies, hcore]
    exact hr
  obtain ⟨-, hsid, -⟩ := State.saveCore_frame hr' l.die (s.slotAt slot 0)
  have hrange : List.range g.cores.length = [0] := by rw [hc]; rfl
  have hcore0 : g.cores[0]?.getD 0#7 = id := by rw [hc]; rfl
  rw [State.coresSaved, hrange, List.foldl_cons, List.foldl_nil, hcore0, State.slotAt_of_dev hdev]
  have hself : (s.partitionSaved l g slot).core.id = id := by rw [hcore, hid]
  rw [hself] at hsid
  exact State.asCore_saveCore hself hsid

/-- R427: a core that is pre-empted is idle and empty, and is not asked any more. -/
theorem State.saveGang_core : (s.saveGang l g slot).core.mode = .idle ∧ ((s.saveGang l g slot).core.crGet 0x0C4).getLsbD 0 = false
    ∧ (s.saveGang l g slot).core.bundles = [] ∧ (s.saveGang l g slot).core.ops = [] := by
  obtain ⟨hcore, -, hreplies, -⟩ := s.partitionSaved_frame (l := l) (g := g) (slot := slot)
  have hr' : (s.partitionSaved l g slot).replies.all (·.core != (s.partitionSaved l g slot).core.id) = true := by
    rw [hreplies, hcore]
    exact hr
  obtain ⟨-, -, hrest⟩ := State.saveCore_frame hr' l.die (s.slotAt slot 0)
  rw [(s.saveGang_frame l g slot).1, State.coresSaved_single hc hid hr]
  exact hrest

/-- R427, R428: the one launch and its one gang once it is saved. -/
theorem State.saveGang_launches (hl : s.launches = [l]) (hg : l.gangs = [g]) : ∃ l' g', (s.saveGang l g slot).launches = [l']
    ∧ l'.gangs = [g'] ∧ l'.preempts = l.preempts + 1 ∧ g'.saved = some slot ∧ g'.placed = false := by
  obtain ⟨hcore, -, hreplies, f, hf, hlaunches⟩ := s.partitionSaved_frame (l := l) (g := g) (slot := slot)
  have hr' : (s.partitionSaved l g slot).replies.all (·.core != (s.partitionSaved l g slot).core.id) = true := by
    rw [hreplies, hcore]
    exact hr
  obtain ⟨⟨f', hf', hlaunches'⟩, -⟩ := State.saveCore_frame hr' l.die (s.slotAt slot 0)
  have halike : l.Alike (f' (f l)) := (hf l).trans (hf' (f l)).1
  rw [hlaunches, hl] at hlaunches'
  have hkey := halike.key
  rw [(s.saveGang_frame l g slot).2.2, State.gangAway, State.coresSaved_single hc hid hr]
  generalize (s.partitionSaved l g slot).saveCore _ _ = w at hlaunches'
  obtain ⟨pj, v, c, b, hb, he⟩ := halike
  obtain ⟨now, hnow⟩ := hb g
  have hgangs : (f' (f l)).gangs = [{ g with billed := now }] := by rw [he, hg, List.map_singleton, hnow]
  have hpreempts : (f' (f l)).preempts = l.preempts := by rw [he]
  have hsaved := State.updGang_single hlaunches' hkey (g.away (s.settledFor l g) slot) hgangs
  refine ⟨_, g.away (s.settledFor l g) slot { g with billed := now }, State.updLaunch_single hsaved hkey _, rfl, ?_, rfl, rfl⟩
  exact congrArg (· + 1) hpreempts

/-- R428: what the slot holds of a core without a bundle under way. -/
theorem State.num_saveGang (hb : s.core.bundles = []) (hraw : isRaw (s.slotAt slot 0 + 0xFFFFFF) = true) :
    (∀ n, (s.saveGang l g slot).num (s.slotAt slot 0 + 0x100 + 8 * n.toNat) 8 = (s.core.sReg n).toNat)
      ∧ (∀ n, (s.saveGang l g slot).num (s.slotAt slot 0 + 0x300 + 4 * n.toNat) 4 = (s.core.xReg n).toNat)
      ∧ (s.saveGang l g slot).num (s.slotAt slot 0 + 8) 8 = s.core.pc.toNat := by
  obtain ⟨hcore, -, -, -⟩ := s.partitionSaved_frame (l := l) (g := g) (slot := slot)
  have hmem : (s.saveGang l g slot).mem = ((s.partitionSaved l g slot).saveCore l.die (s.slotAt slot 0)).mem := by
    rw [(s.saveGang_frame l g slot).2.1, State.coresSaved_single hc hid hr]
  have hsaved := State.num_saveCore (s := s.partitionSaved l g slot) l.die (by rw [hcore, hb]) hraw
  rw [hcore] at hsaved
  simpa only [State.num_of_mem hmem] using hsaved

end

/-! ### PREEMPTION -/

theorem CoreState.beginDrain_frame (c : CoreState) : c.beginDrain.id = c.id ∧ c.beginDrain.s = c.s ∧ c.beginDrain.x = c.x
    ∧ c.beginDrain.pc = c.pc ∧ c.beginDrain.bundles = c.bundles := by
  unfold CoreState.beginDrain
  split <;> exact ⟨rfl, rfl, rfl, rfl, rfl⟩

theorem State.drained_replies (h : s.drained = true) : s.replies.all (·.core != s.core.id) = true := by
  unfold State.drained at h
  simp only [Bool.and_eq_true] at h
  obtain ⟨⟨-, hreplies⟩, -⟩ := h
  exact hreplies

/-- A core without a gang that is asked stays. -/
theorem execPreemption_none (h : ∀ l ∈ s.launches, ∀ g ∈ l.gangs, id ∈ g.cores → s.draining g = false) :
    exec (.preemption id) s = .next s := by
  have hnone : (s.launches.findSome? fun l => (l.gangs.find? fun g => g.cores.contains id && s.draining g).map fun g => (l, g)) = none := by
    refine List.findSome?_eq_none_iff.mpr fun l hl => ?_
    rw [Option.map_eq_none_iff, List.find?_eq_none]
    intro g hg
    by_cases hmem : id ∈ g.cores
    · simp [h l hl g hg hmem]
    · simp [hmem]
  show execPreemption id s = _
  unfold execPreemption
  rw [hnone]

/-- R427: the steps of a pre-emption of a gang of one core. -/
theorem execPreemption_single (hl : s.launches = [l]) (hg : l.gangs = [g]) (hc : g.cores = [id]) (hid : s.core.id = id)
    (hd : s.draining g = true) (hs : (s.ctl l.die).stopped = false) : exec (.preemption id) s =
      if s.settled = false then .next s
      else if (s.upd (·.beginDrain)).drained = false then .next (s.upd (·.beginDrain))
      else match s.freeSlot with
        | none => .next (s.upd (·.beginDrain))
        | some slot => .next ((s.upd (·.beginDrain)).saveGang l g slot) := by
  have hsome : (s.launches.findSome? fun l => (l.gangs.find? fun g => g.cores.contains id && s.draining g).map fun g => (l, g)) = some (l, g) := by
    simp [hl, hg, hc, hd]
  have hfocus : s.focus id = s := if_pos hid
  have hbegin : s.updCore id (·.beginDrain) = s.upd (·.beginDrain) := if_pos hid
  have hfocus' : (s.upd (·.beginDrain)).focus id = s.upd (·.beginDrain) := if_pos (s.core.beginDrain_frame.1.trans hid)
  have hfree : (s.upd (·.beginDrain)).freeSlot = s.freeSlot := rfl
  show execPreemption id s = _
  unfold execPreemption
  rw [hsome]
  simp only [hc, hs, List.all_cons, List.all_nil, Bool.and_true, Bool.false_or, List.foldl_cons, List.foldl_nil, hfocus, hbegin, hfocus', hfree,
    Bool.not_eq_true'] <;> rfl

end Sys2Proof.Machine
end

section
/-! The statement on the controllers and the life of a launch. -/

open Sys2Proof Sys2Proof.Machine

/-- Settles O52, event by event. -/
theorem launchLifeCycle : Obligations.LaunchLifeCycle := by
  unfold Obligations.LaunchLifeCycle
  refine ⟨fun die n s => ?headRead, fun die s => ?decision, fun die s => ?dequeue, fun s => ?start, fun id s => ?preemption,
    fun die lid s => ?complete, fun s => ?meters, fun die s => ?sleep, fun die s => ?wake⟩
  case headRead =>
    refine ⟨fun h => congrArg Host.Outcome.next (if_pos h), fun h => ?_⟩
    obtain ⟨hmem, hcore, hlaunches⟩ := s.seeHead_frame die n
    have hlq : (s.seeHead die n).lq die n = (s.lq die n).sees s (s.queueHead die n.toNat) := by
      rw [State.lq_seeHead, if_pos (And.intro rfl rfl)]
    refine ⟨s.seeHead die n, congrArg Host.Outcome.next (if_neg (by simp [h])), hmem, hcore, hlaunches,
      fun d m hdm => by rw [State.lq_seeHead, if_neg hdm], fun hunused => ?_, fun hlo hhi hb => ?_⟩
    · rw [hlq, s.queueHead_unused die hunused]
      exact ⟨rfl, rfl⟩
    · rw [hlq, s.queueHead_used die hlo hhi hb]
      refine ⟨fun hbad => ?_, fun data hgood hcode hdata => ?_⟩
      · by_cases hreason : s.qcbReason (s.queuePa die n.toNat) = 0
        · rw [if_neg (not_not.mpr hreason), if_pos (hbad.resolve_left (not_not.mpr hreason))]
          exact LaunchQueue.sees_error s _ (by decide)
        · rw [if_pos hreason]
          exact LaunchQueue.sees_error s _ hreason
      · rw [if_neg (not_not.mpr hgood), if_neg (not_not.mpr hcode), hdata]
        by_cases hfull : (s.qcb (s.queuePa die n.toNat)).free = (s.qcb (s.queuePa die n.toNat)).capacity
        · simp only [if_pos hfull]
          exact ⟨rfl, fun _ => rfl, fun hne => absurd hfull hne⟩
        · simp only [if_neg hfull]
          exact ⟨rfl, fun hf => absurd hf hfull, fun _ => LaunchQueue.sees_head s _ _ _⟩
  case decision =>
    intro seen q
    refine ⟨execPlacementDecision_idle, seen.candidates_pairwise die, ?_⟩
    intro c r hplaces hsingle hdie hwhat href hres hheld gs hfree
    subst hdie
    obtain ⟨l, hl⟩ := State.consider_places hwhat href hres hheld hfree
    exact ⟨_, l, execPlacementDecision_single hplaces hsingle hres, hl⟩
  case dequeue =>
    intro next
    refine ⟨execLaunchRecordDequeued_none, fun n l hnext hwait => execLaunchRecordDequeued_waits hnext hwait, ?_⟩
    intro n l hnext hrun hwait d
    refine ⟨execLaunchRecordDequeued_empty hnext hrun hwait, fun hsome hlid => ?_⟩
    refine ⟨_, execLaunchRecordDequeued_launch hnext hrun hwait hsome hlid, rfl, ?_, State.takeLid_mem _ die⟩
    exact congrArg Controller.nextLid (State.ctl_updCtl ..)
  case start =>
    intro next
    refine ⟨fun h => ?_, fun l g id h hg hc hk hid => ?_⟩
    · show execLaunchStart s = _
      unfold execLaunchStart
      rw [show (s.launches.find? _) = none from h]
    · have hstart : exec .launchStart s = .next (s.startLaunch l) := by
        show execLaunchStart s = _
        unfold execLaunchStart
        rw [show (s.launches.find? _) = some l from h]
      rw [State.startLaunch_single hg hc hk] at hstart
      have hput := (s.begin l g id).putStatus_storageOnly l.record (l.lid.toNat + 2 ^ 19)
      have hcore := (hput.coreAt id).trans (State.coreAt_begin (l := l) (g := g) hid)
      obtain ⟨hbundles, hloops⟩ := (s.coreAt id).launched_bundles l g 0 1
      obtain ⟨hstatus, hroot, hpart, htenant, hlid⟩ := (s.coreAt id).crGet_launched_fixed l g 0 1
      refine ⟨_, hstart, by rw [hput.launches]; exact State.launches_begin, fun a ha => ?_, fun a ha => ?_, ?_⟩
      · rw [State.byte_putStatus _ _ _ (by simp only [Loc.store]; omega), State.byte_begin hid, if_pos]
        simp only [Loc.store]
        omega
      · have hpart : g.partAt = Loc.spad (cluster id) (65536 * g.pbase) := by rw [Gang.partAt, hc]
        rw [State.byte_putStatus _ _ _ (by simp only [Loc.spad]; omega), State.byte_begin hid, hpart]
        split
        · rfl
        · rw [if_pos (by omega)]
      · intro c
        rw [show c = (s.coreAt id).launched l g 0 1 false from hcore]
        exact ⟨CoreState.launched_mode _ _ _ _ _, CoreState.launched_pc _ _ _ _ _, hbundles, hloops, CoreState.sReg_launched _ _ _ _ _, CoreState.xReg_launched _ _ _ _ _,
          fun n hn => CoreState.gReg_launched _ _ _ _ _ hn, hstatus, hroot, hpart, htenant, hlid,
          fun i hi hv => CoreState.crGet_launched_view _ _ _ _ _ hi hv⟩
  case complete =>
    intro found
    refine ⟨execLaunchComplete_none, fun l hl => ⟨execLaunchComplete_waits hl, fun hs hr => ⟨execLaunchComplete_closes hl hs hr, fun hw ht => ?_⟩⟩⟩
    obtain ⟨t, m, he, hkey, hret⟩ := execLaunchComplete_completes hl hs hr hw ht
    refine ⟨_, he, hkey ▸ t.launches_complete m, fun hp hcq hpar => ?_⟩
    obtain ⟨rfl, rfl⟩ := hret hp
    exact State.complete_last hl hcq hpar
  case meters =>
    exact ⟨s.flush, rfl, s.flush_accounts.core, s.flush_accounts.mem, fun i hi => s.meters_flush hi⟩
  case sleep =>
    refine ⟨execSleepStateEntry_stays, fun st p ha hs hl hq => ⟨_, execSleepStateEntry_enters ha hs hl hq, ?_⟩⟩
    obtain ⟨hctl, hcore, hmem, hlinks, hupds, htick⟩ := s.slept_frame die st
    obtain ⟨hctl', hscalars, hraw, hstore, hspad, hheld, hl1, hup⟩ := (s.slept die st).powerDown_loses die
    rw [htick] at hstore hspad
    by_cases hst : st = 0#2
    · rw [if_pos hst]
      exact ⟨congrArg Controller.asked hctl, congrArg Controller.asleep hctl, congrArg CoreState.s hcore, fun l _ => State.byte_of_mem hmem l,
        fun _ => ⟨hcore, hmem, hlinks⟩, fun h => absurd hst h, fun h => absurd hst h⟩
    · rw [if_neg hst]
      exact ⟨congrArg Controller.asked ((hctl' die).trans hctl), congrArg Controller.asleep ((hctl' die).trans hctl),
        hscalars.trans (congrArg CoreState.s hcore), fun l hlt => (hraw l hlt).trans (State.byte_of_mem hmem l), fun h => absurd h hst,
        fun _ => ⟨hstore, hspad, hupds ▸ hheld, hl1⟩, fun _ => hup⟩
  case wake =>
    refine ⟨execWake_stays, fun hs hw ha => ?_⟩
    obtain ⟨t, hexec, hctl, hcore, hmem, hlinks⟩ := execWake_wakes hs hw ha
    refine ⟨t, hexec, congrArg Controller.asleep hctl, congrArg Controller.waking hctl, hcore, hmem, fun hdeep d n hn hen hup => ?_⟩
    rw [if_neg (Nat.not_le.mpr hdeep)] at hlinks
    rcases s.link_map (Link.wakened_named die) hlinks d n with h | ⟨-, h⟩
    · rw [h, Link.wakened, if_pos (by rw [Link.enabled, hen, hup, (s.link_named d n).2, hn, beq_self_eq_true, beq_self_eq_true]; rfl)]
    · rw [h] at hen
      exact absurd (show Link.ctlReset.getLsbD 0 = true from hen) (by decide)
  case preemption =>
    refine ⟨execPreemption_none, fun l g hl hg hc hid hd hs => ?_⟩
    have hexec := execPreemption_single hl hg hc hid hd hs
    intro u
    refine ⟨fun hset => by rw [hexec, if_pos hset], fun hset hwait => ?_, fun slot hset hdr hslot => ?_⟩
    · rw [hexec, if_neg (by simp [hset])]
      rcases hwait with hdr | hslot
      · rw [if_pos hdr]
      · rw [hslot, ite_self]
    · obtain ⟨hbid, hbs, hbx, hbpc, hbb⟩ := s.core.beginDrain_frame
      have huid : u.core.id = id := hbid.trans hid
      have hr : u.replies.all (·.core != u.core.id) = true := State.drained_replies hdr
      have hdr' : ¬(s.upd (·.beginDrain)).drained = false := ne_of_eq_of_ne hdr (by decide)
      rw [if_neg (by simp [hset]), if_neg hdr', hslot] at hexec
      obtain ⟨l', g', hl', hg', hpre, hsaved, hplaced⟩ := State.saveGang_launches (slot := slot) hc huid hr hl hg
      obtain ⟨hmode, hasked, hbundles, hops⟩ := State.saveGang_core (l := l) (slot := slot) hc huid hr
      refine ⟨_, l', g', hexec, hl', hg', hpre, hsaved, hplaced, hmode, hasked, hbundles, hops, fun hraw _ _ _ _ hb _ => ?_⟩
      obtain ⟨hnums, hnumx, hnumpc⟩ := State.num_saveGang (l := l) (slot := slot) hc huid hr (hbb.trans hb) hraw
      exact ⟨fun n => (hnums n).trans (congrArg (fun t => (Cells.get 0#64 t n.toNat).toNat) hbs),
        fun n => (hnumx n).trans (congrArg (fun t => (Cells.get 0#32 t n.toNat).toNat) hbx), hnumpc.trans (congrArg BitVec.toNat hbpc)⟩
end

section
/-! SUPPORT. Operand fields read back from an encoded word and its lent bits (R29 to R60). -/

namespace Sys2Proof

set_option Elab.async false

/-! ### Fields with lent bits (R37) -/

theorem bits_eq_iff {n w lo : Nat} {x : BitVec n} : bits n w lo = x ↔ w / 2 ^ lo % 2 ^ n = x.toNat := by
  rw [← BitVec.toNat_inj, bits, BitVec.toNat_ofNat]

theorem bits_eq_setWidth {n k w lo : Nat} {v : BitVec n} (h : w / 2 ^ lo % 2 ^ k = v.toNat % 2 ^ k) : bits k w lo = v.setWidth k := by
  rw [bits_eq_iff, BitVec.toNat_setWidth, h]

/-- High bits that are lent, joined to low bits that the word holds. -/
theorem extractLsb'_append_bits {m k w lo : Nat} {v : BitVec (m + k)} (h : w / 2 ^ lo % 2 ^ k = v.toNat % 2 ^ k) :
    v.extractLsb' k m ++ bits k w lo = v := by
  rw [bits_eq_setWidth h, BitVec.setWidth_eq_extractLsb' (by omega), BitVec.extractLsb'_append_extractLsb']

theorem setWidth_bits {n k w lo : Nat} {v : BitVec n} (hv : v.toNat < 2 ^ k) (h : w / 2 ^ lo % 2 ^ k = v.toNat % 2 ^ k) :
    (bits k w lo).setWidth n = v := by
  refine BitVec.eq_of_toNat_eq ?_
  rw [bits_eq_setWidth h, BitVec.toNat_setWidth, BitVec.toNat_setWidth, Nat.mod_eq_of_lt hv, Nat.mod_eq_of_lt v.isLt]

theorem immS_lendS {w : Nat} {v : BitVec 19} (h : w / 2 ^ 0 % 2 ^ 10 = v.toNat % 2 ^ 10) : immS w (lendS 10 v) = v := by
  unfold lendS
  split
  next hv => rw [immS, bits_eq_setWidth h, hv]
  next => exact extractLsb'_append_bits (m := 9) h

theorem offJ_lendS {w : Nat} {v : BitVec 31} (h : w / 2 ^ 0 % 2 ^ 22 = v.toNat % 2 ^ 22) : offJ w (lendS 22 v) = v := by
  unfold lendS
  split
  next hv => rw [offJ, bits_eq_setWidth h, hv]
  next => exact extractLsb'_append_bits (m := 9) h

theorem offL_lendS {w : Nat} {v : BitVec 16} (h : w / 2 ^ 0 % 2 ^ 7 = v.toNat % 2 ^ 7) : offL w (lendS 7 v) = v := by
  unfold lendS
  split
  next hv => rw [offL, bits_eq_setWidth h, hv]
  next => exact extractLsb'_append_bits (m := 9) h

theorem immZ_lendZ {w : Nat} {v : BitVec 19} (h : w / 2 ^ 0 % 2 ^ 10 = v.toNat % 2 ^ 10) : immZ w (lendZ 10 v) = v := by
  unfold lendZ
  split
  next hv => exact setWidth_bits hv h
  next => exact extractLsb'_append_bits (m := 9) h

theorem imm16_lend16 {w : Nat} {v : BitVec 16} (h : w / 2 ^ 0 % 2 ^ 7 = v.toNat % 2 ^ 7) : imm16 w (lend16 v) = v := by
  unfold lend16 lendZ
  split
  next hv =>
    have hz : 0#9 ++ bits 7 w 0 = (bits 7 w 0).setWidth 16 := (BitVec.setWidth_eq_append (by decide)).symm
    exact hz.trans (setWidth_bits hv h)
  next => exact extractLsb'_append_bits (m := 9) h

theorem lendV_getD (d a b : BitVec 3) : (lendV d a b).getD 0#9 = (d ++ a ++ b : BitVec (3 + 3 + 3)) := by
  simp only [lendV]
  split
  next h => exact h.symm
  next => rfl

theorem lendV_d (d a b : BitVec 3) : ((lendV d a b).getD 0#9).extractLsb' 6 3 = d := by
  rw [lendV_getD, BitVec.extractLsb'_append_eq_of_le (by decide), BitVec.extractLsb'_append_eq_left]

theorem lendV_a (d a b : BitVec 3) : ((lendV d a b).getD 0#9).extractLsb' 3 3 = a := by
  rw [lendV_getD, BitVec.extractLsb'_append_eq_of_le (by decide), BitVec.extractLsb'_append_eq_right]

theorem lendV_b (d a b : BitVec 3) : ((lendV d a b).getD 0#9).extractLsb' 0 3 = b := by
  rw [lendV_getD, BitVec.extractLsb'_append_eq_right]

theorem vreg_eq_iff {w lo n : Nat} {l : Option (BitVec 9)} {r : BitVec 9} (hl : (l.getD 0#9).extractLsb' n 3 = hi3 r) :
    vreg w lo l n = r ↔ w / 2 ^ lo % 2 ^ 6 = lo6 r := by
  rw [vreg, hl]
  refine ⟨fun h => ?_, extractLsb'_append_bits (m := 3)⟩
  have hlow := congrArg (BitVec.setWidth 6) h
  rwa [BitVec.setWidth_append_eq_right, bits_eq_iff, BitVec.toNat_setWidth] at hlow

theorem maskLend_eq {mask : BitVec 9} {l : Option (BitVec 9)} {r : Decoded} (h : l.getD 0#9 &&& mask = 0#9) : maskLend mask l r = r := by
  simp [maskLend, h]

theorem maskLend_noB (d a : BitVec 3) (r : Decoded) : maskLend 0x007#9 (lendV d a 0#3) r = r :=
  maskLend_eq (by rw [lendV_getD]; revert d a; decide)

theorem maskLend_noD (a b : BitVec 3) (r : Decoded) : maskLend 0x1C0#9 (lendV 0#3 a b) r = r :=
  maskLend_eq (by rw [lendV_getD]; revert a b; decide)

theorem maskLend_noA (d b : BitVec 3) (r : Decoded) : maskLend 0x038#9 (lendV d 0#3 b) r = r :=
  maskLend_eq (by rw [lendV_getD]; revert d b; decide)

theorem maskLend_onlyD (d : BitVec 3) (r : Decoded) : maskLend 0x03F#9 (lendV d 0#3 0#3) r = r :=
  maskLend_eq (by rw [lendV_getD]; revert d; decide)

theorem offV_lendVM {w : Nat} {o : OpVM} (h : w / 2 ^ 4 % 2 ^ 6 = o.off.toNat % 2 ^ 6) : offV w (lendVM o) = o.off := by
  unfold lendVM
  split
  next hv => rw [offV, bits_eq_setWidth h, hv.2]
  next =>
    simp only [offV, BitVec.setWidth_append_eq_right]
    exact extractLsb'_append_bits (m := 6) h

theorem lendVM_d (o : OpVM) : ((lendVM o).getD 0#9).extractLsb' 6 3 = hi3 o.d := by
  unfold lendVM
  split
  next hv => rw [hv.1]; rfl
  next => exact BitVec.extractLsb'_append_eq_left

theorem copyCnt_lendCnt {w : Nat} {ch : BitVec 5} {cnt : Option (BitVec 8)} (h : flag w 1 = cnt.isSome) :
    copyCnt w (lendCnt ch cnt) ch = cnt := by
  cases cnt with
  | none => simp [copyCnt, h]
  | some b => by_cases hb : ch.setWidth 8 = b <;> simp [copyCnt, lendCnt, h, hb]

theorem copyCnt_lendBar {w : Nat} {cnt : Option (BitVec 8)} (h : flag w 1 = cnt.isSome) : copyCnt w (lendBar cnt) 0#5 = cnt := by
  cases cnt <;> simp [copyCnt, lendBar, h]

theorem lendIfCounts_lendBar {w : Nat} {cnt : Option (BitVec 8)} (h : flag w 1 = cnt.isSome) : lendIfCounts w (lendBar cnt) = true := by
  cases cnt <;> simp [lendIfCounts, lendBar, h]

theorem copyLend_some {w : Nat} (h : flag w 1 = true) (b : BitVec 8) (r : Decoded) : copyLend w (some (b.setWidth 9)) r = r := by
  simp [copyLend, h, BitVec.getMsbD]

theorem copyLend_lendCnt {w : Nat} {ch : BitVec 5} {cnt : Option (BitVec 8)} (h : flag w 1 = cnt.isSome) (r : Decoded) :
    copyLend w (lendCnt ch cnt) r = r := by
  cases cnt with
  | none => rfl
  | some b =>
    by_cases hb : ch.setWidth 8 = b
    · simp [lendCnt, hb, copyLend]
    · simpa [lendCnt, hb] using copyLend_some h b r

theorem copyLend_lendBar {w : Nat} {cnt : Option (BitVec 8)} (h : flag w 1 = cnt.isSome) (r : Decoded) :
    copyLend w (lendBar cnt) r = r := by
  cases cnt with
  | none => rfl
  | some b => exact copyLend_some h b r

end Sys2Proof
end

section
/-! SUPPORT. Each format of R51 to R60 that several instructions share: the decoder's operands are the encoded ones. -/

namespace Sys2Proof

set_option Elab.async false

/-- The instruction has a word of 32 bits, with a lend if it needs one, that decodes to it in a slot class. -/
def RoundTrips (k : SlotClass) (i : Instr) : Prop :=
  ∃ e, encode i = some e ∧ e.word < 2 ^ 32 ∧ decodeSlot k (BitVec.ofNat 32 e.word) e.lend = .ok i

/-! ### Fields of a word -/

theorem flag_eq_iff {w lo : Nat} {b : Bool} : flag w lo = b ↔ w / 2 ^ lo % 2 = boolBit b := by
  have : w / 2 ^ lo % 2 = 0 ∨ w / 2 ^ lo % 2 = 1 := by omega
  rcases this with h | h <;> cases b <;> simp [flag, boolBit, h]

theorem boolBit_lt (b : Bool) : boolBit b < 2 := by cases b <;> decide

theorem require_eq_ok {c : Bool} {i j : Instr} : require c i = .ok j ↔ c = true ∧ i = j := by
  cases c <;> simp [require]

theorem ite_eq_ok {c : Prop} [Decidable c] {r : Decoded} {e : Reject} {j : Instr} :
    (if c then r else .error e) = .ok j ↔ c ∧ r = .ok j := by
  by_cases h : c <;> simp [h]

/-- What a decoder may use of an encoded word: its opcode, its guard and its low 22 bits. The word stays a variable, so
that no check evaluates the sum it is. -/
theorem roundTrips_of {i : Instr} {k : SlotClass} {op rest : Nat} {g : BitVec 4} {lend : Option (BitVec 9)}
    (he : encode i = some ⟨wordOf op g rest, lend⟩) (hop : op < 64) (hrest : rest < 2 ^ 22)
    (hd : ∀ w : Word32, fld w.toNat 26 6 = op → bits 4 w.toNat 22 = g → w.toNat % 2 ^ 22 = rest → decodeSlot k w lend = .ok i) :
    RoundTrips k i := by
  have hlt : wordOf op g rest < 2 ^ 32 := by unfold wordOf; omega
  have hw : (BitVec.ofNat 32 (wordOf op g rest)).toNat = wordOf op g rest := by
    rw [BitVec.toNat_ofNat, Nat.mod_eq_of_lt hlt]
  refine ⟨_, he, hlt, hd _ ?_ ?_ ?_⟩ <;> rw [hw]
  · unfold fld wordOf; omega
  · rw [bits_eq_iff]; unfold wordOf; omega
  · unfold wordOf; omega

/-! ### Formats that several instructions share -/

theorem roundTrips_SA {c : OpSA → Instr} {op fn : Nat} {o : OpSA} (he : encode (c o) = some (encSA op fn o))
    (hop : op < 64) (hfn : fn < 16)
    (hd : ∀ w : Word32, fld w.toNat 26 6 = op → fld w.toNat 0 4 = fn → decodeSlot .s w none = .ok (c (dSA w.toNat))) :
    RoundTrips .s (c o) := by
  refine roundTrips_of he hop (by omega) fun w hw hg hr => ?_
  have ho : dSA w.toNat = o := by
    obtain ⟨g, d, a, b⟩ := o
    simp only [dSA, hg, bits_eq_iff, OpSA.mk.injEq, true_and] at hr ⊢
    omega
  rw [hd w hw (by unfold fld; omega), ho]

theorem roundTrips_SU {c : OpSU → Instr} {op fn : Nat} {o : OpSU} (he : encode (c o) = some (encSU op fn o))
    (hop : op < 64) (hfn : fn < 16)
    (hd : ∀ w : Word32, fld w.toNat 26 6 = op → fld w.toNat 0 4 = fn → fld w.toNat 4 6 = 0 →
      decodeSlot .s w none = .ok (c (dSU w.toNat))) :
    RoundTrips .s (c o) := by
  refine roundTrips_of he hop (by omega) fun w hw hg hr => ?_
  have ho : dSU w.toNat = o := by
    obtain ⟨g, d, a⟩ := o
    simp only [dSU, hg, bits_eq_iff, OpSU.mk.injEq, true_and] at hr ⊢
    omega
  rw [hd w hw (by unfold fld; omega) (by unfold fld; omega), ho]

theorem roundTrips_SQ {c : OpSQ → Instr} {op n : Nat} {o : OpSQ} (he : encode (c o) = some (encSQ op (n * 2 ^ 6) o))
    (hop : op < 64) (hn : n < 16)
    (hd : ∀ w : Word32, fld w.toNat 26 6 = op → fld w.toNat 6 4 = n → fld w.toNat 0 6 = 0 →
      decodeSlot .s w none = .ok (c (dSQ w.toNat))) :
    RoundTrips .s (c o) := by
  refine roundTrips_of he hop (by omega) fun w hw hg hr => ?_
  have ho : dSQ w.toNat = o := by
    obtain ⟨g, p, q⟩ := o
    simp only [dSQ, hg, bits_eq_iff, OpSQ.mk.injEq, true_and] at hr ⊢
    omega
  rw [hd w hw (by unfold fld; omega) (by unfold fld; omega), ho]

theorem roundTrips_SI {c : OpSI → Instr} {op : Nat} {o : OpSI} (he : encode (c o) = some (encSI op o)) (hop : op < 64)
    (hd : ∀ (w : Word32) l, fld w.toNat 26 6 = op → decodeSlot .s w l = .ok (c (dSI w.toNat l))) : RoundTrips .s (c o) := by
  refine roundTrips_of he hop (by omega) fun w hw hg hr => ?_
  have ho : dSI w.toNat (lendS 10 o.imm) = o := by
    obtain ⟨g, d, a, imm⟩ := o
    simp only at hr
    simp only [dSI, hg, bits_eq_iff, immS_lendS (by omega : w.toNat / 2 ^ 0 % 2 ^ 10 = imm.toNat % 2 ^ 10), OpSI.mk.injEq, true_and, and_true]
    omega
  rw [hd w _ hw, ho]

theorem roundTrips_shift {c : OpShift → Instr} {op : Nat} {o : OpShift} (he : encode (c o) = some (encShift op o)) (hop : op < 64)
    (hd : ∀ w : Word32, fld w.toNat 26 6 = op → fld w.toNat 6 4 = 0 → decodeSlot .s w none = .ok (c (dShift w.toNat))) :
    RoundTrips .s (c o) := by
  refine roundTrips_of he hop (by omega) fun w hw hg hr => ?_
  have ho : dShift w.toNat = o := by
    obtain ⟨g, d, a, k⟩ := o
    simp only [dShift, hg, bits_eq_iff, OpShift.mk.injEq, true_and] at hr ⊢
    omega
  rw [hd w hw (by unfold fld; omega), ho]

theorem roundTrips_SL {c : OpSL → Instr} {op : Nat} {o : OpSL} (he : encode (c o) = some (encSL op o)) (hop : op < 64)
    (hd : ∀ (w : Word32) l, fld w.toNat 26 6 = op → fld w.toNat 7 3 = o.ty.toNat → fld w.toNat 7 1 = o.ty.toNat % 2 →
      decodeSlot .s w l = .ok (c (dSL w.toNat l))) : RoundTrips .s (c o) := by
  refine roundTrips_of he hop (by omega) fun w hw hg hr => ?_
  have ho : dSL w.toNat (lendS 7 o.off) = o := by
    obtain ⟨g, r, base, ty, off⟩ := o
    simp only at hr
    simp only [dSL, hg, bits_eq_iff, offL_lendS (by omega : w.toNat / 2 ^ 0 % 2 ^ 7 = off.toNat % 2 ^ 7), OpSL.mk.injEq, true_and, and_true]
    omega
  rw [hd w _ hw (by unfold fld; omega) (by unfold fld; omega), ho]

theorem roundTrips_atom {c : OpAtom → Instr} {op : Nat} {o : OpAtom} (he : encode (c o) = some (encAtom op o)) (hop : op < 64)
    (hd : ∀ w : Word32, fld w.toNat 26 6 = op → fld w.toNat 0 4 = o.f.toNat → decodeSlot .s w none = .ok (c (dAtom w.toNat))) :
    RoundTrips .s (c o) := by
  refine roundTrips_of he hop (by omega) fun w hw hg hr => ?_
  have ho : dAtom w.toNat = o := by
    obtain ⟨g, d, a, b, f⟩ := o
    simp only [dAtom, hg, bits_eq_iff, OpAtom.mk.injEq, true_and] at hr ⊢
    omega
  rw [hd w hw (by unfold fld; omega), ho]

theorem OpLoop.ok_iff (o : OpLoop) : o.ok = true ↔ o.n = 0#19 ∨ o.a.toNat = 0 := by
  simp [OpLoop.ok, ← BitVec.toNat_inj]

theorem roundTrips_loop {c : OpLoop → Instr} {op : Nat} {o : OpLoop} (he : encode (c o) = some (encLoop op o)) (hop : op < 64)
    (hok : o.ok = true)
    (hd : ∀ (w : Word32) l, fld w.toNat 26 6 = op → fld w.toNat 22 4 = 0 → (immZ w.toNat l = 0#19 ∨ fld w.toNat 10 6 = 0) →
      decodeSlot .s w l = .ok (c (dLoop w.toNat l))) : RoundTrips .s (c o) := by
  refine roundTrips_of he hop (by omega) fun w hw hg hr => ?_
  rw [OpLoop.ok_iff] at hok
  obtain ⟨l, a, n⟩ := o
  simp only at hr hok
  have hn : immZ w.toNat (lendZ 10 n) = n := immZ_lendZ (by omega)
  have ho : dLoop w.toNat (lendZ 10 n) = ⟨l, a, n⟩ := by
    simp only [dLoop, bits_eq_iff, hn, OpLoop.mk.injEq, and_true]
    omega
  rw [bits_eq_iff] at hg
  have ha : fld w.toNat 10 6 = a.toNat := by unfold fld; omega
  rw [hd w _ hw (by simpa [fld] using hg) (by rwa [hn, ha]), ho]

theorem roundTrips_guard {c : OpGuard → Instr} {fn : Nat} {o : OpGuard} (he : encode (c o) = some (encGuard fn o)) (hfn : fn < 16)
    (hd : o.d ≠ 0#3) (hc : ∀ w : Word32, fld w.toNat 26 6 = 6 → fld w.toNat 0 4 = fn → guardOk w.toNat = true →
      decodeSlot .s w none = .ok (c (dGuard w.toNat))) : RoundTrips .s (c o) := by
  refine roundTrips_of he (by decide) (by omega) fun w hw hg hr => ?_
  have ho : dGuard w.toNat = o := by
    obtain ⟨g, d, a, b⟩ := o
    simp only [dGuard, hg, bits_eq_iff, OpGuard.mk.injEq, true_and] at hr ⊢
    omega
  have hok : guardOk w.toNat = true := by
    simp only [ne_eq, ← BitVec.toNat_inj, BitVec.toNat_ofNat] at hd
    simp only [guardOk, fld, Bool.and_eq_true, beq_iff_eq, bne_iff_ne]
    omega
  rw [hc w hw (by unfold fld; omega) hok, ho]

theorem roundTrips_G {c : OpG → Instr} {k : SlotClass} {op : Nat} {o : OpG} (he : encode (c o) = some (plain op o.g 0)) (hop : op < 64)
    (hd : ∀ w : Word32, fld w.toNat 26 6 = op → fld w.toNat 0 22 = 0 → decodeSlot k w none = .ok (c (dG w.toNat))) :
    RoundTrips k (c o) := by
  refine roundTrips_of he hop (by omega) fun w hw hg hr => ?_
  rw [hd w hw (by unfold fld; omega), dG, hg]

theorem roundTrips_SJ {c : OpSJ → Instr} {op : Nat} {o : OpSJ} (he : encode (c o) = some (encSJ op o)) (hop : op < 64)
    (hd : ∀ (w : Word32) l, fld w.toNat 26 6 = op → decodeSlot .s w l = .ok (c (dSJ w.toNat l))) : RoundTrips .s (c o) := by
  refine roundTrips_of he hop (by omega) fun w hw hg hr => ?_
  rw [hd w _ hw, dSJ, hg, offJ_lendS (by omega)]

/-- One scalar operand in the field at bit 10. -/
theorem roundTrips_S1 {c : OpS1 → Instr} {k : SlotClass} {op : Nat} {o : OpS1}
    (he : encode (c o) = some (plain op o.g (o.p.toNat * 2 ^ 10))) (hop : op < 64)
    (hd : ∀ w : Word32, fld w.toNat 26 6 = op → fld w.toNat 16 6 = 0 → fld w.toNat 0 10 = 0 →
      decodeSlot k w none = .ok (c ⟨bits 4 w.toNat 22, bits 6 w.toNat 10⟩)) : RoundTrips k (c o) := by
  refine roundTrips_of he hop (by omega) fun w hw hg hr => ?_
  rw [hd w hw (by unfold fld; omega) (by unfold fld; omega), hg, bits_eq_iff.mpr (by omega : _ = o.p.toNat)]

theorem lo6_lt (r : BitVec 9) : lo6 r < 2 ^ 6 := Nat.mod_lt _ (by decide)

theorem vreg_lendV_d (w lo : Nat) (a b : BitVec 3) (r : BitVec 9) :
    vreg w lo (lendV (hi3 r) a b) 6 = r ↔ w / 2 ^ lo % 2 ^ 6 = lo6 r := vreg_eq_iff (lendV_d _ _ _)

theorem vreg_lendV_a (w lo : Nat) (d b : BitVec 3) (r : BitVec 9) :
    vreg w lo (lendV d (hi3 r) b) 3 = r ↔ w / 2 ^ lo % 2 ^ 6 = lo6 r := vreg_eq_iff (lendV_a _ _ _)

theorem vreg_lendV_b (w lo : Nat) (d a : BitVec 3) (r : BitVec 9) :
    vreg w lo (lendV d a (hi3 r)) 0 = r ↔ w / 2 ^ lo % 2 ^ 6 = lo6 r := vreg_eq_iff (lendV_b _ _ _)

theorem shSwap_lt (sh : BitVec 2) (swap : Bool) : shSwap sh swap < 2 ^ 4 := by
  have := boolBit_lt swap
  unfold shSwap
  omega

theorem roundTrips_VA {c : OpVA → Instr} {op : Nat} {o : OpVA} (he : encode (c o) = some (encVA op o)) (hop : op < 64)
    (hd : ∀ (w : Word32) l, fld w.toNat 26 6 = op → fld w.toNat 0 1 = 0 →
      decodeSlot .v w l = .ok (c (dVA w.toNat l))) : RoundTrips .v (c o) := by
  obtain ⟨g, d, a, b, sh, swap⟩ := o
  have hd6 := lo6_lt d
  have ha6 := lo6_lt a
  have hb6 := lo6_lt b
  have hswap := boolBit_lt swap
  refine roundTrips_of he hop (by simp only [shSwap]; omega) fun w hw hg hr => ?_
  simp only [shSwap] at hr
  have ho : dVA w.toNat (lendV (hi3 d) (hi3 a) (hi3 b)) = ⟨g, d, a, b, sh, swap⟩ := by
    simp only [dVA, hg, bits_eq_iff, flag_eq_iff, vreg_lendV_d, vreg_lendV_a, vreg_lendV_b, OpVA.mk.injEq, true_and]
    omega
  rw [hd w _ hw (by unfold fld; omega), ho]

theorem roundTrips_VU {c : OpVU → Instr} {op : Nat} {o : OpVU} (he : encode (c o) = some (encVU op o)) (hop : op < 64)
    (hd : ∀ (w : Word32) l, fld w.toNat 26 6 = op → decodeSlot .v w l = decVU c w.toNat l) : RoundTrips .v (c o) := by
  obtain ⟨g, d, a, sh, swap⟩ := o
  have hd6 := lo6_lt d
  have ha6 := lo6_lt a
  have hswap := boolBit_lt swap
  refine roundTrips_of he hop (by simp only [shSwap]; omega) fun w hw hg hr => ?_
  simp only [shSwap] at hr
  have ho : dVU w.toNat (lendV (hi3 d) (hi3 a) 0#3) = ⟨g, d, a, sh, swap⟩ := by
    simp only [dVU, hg, bits_eq_iff, flag_eq_iff, vreg_lendV_d, vreg_lendV_a, OpVU.mk.injEq, true_and]
    omega
  rw [hd w _ hw, decVU, maskLend_noB, require_eq_ok, ho]
  simp only [fld, Bool.and_eq_true, beq_iff_eq, and_true]
  omega

/-- R53: mode 1 leaves the two high bits of the base zero. -/
theorem vmOk_of {mode : Bool} {base : BitVec 6} {w : Nat} (h : vmBaseOk mode base = true) (hm : w % 2 = boolBit mode)
    (hb : w / 2 ^ 10 % 2 ^ 6 = base.toNat) : vmOk w = true := by
  have hflag : flag w 0 = mode := flag_eq_iff.mpr (by omega)
  cases mode with
  | false => simp [vmOk, hflag]
  | true =>
    simp only [vmBaseOk, Bool.not_true, Bool.false_or, decide_eq_true_eq] at h
    simp only [vmOk, hflag, fld, Bool.not_true, Bool.false_or, beq_iff_eq]
    omega

theorem roundTrips_VM {c : OpVM → Instr} {op : Nat} {o : OpVM} (he : encode (c o) = some (encVM op o)) (hop : op < 64)
    (hok : vmBaseOk o.mode o.base = true)
    (hd : ∀ (w : Word32) l, fld w.toNat 26 6 = op → vmOk w.toNat = true → decodeSlot .v w l = .ok (c (dVM w.toNat l))) :
    RoundTrips .v (c o) := by
  obtain ⟨g, d, base, off, sh, swap, mode⟩ := o
  have hd6 := lo6_lt d
  have hswap := boolBit_lt swap
  have hmode := boolBit_lt mode
  refine roundTrips_of he hop (by simp only [shSwap]; omega) fun w hw hg hr => ?_
  simp only [shSwap] at hr
  have hvm : vmOk w.toNat = true := vmOk_of (mode := mode) (base := base) hok (by omega) (by omega)
  have ho : dVM w.toNat (lendVM ⟨g, d, base, off, sh, swap, mode⟩) = ⟨g, d, base, off, sh, swap, mode⟩ := by
    simp only [dVM, hg, bits_eq_iff, flag_eq_iff, offV_lendVM (w := w.toNat) (o := ⟨g, d, base, off, sh, swap, mode⟩) (by simp only; omega),
      vreg_eq_iff (lendVM_d ⟨g, d, base, off, sh, swap, mode⟩), OpVM.mk.injEq, true_and]
    omega
  rw [hd w _ hw hvm, ho]

theorem roundTrips_VX {c : OpVX → Instr} {op : Nat} {o : OpVX} (he : encode (c o) = some (encVX op o)) (hop : op < 64)
    (hok : vmBaseOk o.mode o.base = true)
    (hd : ∀ (w : Word32) l, fld w.toNat 26 6 = op → vmOk w.toNat = true → decodeSlot .v w l = maskLend 0x038#9 l (.ok (c (dVX w.toNat l)))) :
    RoundTrips .v (c o) := by
  obtain ⟨g, d, base, i, sh, swap, mode⟩ := o
  have hd6 := lo6_lt d
  have hi6 := lo6_lt i
  have hswap := boolBit_lt swap
  have hmode := boolBit_lt mode
  refine roundTrips_of he hop (by simp only [shSwap]; omega) fun w hw hg hr => ?_
  simp only [shSwap] at hr
  have hvm : vmOk w.toNat = true := vmOk_of (mode := mode) (base := base) hok (by omega) (by omega)
  have ho : dVX w.toNat (lendV (hi3 d) 0#3 (hi3 i)) = ⟨g, d, base, i, sh, swap, mode⟩ := by
    simp only [dVX, hg, bits_eq_iff, flag_eq_iff, vreg_lendV_d, vreg_lendV_b, OpVX.mk.injEq, true_and]
    omega
  rw [hd w _ hw hvm, maskLend_noA, ho]

theorem mShape_lt (sh : BitVec 2) (swap pi : Bool) : mShape sh swap pi < 2 ^ 11 := by
  have := boolBit_lt swap
  have := boolBit_lt pi
  unfold mShape
  omega

theorem roundTrips_mma {c : OpMma → Instr} {op : Nat} {o : OpMma} (he : encode (c o) = some (encMma op o)) (hop : op < 64)
    (hd : ∀ w : Word32, fld w.toNat 26 6 = op → fld w.toNat 11 4 = 0 → fld w.toNat 0 2 = 0 →
      decodeSlot .m w none = .ok (c (dMma w.toNat))) : RoundTrips .m (c o) := by
  obtain ⟨g, acc, xa, sh, swap, pi, r0⟩ := o
  have hswap := boolBit_lt swap
  have hpi := boolBit_lt pi
  refine roundTrips_of he hop (by simp only [mShape]; omega) fun w hw hg hr => ?_
  simp only [mShape] at hr
  have ho : dMma w.toNat = ⟨g, acc, xa, sh, swap, pi, r0⟩ := by
    simp only [dMma, hg, bits_eq_iff, flag_eq_iff, OpMma.mk.injEq, true_and]
    omega
  rw [hd w hw (by unfold fld; omega) (by unfold fld; omega), ho]

theorem roundTrips_scan {c : OpScan → Instr} {op : Nat} {o : OpScan} (he : encode (c o) = some (encScan op o)) (hop : op < 64)
    (hd : ∀ w : Word32, fld w.toNat 26 6 = op → fld w.toNat 1 6 = 0 → decodeSlot .n w none = .ok (c (dScan w.toNat))) :
    RoundTrips .n (c o) := by
  obtain ⟨g, k, xa, xb, sh, swap, pi, z⟩ := o
  have hswap := boolBit_lt swap
  have hpi := boolBit_lt pi
  have hz := boolBit_lt z
  refine roundTrips_of he hop (by simp only [mShape]; omega) fun w hw hg hr => ?_
  simp only [mShape] at hr
  have ho : dScan w.toNat = ⟨g, k, xa, xb, sh, swap, pi, z⟩ := by
    simp only [dScan, hg, bits_eq_iff, flag_eq_iff, OpScan.mk.injEq, true_and]
    omega
  rw [hd w hw (by unfold fld; omega), ho]

theorem roundTrips_cpy {c : OpCpy → Instr} {op : Nat} {o : OpCpy} (he : encode (c o) = some (encCpy op o)) (hop : op < 64)
    (hd : ∀ (w : Word32) l, fld w.toNat 26 6 = op → fld w.toNat 4 2 = o.ssp.toNat →
      decodeSlot .c w l = copyLend w.toNat l (.ok (c (dCpy w.toNat l)))) : RoundTrips .c (c o) := by
  obtain ⟨g, ch, xs, xd, sh, swap, ssp, dsp, cnt, wm⟩ := o
  have hswap := boolBit_lt swap
  have hcnt := boolBit_lt cnt.isSome
  have hwm := boolBit_lt wm
  refine roundTrips_of he hop (by simp only [xPair, cShape]; omega) fun w hw hg hr => ?_
  simp only [xPair, cShape] at hr
  have hflag : flag w.toNat 1 = cnt.isSome := by rw [flag_eq_iff]; omega
  have hch : bits 5 w.toNat 17 = ch := by rw [bits_eq_iff]; omega
  have ho : dCpy w.toNat (lendCnt ch cnt) = ⟨g, ch, xs, xd, sh, swap, ssp, dsp, cnt, wm⟩ := by
    simp only [dCpy, hg, hch, copyCnt_lendCnt hflag, bits_eq_iff, flag_eq_iff, OpCpy.mk.injEq, true_and]
    omega
  rw [hd w _ hw (by simp only [fld]; omega), copyLend_lendCnt hflag, ho]

theorem roundTrips_cpym {c : OpCpym → Instr} {op dsp : Nat} {o : OpCpym} (he : encode (c o) = some (encCpym op dsp o)) (hop : op < 64)
    (hdsp : dsp < 4)
    (hd : ∀ (w : Word32) l, fld w.toNat 26 6 = op → fld w.toNat 2 2 = dsp → fld w.toNat 0 1 = 0 →
      decodeSlot .c w l = copyLend w.toNat l (.ok (c (dCpym w.toNat l)))) : RoundTrips .c (c o) := by
  obtain ⟨g, ch, xs, xd, sh, swap, ssp, cnt⟩ := o
  have hswap := boolBit_lt swap
  have hcnt := boolBit_lt cnt.isSome
  refine roundTrips_of he hop (by simp only [xPair, cShape]; omega) fun w hw hg hr => ?_
  simp only [xPair, cShape] at hr
  have hflag : flag w.toNat 1 = cnt.isSome := by rw [flag_eq_iff]; omega
  have hch : bits 5 w.toNat 17 = ch := by rw [bits_eq_iff]; omega
  have ho : dCpym w.toNat (lendCnt ch cnt) = ⟨g, ch, xs, xd, sh, swap, ssp, cnt⟩ := by
    simp only [dCpym, hg, hch, copyCnt_lendCnt hflag, bits_eq_iff, flag_eq_iff, OpCpym.mk.injEq, true_and, and_true]
    omega
  rw [hd w _ hw (by simp only [fld]; omega) (by simp only [fld]; omega), copyLend_lendCnt hflag, ho]

theorem roundTrips_bar {c : OpBar → Instr} {op : Nat} {o : OpBar} (he : encode (c o) = some (encBar op o)) (hop : op < 64)
    (hd : ∀ w : Word32, fld w.toNat 26 6 = op → fld w.toNat 11 3 = o.who.toNat → fld w.toNat 0 7 = 0 →
      decodeSlot .c w none = .ok (c (dBar w.toNat))) : RoundTrips .c (c o) := by
  refine roundTrips_of he hop (by omega) fun w hw hg hr => ?_
  have ho : dBar w.toNat = o := by
    obtain ⟨g, b, who, k⟩ := o
    simp only [dBar, hg, bits_eq_iff, OpBar.mk.injEq, true_and] at hr ⊢
    omega
  rw [hd w hw (by unfold fld; omega) (by unfold fld; omega), ho]

theorem roundTrips_fr2 {c : OpFr2 → Instr} {op : Nat} {o : OpFr2} (he : encode (c o) = some (encFr2 op o)) (hop : op < 64)
    (hd : ∀ w : Word32, fld w.toNat 26 6 = op → fld w.toNat 17 5 = 0 → fld w.toNat 0 9 = 0 →
      decodeSlot .c w none = .ok (c (dFr2 w.toNat))) : RoundTrips .c (c o) := by
  refine roundTrips_of he hop (by simp only [xPair]; omega) fun w hw hg hr => ?_
  simp only [xPair] at hr
  have ho : dFr2 w.toNat = o := by
    obtain ⟨g, xf, xo⟩ := o
    simp only [dFr2, hg, bits_eq_iff, OpFr2.mk.injEq, true_and] at hr ⊢
    omega
  rw [hd w hw (by unfold fld; omega) (by unfold fld; omega), ho]

end Sys2Proof
end

section
/-! SUPPORT. Each slot instruction decodes from its word (R56 to R60). -/

namespace Sys2Proof

set_option Elab.async false

/-! ### The S slot -/

theorem roundTrips_alu64 {c : OpSA → Instr} {fn : Nat} {o : OpSA} (he : encode (c o) = some (encSA 1 fn o)) (hfn : fn < 16)
    (hc : alu64 fn = c) : RoundTrips .s (c o) :=
  roundTrips_SA he (by decide) hfn fun w hop hf => by simp only [decodeSlot, decodeS, hop, hf, noLend, hc]

theorem roundTrips_alu32 {c : OpSA → Instr} {fn : Nat} {o : OpSA} (he : encode (c o) = some (encSA 2 fn o)) (hfn : fn < 16)
    (hc : alu32 fn = c) : RoundTrips .s (c o) :=
  roundTrips_SA he (by decide) hfn fun w hop hf => by simp only [decodeSlot, decodeS, hop, hf, noLend, hc]

theorem decodeS_bit {w fn : Nat} (hop : fld w 26 6 = 3) (hf : fld w 0 4 = fn) (hfn : fn < 10) : decodeS w none = decodeBit w := by
  simp only [decodeS, hop, hf, if_pos hfn, noLend]

theorem decodeS_guard {w fn : Nat} (hop : fld w 26 6 = 6) (hf : fld w 0 4 = fn) (hfn : fn < 6) : decodeS w none = decodeGuard w := by
  simp only [decodeS, hop, hf, if_pos hfn, noLend]

theorem decodeS_queue {w n : Nat} (hop : fld w 26 6 = 0x19) (hf : fld w 6 4 = n) (hn : n < 10) : decodeS w none = decodeQueue w := by
  simp only [decodeS, hop, hf, if_pos hn, noLend]

theorem decodeS_launch {w n : Nat} (hop : fld w 26 6 = 0x3A) (hf : fld w 6 4 = n) (hn : n < 7) : decodeS w none = decodeLaunch w := by
  simp only [decodeS, hop, hf, if_pos hn, noLend]

theorem decodeS_link {w n : Nat} (hop : fld w 26 6 = 0x3B) (hf : fld w 6 4 = n) (hn : n < 3) : decodeS w none = decodeLink w := by
  simp only [decodeS, hop, hf, if_pos hn, noLend]

theorem decodeS_order {w n : Nat} (hop : fld w 26 6 = 0x1A) (hf : fld w 8 2 = n) (hn : n < 3) (hs : fld w 5 3 < 5) :
    decodeS w none = decodeOrder w := by
  simp only [decodeS, hop, hf, hs, hn, decide_true, Bool.and_self, if_true, noLend]

theorem decodeS_lnset {w n : Nat} (hop : fld w 26 6 = 0x29) (hf : fld w 5 2 = n) (hn : n < 3) (hl : fld w 7 3 < 6) :
    decodeS w none = decodeLnset w := by
  simp only [decodeS, hop, hf, hl, hn, decide_true, Bool.and_self, if_true, noLend]

theorem roundTrips_bit {c : OpSA → Instr} {fn : Nat} {o : OpSA} (he : encode (c o) = some (encSA 3 fn o)) (hfn : fn < 10)
    (hc : ∀ w, fld w 0 4 = fn → decodeBit w = .ok (c (dSA w))) : RoundTrips .s (c o) :=
  roundTrips_SA he (by decide) (by omega) fun w hop hf => by rw [decodeSlot, decodeS_bit hop hf hfn, hc _ hf]

theorem roundTrips_bitUn {c : OpSU → Instr} {fn : Nat} {o : OpSU} (he : encode (c o) = some (encSU 3 fn o)) (hfn : fn < 10)
    (hc : ∀ w, fld w 0 4 = fn → decodeBit w = require (fld w 4 6 == 0) (c (dSU w))) : RoundTrips .s (c o) :=
  roundTrips_SU he (by decide) (by omega) fun w hop hf h0 => by
    simp [decodeSlot, decodeS_bit hop hf hfn, hc _ hf, h0, require]

theorem roundTrips_guardLogic {c : OpGuard → Instr} {fn : Nat} {o : OpGuard} (he : encode (c o) = some (encGuard fn o)) (hfn : fn < 6)
    (hd : o.d ≠ 0#3) (hc : ∀ w, fld w 0 4 = fn → decodeGuard w = require (guardOk w) (c (dGuard w))) : RoundTrips .s (c o) :=
  roundTrips_guard he (by omega) hd fun w hop hf hok => by
    rw [decodeSlot, decodeS_guard hop hf hfn, hc _ hf, hok, require, if_pos rfl]

theorem roundTrips_queue {c : OpSQ → Instr} {n : Nat} {o : OpSQ} (he : encode (c o) = some (encSQ 0x19 (n * 2 ^ 6) o)) (hn : n < 10)
    (hc : ∀ w, fld w 6 4 = n → decodeQueue w = require (fld w 0 6 == 0) (c (dSQ w))) : RoundTrips .s (c o) :=
  roundTrips_SQ he (by decide) (by omega) fun w hop hf h0 => by
    simp [decodeSlot, decodeS_queue hop hf hn, hc _ hf, h0, require]

theorem roundTrips_launch {c : OpSQ → Instr} {n : Nat} {o : OpSQ} (he : encode (c o) = some (encSQ 0x3A (n * 2 ^ 6) o)) (hn : n < 7)
    (hc : ∀ w, fld w 6 4 = n → decodeLaunch w = require (fld w 0 6 == 0) (c (dSQ w))) : RoundTrips .s (c o) :=
  roundTrips_SQ he (by decide) (by omega) fun w hop hf h0 => by
    simp [decodeSlot, decodeS_launch hop hf hn, hc _ hf, h0, require]

theorem roundTrips_link {c : OpSQ → Instr} {n : Nat} {o : OpSQ} (he : encode (c o) = some (encSQ 0x3B (n * 2 ^ 6) o)) (hn : n < 3)
    (hc : ∀ w, fld w 6 4 = n → decodeLink w = require (fld w 0 6 == 0) (c (dSQ w))) : RoundTrips .s (c o) :=
  roundTrips_SQ he (by decide) (by omega) fun w hop hf h0 => by
    simp [decodeSlot, decodeS_link hop hf hn, hc _ hf, h0, require]

theorem roundTrips_cmp (o : OpCmp) (h : (Instr.cmp o).wellFormed = true) : RoundTrips .s (.cmp o) := by
  obtain ⟨g, k, a, b, c⟩ := o
  simp [Instr.wellFormed, ← BitVec.toNat_inj] at h
  refine roundTrips_of rfl (by decide) (by omega) fun w hop hg hr => ?_
  simp only [decodeSlot, decodeS, hop, hg, noLend, require_eq_ok, ite_eq_ok] at hr ⊢
  simp [bits_eq_iff, fld]
  omega

theorem roundTrips_cmpi (o : OpCmpi) (h : (Instr.cmpi o).wellFormed = true) : RoundTrips .s (.cmpi o) := by
  obtain ⟨g, k, c, a, imm⟩ := o
  simp [Instr.wellFormed, ← BitVec.toNat_inj] at h
  refine roundTrips_of rfl (by decide) (by omega) fun w hop hg hr => ?_
  simp only at hr
  have himm : immS w.toNat (lendS 10 imm) = imm := immS_lendS (by omega)
  simp only [decodeSlot, decodeS, hop, hg, himm, require_eq_ok]
  simp [bits_eq_iff, fld]
  omega

theorem roundTrips_gset (o : OpGset) (h : (Instr.gset o).wellFormed = true) : RoundTrips .s (.gset o) := by
  obtain ⟨g, d, a⟩ := o
  simp [Instr.wellFormed, ← BitVec.toNat_inj] at h
  refine roundTrips_of rfl (by decide) (by omega) fun w hop hg hr => ?_
  simp only at hr
  have hf : fld w.toNat 0 4 = 4 := by unfold fld; omega
  simp only [decodeSlot, decodeS, hop, hg, hf, noLend, decodeGuard, require_eq_ok, ite_eq_ok]
  simp [bits_eq_iff, fld]
  omega

theorem roundTrips_gget (o : OpGget) : RoundTrips .s (.gget o) := by
  obtain ⟨g, d, a⟩ := o
  refine roundTrips_of rfl (by decide) (by omega) fun w hop hg hr => ?_
  simp only at hr
  have hf : fld w.toNat 0 4 = 5 := by unfold fld; omega
  simp only [decodeSlot, decodeS, hop, hg, hf, noLend, decodeGuard, require_eq_ok, ite_eq_ok]
  simp [bits_eq_iff, fld]
  omega

theorem roundTrips_sel (o : OpSel) : RoundTrips .s (.sel o) := by
  obtain ⟨g, d, a, b, neg, k⟩ := o
  have hneg := boolBit_lt neg
  refine roundTrips_of rfl (by decide) (by simp only; omega) fun w hop hg hr => ?_
  simp only [decodeSlot, decodeS, hop, hg, noLend] at hr ⊢
  simp [bits_eq_iff, flag_eq_iff]
  omega

theorem roundTrips_movi (o : OpMovi) : RoundTrips .s (.movi o) := by
  obtain ⟨g, d, imm⟩ := o
  refine roundTrips_of rfl (by decide) (by omega) fun w hop hg hr => ?_
  simp only at hr
  have himm : immS w.toNat (lendS 10 imm) = imm := immS_lendS (by omega)
  simp only [decodeSlot, decodeS, hop, hg, himm, require_eq_ok]
  simp [bits_eq_iff, fld]
  omega

theorem roundTrips_atomn (o : OpAtomn) (h : (Instr.atomn o).wellFormed = true) : RoundTrips .s (.atomn o) := by
  obtain ⟨g, d, a, b, f, n⟩ := o
  simp [Instr.wellFormed] at h
  have hn := boolBit_lt n
  refine roundTrips_of rfl (by decide) (by simp only; omega) fun w hop hg hr => ?_
  simp only [decodeSlot, decodeS, hop, hg, noLend, ite_eq_ok] at hr ⊢
  simp [bits_eq_iff, fld, flag_eq_iff]
  omega

theorem roundTrips_enqn (o : OpSQK) (h : (Instr.enqn o).wellFormed = true) : RoundTrips .s (.enqn o) := by
  obtain ⟨g, p, q, k⟩ := o
  simp [Instr.wellFormed, ← BitVec.toNat_inj] at h
  refine roundTrips_of rfl (by decide) (by omega) fun w hop hg hr => ?_
  simp only at hr
  have hf : fld w.toNat 6 4 = 3 := by unfold fld; omega
  simp only [decodeSlot, decodeS, hop, hg, hf, noLend, decodeQueue, require_eq_ok, ite_eq_ok]
  simp [bits_eq_iff, fld]
  omega

theorem roundTrips_deqn (o : OpSQK) (h : (Instr.deqn o).wellFormed = true) : RoundTrips .s (.deqn o) := by
  obtain ⟨g, p, q, k⟩ := o
  simp [Instr.wellFormed, ← BitVec.toNat_inj] at h
  refine roundTrips_of rfl (by decide) (by omega) fun w hop hg hr => ?_
  simp only at hr
  have hf : fld w.toNat 6 4 = 4 := by unfold fld; omega
  simp only [decodeSlot, decodeS, hop, hg, hf, noLend, decodeQueue, require_eq_ok, ite_eq_ok]
  simp [bits_eq_iff, fld]
  omega

theorem roundTrips_qclose (o : OpS1) : RoundTrips .s (.qclose o) := by
  obtain ⟨g, p⟩ := o
  refine roundTrips_of rfl (by decide) (by omega) fun w hop hg hr => ?_
  simp only at hr
  have hf : fld w.toNat 6 4 = 7 := by unfold fld; omega
  simp only [decodeSlot, decodeS, hop, hg, hf, noLend, decodeQueue, require_eq_ok, ite_eq_ok]
  simp [bits_eq_iff, fld]
  omega

theorem roundTrips_fence (o : OpFence) (h : (Instr.fence o).wellFormed = true) : RoundTrips .s (.fence o) := by
  obtain ⟨g, p, scope⟩ := o
  simp [Instr.wellFormed] at h
  refine roundTrips_of rfl (by decide) (by omega) fun w hop hg hr => ?_
  simp only at hr
  have hf : fld w.toNat 8 2 = 0 := by unfold fld; omega
  simp only [decodeSlot, decodeS, hop, hg, hf, noLend, decodeOrder, require_eq_ok, ite_eq_ok, Bool.and_eq_true, decide_eq_true_eq]
  simp [bits_eq_iff, fld]
  omega

theorem roundTrips_fwait (o : OpS1) : RoundTrips .s (.fwait o) := by
  obtain ⟨g, p⟩ := o
  refine roundTrips_of rfl (by decide) (by omega) fun w hop hg hr => ?_
  simp only at hr
  have hf : fld w.toNat 8 2 = 1 := by unfold fld; omega
  simp only [decodeSlot, decodeS, hop, hg, hf, noLend, decodeOrder, require_eq_ok, ite_eq_ok, Bool.and_eq_true, decide_eq_true_eq]
  simp [bits_eq_iff, fld]
  omega

theorem roundTrips_drain (o : OpDrain) (h : (Instr.drain o).wellFormed = true) : RoundTrips .s (.drain o) := by
  obtain ⟨g, scope⟩ := o
  simp [Instr.wellFormed] at h
  refine roundTrips_of rfl (by decide) (by omega) fun w hop hg hr => ?_
  simp only at hr
  have hf : fld w.toNat 8 2 = 2 := by unfold fld; omega
  simp only [decodeSlot, decodeS, hop, hg, hf, noLend, decodeOrder, require_eq_ok, ite_eq_ok, Bool.and_eq_true, decide_eq_true_eq]
  simp [bits_eq_iff, fld]
  omega

theorem roundTrips_join (o : OpJoin) (h : (Instr.join o).wellFormed = true) : RoundTrips .s (.join o) := by
  obtain ⟨g, m⟩ := o
  simp [Instr.wellFormed, ← BitVec.toNat_inj] at h
  refine roundTrips_of rfl (by decide) (by omega) fun w hop hg hr => ?_
  simp only [decodeSlot, decodeS, hop, hg, noLend, require_eq_ok] at hr ⊢
  simp [bits_eq_iff, fld]
  omega

theorem roundTrips_xset (o : OpXset) : RoundTrips .s (.xset o) := by
  obtain ⟨g, k, a⟩ := o
  refine roundTrips_of rfl (by decide) (by omega) fun w hop hg hr => ?_
  simp only [decodeSlot, decodeS, hop, hg, noLend, require_eq_ok] at hr ⊢
  simp [bits_eq_iff, fld]
  omega

theorem roundTrips_xadd (o : OpXadd) : RoundTrips .s (.xadd o) := by
  obtain ⟨g, k, imm⟩ := o
  refine roundTrips_of rfl (by decide) (by omega) fun w hop hg hr => ?_
  simp only at hr
  have himm : immS w.toNat (lendS 10 imm) = imm := immS_lendS (by omega)
  simp only [decodeSlot, decodeS, hop, hg, himm, require_eq_ok]
  simp [bits_eq_iff, fld]
  omega

theorem roundTrips_view (o : OpView) (h : (Instr.view o).wellFormed = true) : RoundTrips .s (.view o) := by
  obtain ⟨g, p, n⟩ := o
  simp [Instr.wellFormed, ← BitVec.toNat_inj] at h
  refine roundTrips_of rfl (by decide) (by omega) fun w hop hg hr => ?_
  simp only [decodeSlot, decodeS, hop, hg, noLend, require_eq_ok] at hr ⊢
  simp [bits_eq_iff, fld]
  omega

theorem roundTrips_shw (o : OpShw) (h : (Instr.shw o).wellFormed = true) : RoundTrips .s (.shw o) := by
  obtain ⟨g, p, slot, h', f⟩ := o
  simp [Instr.wellFormed] at h
  refine roundTrips_of rfl (by decide) (by omega) fun w hop hg hr => ?_
  simp only [decodeSlot, decodeS, hop, hg, noLend, require_eq_ok, ite_eq_ok, Bool.and_eq_true, decide_eq_true_eq] at hr ⊢
  simp [bits_eq_iff, fld]
  omega

theorem roundTrips_slk (o : OpSlk) : RoundTrips .s (.slk o) := by
  obtain ⟨g, e, v⟩ := o
  refine roundTrips_of rfl (by decide) (by omega) fun w hop hg hr => ?_
  simp only [decodeSlot, decodeS, hop, hg, noLend, require_eq_ok] at hr ⊢
  simp [bits_eq_iff, fld]
  omega

theorem roundTrips_mfc (o : OpMfc) : RoundTrips .s (.mfc o) := by
  obtain ⟨g, d, c⟩ := o
  refine roundTrips_of rfl (by decide) (by omega) fun w hop hg hr => ?_
  simp only at hr
  have himm : immZ w.toNat (lendZ 10 c) = c := immZ_lendZ (by omega)
  simp only [decodeSlot, decodeS, hop, hg, himm, require_eq_ok]
  simp [bits_eq_iff, fld]
  omega

theorem roundTrips_mtc (o : OpMtc) : RoundTrips .s (.mtc o) := by
  obtain ⟨g, a, c⟩ := o
  refine roundTrips_of rfl (by decide) (by omega) fun w hop hg hr => ?_
  simp only at hr
  have himm : immZ w.toNat (lendZ 10 c) = c := immZ_lendZ (by omega)
  simp only [decodeSlot, decodeS, hop, hg, himm, require_eq_ok]
  simp [bits_eq_iff, fld]
  omega

theorem roundTrips_lnsetBound (o : OpLnBound) (h : (Instr.lnsetBound o).wellFormed = true) : RoundTrips .s (.lnsetBound o) := by
  obtain ⟨g, p, lv⟩ := o
  simp [Instr.wellFormed] at h
  refine roundTrips_of rfl (by decide) (by omega) fun w hop hg hr => ?_
  simp only at hr
  have hf : fld w.toNat 5 2 = 0 := by unfold fld; omega
  simp only [decodeSlot, decodeS, hop, hg, hf, noLend, decodeLnset, require_eq_ok, ite_eq_ok, Bool.and_eq_true, decide_eq_true_eq]
  simp [bits_eq_iff, fld]
  omega

theorem roundTrips_lnsetBind (o : OpLnBind) (h : (Instr.lnsetBind o).wellFormed = true) : RoundTrips .s (.lnsetBind o) := by
  obtain ⟨g, p, lv, k, j⟩ := o
  simp [Instr.wellFormed] at h
  have hj := boolBit_lt j
  refine roundTrips_of rfl (by decide) (by simp only; omega) fun w hop hg hr => ?_
  simp only at hr
  have hf : fld w.toNat 5 2 = 1 := by unfold fld; omega
  simp only [decodeSlot, decodeS, hop, hg, hf, noLend, decodeLnset, require_eq_ok, ite_eq_ok, Bool.and_eq_true, decide_eq_true_eq]
  simp [bits_eq_iff, fld, flag_eq_iff]
  omega

theorem roundTrips_lnsetClear (o : OpLnClear) (h : (Instr.lnsetClear o).wellFormed = true) : RoundTrips .s (.lnsetClear o) := by
  obtain ⟨g, lv⟩ := o
  simp [Instr.wellFormed] at h
  refine roundTrips_of rfl (by decide) (by omega) fun w hop hg hr => ?_
  simp only at hr
  have hf : fld w.toNat 5 2 = 2 := by unfold fld; omega
  simp only [decodeSlot, decodeS, hop, hg, hf, noLend, decodeLnset, require_eq_ok, ite_eq_ok, Bool.and_eq_true, decide_eq_true_eq]
  simp [bits_eq_iff, fld]
  omega

theorem roundTrips_loopn (o : OpLoopn) (h : (Instr.loopn o).wellFormed = true) : RoundTrips .s (.loopn o) := by
  obtain ⟨lv, off⟩ := o
  simp [Instr.wellFormed] at h
  refine roundTrips_of rfl (by decide) (by omega) fun w hop hg hr => ?_
  simp only at hr
  rw [bits_eq_iff, BitVec.toNat_ofNat] at hg
  simp only [decodeSlot, decodeS, hop, noLend, require_eq_ok, ite_eq_ok]
  simp [bits_eq_iff, fld]
  omega

theorem roundTrips_margin (o : OpMargin) : RoundTrips .s (.margin o) := by
  obtain ⟨c⟩ := o
  refine roundTrips_of rfl (by decide) (by omega) fun w hop hg hr => ?_
  simp only at hr
  rw [bits_eq_iff, BitVec.toNat_ofNat] at hg
  have himm : immZ w.toNat (lendZ 10 c) = c := immZ_lendZ (by omega)
  simp only [decodeSlot, decodeS, hop, himm, require_eq_ok]
  simp [fld]
  omega

theorem roundTrips_segOpen (o : OpSeg) : RoundTrips .s (.segOpen o) := by
  obtain ⟨i⟩ := o
  refine roundTrips_of rfl (by decide) (by omega) fun w hop hg hr => ?_
  simp only at hr
  rw [bits_eq_iff, BitVec.toNat_ofNat] at hg
  have hf : flag w.toNat 9 = false := by rw [flag_eq_iff, boolBit]; simp; omega
  simp only [decodeSlot, decodeS, hop, hf, noLend, require_eq_ok]
  simp [bits_eq_iff, fld]
  omega

theorem roundTrips_segClose (o : OpSeg) : RoundTrips .s (.segClose o) := by
  obtain ⟨i⟩ := o
  refine roundTrips_of rfl (by decide) (by omega) fun w hop hg hr => ?_
  simp only at hr
  rw [bits_eq_iff, BitVec.toNat_ofNat] at hg
  have hf : flag w.toNat 9 = true := by rw [flag_eq_iff, boolBit]; simp; omega
  simp only [decodeSlot, decodeS, hop, hf, noLend, require_eq_ok]
  simp [bits_eq_iff, fld]
  omega

theorem roundTrips_trap (o : OpTrap) : RoundTrips .s (.trap o) := by
  obtain ⟨g, c⟩ := o
  refine roundTrips_of rfl (by decide) (by omega) fun w hop hg hr => ?_
  simp only at hr
  have himm : immZ w.toNat (lendZ 10 c) = c := immZ_lendZ (by omega)
  simp only [decodeSlot, decodeS, hop, hg, himm, require_eq_ok]
  simp [fld]
  omega

theorem roundTrips_waitev (o : OpWaitev) : RoundTrips .s (.waitev o) := by
  obtain ⟨g, d, m⟩ := o
  refine roundTrips_of rfl (by decide) (by omega) fun w hop hg hr => ?_
  simp only [decodeSlot, decodeS, hop, hg, zeroLend, require_eq_ok] at hr ⊢
  simp [bits_eq_iff, fld]
  omega

theorem roundTrips_gate (o : OpGate) : RoundTrips .s (.gate o) := by
  obtain ⟨g, m⟩ := o
  refine roundTrips_of rfl (by decide) (by omega) fun w hop hg hr => ?_
  simp only [decodeSlot, decodeS, hop, hg, zeroLend, require_eq_ok] at hr ⊢
  simp [bits_eq_iff, fld]
  omega

theorem roundTrips_bwait (o : OpBwait) (h : (Instr.bwait o).wellFormed = true) : RoundTrips .s (.bwait o) := by
  obtain ⟨g, d, who, b⟩ := o
  simp [Instr.wellFormed] at h
  refine roundTrips_of rfl (by decide) (by omega) fun w hop hg hr => ?_
  simp only [decodeSlot, decodeS, hop, hg, zeroLend, require_eq_ok, ite_eq_ok] at hr ⊢
  simp [bits_eq_iff, fld]
  omega

theorem roundTrips_wmwait (o : OpWmwait) : RoundTrips .s (.wmwait o) := by
  obtain ⟨g, a, c⟩ := o
  refine roundTrips_of rfl (by decide) (by omega) fun w hop hg hr => ?_
  simp only at hr
  have hf : flag w.toNat 5 = false := by rw [flag_eq_iff, boolBit]; simp; omega
  simp only [decodeSlot, decodeS, hop, hg, hf, zeroLend, require_eq_ok]
  simp [bits_eq_iff, fld]
  omega

theorem roundTrips_wmwaitAll (o : OpWmwaitAll) : RoundTrips .s (.wmwaitAll o) := by
  obtain ⟨g, c⟩ := o
  refine roundTrips_of rfl (by decide) (by omega) fun w hop hg hr => ?_
  simp only at hr
  have hf : flag w.toNat 5 = true := by rw [flag_eq_iff, boolBit]; simp; omega
  simp only [decodeSlot, decodeS, hop, hg, hf, zeroLend, require_eq_ok]
  simp [bits_eq_iff, fld]
  omega

theorem roundTrips_chwait (o : OpS1) : RoundTrips .s (.chwait o) := by
  obtain ⟨g, p⟩ := o
  refine roundTrips_of rfl (by decide) (by omega) fun w hop hg hr => ?_
  simp only at hr
  have hf : fld w.toNat 6 4 = 1 := by unfold fld; omega
  simp only [decodeSlot, decodeS, hop, hg, hf, noLend, decodeLaunch, require_eq_ok, ite_eq_ok]
  simp [bits_eq_iff, fld]
  omega

theorem roundTrips_sleep (o : OpS1) : RoundTrips .s (.sleep o) := by
  obtain ⟨g, p⟩ := o
  refine roundTrips_of rfl (by decide) (by omega) fun w hop hg hr => ?_
  simp only at hr
  have hf : fld w.toNat 6 4 = 6 := by unfold fld; omega
  simp only [decodeSlot, decodeS, hop, hg, hf, noLend, decodeLaunch, require_eq_ok, ite_eq_ok]
  simp [bits_eq_iff, fld]
  omega

/-! ### The V slots -/

theorem roundTrips_vcmp (o : OpVcmp) (h : (Instr.vcmp o).wellFormed = true) : RoundTrips .v (.vcmp o) := by
  obtain ⟨g, c, k, a, b, sh, swap⟩ := o
  simp [Instr.wellFormed, ← BitVec.toNat_inj] at h
  have ha6 := lo6_lt a
  have hb6 := lo6_lt b
  have hswap := boolBit_lt swap
  refine roundTrips_of rfl (by decide) (by simp only [shSwap]; omega) fun w hop hg hr => ?_
  simp only [decodeSlot, decodeV, hop, hg, maskLend_noD, require_eq_ok, shSwap] at hr ⊢
  simp [bits_eq_iff, fld, flag_eq_iff, vreg_lendV_a, vreg_lendV_b]
  omega

theorem roundTrips_vunpk (o : OpVunpk) : RoundTrips .v (.vunpk o) := by
  obtain ⟨g, d, a, part, sh, swap⟩ := o
  have hd6 := lo6_lt d
  have ha6 := lo6_lt a
  have hswap := boolBit_lt swap
  refine roundTrips_of rfl (by decide) (by simp only [shSwap]; omega) fun w hop hg hr => ?_
  simp only [decodeSlot, decodeV, hop, hg, maskLend_noB, require_eq_ok, shSwap] at hr ⊢
  simp [bits_eq_iff, fld, flag_eq_iff, vreg_lendV_d, vreg_lendV_a]
  omega

theorem roundTrips_vbcstLane (o : OpVbcstLane) : RoundTrips .v (.vbcstLane o) := by
  obtain ⟨g, d, a, lane, sh, swap⟩ := o
  have hd6 := lo6_lt d
  have ha6 := lo6_lt a
  have hswap := boolBit_lt swap
  refine roundTrips_of rfl (by decide) (by simp only [shSwap]; omega) fun w hop hg hr => ?_
  simp only [shSwap] at hr
  have hf : flag w.toNat 9 = false := by rw [flag_eq_iff, boolBit]; simp; omega
  simp only [decodeSlot, decodeV, hop, hg, hf, maskLend_noB, require_eq_ok, Bool.false_eq_true, if_false]
  simp [bits_eq_iff, fld, flag_eq_iff, vreg_lendV_d, vreg_lendV_a]
  omega

theorem roundTrips_vbcstScalar (o : OpVbcstScalar) : RoundTrips .v (.vbcstScalar o) := by
  obtain ⟨g, d, a, sh, swap⟩ := o
  have hd6 := lo6_lt d
  have hswap := boolBit_lt swap
  refine roundTrips_of rfl (by decide) (by simp only [shSwap]; omega) fun w hop hg hr => ?_
  simp only [shSwap] at hr
  have hf : flag w.toNat 9 = true := by rw [flag_eq_iff, boolBit]; simp; omega
  simp only [decodeSlot, decodeV, hop, hg, hf, maskLend_onlyD, require_eq_ok, if_true]
  simp [bits_eq_iff, fld, flag_eq_iff, vreg_lendV_d]
  omega

theorem roundTrips_vred (o : OpVred) (h : (Instr.vred o).wellFormed = true) : RoundTrips .v (.vred o) := by
  obtain ⟨g, d, a, m, f, sh, swap⟩ := o
  simp [Instr.wellFormed] at h
  have hd6 := lo6_lt d
  have ha6 := lo6_lt a
  have hswap := boolBit_lt swap
  refine roundTrips_of rfl (by decide) (by simp only [shSwap]; omega) fun w hop hg hr => ?_
  simp only [decodeSlot, decodeV, hop, hg, maskLend_noB, require_eq_ok, ite_eq_ok, shSwap] at hr ⊢
  simp [bits_eq_iff, fld, flag_eq_iff, vreg_lendV_d, vreg_lendV_a]
  omega

theorem roundTrips_cupstat (o : OpCupstat) : RoundTrips .v (.cupstat o) := by
  obtain ⟨g, d⟩ := o
  have hd6 := lo6_lt d
  refine roundTrips_of rfl (by decide) (by simp only; omega) fun w hop hg hr => ?_
  simp only [decodeSlot, decodeV, hop, hg, maskLend_onlyD, require_eq_ok] at hr ⊢
  simp [fld, vreg_lendV_d]
  omega

theorem roundTrips_vatom (o : OpVatom) (h : (Instr.vatom o).wellFormed = true) : RoundTrips .v (.vatom o) := by
  obtain ⟨g, d, base, i, op, sh, swap, ret⟩ := o
  simp [Instr.wellFormed] at h
  have hd6 := lo6_lt d
  have hi6 := lo6_lt i
  have hswap := boolBit_lt swap
  have hret := boolBit_lt ret
  refine roundTrips_of rfl (by decide) (by simp only [shSwap]; omega) fun w hop hg hr => ?_
  simp only [decodeSlot, decodeV, hop, hg, decodeV.lend3, lendV_a, ite_eq_ok, shSwap] at hr ⊢
  simp [bits_eq_iff, flag_eq_iff, vreg_lendV_d, vreg_lendV_b, h]
  omega

/-! ### The M slot -/

theorem roundTrips_mbld (o : OpMbld) : RoundTrips .m (.mbld o) := by
  obtain ⟨g, xd, sh, swap, pi⟩ := o
  have hswap := boolBit_lt swap
  have hpi := boolBit_lt pi
  refine roundTrips_of rfl (by decide) (by simp only [mShape]; omega) fun w hop hg hr => ?_
  simp only [decodeSlot, decodeM, hop, hg, noLend, require_eq_ok, mShape] at hr ⊢
  simp [bits_eq_iff, fld, flag_eq_iff]
  omega

theorem roundTrips_mscl (o : OpMscl) : RoundTrips .m (.mscl o) := by
  obtain ⟨g, acc, sh, swap, r0, grp⟩ := o
  have hswap := boolBit_lt swap
  have hpi : boolBit false = 0 := rfl
  refine roundTrips_of rfl (by decide) (by simp only [mShape]; omega) fun w hop hg hr => ?_
  simp only [decodeSlot, decodeM, hop, hg, noLend, require_eq_ok, mShape] at hr ⊢
  simp [bits_eq_iff, fld, flag_eq_iff]
  omega

theorem roundTrips_macc (o : OpMacc) : RoundTrips .m (.macc o) := by
  obtain ⟨g, acc, src, sh, swap, r0, ss⟩ := o
  have hswap := boolBit_lt swap
  have hpi : boolBit false = 0 := rfl
  have hss := boolBit_lt ss
  refine roundTrips_of rfl (by decide) (by simp only [mShape]; omega) fun w hop hg hr => ?_
  simp only [decodeSlot, decodeM, hop, hg, noLend, require_eq_ok, mShape] at hr ⊢
  simp [bits_eq_iff, fld, flag_eq_iff]
  omega

theorem roundTrips_mzero (o : OpMzero) : RoundTrips .m (.mzero o) := by
  obtain ⟨g, acc, sh, swap, r0⟩ := o
  have hswap := boolBit_lt swap
  have hpi : boolBit false = 0 := rfl
  refine roundTrips_of rfl (by decide) (by simp only [mShape]; omega) fun w hop hg hr => ?_
  simp only [decodeSlot, decodeM, hop, hg, noLend, require_eq_ok, mShape] at hr ⊢
  simp [bits_eq_iff, fld, flag_eq_iff]
  omega

theorem roundTrips_mtap (o : OpMtap) : RoundTrips .m (.mtap o) := by
  obtain ⟨g, acc, xa, xd, sh, swap, pi, imm⟩ := o
  have hswap := boolBit_lt swap
  have hpi := boolBit_lt pi
  refine roundTrips_of rfl (by decide) (by simp only [mShape]; omega) fun w hop hg hr => ?_
  simp only [mShape] at hr
  have himm : imm16 w.toNat (lend16 imm) = imm := imm16_lend16 (by omega)
  simp only [decodeSlot, decodeM, hop, hg, himm]
  simp [bits_eq_iff, flag_eq_iff]
  omega

/-! ### The N slot -/

theorem roundTrips_lcfgSet (o : OpLcfgSet) (h : (Instr.lcfgSet o).wellFormed = true) : RoundTrips .n (.lcfgSet o) := by
  obtain ⟨g, sh, swap, cc, lanes, out⟩ := o
  simp only [Instr.wellFormed, Bool.and_eq_true, decide_eq_true_eq] at h
  have hswap := boolBit_lt swap
  have hpi : boolBit false = 0 := rfl
  have hn : (BitVec.ofNat 16 (out.toNat * 2 ^ 8 + lanes.toNat * 2 ^ 3 + cc.toNat)).toNat = out.toNat * 2 ^ 8 + lanes.toNat * 2 ^ 3 + cc.toNat := by
    rw [BitVec.toNat_ofNat]; omega
  refine roundTrips_of rfl (by decide) (by simp only [mShape, lcfgImm]; omega) fun w hop hg hr => ?_
  simp only [mShape, lcfgImm] at hr ⊢
  have himm := imm16_lend16 (w := w.toNat) (v := BitVec.ofNat 16 (out.toNat * 2 ^ 8 + lanes.toNat * 2 ^ 3 + cc.toNat)) (by rw [hn]; omega)
  have hf : fld (out.toNat * 2 ^ 8 + lanes.toNat * 2 ^ 3 + cc.toNat) 14 2 = 0 := by unfold fld; omega
  simp only [decodeSlot, decodeN, hop, hg, himm, decodeLcfg, hn, hf, require_eq_ok, Bool.and_eq_true, decide_eq_true_eq]
  simp [bits_eq_iff, flag_eq_iff, fld]
  omega

theorem roundTrips_lcfgLoad (o : OpLcfgX) : RoundTrips .n (.lcfgLoad o) := by
  obtain ⟨g, k, x, sh, swap, pi⟩ := o
  have hswap := boolBit_lt swap
  have hpi := boolBit_lt pi
  refine roundTrips_of rfl (by decide) (by simp only [mShape]; omega) fun w hop hg hr => ?_
  simp only [mShape] at hr
  have himm : imm16 w.toNat (some 0x080#9) = 0x4000#16 := by
    rw [imm16, bits_eq_iff.mpr (by simp; omega : _ = (0#7).toNat)]; rfl
  simp only [decodeSlot, decodeN, hop, hg, himm, decodeLcfg, show fld (0x4000#16).toNat 14 2 = 1 from rfl, require_eq_ok]
  simp [bits_eq_iff, fld, flag_eq_iff]
  omega

theorem roundTrips_lcfgSave (o : OpLcfgX) : RoundTrips .n (.lcfgSave o) := by
  obtain ⟨g, k, x, sh, swap, pi⟩ := o
  have hswap := boolBit_lt swap
  have hpi := boolBit_lt pi
  refine roundTrips_of rfl (by decide) (by simp only [mShape]; omega) fun w hop hg hr => ?_
  simp only [mShape] at hr
  have himm : imm16 w.toNat (some 0x100#9) = 0x8000#16 := by
    rw [imm16, bits_eq_iff.mpr (by simp; omega : _ = (0#7).toNat)]; rfl
  simp only [decodeSlot, decodeN, hop, hg, himm, decodeLcfg, show fld (0x8000#16).toNat 14 2 = 2 from rfl, require_eq_ok]
  simp [bits_eq_iff, fld, flag_eq_iff]
  omega

theorem roundTrips_lcfgClear (o : OpLcfgClear) : RoundTrips .n (.lcfgClear o) := by
  obtain ⟨g, k, sh, swap⟩ := o
  have hswap := boolBit_lt swap
  have hpi : boolBit false = 0 := rfl
  refine roundTrips_of rfl (by decide) (by simp only [mShape]; omega) fun w hop hg hr => ?_
  simp only [mShape] at hr
  have himm : imm16 w.toNat (some 0x180#9) = 0xC000#16 := by
    rw [imm16, bits_eq_iff.mpr (by simp; omega : _ = (0#7).toNat)]; rfl
  simp only [decodeSlot, decodeN, hop, hg, himm, decodeLcfg, show fld (0xC000#16).toNat 14 2 = 3 from rfl, require_eq_ok]
  simp [bits_eq_iff, fld, flag_eq_iff]
  omega

theorem roundTrips_lgate (o : OpLgate) : RoundTrips .n (.lgate o) := by
  obtain ⟨g, xa, xb, sh, swap, pi⟩ := o
  have hswap := boolBit_lt swap
  have hpi := boolBit_lt pi
  refine roundTrips_of rfl (by decide) (by simp only [mShape]; omega) fun w hop hg hr => ?_
  simp only [decodeSlot, decodeN, hop, hg, noLend, require_eq_ok, mShape] at hr ⊢
  simp [bits_eq_iff, fld, flag_eq_iff]
  omega

theorem roundTrips_lmat (o : OpLmat) : RoundTrips .n (.lmat o) := by
  obtain ⟨g, acc, xa, xb, sh, swap, pi, r0⟩ := o
  have hswap := boolBit_lt swap
  have hpi := boolBit_lt pi
  refine roundTrips_of rfl (by decide) (by simp only [mShape]; omega) fun w hop hg hr => ?_
  simp only [decodeSlot, decodeN, hop, hg, noLend, require_eq_ok, mShape] at hr ⊢
  simp [bits_eq_iff, fld, flag_eq_iff]
  omega

/-! ### The C slots -/

theorem roundTrips_cpyh (o : OpCpyh) : RoundTrips .c (.cpyh o) := by
  obtain ⟨g, edge, xs, xd, sh, swap, ssp, dsp, cnt⟩ := o
  have hswap := boolBit_lt swap
  have hcnt := boolBit_lt cnt.isSome
  refine roundTrips_of rfl (by decide) (by simp only [xPair, cShape]; omega) fun w hop hg hr => ?_
  simp only [xPair, cShape] at hr
  have hflag : flag w.toNat 1 = cnt.isSome := by rw [flag_eq_iff]; omega
  simp only [decodeSlot, decodeC, hop, hg, copyLend_lendBar hflag, copyCnt_lendBar hflag, lendIfCounts_lendBar hflag, require_eq_ok]
  simp [bits_eq_iff, fld, flag_eq_iff]
  omega

theorem roundTrips_cpyr (o : OpCpyr) (h : (Instr.cpyr o).wellFormed = true) : RoundTrips .c (.cpyr o) := by
  obtain ⟨g, op, xs, xd, sh, swap, ssp, cnt⟩ := o
  simp [Instr.wellFormed, ← BitVec.toNat_inj] at h
  have hswap := boolBit_lt swap
  have hcnt := boolBit_lt cnt.isSome
  refine roundTrips_of rfl (by decide) (by simp only [xPair, cShape]; omega) fun w hop hg hr => ?_
  simp only [xPair, cShape] at hr
  have hflag : flag w.toNat 1 = cnt.isSome := by rw [flag_eq_iff]; omega
  simp only [decodeSlot, decodeC, hop, hg, copyLend_lendBar hflag, copyCnt_lendBar hflag, lendIfCounts_lendBar hflag, require_eq_ok, ite_eq_ok]
  simp [bits_eq_iff, fld, flag_eq_iff]
  omega

theorem roundTrips_hpmap (o : OpHpmap) : RoundTrips .c (.hpmap o) := by
  obtain ⟨g, n, xf, xo, cnt⟩ := o
  have hcnt := boolBit_lt cnt.isSome
  refine roundTrips_of rfl (by decide) (by simp only [xPair]; omega) fun w hop hg hr => ?_
  simp only [xPair] at hr
  have hflag : flag w.toNat 1 = cnt.isSome := by rw [flag_eq_iff]; omega
  simp only [decodeSlot, decodeC, hop, hg, copyLend_lendBar hflag, copyCnt_lendBar hflag, lendIfCounts_lendBar hflag, require_eq_ok]
  simp [bits_eq_iff, fld]
  omega

theorem roundTrips_wmark (o : OpWmark) : RoundTrips .c (.wmark o) := by
  obtain ⟨g, ch, xs, xd, dsp⟩ := o
  refine roundTrips_of rfl (by decide) (by simp only [xPair]; omega) fun w hop hg hr => ?_
  simp only [decodeSlot, decodeC, hop, hg, noLend, require_eq_ok, xPair] at hr ⊢
  simp [bits_eq_iff, fld]
  omega

theorem roundTrips_arrive (o : OpArrive) (h : (Instr.arrive o).wellFormed = true) : RoundTrips .c (.arrive o) := by
  obtain ⟨g, b, who⟩ := o
  simp [Instr.wellFormed] at h
  refine roundTrips_of rfl (by decide) (by omega) fun w hop hg hr => ?_
  simp only [decodeSlot, decodeC, hop, hg, noLend, require_eq_ok, ite_eq_ok] at hr ⊢
  simp [bits_eq_iff, fld]
  omega

theorem roundTrips_frld (o : OpFrld) : RoundTrips .c (.frld o) := by
  obtain ⟨g, xf, c⟩ := o
  have hc := boolBit_lt c
  refine roundTrips_of rfl (by decide) (by simp only; omega) fun w hop hg hr => ?_
  simp only [decodeSlot, decodeC, hop, hg, noLend, require_eq_ok] at hr ⊢
  simp [bits_eq_iff, fld, flag_eq_iff]
  omega

theorem roundTrips_frst (o : OpFrst) : RoundTrips .c (.frst o) := by
  obtain ⟨g, all⟩ := o
  have hall := boolBit_lt all
  refine roundTrips_of rfl (by decide) (by simp only; omega) fun w hop hg hr => ?_
  simp only [decodeSlot, decodeC, hop, hg, noLend, require_eq_ok] at hr ⊢
  simp [fld, flag_eq_iff]
  omega

theorem roundTrips_frsw (o : OpFrsw) : RoundTrips .c (.frsw o) := by
  obtain ⟨g, xf, xo, c⟩ := o
  have hc := boolBit_lt c
  refine roundTrips_of rfl (by decide) (by simp only [xPair]; omega) fun w hop hg hr => ?_
  simp only [decodeSlot, decodeC, hop, hg, noLend, require_eq_ok, xPair] at hr ⊢
  simp [bits_eq_iff, fld, flag_eq_iff]
  omega

theorem roundTrips_rback (o : OpRback) : RoundTrips .c (.rback o) := by
  obtain ⟨g, xf, xo, free⟩ := o
  have hfree := boolBit_lt free
  refine roundTrips_of rfl (by decide) (by simp only [xPair]; omega) fun w hop hg hr => ?_
  simp only [decodeSlot, decodeC, hop, hg, noLend, require_eq_ok, xPair] at hr ⊢
  simp [bits_eq_iff, fld, flag_eq_iff]
  omega

theorem roundTrips_frel (o : OpFrel) : RoundTrips .c (.frel o) := by
  obtain ⟨g, xf⟩ := o
  refine roundTrips_of rfl (by decide) (by omega) fun w hop hg hr => ?_
  simp only [decodeSlot, decodeC, hop, hg, noLend, require_eq_ok] at hr ⊢
  simp [bits_eq_iff, fld]
  omega

/-! ### Every slot instruction -/

theorem OpSL.ty_of_loadOk {o : OpSL} (h : o.loadOk = true) : o.ty.toNat ≠ 7 := by
  simp only [OpSL.loadOk, bne_iff_ne, ne_eq, ← BitVec.toNat_inj] at h
  exact h

theorem OpSL.ty_of_storeOk {o : OpSL} (h : o.storeOk = true) : o.ty.toNat ≠ 7 ∧ o.ty.toNat % 2 = 0 := by
  simpa [OpSL.storeOk, ← BitVec.toNat_inj, Nat.and_one_is_mod] using h

theorem OpCpy.ssp_of_wellFormed {o : OpCpy} (h : (Instr.cpyg o).wellFormed = true) : o.ssp.toNat ≠ 3 := by
  simpa [Instr.wellFormed, ← BitVec.toNat_inj] using h

theorem roundTrips_nop : RoundTrips .s .nop := ⟨_, rfl, by decide, rfl⟩

theorem roundTrips_s (i : Instr) (hk : i.slotClass = some .s) (h : i.wellFormed = true) : RoundTrips .s i := by
  cases i with
  | nop => exact roundTrips_nop
  | add => exact roundTrips_alu64 (fn := 0) rfl (by decide) rfl
  | sub => exact roundTrips_alu64 (fn := 1) rfl (by decide) rfl
  | mul => exact roundTrips_alu64 (fn := 2) rfl (by decide) rfl
  | mulh => exact roundTrips_alu64 (fn := 3) rfl (by decide) rfl
  | mulhu => exact roundTrips_alu64 (fn := 4) rfl (by decide) rfl
  | div => exact roundTrips_alu64 (fn := 5) rfl (by decide) rfl
  | divu => exact roundTrips_alu64 (fn := 6) rfl (by decide) rfl
  | rem => exact roundTrips_alu64 (fn := 7) rfl (by decide) rfl
  | remu => exact roundTrips_alu64 (fn := 8) rfl (by decide) rfl
  | and => exact roundTrips_alu64 (fn := 9) rfl (by decide) rfl
  | or => exact roundTrips_alu64 (fn := 10) rfl (by decide) rfl
  | xor => exact roundTrips_alu64 (fn := 11) rfl (by decide) rfl
  | shl => exact roundTrips_alu64 (fn := 12) rfl (by decide) rfl
  | shr => exact roundTrips_alu64 (fn := 13) rfl (by decide) rfl
  | sar => exact roundTrips_alu64 (fn := 14) rfl (by decide) rfl
  | rotr => exact roundTrips_alu64 (fn := 15) rfl (by decide) rfl
  | addS32 => exact roundTrips_alu32 (fn := 0) rfl (by decide) rfl
  | subS32 => exact roundTrips_alu32 (fn := 1) rfl (by decide) rfl
  | mulS32 => exact roundTrips_alu32 (fn := 2) rfl (by decide) rfl
  | mulhS32 => exact roundTrips_alu32 (fn := 3) rfl (by decide) rfl
  | mulhuS32 => exact roundTrips_alu32 (fn := 4) rfl (by decide) rfl
  | divS32 => exact roundTrips_alu32 (fn := 5) rfl (by decide) rfl
  | divuS32 => exact roundTrips_alu32 (fn := 6) rfl (by decide) rfl
  | remS32 => exact roundTrips_alu32 (fn := 7) rfl (by decide) rfl
  | remuS32 => exact roundTrips_alu32 (fn := 8) rfl (by decide) rfl
  | andS32 => exact roundTrips_alu32 (fn := 9) rfl (by decide) rfl
  | orS32 => exact roundTrips_alu32 (fn := 10) rfl (by decide) rfl
  | xorS32 => exact roundTrips_alu32 (fn := 11) rfl (by decide) rfl
  | shlS32 => exact roundTrips_alu32 (fn := 12) rfl (by decide) rfl
  | shrS32 => exact roundTrips_alu32 (fn := 13) rfl (by decide) rfl
  | sarS32 => exact roundTrips_alu32 (fn := 14) rfl (by decide) rfl
  | rotrS32 => exact roundTrips_alu32 (fn := 15) rfl (by decide) rfl
  | min => exact roundTrips_bit (fn := 0) rfl (by decide) fun w hf => by simp only [decodeBit, hf]
  | minu => exact roundTrips_bit (fn := 1) rfl (by decide) fun w hf => by simp only [decodeBit, hf]
  | max => exact roundTrips_bit (fn := 2) rfl (by decide) fun w hf => by simp only [decodeBit, hf]
  | maxu => exact roundTrips_bit (fn := 3) rfl (by decide) fun w hf => by simp only [decodeBit, hf]
  | andn => exact roundTrips_bit (fn := 8) rfl (by decide) fun w hf => by simp only [decodeBit, hf]
  | orn => exact roundTrips_bit (fn := 9) rfl (by decide) fun w hf => by simp only [decodeBit, hf]
  | clz => exact roundTrips_bitUn (fn := 4) rfl (by decide) fun w hf => by simp only [decodeBit, hf]
  | ctz => exact roundTrips_bitUn (fn := 5) rfl (by decide) fun w hf => by simp only [decodeBit, hf]
  | popc => exact roundTrips_bitUn (fn := 6) rfl (by decide) fun w hf => by simp only [decodeBit, hf]
  | bswap => exact roundTrips_bitUn (fn := 7) rfl (by decide) fun w hf => by simp only [decodeBit, hf]
  | gand => exact roundTrips_guardLogic (fn := 0) rfl (by decide) (bne_iff_ne.mp h) fun w hf => by simp only [decodeGuard, hf]
  | gor => exact roundTrips_guardLogic (fn := 1) rfl (by decide) (bne_iff_ne.mp h) fun w hf => by simp only [decodeGuard, hf]
  | gxor => exact roundTrips_guardLogic (fn := 2) rfl (by decide) (bne_iff_ne.mp h) fun w hf => by simp only [decodeGuard, hf]
  | gandn => exact roundTrips_guardLogic (fn := 3) rfl (by decide) (bne_iff_ne.mp h) fun w hf => by simp only [decodeGuard, hf]
  | addi => exact roundTrips_SI rfl (by decide) fun w l hop => by simp only [decodeSlot, decodeS, hop]
  | andi => exact roundTrips_SI rfl (by decide) fun w l hop => by simp only [decodeSlot, decodeS, hop]
  | ori => exact roundTrips_SI rfl (by decide) fun w l hop => by simp only [decodeSlot, decodeS, hop]
  | xori => exact roundTrips_SI rfl (by decide) fun w l hop => by simp only [decodeSlot, decodeS, hop]
  | muli => exact roundTrips_SI rfl (by decide) fun w l hop => by simp only [decodeSlot, decodeS, hop]
  | movh => exact roundTrips_SI rfl (by decide) fun w l hop => by simp only [decodeSlot, decodeS, hop]
  | shli => exact roundTrips_shift rfl (by decide) fun w hop h0 => by simp [decodeSlot, decodeS, hop, h0, zeroLend, require]
  | shri => exact roundTrips_shift rfl (by decide) fun w hop h0 => by simp [decodeSlot, decodeS, hop, h0, zeroLend, require]
  | sari => exact roundTrips_shift rfl (by decide) fun w hop h0 => by simp [decodeSlot, decodeS, hop, h0, zeroLend, require]
  | qinit => exact roundTrips_queue (n := 0) rfl (by decide) fun w hf => by simp only [decodeQueue, hf]
  | enq => exact roundTrips_queue (n := 1) rfl (by decide) fun w hf => by simp only [decodeQueue, hf]
  | deq => exact roundTrips_queue (n := 2) rfl (by decide) fun w hf => by simp only [decodeQueue, hf]
  | qpeek => exact roundTrips_queue (n := 5) rfl (by decide) fun w hf => by simp only [decodeQueue, hf]
  | qstat => exact roundTrips_queue (n := 6) rfl (by decide) fun w hf => by simp only [decodeQueue, hf]
  | rwopen => exact roundTrips_queue (n := 8) rfl (by decide) fun w hf => by simp only [decodeQueue, hf]
  | rwclose => exact roundTrips_queue (n := 9) rfl (by decide) fun w hf => by simp only [decodeQueue, hf]
  | launch => exact roundTrips_launch (n := 0) rfl (by decide) fun w hf => by simp only [decodeLaunch, hf]
  | preempt => exact roundTrips_launch (n := 2) rfl (by decide) fun w hf => by simp only [decodeLaunch, hf]
  | resume => exact roundTrips_launch (n := 3) rfl (by decide) fun w hf => by simp only [decodeLaunch, hf]
  | emrd => exact roundTrips_launch (n := 4) rfl (by decide) fun w hf => by simp only [decodeLaunch, hf]
  | digest => exact roundTrips_launch (n := 5) rfl (by decide) fun w hf => by simp only [decodeLaunch, hf]
  | linkst => exact roundTrips_link (n := 0) rfl (by decide) fun w hf => by simp only [decodeLink, hf]
  | lnkcfg => exact roundTrips_link (n := 1) rfl (by decide) fun w hf => by simp only [decodeLink, hf]
  | talign => exact roundTrips_link (n := 2) rfl (by decide) fun w hf => by simp only [decodeLink, hf]
  | ld =>
    exact roundTrips_SL rfl (by decide) fun w l hop hty _ => by
      simp [decodeSlot, decodeS, hop, hty, require, OpSL.ty_of_loadOk h]
  | ldacq =>
    exact roundTrips_SL rfl (by decide) fun w l hop hty _ => by
      simp [decodeSlot, decodeS, hop, hty, require, OpSL.ty_of_loadOk h]
  | st =>
    exact roundTrips_SL rfl (by decide) fun w l hop hty hlow => by
      simp [decodeSlot, decodeS, hop, hty, hlow, require, OpSL.ty_of_storeOk h]
  | strel =>
    exact roundTrips_SL rfl (by decide) fun w l hop hty hlow => by
      simp [decodeSlot, decodeS, hop, hty, hlow, require, OpSL.ty_of_storeOk h]
  | atom64 =>
    exact roundTrips_atom rfl (by decide) fun w hop hf => by
      simp only [decodeSlot, decodeS, hop, hf, noLend, if_pos (of_decide_eq_true h)]
  | atom32 =>
    exact roundTrips_atom rfl (by decide) fun w hop hf => by
      simp only [decodeSlot, decodeS, hop, hf, noLend, if_pos (of_decide_eq_true h)]
  | loop =>
    exact roundTrips_loop rfl (by decide) h fun w l hop hg hn => by
      simp [decodeSlot, decodeS, hop, hg, hn, require]
  | rpt =>
    exact roundTrips_loop rfl (by decide) h fun w l hop hg hn => by
      simp [decodeSlot, decodeS, hop, hg, hn, require]
  | ret => exact roundTrips_G rfl (by decide) fun w hop h0 => by simp [decodeSlot, decodeS, hop, h0, noLend, require]
  | endcont => exact roundTrips_G rfl (by decide) fun w hop h0 => by simp [decodeSlot, decodeS, hop, h0, noLend, require]
  | tret => exact roundTrips_G rfl (by decide) fun w hop h0 => by simp [decodeSlot, decodeS, hop, h0, noLend, require]
  | halt => exact roundTrips_G rfl (by decide) fun w hop h0 => by simp [decodeSlot, decodeS, hop, h0, noLend, require]
  | yield => exact roundTrips_G rfl (by decide) fun w hop h0 => by simp [decodeSlot, decodeS, hop, h0, noLend, require]
  | br => exact roundTrips_SJ rfl (by decide) fun w l hop => by simp only [decodeSlot, decodeS, hop]
  | jmp => exact roundTrips_SJ rfl (by decide) fun w l hop => by simp only [decodeSlot, decodeS, hop]
  | call => exact roundTrips_SJ rfl (by decide) fun w l hop => by simp only [decodeSlot, decodeS, hop]
  | cont => exact roundTrips_SJ rfl (by decide) fun w l hop => by simp only [decodeSlot, decodeS, hop]
  | jmpi => exact roundTrips_S1 rfl (by decide) fun w hop h16 h0 => by simp [decodeSlot, decodeS, hop, h16, h0, noLend, require]
  | ctxsv => exact roundTrips_S1 rfl (by decide) fun w hop h16 h0 => by simp [decodeSlot, decodeS, hop, h16, h0, noLend, require]
  | ctxld => exact roundTrips_S1 rfl (by decide) fun w hop h16 h0 => by simp [decodeSlot, decodeS, hop, h16, h0, noLend, require]
  | cmp o => exact roundTrips_cmp o h
  | cmpi o => exact roundTrips_cmpi o h
  | gset o => exact roundTrips_gset o h
  | gget o => exact roundTrips_gget o
  | sel o => exact roundTrips_sel o
  | movi o => exact roundTrips_movi o
  | atomn o => exact roundTrips_atomn o h
  | enqn o => exact roundTrips_enqn o h
  | deqn o => exact roundTrips_deqn o h
  | qclose o => exact roundTrips_qclose o
  | fence o => exact roundTrips_fence o h
  | fwait o => exact roundTrips_fwait o
  | drain o => exact roundTrips_drain o h
  | join o => exact roundTrips_join o h
  | xset o => exact roundTrips_xset o
  | xadd o => exact roundTrips_xadd o
  | view o => exact roundTrips_view o h
  | shw o => exact roundTrips_shw o h
  | slk o => exact roundTrips_slk o
  | mfc o => exact roundTrips_mfc o
  | mtc o => exact roundTrips_mtc o
  | lnsetBound o => exact roundTrips_lnsetBound o h
  | lnsetBind o => exact roundTrips_lnsetBind o h
  | lnsetClear o => exact roundTrips_lnsetClear o h
  | loopn o => exact roundTrips_loopn o h
  | margin o => exact roundTrips_margin o
  | segOpen o => exact roundTrips_segOpen o
  | segClose o => exact roundTrips_segClose o
  | trap o => exact roundTrips_trap o
  | waitev o => exact roundTrips_waitev o
  | gate o => exact roundTrips_gate o
  | bwait o => exact roundTrips_bwait o h
  | wmwait o => exact roundTrips_wmwait o
  | wmwaitAll o => exact roundTrips_wmwaitAll o
  | chwait o => exact roundTrips_chwait o
  | sleep o => exact roundTrips_sleep o
  | _ => cases hk

theorem roundTrips_v (i : Instr) (hk : i.slotClass = some .v) (h : i.wellFormed = true) : RoundTrips .v i := by
  cases i with
  | vadd => exact roundTrips_VA rfl (by decide) fun w l hop h0 => by simp [decodeSlot, decodeV, decVA, hop, h0, require]
  | vsub => exact roundTrips_VA rfl (by decide) fun w l hop h0 => by simp [decodeSlot, decodeV, decVA, hop, h0, require]
  | vmul => exact roundTrips_VA rfl (by decide) fun w l hop h0 => by simp [decodeSlot, decodeV, decVA, hop, h0, require]
  | vfma => exact roundTrips_VA rfl (by decide) fun w l hop h0 => by simp [decodeSlot, decodeV, decVA, hop, h0, require]
  | vmin => exact roundTrips_VA rfl (by decide) fun w l hop h0 => by simp [decodeSlot, decodeV, decVA, hop, h0, require]
  | vmax => exact roundTrips_VA rfl (by decide) fun w l hop h0 => by simp [decodeSlot, decodeV, decVA, hop, h0, require]
  | vdiv => exact roundTrips_VA rfl (by decide) fun w l hop h0 => by simp [decodeSlot, decodeV, decVA, hop, h0, require]
  | vsel => exact roundTrips_VA rfl (by decide) fun w l hop h0 => by simp [decodeSlot, decodeV, decVA, hop, h0, require]
  | vand => exact roundTrips_VA rfl (by decide) fun w l hop h0 => by simp [decodeSlot, decodeV, decVA, hop, h0, require]
  | vor => exact roundTrips_VA rfl (by decide) fun w l hop h0 => by simp [decodeSlot, decodeV, decVA, hop, h0, require]
  | vxor => exact roundTrips_VA rfl (by decide) fun w l hop h0 => by simp [decodeSlot, decodeV, decVA, hop, h0, require]
  | vshl => exact roundTrips_VA rfl (by decide) fun w l hop h0 => by simp [decodeSlot, decodeV, decVA, hop, h0, require]
  | vshr => exact roundTrips_VA rfl (by decide) fun w l hop h0 => by simp [decodeSlot, decodeV, decVA, hop, h0, require]
  | vsar => exact roundTrips_VA rfl (by decide) fun w l hop h0 => by simp [decodeSlot, decodeV, decVA, hop, h0, require]
  | vpack => exact roundTrips_VA rfl (by decide) fun w l hop h0 => by simp [decodeSlot, decodeV, decVA, hop, h0, require]
  | vperm => exact roundTrips_VA rfl (by decide) fun w l hop h0 => by simp [decodeSlot, decodeV, decVA, hop, h0, require]
  | vcadd => exact roundTrips_VA rfl (by decide) fun w l hop h0 => by simp [decodeSlot, decodeV, decVA, hop, h0, require]
  | vfade => exact roundTrips_VA rfl (by decide) fun w l hop h0 => by simp [decodeSlot, decodeV, decVA, hop, h0, require]
  | vqdeq => exact roundTrips_VA rfl (by decide) fun w l hop h0 => by simp [decodeSlot, decodeV, decVA, hop, h0, require]
  | vabs => exact roundTrips_VU rfl (by decide) fun w l hop => by simp only [decodeSlot, decodeV, hop]
  | vneg => exact roundTrips_VU rfl (by decide) fun w l hop => by simp only [decodeSlot, decodeV, hop]
  | vsqrt => exact roundTrips_VU rfl (by decide) fun w l hop => by simp only [decodeSlot, decodeV, hop]
  | vrcp => exact roundTrips_VU rfl (by decide) fun w l hop => by simp only [decodeSlot, decodeV, hop]
  | vrsq => exact roundTrips_VU rfl (by decide) fun w l hop => by simp only [decodeSlot, decodeV, hop]
  | vexp2 => exact roundTrips_VU rfl (by decide) fun w l hop => by simp only [decodeSlot, decodeV, hop]
  | vlog2 => exact roundTrips_VU rfl (by decide) fun w l hop => by simp only [decodeSlot, decodeV, hop]
  | vnot => exact roundTrips_VU rfl (by decide) fun w l hop => by simp only [decodeSlot, decodeV, hop]
  | vcvt => exact roundTrips_VU rfl (by decide) fun w l hop => by simp only [decodeSlot, decodeV, hop]
  | vcacc => exact roundTrips_VU rfl (by decide) fun w l hop => by simp only [decodeSlot, decodeV, hop]
  | xmov => exact roundTrips_VU rfl (by decide) fun w l hop => by simp only [decodeSlot, decodeV, hop]
  | vmov => exact roundTrips_VU rfl (by decide) fun w l hop => by simp only [decodeSlot, decodeV, hop]
  | vld => exact roundTrips_VM rfl (by decide) h fun w l hop hvm => by simp [decodeSlot, decodeV, hop, hvm, require]
  | vst => exact roundTrips_VM rfl (by decide) h fun w l hop hvm => by simp [decodeSlot, decodeV, hop, hvm, require]
  | vgth => exact roundTrips_VX rfl (by decide) h fun w l hop hvm => by simp [decodeSlot, decodeV, hop, hvm, require]
  | vsct => exact roundTrips_VX rfl (by decide) h fun w l hop hvm => by simp [decodeSlot, decodeV, hop, hvm, require]
  | cupseed => exact roundTrips_S1 rfl (by decide) fun w hop h16 h0 => by simp [decodeSlot, decodeV, hop, h16, h0, noLend, require]
  | vcmp o => exact roundTrips_vcmp o h
  | vunpk o => exact roundTrips_vunpk o
  | vbcstLane o => exact roundTrips_vbcstLane o
  | vbcstScalar o => exact roundTrips_vbcstScalar o
  | vred o => exact roundTrips_vred o h
  | cupstat o => exact roundTrips_cupstat o
  | vatom o => exact roundTrips_vatom o h
  | _ => cases hk

theorem roundTrips_m (i : Instr) (hk : i.slotClass = some .m) : RoundTrips .m i := by
  cases i with
  | mbsw => exact roundTrips_G rfl (by decide) fun w hop h0 => by simp [decodeSlot, decodeM, hop, h0, noLend, require]
  | mma => exact roundTrips_mma rfl (by decide) fun w hop h11 h0 => by simp [decodeSlot, decodeM, hop, h11, h0, noLend, require]
  | mmaz => exact roundTrips_mma rfl (by decide) fun w hop h11 h0 => by simp [decodeSlot, decodeM, hop, h11, h0, noLend, require]
  | mout => exact roundTrips_mma rfl (by decide) fun w hop h11 h0 => by simp [decodeSlot, decodeM, hop, h11, h0, noLend, require]
  | mbld o => exact roundTrips_mbld o
  | mscl o => exact roundTrips_mscl o
  | macc o => exact roundTrips_macc o
  | mzero o => exact roundTrips_mzero o
  | mtap o => exact roundTrips_mtap o
  | _ => cases hk

theorem roundTrips_n (i : Instr) (hk : i.slotClass = some .n) (h : i.wellFormed = true) : RoundTrips .n i := by
  cases i with
  | lscan => exact roundTrips_scan rfl (by decide) fun w hop h1 => by simp [decodeSlot, decodeN, hop, h1, noLend, require]
  | lscanc => exact roundTrips_scan rfl (by decide) fun w hop h1 => by simp [decodeSlot, decodeN, hop, h1, noLend, require]
  | lcfgSet o => exact roundTrips_lcfgSet o h
  | lcfgLoad o => exact roundTrips_lcfgLoad o
  | lcfgSave o => exact roundTrips_lcfgSave o
  | lcfgClear o => exact roundTrips_lcfgClear o
  | lgate o => exact roundTrips_lgate o
  | lmat o => exact roundTrips_lmat o
  | _ => cases hk

theorem roundTrips_c (i : Instr) (hk : i.slotClass = some .c) (h : i.wellFormed = true) : RoundTrips .c i := by
  cases i with
  | cpy => exact roundTrips_cpy rfl (by decide) fun w l hop _ => by simp only [decodeSlot, decodeC, hop]
  | cpyg =>
    exact roundTrips_cpy rfl (by decide) fun w l hop hs => by
      simp [decodeSlot, decodeC, hop, hs, require, OpCpy.ssp_of_wellFormed h]
  | cpym => exact roundTrips_cpym (dsp := 2) rfl (by decide) (by decide) fun w l hop h2 h0 => by simp [decodeSlot, decodeC, hop, h2, h0, require]
  | cpyd => exact roundTrips_cpym (dsp := 0) rfl (by decide) (by decide) fun w l hop h2 h0 => by simp [decodeSlot, decodeC, hop, h2, h0, require]
  | binit =>
    exact roundTrips_bar rfl (by decide) fun w hop hwho h0 => by
      simp [decodeSlot, decodeC, hop, hwho, h0, noLend, require, of_decide_eq_true h]
  | badd =>
    exact roundTrips_bar rfl (by decide) fun w hop hwho h0 => by
      simp [decodeSlot, decodeC, hop, hwho, h0, noLend, require, of_decide_eq_true h]
  | snap => exact roundTrips_fr2 rfl (by decide) fun w hop h17 h0 => by simp [decodeSlot, decodeC, hop, h17, h0, noLend, require]
  | fork => exact roundTrips_fr2 rfl (by decide) fun w hop h17 h0 => by simp [decodeSlot, decodeC, hop, h17, h0, noLend, require]
  | hpapp => exact roundTrips_fr2 rfl (by decide) fun w hop h17 h0 => by simp [decodeSlot, decodeC, hop, h17, h0, noLend, require]
  | frstat => exact roundTrips_fr2 rfl (by decide) fun w hop h17 h0 => by simp [decodeSlot, decodeC, hop, h17, h0, noLend, require]
  | cpyh o => exact roundTrips_cpyh o
  | cpyr o => exact roundTrips_cpyr o h
  | hpmap o => exact roundTrips_hpmap o
  | wmark o => exact roundTrips_wmark o
  | arrive o => exact roundTrips_arrive o h
  | frld o => exact roundTrips_frld o
  | frst o => exact roundTrips_frst o
  | frsw o => exact roundTrips_frsw o
  | rback o => exact roundTrips_rback o
  | frel o => exact roundTrips_frel o
  | _ => cases hk

theorem roundTrips (i : Instr) (k : SlotClass) (hk : i.slotClass = some k) (h : i.wellFormed = true) : RoundTrips k i := by
  cases k with
  | s => exact roundTrips_s i hk h
  | v => exact roundTrips_v i hk h
  | m => exact roundTrips_m i hk
  | n => exact roundTrips_n i hk h
  | c => exact roundTrips_c i hk h

end Sys2Proof
end

section
/-! The statement on encoding and decoding. -/

open Sys2Proof

/-- Settles O57: the decoder reads every operand field back from the word and the lend that the encoder forms, by cases on
the instruction. -/
theorem encodeDecodeRoundTrip : Obligations.EncodeDecodeRoundTrip := by
  unfold Obligations.EncodeDecodeRoundTrip
  exact roundTrips

end

section
/-! The statement on words written out. -/

open Sys2Proof

/-- Settles O56: the decoder evaluates on each word. -/
theorem wordsDecode : Obligations.WordsDecode := by
  unfold Obligations.WordsDecode
  exact ⟨⟨rfl, rfl, rfl, rfl, rfl, rfl, rfl⟩, rfl, rfl, rfl, rfl, rfl, rfl⟩

end

section
/-! SUPPORT. What a trap's entry leaves, inside a handler and outside one (R188, R190). -/

namespace Sys2Proof.Machine

set_option Elab.async false

variable {s : State}

/-- R188: a trap outside a handler is entered with the bundles before its own. -/
theorem State.takeTrap_outside (h : s.core.inTrap = false) (r : Trap) : ∃ nest past done b rs es sl,
    s.takeTrap r = s.upd fun _ => ({ s.core with
      nest := nest, bundles := s.core.bundles.filter fun b => decide (b.seq < s.core.cur.seq), past := past } : CoreState).enterTrap
        r done b rs es sl := by
  unfold State.takeTrap
  simp only [h, Bool.false_eq_true, if_false]
  generalize (if r.cause == 0x38#8 then none else s.core.curBundle) = own
  cases own with
  | some b => exact ⟨s.core.nestBefore b.seq, _, _, some b, _, _, _, rfl⟩
  | none => exact ⟨s.core.nest, _, _, none, _, _, _, rfl⟩

/-- R190: a trap inside a handler is a double trap. -/
theorem State.takeTrap_inside (h : s.core.inTrap = true) (r : Trap) : s.takeTrap r = s.doubleTrap r.cause := by
  simp only [State.takeTrap, h, if_true]

section
variable (c : CoreState) (r : Trap) (done : BitVec 8) (b : Option Bundle) (rs : List (BitVec 8))
  (es : List (List (Nat × Word64))) (sl : List (BitVec 10))

/-- R188: the registers that the entry writes, those of the segment apart. -/
theorem CoreState.enterTrap_crGet {n : Nat} (hn : n ≠ 0x047) (hn' : n ≠ 0x048) :
    (c.enterTrap r done b rs es sl).crGet n = ([(0x04B, c.crGet 0), (0x002, r.cause.setWidth 64), (0x003, r.tpc.setWidth 64),
      (0x004, r.tinfo0), (0x005, r.tinfo1), (0x006, r.tinfo2), (0x007, r.tinfo3), (0x04C, done.setWidth 64),
      (0x000, c.crGet 0 ||| 3#64), (0x040, 0x7FFFF#64), (0x041, 0x7FFFF#64)].reverse.lookup n).getD (c.crGet n) := by
  unfold CoreState.enterTrap
  rw [CoreState.crGet]
  dsimp only
  rw [← CoreState.crGet, CoreState.crGet_crPuts]
  simp only [List.reverse_cons, List.reverse_nil, List.nil_append, List.cons_append, List.lookup_cons, beq_eq_false_iff_ne.mpr hn,
    beq_eq_false_iff_ne.mpr hn', CoreState.status]

theorem CoreState.enterTrap_pc : (c.enterTrap r done b rs es sl).pc = (c.crGet 1).setWidth 48 &&& 0xFFFFFFFFFFE0#48 := by
  unfold CoreState.enterTrap
  dsimp only
  rw [CoreState.crGet_crPuts]
  simp [List.lookup_cons]

@[simp] theorem CoreState.enterTrap_trapReq : (c.enterTrap r done b rs es sl).trapReq = none := rfl

@[simp] theorem CoreState.enterTrap_bundles : (c.enterTrap r done b rs es sl).bundles = c.bundles := by simp [CoreState.enterTrap]

theorem CoreState.enterTrap_frame : let d := c.enterTrap r done b rs es sl
    d.s = c.s ∧ d.x = c.x ∧ d.g = c.g ∧ d.shapes = c.shapes ∧ d.shadows = c.shadows ∧ d.cont = c.cont ∧ d.carries = c.carries
      ∧ d.ops = c.ops := by
  simp [CoreState.enterTrap]
end

theorem State.takeTrap_enters (h : s.core.inTrap = false) (r : Trap) : EntersTrap s (s.takeTrap r) r := by
  obtain ⟨nest, past, done, b, rs, es, sl, ht⟩ := State.takeTrap_outside h r
  rw [ht]
  obtain ⟨hs, hx, hg, hsh, hsd, hct, hca, hops⟩ := CoreState.enterTrap_frame { s.core with
    nest := nest, bundles := s.core.bundles.filter fun b => decide (b.seq < s.core.cur.seq), past := past } r done b rs es sl
  refine ⟨?_, ?_, ?_, ?_, ?_, ?_, ?_, ?_, ?_, ?_, rfl, rfl, CoreState.enterTrap_pc .., hs, hx, hg, hsh, hsd, hct, hca, hops, rfl⟩ <;>
    exact CoreState.enterTrap_crGet _ r done b rs es sl (by decide) (by decide)

theorem State.doubleTrap_frame (cause : BitVec 8) : (s.doubleTrap cause).core =
    { s.core with mode := .dead, bundles := [], held := false, trapReq := none } ∧ (s.doubleTrap cause).mem = s.mem := by
  unfold State.doubleTrap
  obtain ⟨hc, hm, -⟩ := State.sendLaunch_frame ((s.upd fun c => { c with mode := .dead, bundles := [], held := false, trapReq := none }).taintLaunch
    s.core.launchKey cause) (s.core.crGet 0x0C2) _ _ 2 _ _ _ _
  exact ⟨hc, hm⟩

end Sys2Proof.Machine
end

section
/-! The statement on traps. -/

open Sys2Proof Sys2Proof.Machine

/-- Settles O12: outside a handler every trap goes through the one entry, whose fields are given field by field; inside one
the core stops. -/
theorem trapsAreEntered : Obligations.TrapsAreEntered := by
  unfold Obligations.TrapsAreEntered
  refine ⟨fun s r => ⟨fun h => ⟨State.takeTrap_enters h r, ?bundles⟩, fun h => ?nested⟩, fun o s hon => ?trap, fun s r hr => ?entry,
    fun s hr => ?idle⟩
  case bundles =>
    obtain ⟨nest, past, done, b, rs, es, sl, ht⟩ := State.takeTrap_outside h r
    rw [ht, State.upd_core]
    intro b' hb'
    simpa using hb'
  case nested =>
    obtain ⟨hc, hm⟩ := State.doubleTrap_frame (s := s) r.cause
    rw [State.takeTrap_inside h, hc, hm]
    exact ⟨rfl, rfl, rfl, rfl, rfl⟩
  case trap =>
    have he : exec (.trap o) s = if s.ownBusy then s.hold
      else .next (s.takeTrap ⟨0x38#8, s.core.cur.next, o.c.setWidth 64, 0#64, 0#64, 0#64⟩) := s.whenOn_on _ hon
    refine ⟨fun hb => ⟨by rw [he, hb, if_neg Bool.false_ne_true], fun h => State.takeTrap_enters h _, fun h => ?_⟩, fun hb => ?_⟩
    · rw [State.takeTrap_inside h, (State.doubleTrap_frame _).1]
    · rw [he, hb, if_pos rfl]
      exact s.hold_holds
  case entry =>
    intro u
    have he : exec .trapEntry s = .next (u.takeTrap r) := by
      show execTrapEntry s = _
      simp only [execTrapEntry, hr]
      rfl
    refine ⟨he, ?_, fun h => State.takeTrap_enters (s := u) h r⟩
    cases h : u.core.inTrap with
    | true => rw [State.takeTrap_inside h, (State.doubleTrap_frame _).1]
    | false =>
      obtain ⟨nest, past, done, b, rs, es, sl, ht⟩ := State.takeTrap_outside h r
      rw [ht, State.upd_core, CoreState.enterTrap_trapReq]
  case idle =>
    show execTrapEntry s = _
    simp only [execTrapEntry, hr]
end

section
/-! SUPPORT. The return from a trap, and the end of a program (R189, R193). -/

namespace Sys2Proof.Machine

set_option Elab.async false

variable {s : State}

/-- A bundle's address has no low bits to clear. -/
theorem bundleAddress_of_aligned {v : BitVec 48} (h : bitsOf v 0 5 = 0) : v &&& 0xFFFFFFFFFFE0#48 = v := by
  have hmask : ∀ j < 48, (0xFFFFFFFFFFE0#48).getLsbD j = decide (5 ≤ j) := by decide
  refine BitVec.eq_of_getLsbD_eq fun j hj => ?_
  rw [BitVec.getLsbD_and, hmask j hj]
  by_cases h5 : 5 ≤ j
  · simp [h5]
  · have hbit := congrArg (Nat.testBit · j) h
    simp only [bitsOf, Nat.testBit_mod_two_pow, pow_zero, Nat.div_one, Nat.zero_testBit] at hbit
    simp [h5, BitVec.getLsbD, (by simpa [show j < 5 by omega] using hbit : v.toNat.testBit j = false)]

/-- R189: what the return takes from the shadow and from the trap registers. -/
theorem CoreState.returnTrap_eq {c : CoreState} {sh : TrapShadow} (h : c.shadow = some sh) :
    ∃ replays redo redos slacks, c.returnTrap =
      { c.crPuts [(0x000, c.crGet 0x04B &&& 0xFFFFFFFFFFFFFFFD#64), (0x047, sh.segst), (0x048, sh.segcrc), (0x040, sh.mrem),
          (0x041, sh.mlim), (0x04C, 0#64)] with
        shadow := none, loops := sh.loops, segExp := sh.segexp, group := .start, replay := (c.crGet 0x04C).setWidth 8
        redo := redo, replays := replays, redos := redos, slacks := slacks, stalled := sh.stalled
        pc := (c.crGet 3).setWidth 48 &&& 0xFFFFFFFFFFE0#48 } := by
  simp only [CoreState.returnTrap, h, Option.getD_some]
  exact ⟨_, _, _, _, rfl⟩

theorem CoreState.taint_taints (c : CoreState) : (c.taint.crGet 0).getLsbD 3 = true := by
  simp [CoreState.taint, CoreState.crGet_crPut, CoreState.status]

theorem State.sigTaint_core (i : Nat) (e m : Word64) :
    (s.sigTaint i e m).core = (s.core.crPuts (s.core.sigRecord i 0 e m)).closeSeg.taint := rfl

theorem State.sigTaint_mem (i : Nat) (e m : Word64) : (s.sigTaint i e m).mem = s.mem := by
  simp only [State.sigTaint, State.taintSig, State.taintLaunch, State.updLaunch, State.upd]

theorem State.endCore_core : s.endCore.core = { s.core with mode := .halted, bundles := [], ops := [], trapReq := none } := rfl

theorem State.endCore_mem : s.endCore.mem = s.mem := rfl

/-- R178, R193: an end leaves the core halted and its registers as they stand but for the record of an open segment. -/
theorem State.ending_frame : s.ending.core.mode = .halted ∧ s.ending.core.s = s.core.s ∧ s.ending.mem = s.mem
    ∧ ((s.core.crGet 0).getLsbD 3 = true → (s.ending.core.crGet 0).getLsbD 3 = true) := by
  unfold State.ending
  split
  · rw [State.endCore_core, State.endCore_mem, State.sigTaint_core, State.sigTaint_mem]
    refine ⟨rfl, ?_, rfl, fun _ => CoreState.taint_taints _⟩
    simp [CoreState.taint, CoreState.closeSeg]
  · exact ⟨rfl, rfl, rfl, fun h => h⟩

end Sys2Proof.Machine
end

section
/-! The statement on TRET. -/

open Sys2Proof Sys2Proof.Machine

/-- Settles O13, by the state of the core and the cause in TCAUSE. -/
theorem trapReturn : Obligations.TrapReturn := by
  unfold Obligations.TrapReturn
  intro o s hon cause
  have he : exec (.tret o) s = if !s.core.inTrap then s.trap02
      else if resumable cause then
        (if bitsOf (s.core.crGet 3) 0 5 ≠ 0 then s.accTrap ⟨0x0A#8, 0#64⟩ .rd 0 (s.core.crGet 3) 0#64
        else .next (s.upd fun c => c.returnTrap))
      else if !s.quiet true then s.hold
      else .next (((s.upd (·.taint)).taintLaunch s.core.launchKey (BitVec.ofNat 8 cause)).ending) := s.whenOn_on _ hon
  refine ⟨fun h => ?outside, fun h h29 h31 h39 ha => ?misaligned, fun h h29 h31 h39 ha sh hsh => ?returns, fun h hc hq => ?ends⟩
  case outside => rw [he, h]; rfl
  case misaligned =>
    have hr : resumable cause = true := by simp [resumable, h29, h31, h39]
    rw [he, h, hr, Bool.not_true, if_neg Bool.false_ne_true, if_pos rfl, if_pos ha]
    rfl
  case returns =>
    have hr : resumable cause = true := by simp [resumable, h29, h31, h39]
    obtain ⟨replays, redo, redos, slacks, ht⟩ := CoreState.returnTrap_eq hsh
    refine ⟨{ s with core := s.core.returnTrap }, ?_, ?_⟩
    · rw [he, h, hr, Bool.not_true, if_neg Bool.false_ne_true, if_pos rfl, if_neg (not_not_intro ha)]
      rfl
    have hpc : bitsOf ((s.core.crGet 3).setWidth 48) 0 5 = 0 := by
      simp only [bitsOf, BitVec.toNat_setWidth] at ha ⊢
      omega
    rw [ht]
    refine ⟨?_, bundleAddress_of_aligned hpc, rfl, ?_, ?_, rfl, ?_, ?_, rfl, ?_, rfl, rfl, CoreState.crPuts_s .., CoreState.crPuts_x ..,
      CoreState.crPuts_g .., CoreState.crPuts_ops .., rfl⟩ <;>
      exact CoreState.crGet_crPuts ..
  case ends =>
    have hr : resumable cause = false := by rcases hc with hc | hc | hc <;> simp [resumable, hc]
    refine ⟨_, by rw [he, h, hr, hq]; rfl, ?_⟩
    obtain ⟨hm, hs, hmem, ht⟩ := State.ending_frame (s := (s.upd (·.taint)).taintLaunch s.core.launchKey (BitVec.ofNat 8 cause))
    exact ⟨hm, ht (CoreState.taint_taints _), hmem, hs⟩
end

section
/-! SUPPORT. The privileged instructions (R61, R64). -/

namespace Sys2Proof.Machine

/-- R5, R461: a register whose write needs supervisor level is assigned. -/
theorem crNeedsSup_of {c : BitVec 19} (h : crAccess c.toNat = some .rs ∨ c = 0x019#19 ∨ c = 0x104#19) :
    crNeedsSup c.toNat = true ∧ (crAccess c.toNat).isNone = false := by
  rcases h with h | rfl | rfl
  · simp [crNeedsSup, h]
  · decide
  · decide

theorem levelCheck_mtc {o : OpMtc} (sup : Bool) (h : crAccess o.c.toNat = some .rs ∨ o.c = 0x019#19 ∨ o.c = 0x104#19) :
    levelCheck sup (.mtc o) = if sup then none else some 0x05#8 := by
  obtain ⟨hsup, hsome⟩ := crNeedsSup_of h
  cases sup <;> simp [levelCheck, hsup, hsome]

/-- R31: the S slot is the first that the dispatcher decodes. -/
theorem decodeBundle_head (bs : List Byte) : ∃ rest, decodeBundle bs =
    (1, decodeSlot .s (BitVec.ofNat 32 (slotWord bs 1)) (hdLend (slotWord bs 0) 1)) :: rest := ⟨_, rfl⟩

end Sys2Proof.Machine
end

section
/-! The statement on privileged instructions. -/

open Sys2Proof Sys2Proof.Machine

/-- Settles O18: a privileged instruction is one whose level check depends on the level alone, and the S slot is checked
first. -/
theorem privilegeIsChecked : Obligations.PrivilegeIsChecked := by
  unfold Obligations.PrivilegeIsChecked
  intro c bs mine i hi hpriv
  have hlevel : ∀ sup, levelCheck sup i = if sup then none else some 0x05#8 := by
    intro sup
    rcases hpriv with ⟨o, rfl⟩ | ⟨o, rfl⟩ | ⟨o, rfl⟩ | ⟨o, rfl⟩ | ⟨o, rfl⟩ | ⟨o, rfl⟩ | ⟨o, rfl, hc⟩
    case inr.inr.inr.inr.inr.inr => exact levelCheck_mtc sup hc
    all_goals rfl
  refine ⟨fun hsup hh => ?_, fun hsup => ?_⟩
  · obtain ⟨rest, hrest⟩ := decodeBundle_head bs
    have hslot : slotCheck c.sup 1 (.ok i) = some ⟨0x05#8, 1, 0⟩ := by simp [slotCheck, hlevel, hsup]
    rw [hrest, hi] at hh ⊢
    simp only [CoreState.dispatchCheck, hh, List.findSome?_cons, hslot]
  · simp [slotCheck, hlevel, hsup]
end


section
/-! SUPPORT. Fields of control registers, bit by bit, and what MFC reads (R90, R197). -/

namespace Sys2Proof.Machine

set_option Elab.async false

/-! ### Fields of words -/

theorem testBit_bitsOf {w : Nat} (v : BitVec w) (lo n j : Nat) : (bitsOf v lo n).testBit j = (decide (j < n) && v.getLsbD (lo + j)) := by
  rw [bitsOf, Nat.testBit_mod_two_pow, Nat.testBit_div_two_pow, BitVec.getLsbD, Nat.add_comm]

theorem field_add_low_lt (v : Word64) (lo n x : Nat) : 2 ^ lo * (x % 2 ^ n) + v.toNat % 2 ^ lo < 2 ^ (lo + n) := by
  rw [Nat.add_comm lo n, Nat.pow_add]
  exact Nat.mul_add_lt_mul_of_lt_of_lt (Nat.mod_lt _ (Nat.two_pow_pos n)) (Nat.mod_lt _ (Nat.two_pow_pos lo))

/-- The number that a word with a replaced field is: the bits above the field, the new field, the bits below. -/
theorem toNat_setBits (v : Word64) {lo n : Nat} (x : Nat) (h : lo + n ≤ 64) :
    (setBits v lo n x).toNat = 2 ^ (lo + n) * (v.toNat / 2 ^ (lo + n)) + (2 ^ lo * (x % 2 ^ n) + v.toNat % 2 ^ lo) := by
  have hlt : 2 ^ (lo + n) * (v.toNat / 2 ^ (lo + n)) + (2 ^ lo * (x % 2 ^ n) + v.toNat % 2 ^ lo) < 2 ^ 64 := by
    have hh : v.toNat / 2 ^ (lo + n) < 2 ^ (64 - (lo + n)) := by
      rw [Nat.div_lt_iff_lt_mul (Nat.two_pow_pos _), ← Nat.pow_add, Nat.sub_add_cancel h]
      exact v.isLt
    have := Nat.mul_add_lt_mul_of_lt_of_lt hh (field_add_low_lt v lo n x)
    rwa [← Nat.pow_add, Nat.sub_add_cancel h] at this
  have hv : v.toNat = 2 ^ lo * (2 ^ n * (v.toNat / 2 ^ lo / 2 ^ n) + v.toNat / 2 ^ lo % 2 ^ n) + v.toNat % 2 ^ lo := by
    rw [Nat.div_add_mod, Nat.div_add_mod]
  rw [setBits, BitVec.toNat_ofNat, ← Nat.mod_eq_of_lt hlt, bitsOf, Nat.pow_add, ← Nat.div_div_eq_div_mul]
  congr 1
  rw [Nat.mul_add] at hv
  rw [Nat.mul_comm _ (2 ^ lo), Nat.mul_comm _ (2 ^ lo), Nat.mul_assoc]
  omega

/-- The bits of a word with a replaced field. -/
theorem getLsbD_setBits (v : Word64) {lo n : Nat} (x : Nat) (h : lo + n ≤ 64) (i : Nat) :
    (setBits v lo n x).getLsbD i = if lo ≤ i ∧ i < lo + n then x.testBit (i - lo) else v.getLsbD i := by
  have hl : v.toNat % 2 ^ lo < 2 ^ lo := Nat.mod_lt _ (Nat.two_pow_pos lo)
  rw [BitVec.getLsbD, toNat_setBits v x h, Nat.testBit_two_pow_mul_add _ (field_add_low_lt v lo n x), Nat.testBit_two_pow_mul_add _ hl, Nat.testBit_mod_two_pow,
    Nat.testBit_mod_two_pow, Nat.testBit_div_two_pow, BitVec.getLsbD]
  by_cases hi : i < lo
  · rw [if_pos (by omega), if_pos hi, if_neg (by omega), decide_eq_true hi, Bool.true_and]
  · by_cases hi' : i < lo + n
    · rw [if_pos hi', if_neg hi, if_pos (by omega), decide_eq_true (by omega), Bool.true_and]
    · rw [if_neg hi', if_neg (by omega), Nat.sub_add_cancel (by omega)]

theorem getLsbD_setBits_flag (v : Word64) {lo : Nat} (b : Bool) (h : lo < 64) (i : Nat) :
    (setBits v lo 1 (if b = true then 1 else 0)).getLsbD i = if i = lo then b else v.getLsbD i := by
  rw [getLsbD_setBits v _ (by omega)]
  by_cases hi : i = lo
  · rw [if_pos (by omega), if_pos hi, hi, Nat.sub_self]
    cases b <;> rfl
  · rw [if_neg (by omega), if_neg hi]

theorem getLsbD_setBits_disjoint (v : Word64) {lo n i : Nat} (x : Nat) (h : lo + n ≤ 64) (hi : i < lo ∨ lo + n ≤ i) :
    (setBits v lo n x).getLsbD i = v.getLsbD i := by
  rw [getLsbD_setBits v x h, if_neg (by omega)]

theorem bitsOf_setBits_same (v : Word64) {lo n : Nat} (x : Nat) (h : lo + n ≤ 64) : bitsOf (setBits v lo n x) lo n = x % 2 ^ n := by
  refine Nat.eq_of_testBit_eq fun j => ?_
  rw [testBit_bitsOf, getLsbD_setBits v x h, Nat.testBit_mod_two_pow]
  by_cases hj : j < n <;> simp [hj]

theorem bitsOf_setBits_disjoint (v : Word64) {lo n lo' n' : Nat} (x : Nat) (h : lo + n ≤ 64) (hd : lo' + n' ≤ lo ∨ lo + n ≤ lo') :
    bitsOf (setBits v lo n x) lo' n' = bitsOf v lo' n' := by
  refine Nat.eq_of_testBit_eq fun j => ?_
  rw [testBit_bitsOf, testBit_bitsOf, getLsbD_setBits v x h]
  by_cases hj : j < n'
  · rw [if_neg (by omega)]
  · simp [hj]

/-! ### Words made of flags -/

/-- The number whose first bits are given one by one. -/
def flagNumber (f : Nat → Bool) (n : Nat) : Nat := ((List.range n).map fun i => if f i then 2 ^ i else 0).sum

theorem flagNumber_succ (f : Nat → Bool) (n : Nat) : flagNumber f (n + 1) = 2 ^ n * (f n).toNat + flagNumber f n := by
  simp only [flagNumber, List.range_succ, List.map_append, List.sum_append, List.map_singleton, List.sum_singleton]
  cases f n <;> simp [Nat.add_comm]

theorem flagNumber_lt (f : Nat → Bool) (n : Nat) : flagNumber f n < 2 ^ n := by
  induction n with
  | zero => simp [flagNumber]
  | succ n ih =>
    rw [flagNumber_succ, Nat.pow_succ]
    cases f n <;> simp <;> omega

theorem testBit_flagNumber (f : Nat → Bool) (n i : Nat) : (flagNumber f n).testBit i = (decide (i < n) && f i) := by
  induction n with
  | zero => simp [flagNumber]
  | succ n ih =>
    rw [flagNumber_succ, Nat.testBit_two_pow_mul_add _ (flagNumber_lt f n), ih]
    rcases Nat.lt_trichotomy i n with h | rfl | h
    · simp [h, Nat.lt_succ_of_lt h]
    · cases f i <;> simp
    · rw [if_neg (by omega), decide_eq_false (by omega), Nat.testBit_lt_two_pow]
      · rfl
      · exact Nat.lt_of_lt_of_le (Bool.toNat_lt _) (Nat.pow_le_pow_right Nat.two_pos (by omega : 1 ≤ i - n))

/-! ### What a read of each register gives -/

theorem getLsbD_flagNumber (f : Nat → Bool) {n i : Nat} (hn : n ≤ 64) : (BitVec.ofNat 64 (flagNumber f n)).getLsbD i = (decide (i < n) && f i) := by
  rw [BitVec.getLsbD_ofNat, testBit_flagNumber]
  by_cases h : i < n
  · simp [h, (by omega : i < 64)]
  · simp [h]

theorem fuseWord_eq (f : Nat → Bool) : fuseWord f = BitVec.ofNat 64 (flagNumber f 64) := rfl

theorem CoreState.vsf_eq (c : CoreState) (u : Nat) :
    c.vsf u = BitVec.ofNat 64 (flagNumber (fun f => c.crGet (0x022 + 8 * u + f) != 0#64) 7) := by
  have hif : ∀ f, (if c.crGet (0x022 + 8 * u + f) = 0#64 then 0 else 2 ^ f) = if (c.crGet (0x022 + 8 * u + f) != 0#64) = true then 2 ^ f else 0 := by
    intro f
    by_cases h : c.crGet (0x022 + 8 * u + f) = 0#64 <;> simp [h]
  simp only [CoreState.vsf, flagNumber, hif, List.sum_eq_foldl, List.foldl_map]

variable (s : State)

theorem State.readCr_plain {n : Nat} (h8 : n ≠ 0x008) (hC : n ≠ 0x00C) (hE : n ≠ 0x00E) (h1B : n ≠ 0x01B) (h20 : n ≠ 0x020)
    (h21 : n ≠ 0x021) (h45 : n ≠ 0x045) (hC3 : n ≠ 0x0C3) (hwo : crAccess n ≠ some .wo) :
    s.readCr n = if crOfDevice n then s.readDev n else s.core.crGet n := by
  simp only [State.readCr, h8, hC, hE, h1B, h20, h21, h45, hC3, beq_eq_false_iff_ne.mpr hwo, if_false, Bool.false_eq_true]

/-- R290: FULL of the two buffers in MSTAT. -/
theorem CoreState.getLsbD_mstat (c : CoreState) (i : Nat) : c.mstat.getLsbD i =
    if i = 1 then c.mbuf0.full else if i = 2 then c.mbuf1.full else (c.crGet 0x01B).getLsbD i := by
  rw [CoreState.mstat, getLsbD_setBits_flag _ _ (by decide), getLsbD_setBits_flag _ _ (by decide)]
  by_cases h1 : i = 1
  · simp [h1]
  · simp [h1]

/-- R337: FRBNK with the states of the lead core's banks. -/
theorem State.frbnk_fields : let lead := s.coreAt s.core.gang.lead
    bitsOf s.frbnk 0 16 = bitsOf (s.core.crGet 0x00E) 0 16 ∧ s.frbnk.getLsbD 16 = (lead.crGet 0x00E).getLsbD 16
      ∧ bitsOf s.frbnk 17 2 = lead.bank0.state % 4 ∧ s.frbnk.getLsbD 19 = lead.bank0.storing
      ∧ bitsOf s.frbnk 20 2 = lead.bank1.state % 4 ∧ s.frbnk.getLsbD 22 = lead.bank1.storing := by
  unfold State.frbnk
  refine ⟨?_, ?_, ?_, ?_, ?_, ?_⟩
  · repeat rw [bitsOf_setBits_disjoint _ _ (by decide) (by decide)]
  · repeat rw [getLsbD_setBits_disjoint (i := 16) _ _ (by decide) (by decide)]
    rw [getLsbD_setBits _ _ (by decide), if_pos (by decide), testBit_bitsOf]
    rfl
  · repeat rw [bitsOf_setBits_disjoint _ _ (by decide) (by decide)]
    exact bitsOf_setBits_same _ _ (by decide)
  · repeat rw [getLsbD_setBits_disjoint (i := 19) _ _ (by decide) (by decide)]
    rw [getLsbD_setBits_flag _ _ (by decide), if_pos rfl]
  · rw [bitsOf_setBits_disjoint _ _ (by decide) (by decide)]
    exact bitsOf_setBits_same _ _ (by decide)
  · rw [getLsbD_setBits_flag _ _ (by decide), if_pos rfl]

/-- R460: HSTAT with the state of the device and of the controllers. -/
theorem State.getLsbD_hstat (i : Nat) : (s.readCr 0x100).getLsbD i =
    if i = 3 then s.degraded else if i = 8 ∨ i = 9 then s.east.asleep.testBit (i - 8)
    else if i = 10 ∨ i = 11 then s.west.asleep.testBit (i - 10) else (s.devGet 0x100).getLsbD i := by
  show (setBits (setBits (setBits (s.devGet 0x100) 3 1 _) 8 2 s.east.asleep) 10 2 s.west.asleep).getLsbD i = _
  rw [getLsbD_setBits _ _ (by decide), getLsbD_setBits _ _ (by decide), getLsbD_setBits_flag _ _ (by decide)]
  have h10 : (10 ≤ i ∧ i < 10 + 2) ↔ (i = 10 ∨ i = 11) := by omega
  have h8 : (8 ≤ i ∧ i < 8 + 2) ↔ (i = 8 ∨ i = 9) := by omega
  simp only [h10, h8]
  split
  · rw [if_neg (by omega), if_neg (by omega)]
  · split
    · rw [if_neg (by omega)]
    · rfl

/-- R433: LCHLD of a core whose launch runs. -/
theorem State.lchld_fields {l : Launch} (h : s.launchOf s.core = some l) : bitsOf (s.lchld s.core) 0 32 = l.children % 2 ^ 32
    ∧ bitsOf (s.lchld s.core) 32 32 = l.childrenDone % 2 ^ 32 := by
  simp only [State.lchld, h, bitsOf, BitVec.toNat_ofNat]
  omega

end Sys2Proof.Machine
end

section
/-! The statement on MFC. -/

open Sys2Proof Sys2Proof.Machine

/-- Settles O16, register by register. -/
theorem mfcReadsRegisters : Obligations.MfcReadsRegisters := by
  unfold Obligations.MfcReadsRegisters
  have hmfc (o : OpMfc) (s : State) (hon : s.core.on o.g = true) : exec (.mfc o) s = if s.accessWaits o.c.toNat then s.hold
      else .next (if o.c.toNat = 0x10C then (s.putS o.d (s.readHere o.c.toNat)).ticked else s.putS o.d (s.readHere o.c.toNat)) :=
    s.whenOn_on _ hon
  refine ⟨fun o s hon hw => ?reads, fun o s hon hw => ?waits,
    fun s => ⟨rfl, rfl, rfl, rfl, rfl, rfl, rfl, fun k hk => ?vsf⟩,
    fun s n h8 hC hE h1B h20 h21 h45 hC3 hwo => ?plain,
    fun s => ⟨fun i _ => s.core.getLsbD_mstat i, s.frbnk_fields, fun l hl => s.lchld_fields hl, fun hl => ?nolaunch,
      fun i _ => s.getLsbD_hstat i, fun i hi => ?fuses, ?temp⟩,
    fun s n hb => by simp only [State.readHere, hb],
    fun s n b hb => ?dispatched⟩
  case reads =>
    intro t
    have hc : o.c.toNat = 0x10C ↔ o.c = 0x10C#19 := BitVec.toNat_inj (y := 0x10C#19)
    refine ⟨?_, s.writesS_putS _ _⟩
    rw [hmfc o s hon, hw, if_neg Bool.false_ne_true]
    simp only [hc]
    rfl
  case waits =>
    rw [hmfc o s hon, hw, if_pos rfl]
    exact s.hold_holds
  case vsf =>
    show (s.core.vsf 0).getLsbD k = _ ∧ (s.core.vsf 1).getLsbD k = _
    rw [CoreState.vsf_eq, CoreState.vsf_eq, getLsbD_flagNumber _ (by decide), getLsbD_flagNumber _ (by decide), decide_eq_true hk]
    exact ⟨rfl, rfl⟩
  case plain =>
    rw [s.readCr_plain h8 hC hE h1B h20 h21 h45 hC3 hwo]
    refine ⟨fun hd => by rw [hd, if_neg Bool.false_ne_true], fun hd hf ht => ?_⟩
    rw [hd, if_pos rfl, State.readDev, if_neg (by omega), if_neg (by omega), if_neg (by omega), if_neg (by omega), if_neg ht]
  case nolaunch =>
    show s.lchld s.core = _
    simp only [State.lchld, hl]
  case fuses =>
    show (fuseWord Config.coreFused).getLsbD i = _ ∧ (fuseWord fun i => Config.coreFused (64 + i)).getLsbD i = _
      ∧ (fuseWord Config.sliceFused).getLsbD i = _
    simp only [fuseWord_eq, getLsbD_flagNumber _ (Nat.le_refl 64), decide_eq_true hi, Bool.true_and, and_self]
  case temp =>
    show (Config.freeWord s.tick &&& 0xFFFFFFFF#64).toNat < 2 ^ 32
    rw [BitVec.toNat_and]
    exact Nat.lt_of_le_of_lt Nat.and_le_right (by decide)
  case dispatched =>
    simp only [State.readHere, hb]
    exact ⟨rfl, rfl, rfl, rfl, fun h1 h2 h3 h4 => by simp only [h1, h2, h3, h4, if_false]⟩
end

section
/-! SUPPORT. Guarded-off instructions (R49, R50). -/

namespace Sys2Proof.Machine

set_option Elab.async false

/-- R440, R441: what a charge writes: the accounts of its launch and of a meter. -/
theorem State.charge_frame (s : State) (key kind n : Nat) :
    s.charge key kind n
      = { s with launches := (s.charge key kind n).launches, charged := (s.charge key kind n).charged } := by
  unfold State.charge
  dsimp only
  split
  · rfl
  · unfold State.chargeMeter
    split <;> rfl

theorem State.charge_launches (s : State) (key kind n : Nat) :
    (s.charge key kind n).launches.map (fun l => { l with picojoule := 0 })
      = s.launches.map fun l => { l with picojoule := 0 } := by
  unfold State.charge
  dsimp only
  split
  · rfl
  · have hmeter : ∀ (t : State) m pj, (t.chargeMeter m pj).launches = t.launches := by
      intro t m pj
      unfold State.chargeMeter
      split <;> rfl
    rw [hmeter]
    simp only [State.updLaunch, List.map_map]
    refine List.map_congr_left fun l _ => ?_
    simp only [Function.comp]
    split <;> rfl

/-- R50: what a V instruction with no lane on does: it is charged, after V0's turn at the Cup if it takes one. -/
def QuietAt (s : State) (out : Out) : Prop :=
  ∃ cup0, out = .next (s.upd fun c => { c with cur := { c.cur with cup0 := cup0 } }).chargeV

theorem quiet_of {i : Instr} {g : BitVec 4}
    (h : ∀ s : State, s.core.guard g = 0#32 → (s.core.cur.slot = 3 → s.core.cur.cup0 = false) → QuietAt s (exec i s)) :
    Quiet i g := by
  intro s hg hcup
  obtain ⟨cup0, hi⟩ := h s hg hcup
  refine ⟨_, hi, ?_, State.charge_launches ..⟩
  unfold State.chargeV
  rw [State.charge_frame]
  rfl

/-- Without V0's turn the energy alone changes. -/
theorem QuietAt.charged (s : State) : QuietAt s (.next s.chargeV) := ⟨s.core.cur.cup0, rfl⟩

/-- R58: the Cup's turn does not stop an instruction whose sibling left the Cup alone. -/
theorem State.cupTurn_free {s : State} (uses : Bool) (k : State → Out) (h : s.core.cur.slot = 3 → s.core.cur.cup0 = false) :
    s.cupTurn uses k
      = k (s.upd fun c => { c with cur := { c.cur with cup0 := c.cur.cup0 || (uses && c.cur.slot == 2) } }) := by
  refine if_neg ?_
  simp only [Bool.and_eq_true, beq_iff_eq, not_and, Bool.not_eq_true]
  exact fun ⟨_, hslot⟩ => h hslot

/-- R49: the issue of a V instruction whose guard is off. -/
theorem State.vecOpen_off {s : State} {u : VUse} (k : State → BitVec 128 → List Nat → Nat → Out)
    (hg : s.core.guard u.g = 0#32) (ha : u.always = false) (hcup : s.core.cur.slot = 3 → s.core.cur.cup0 = false) :
    QuietAt s (s.vecOpen u k) := by
  unfold State.vecOpen
  dsimp only
  rw [State.cupTurn_free _ _ hcup]
  exact ⟨_, if_pos ⟨hg, ha⟩⟩

theorem State.vmOpen_off {s : State} {g : BitVec 4} (sh : BitVec 2) (swap : Bool) (types : BitVec 128 → Bool)
    (regs : List (Option Nat)) (k : State → BitVec 128 → List Nat → Out) (hg : s.core.guard g = 0#32) :
    QuietAt s (s.vmOpen g sh swap types regs k) := by
  unfold State.vmOpen
  dsimp only
  rw [if_pos hg]
  exact .charged s

theorem CoreState.lanesOn_off {c : CoreState} {g : BitVec 4} (sh : BitVec 128) (h : c.guard g = 0#32) :
    c.lanesOn g sh = [] := by
  simp [CoreState.lanesOn, h]

theorem CoreState.on_of_guard_zero {c : CoreState} {g : BitVec 4} (h : c.guard g = 0#32) : c.on g = false := by
  simp [CoreState.on, h]

theorem quiet_vpack (o : OpVA) : Quiet (.vpack o) o.g := quiet_of fun s hg hcup => by
  change QuietAt s (execVpack o s)
  unfold execVpack
  dsimp only
  rw [CoreState.lanesOn_off _ hg, if_pos (by rfl), State.cupTurn_free _ _ hcup]
  exact ⟨_, rfl⟩

theorem quiet_cupseed (o : OpS1) : Quiet (.cupseed o) o.g := quiet_of fun s hg hcup => by
  change QuietAt s (execCupseed o s)
  unfold execCupseed
  rw [State.cupTurn_free _ _ hcup]
  refine ⟨_, if_pos ?_⟩
  have hoff : s.core.on o.g = false := CoreState.on_of_guard_zero hg
  exact congrArg (!·) hoff

theorem quiet_cupstat (o : OpCupstat) : Quiet (.cupstat o) o.g := quiet_of fun s hg _ => by
  change QuietAt s (execCupstat o s)
  unfold execCupstat
  dsimp only
  rw [if_pos hg]
  exact .charged s



theorem State.vec3_off {s : State} {o : OpVA} (useD draws : Bool) (types : BitVec 128 → Bool)
    (f : BitVec 128 → Nat → Nat → Nat → Nat → Nat → FRes) (hg : s.core.guard o.g = 0#32)
    (hcup : s.core.cur.slot = 3 → s.core.cur.cup0 = false) : QuietAt s (s.vec3 o useD draws types f) := by
  unfold State.vec3
  exact State.vecOpen_off _ hg rfl hcup

theorem State.vec2_off {s : State} {o : OpVA} (draws : Bool) (types : BitVec 128 → Bool)
    (f : BitVec 128 → Nat → Nat → Nat → Nat → FRes) (hg : s.core.guard o.g = 0#32)
    (hcup : s.core.cur.slot = 3 → s.core.cur.cup0 = false) : QuietAt s (s.vec2 o draws types f) :=
  State.vec3_off _ _ _ _ hg hcup

theorem State.vec1_off {s : State} {o : OpVU} (draws : Bool) (types : BitVec 128 → Bool)
    (f : BitVec 128 → Nat → Nat → Nat → FRes) (hg : s.core.guard o.g = 0#32)
    (hcup : s.core.cur.slot = 3 → s.core.cur.cup0 = false) : QuietAt s (s.vec1 o draws types f) := by
  unfold State.vec1
  exact State.vecOpen_off _ hg rfl hcup

/-- The V instructions of two sources. -/
theorem quiet_ofTwo (o : OpVA) :
    Quiet (.vadd o) o.g ∧ Quiet (.vsub o) o.g ∧ Quiet (.vmul o) o.g ∧ Quiet (.vmin o) o.g ∧ Quiet (.vmax o) o.g
      ∧ Quiet (.vdiv o) o.g ∧ Quiet (.vand o) o.g ∧ Quiet (.vor o) o.g ∧ Quiet (.vxor o) o.g ∧ Quiet (.vshl o) o.g
      ∧ Quiet (.vshr o) o.g ∧ Quiet (.vsar o) o.g := by
  and_intros <;> refine quiet_of fun s hg hcup => ?_ <;> unfold exec <;> simp only [execVadd, execVsub, execVmul, execVmin,
      execVmax, execVdiv, execVand, execVor, execVxor, execVshl, execVshr, execVsar] <;>
    exact State.vec2_off _ _ _ hg hcup

/-- The V instructions of three sources. -/
theorem quiet_ofThree (o : OpVA) :
    Quiet (.vfma o) o.g ∧ Quiet (.vfade o) o.g := by
  and_intros <;> refine quiet_of fun s hg hcup => ?_ <;> unfold exec <;> simp only [execVfma, execVfade] <;>
    exact State.vec3_off _ _ _ _ hg hcup

/-- The V instructions of one source. -/
theorem quiet_ofOne (o : OpVU) :
    Quiet (.vabs o) o.g ∧ Quiet (.vneg o) o.g ∧ Quiet (.vsqrt o) o.g ∧ Quiet (.vrcp o) o.g ∧ Quiet (.vrsq o) o.g
      ∧ Quiet (.vexp2 o) o.g ∧ Quiet (.vlog2 o) o.g ∧ Quiet (.vnot o) o.g ∧ Quiet (.vcvt o) o.g ∧ Quiet (.xmov o) o.g
      ∧ Quiet (.vmov o) o.g := by
  and_intros <;> refine quiet_of fun s hg hcup => ?_ <;> unfold exec <;> simp only [execVabs, execVneg, execVsqrt, execVrcp,
      execVrsq, execVexp2, execVlog2, execVnot, execVcvt, execXmov, execVmov] <;>
    exact State.vec1_off _ _ _ hg hcup

theorem quiet_ofPair (o : OpVA) :
    Quiet (.vperm o) o.g ∧ Quiet (.vcadd o) o.g ∧ Quiet (.vqdeq o) o.g := by
  and_intros <;> refine quiet_of fun s hg hcup => ?_ <;> unfold exec <;> simp only [execVperm, execVcadd, execVqdeq] <;>
    exact State.vecOpen_off _ hg rfl hcup

theorem quiet_vcacc (o : OpVU) :
    Quiet (.vcacc o) o.g :=
  quiet_of fun s hg hcup => by
    unfold exec
    unfold execVcacc
    exact State.vecOpen_off _ hg rfl hcup

theorem quiet_vcmp (o : OpVcmp) :
    Quiet (.vcmp o) o.g :=
  quiet_of fun s hg hcup => by
    unfold exec
    unfold execVcmp
    exact State.vecOpen_off _ hg rfl hcup

theorem quiet_vunpk (o : OpVunpk) :
    Quiet (.vunpk o) o.g :=
  quiet_of fun s hg hcup => by
    unfold exec
    unfold execVunpk
    exact State.vecOpen_off _ hg rfl hcup

theorem quiet_vbcstLane (o : OpVbcstLane) :
    Quiet (.vbcstLane o) o.g :=
  quiet_of fun s hg hcup => by
    unfold exec
    unfold execVbcstLane
    exact State.vecOpen_off _ hg rfl hcup

theorem quiet_vbcstScalar (o : OpVbcstScalar) :
    Quiet (.vbcstScalar o) o.g :=
  quiet_of fun s hg hcup => by
    unfold exec
    unfold execVbcstScalar
    exact State.vecOpen_off _ hg rfl hcup

theorem quiet_vred (o : OpVred) :
    Quiet (.vred o) o.g :=
  quiet_of fun s hg hcup => by
    unfold exec
    unfold execVred
    exact State.vecOpen_off _ hg rfl hcup

theorem quiet_vld (o : OpVM) :
    Quiet (.vld o) o.g :=
  quiet_of fun s hg _ => by
    unfold exec
    unfold execVld  State.vmove
    exact State.vmOpen_off _ _ _ _ _ hg

theorem quiet_vst (o : OpVM) :
    Quiet (.vst o) o.g :=
  quiet_of fun s hg _ => by
    unfold exec
    unfold execVst  State.vmove
    exact State.vmOpen_off _ _ _ _ _ hg

theorem quiet_vgth (o : OpVX) :
    Quiet (.vgth o) o.g :=
  quiet_of fun s hg _ => by
    unfold exec
    unfold execVgth  State.vindexed
    exact State.vmOpen_off _ _ _ _ _ hg

theorem quiet_vsct (o : OpVX) :
    Quiet (.vsct o) o.g :=
  quiet_of fun s hg _ => by
    unfold exec
    unfold execVsct  State.vindexed
    exact State.vmOpen_off _ _ _ _ _ hg

theorem quiet_vatom (o : OpVatom) :
    Quiet (.vatom o) o.g :=
  quiet_of fun s hg _ => by
    unfold exec
    unfold execVatom
    exact State.vmOpen_off _ _ _ _ _ hg

end Sys2Proof.Machine
end

section
/-! The statement on guarded-off instructions. -/

open Sys2Proof Sys2Proof.Machine

/-- Settles O5: every instruction of the S, M, N and C slots is its effect under `whenOn`; a V instruction asks its guard
as it opens. -/
theorem guardOffLeavesAll : Obligations.GuardOffLeavesAll := by
  unfold Obligations.GuardOffLeavesAll
  refine ⟨?_, ?_, ?_, quiet_vcmp, quiet_vunpk, quiet_vbcstLane, quiet_vbcstScalar, quiet_vred, quiet_cupseed, quiet_cupstat,
    ?_, ?_, quiet_vatom⟩
  · and_intros <;> intro o <;> and_intros <;> exact fun s h => s.whenOn_off _ h
  · intro o
    obtain ⟨hadd, hsub, hmul, hmin, hmax, hdiv, hand, hor, hxor, hshl, hshr, hsar⟩ := quiet_ofTwo o
    obtain ⟨hfma, hfade⟩ := quiet_ofThree o
    obtain ⟨hperm, hcadd, hqdeq⟩ := quiet_ofPair o
    exact ⟨hadd, hsub, hmul, hfma, hmin, hmax, hdiv, hand, hor, hxor, hshl, hshr, hsar, quiet_vpack o, hperm, hcadd, hfade,
      hqdeq⟩
  · intro o
    obtain ⟨habs, hneg, hsqrt, hrcp, hrsq, hexp2, hlog2, hnot, hcvt, hxmov, hmov⟩ := quiet_ofOne o
    exact ⟨habs, hneg, hsqrt, hrcp, hrsq, hexp2, hlog2, hnot, hcvt, quiet_vcacc o, hxmov, hmov⟩
  · exact fun o => ⟨quiet_vld o, quiet_vst o⟩
  · exact fun o => ⟨quiet_vgth o, quiet_vsct o⟩

end

section
/-! SUPPORT. Dispatch, fetch, stalls, the watchdog and the timer (R43, R64, R155, R191, R463). -/

namespace Sys2Proof.Machine

set_option Elab.async false

/-! ### Placing a bundle outside every loop and replay -/

/-- What a slot of a bundle holds. -/
def slotInstr (is : List (Nat × Instr)) (k : Nat) : Instr := ((is.find? (·.1 == k)).map (·.2)).getD .nop

/-- R36: the slot that a header repeats. -/
def repeatedSlot (h : Nat) : Nat := match hdRp h with | 1 => 4 | 2 => 5 | _ => 0

/-- The entry of an instruction just dispatched outside every loop. -/
def freshEntry (k : Nat) (i : Instr) : Entry := ⟨k, i, 1, neverTraps i, false, []⟩

section
variable (c : CoreState) (bs : List Byte) (is : List (Nat × Instr)) (mine : List NameItem)

/-- The record of a bundle dispatched outside every loop and replay. -/
def CoreState.newBundle : Bundle :=
  { seq := c.nextSeq, pc := c.pc, next := ahead c.pc 1, sync := hdSync (slotWord bs 0)
    slack := c.slacks.head?.getD (Cells.get 0#10 c.slack (hdSk (slotWord bs 0))), done := 0#8
    entries := c.entriesOf is 0#8 (repeatedSlot (slotWord bs 0)), old := [], oldMem := [], loops := []
    nest := match slotInstr is 1 with | .loopn _ => some c.nest | _ => none
    segst := c.crGet 0x047, segcrc := c.crGet 0x048, segexp := c.segExp, redo := c.redo, rp := repeatedSlot (slotWord bs 0)
    cup0 := false, mask := 0#8, mrem := c.crGet 0x040, mlim := c.crGet 0x041 }

/-- R43: the core once such a bundle is dispatched, before its LOOPN branches. -/
def CoreState.placed : CoreState :=
  let b := c.newBundle bs is
  let c := c.countSegment bs
  { c with
    bundles := if b.entries.isEmpty then c.bundles else c.bundles ++ [b]
    past := if b.entries.isEmpty && !c.bundles.isEmpty then c.past ++ [b] else c.past
    loops := [], pc := b.next, nextSeq := c.nextSeq + 1, wdCount := 0, replay := c.replays.headD 0#8, replays := c.replays.drop 1
    redo := c.redos.headD [], redos := c.redos.drop 1, slacks := c.slacks.drop 1, fired := c.fired ||| 1#8
    group := if hdStop (slotWord bs 0) || (match slotInstr is 1 with | .yield _ => true | _ => false) then .start
      else ⟨c.group.count + 1, c.group.items ++ mine⟩ }

theorem CoreState.crPuts_eq (l : List (Nat × Word64)) : c.crPuts l = { c with cr := (c.crPuts l).cr } := by
  unfold CoreState.crPuts
  induction l generalizing c with
  | nil => rfl
  | cons p t ih => exact ih (c.crPut p.1 p.2)

/-- R177: counting a bundle in the open segment writes the segment's two registers. -/
theorem CoreState.countSegment_eq : ∃ cr, c.countSegment bs = { c with cr := cr } := by
  unfold CoreState.countSegment
  dsimp only
  split
  · exact ⟨_, c.crPuts_eq _⟩
  · exact ⟨c.cr, rfl⟩

theorem CoreState.countSegment_crGet {n : Nat} (hn : n ≠ 0x047) (hn' : n ≠ 0x048) : (c.countSegment bs).crGet n = c.crGet n := by
  unfold CoreState.countSegment
  dsimp only
  split
  · rw [CoreState.crGet_crPuts]
    simp [List.lookup_cons, beq_eq_false_iff_ne.mpr hn, beq_eq_false_iff_ne.mpr hn']
  · rfl

theorem CoreState.countSegment_launchKey : (c.countSegment bs).launchKey = c.launchKey := by
  simp only [CoreState.launchKey, c.countSegment_crGet bs (n := 0x0C0) (by decide) (by decide)]

theorem CoreState.placed_frame : let d := c.placed bs is mine
    d.nextSeq = c.nextSeq + 1 ∧ d.wdCount = 0 ∧ d.s = c.s ∧ d.x = c.x ∧ d.g = c.g ∧ d.shapes = c.shapes ∧ d.ops = c.ops
      ∧ d.bundles = (if (c.newBundle bs is).entries.isEmpty then c.bundles else c.bundles ++ [c.newBundle bs is]) := by
  obtain ⟨cr, h⟩ := c.countSegment_eq bs
  refine ⟨?_, ?_, ?_, ?_, ?_, ?_, ?_, ?_⟩ <;> simp only [CoreState.placed, h]

theorem CoreState.placed_launchKey : (c.placed bs is mine).launchKey = c.launchKey := by
  have hkey : (c.placed bs is mine).launchKey = (c.countSegment bs).launchKey := rfl
  rw [hkey, c.countSegment_launchKey]

variable {c}

theorem CoreState.place_outside (hl : c.loops = []) (hr : c.replay = 0#8) :
    c.place bs is mine = match slotInstr is 1 with
      | .loopn o => (c.placed bs is mine).loopn c.pc o
      | _ => c.placed bs is mine := by
  unfold CoreState.place CoreState.placed CoreState.newBundle
  obtain ⟨cr, hc⟩ := c.countSegment_eq bs
  rw [hc]
  dsimp only
  rw [hr, hl]
  simp only [List.map_nil, countLevels, Bool.or_false]
  exact (if_neg (by simp)).trans rfl

/-- R170: what LOOPN changes at dispatch. -/
theorem CoreState.loopn_eq (pc : BitVec 48) (o : OpLoopn) : ∃ nest pc' g, c.loopn pc o = { c with nest := nest, pc := pc', group := g }
    ∧ (g = c.group ∨ g = .start) := by
  unfold CoreState.loopn
  dsimp only
  split
  · exact ⟨_, _, _, rfl, .inr rfl⟩
  · exact ⟨_, c.pc, c.group, rfl, .inl rfl⟩

theorem CoreState.place_fields (hl : c.loops = []) (hr : c.replay = 0#8) : ∃ nest pc g,
    c.place bs is mine = { c.placed bs is mine with nest := nest, pc := pc, group := g }
      ∧ ((∀ o, slotInstr is 1 ≠ .loopn o) → pc = c.pc + 32#48) ∧ (hdStop (slotWord bs 0) = true → g = .start) := by
  have hstop : hdStop (slotWord bs 0) = true → (c.placed bs is mine).group = .start :=
    fun h => if_pos (by rw [h, Bool.true_or])
  rw [CoreState.place_outside bs is mine hl hr]
  split
  case h_1 o ho =>
    obtain ⟨nest, pc, g, he, hg⟩ := (c.placed bs is mine).loopn_eq c.pc o
    exact ⟨nest, pc, g, he, fun h => absurd ho (h o), fun h => hg.elim (fun he => he.trans (hstop h)) fun he => he⟩
  case h_2 => exact ⟨_, _, _, rfl, fun _ => rfl, hstop⟩

/-- R156, R171: the entries of a bundle outside every loop and replay: one for each slot that holds more than NOP. -/
theorem CoreState.entriesOf_outside (rp : Nat) (hl : c.loops = []) :
    c.entriesOf is 0#8 rp = (issueOrder.filter fun k => slotInstr is k != .nop).map fun k => freshEntry k (slotInstr is k) := by
  rw [← List.filterMap_eq_map, ← List.filterMap_eq_filter, List.filterMap_filterMap]
  unfold CoreState.entriesOf
  refine List.filterMap_congr fun k _ => ?_
  show (match slotInstr is k with | .nop => none | i => _) = _
  split
  case h_1 h => simp [h, Option.guard]
  case h_2 h => 
    have hn : slotInstr is k ≠ .nop := h
    simp [hn, Option.guard, CoreState.repeatOf, hl, freshEntry]
end

/-! ### The instructions of a bundle -/

theorem mem_okInstrs {bs : List Byte} {k : Nat} {i : Instr} : (k, i) ∈ okInstrs (decodeBundle bs) ↔ k ∈ slotNumbers
    ∧ decodeSlot (slotClassOf k) (BitVec.ofNat 32 (slotWord bs k)) (hdLend (slotWord bs 0) k) = .ok i := by
  simp only [okInstrs, decodeBundle, List.mem_filterMap, List.mem_map]
  constructor
  · rintro ⟨_, ⟨k', hk, rfl⟩, h⟩
    dsimp only at h
    split at h
    · cases h
      exact ⟨hk, ‹_›⟩
    · cases h
  · rintro ⟨hk, hi⟩
    exact ⟨_, ⟨k, hk, rfl⟩, by simp only [hi]⟩

/-- A slot holds one instruction. -/
theorem slotInstr_of_mem {bs : List Byte} {p : Nat × Instr} (h : p ∈ okInstrs (decodeBundle bs)) :
    slotInstr (okInstrs (decodeBundle bs)) p.1 = p.2 := by
  have hfound : ((okInstrs (decodeBundle bs)).find? (·.1 == p.1)).isSome = true := List.find?_isSome.mpr ⟨p, h, by simp⟩
  obtain ⟨q, hq⟩ := Option.isSome_iff_exists.mp hfound
  have hkey : q.1 = p.1 := by simpa using List.find?_some hq
  have hp := (mem_okInstrs.mp h).2
  have hq' := (mem_okInstrs.mp (List.mem_of_find?_eq_some hq)).2
  rw [slotInstr, hq]
  rw [hkey, hp] at hq'
  exact (Except.ok.inj hq').symm

theorem slotInstr_mem {is : List (Nat × Instr)} {k : Nat} (h : slotInstr is k ≠ .nop) : (k, slotInstr is k) ∈ is := by
  unfold slotInstr at h ⊢
  cases hf : is.find? (·.1 == k) with
  | none => simp [hf] at h
  | some q =>
    have hk : q.1 = k := by simpa using List.find?_some hf
    exact hk ▸ List.mem_of_find?_eq_some hf

theorem mem_issueOrder {k : Nat} (h : k ∈ slotNumbers) : k ∈ issueOrder := by
  revert h
  simp only [slotNumbers, issueOrder, List.mem_cons, List.not_mem_nil, or_false]
  omega

/-- R43: an entry stands for every instruction of the bundle. -/
theorem CoreState.freshEntry_mem {c : CoreState} {bs : List Byte} {p : Nat × Instr} (hl : c.loops = [])
    (h : p ∈ okInstrs (decodeBundle bs)) (hn : p.2 ≠ .nop) :
    freshEntry p.1 p.2 ∈ (c.newBundle bs (okInstrs (decodeBundle bs))).entries := by
  show _ ∈ c.entriesOf _ _ _
  rw [CoreState.entriesOf_outside _ _ hl, List.mem_map]
  have hp := slotInstr_of_mem h
  refine ⟨p.1, List.mem_filter.mpr ⟨mem_issueOrder (mem_okInstrs.mp h).1, ?_⟩, by rw [hp]⟩
  rw [hp]
  exact bne_iff_ne.mpr hn

/-! ### BUNDLE_DISPATCH -/

section
variable {s : State} {bs : List Byte}

theorem execBundleDispatch_bytes (hm : s.core.mayDispatch = true) (hs : s.stalls = false) (hw : s.core.watchdogDue = false)
    (hf : s.fetch = .bytes bs) : exec .bundleDispatch s = .next (s.dispatchBytes bs) := by
  show execBundleDispatch s = _
  simp [execBundleDispatch, hm, hs, hw, hf]

theorem execBundleDispatch_fault {f : AccFault} (hm : s.core.mayDispatch = true) (hs : s.stalls = false)
    (hw : s.core.watchdogDue = false) (hf : s.fetch = .fault f) : exec .bundleDispatch s = .next
      (s.requestTrap ⟨f.cause, s.core.pc, 0x28#64, s.core.pc.setWidth 64, 0#64, f.info⟩) := by
  show execBundleDispatch s = _
  simp [execBundleDispatch, hm, hs, hw, hf]

theorem execBundleDispatch_stays (h : s.core.mayDispatch = false ∨ s.stalls = true ∨ s.core.watchdogDue = true ∨ ∃ l, s.fetch = .miss l) :
    exec .bundleDispatch s = .next s := by
  show execBundleDispatch s = _
  unfold execBundleDispatch
  split
  case isTrue => rfl
  case isFalse hgo =>
    obtain ⟨l, hl⟩ : ∃ l, s.fetch = .miss l := by
      rcases h with h | h | h | h
      · simp [h] at hgo
      · simp [h] at hgo
      · simp [h] at hgo
      · exact h
    rw [hl]

/-- R40: what a bundle names. -/
def CoreState.bundleItems (c : CoreState) (bs : List Byte) : List NameItem :=
  (okInstrs (decodeBundle bs)).flatMap fun p => itemsOf c (slotWord bs 0) p.1 p.2

/-- What items 1 to 4 of R64 find in a bundle. -/
def CoreState.bundleFault (c : CoreState) (bs : List Byte) : Option DTrap := c.dispatchCheck bs (decodeBundle bs) (c.bundleItems bs)

/-- R44: the bundle has to wait. -/
def State.bundleWaits (s : State) (bs : List Byte) : Bool := s.dispatchWaits (slotWord bs 0) (slotInstr (okInstrs (decodeBundle bs)) 1)

/-- R462: the bundle's transfer, taken again, leads to no bundle. -/
def CoreState.bundleAstray (c : CoreState) (bs : List Byte) : Prop :=
  let i := slotInstr (okInstrs (decodeBundle bs)) 1
  c.replay.getLsbD 7 = true ∧ isTransfer i = true ∧ ((c.target c.pc i).toNat % 32 ≠ 0 ∨ 2 ^ 48 ≤ (c.target c.pc i).toNat)

def DTrap.trapAt (d : DTrap) (pc : BitVec 48) : Trap := ⟨d.cause, pc, BitVec.ofNat 64 d.t0, BitVec.ofNat 64 d.t1, 0#64, 0#64⟩

theorem State.dispatchBytes_seedWaits (h : s.core.seedWaits (okInstrs (decodeBundle bs)) = true) : s.dispatchBytes bs = s := if_pos h

/-- R434: the launch whose bundle is dispatched has started. -/
theorem State.firstBundle_started (s : State) : ∀ m ∈ s.firstBundle.launches, m.key = s.core.launchKey → m.started ≠ none := by
  intro m hm hk
  obtain ⟨l, -, rfl⟩ := List.mem_map.mp hm
  by_cases hl : (l.key == s.core.launchKey) = true
  · rw [if_pos hl]
    simp
  · rw [if_neg hl] at hk
    exact absurd (beq_iff_eq.mpr hk) hl

/-- R434, R440: what a dispatch changes outside its core, and the start of its launch. -/
theorem State.dispatched_frame (f : CoreState → CoreState) (key n k : Nat) (hkey : (f s.core).launchKey = s.core.launchKey) :
    ∃ ls ch, ((s.upd f).charge key n k).firstBundle = { s with core := f s.core, launches := ls, charged := ch }
      ∧ ∀ m ∈ ls, m.key = s.core.launchKey → m.started ≠ none := by
  obtain ⟨ls, ch, h⟩ : ∃ ls ch, (s.upd f).charge key n k = { s.upd f with launches := ls, charged := ch } :=
    ⟨_, _, State.charge_frame ..⟩
  rw [h]
  exact ⟨_, ch, rfl, fun m hm hk => State.firstBundle_started _ m hm (hk.trans hkey.symm)⟩

section
variable (hseed : s.core.seedWaits (okInstrs (decodeBundle bs)) = false)
include hseed

theorem State.dispatchBytes_faulty {d : DTrap} (hd : s.core.bundleFault bs = some d) :
    s.dispatchBytes bs = s.requestTrap (d.trapAt s.core.pc) := by
  unfold CoreState.bundleFault CoreState.bundleItems at hd
  unfold State.dispatchBytes
  dsimp only
  rw [hseed, if_neg Bool.false_ne_true, hd]
  rfl

variable (hnone : s.core.bundleFault bs = none)
include hnone

theorem State.dispatchBytes_waits (hwait : s.bundleWaits bs = true) : s.dispatchBytes bs = s := by
  unfold CoreState.bundleFault CoreState.bundleItems at hnone
  unfold State.dispatchBytes
  dsimp only
  rw [hseed, if_neg Bool.false_ne_true, hnone]
  exact if_pos hwait

variable (hwait : s.bundleWaits bs = false)
include hwait

theorem State.dispatchBytes_astray (h : s.core.bundleAstray bs) : s.dispatchBytes bs = s.requestTrap ⟨0x0A#8, s.core.pc, 1#64,
    s.core.target s.core.pc (slotInstr (okInstrs (decodeBundle bs)) 1), 0#64, 0#64⟩ := by
  unfold CoreState.bundleFault CoreState.bundleItems at hnone
  obtain ⟨h7, htr, hbad⟩ := h
  unfold State.dispatchBytes
  dsimp only
  rw [hseed, if_neg Bool.false_ne_true, hnone]
  refine (if_neg (Bool.eq_false_iff.mp hwait)).trans (if_pos ?_)
  rw [h7, Bool.true_and]
  exact Bool.and_eq_true_iff.mpr ⟨htr, Bool.or_eq_true_iff.mpr (hbad.imp decide_eq_true decide_eq_true)⟩

variable (hast : ¬s.core.bundleAstray bs)
include hast

theorem State.dispatchBytes_checked : s.dispatchBytes bs = match loopCheck s.core (slotWord bs 0) (okInstrs (decodeBundle bs)) with
    | some d => s.requestTrap (d.trapAt s.core.pc)
    | none => ((s.upd fun c => c.place bs (okInstrs (decodeBundle bs)) (s.core.bundleItems bs)).charge s.core.launchKey 0 1).firstBundle := by
  unfold CoreState.bundleFault CoreState.bundleItems at hnone
  unfold State.dispatchBytes
  dsimp only
  rw [hseed, if_neg Bool.false_ne_true, hnone]
  refine (if_neg (Bool.eq_false_iff.mp hwait)).trans ((if_neg fun h => hast ?_).trans ?_)
  · simp only [Bool.and_eq_true, Bool.or_eq_true, decide_eq_true_eq] at h
    obtain ⟨⟨h7, htr⟩, hbad⟩ := h
    exact ⟨h7, htr, hbad⟩
  · cases loopCheck s.core (slotWord bs 0) (okInstrs (decodeBundle bs)) <;> rfl

/-- R43, R166, R434: the state after the dispatch of a bundle outside every loop and replay. -/
theorem State.dispatchBytes_places (hloop : loopCheck s.core (slotWord bs 0) (okInstrs (decodeBundle bs)) = none)
    (hl : s.core.loops = []) (hr : s.core.replay = 0#8) : ∃ nest pc g ls ch,
    s.dispatchBytes bs = { s with
      core := { s.core.placed bs (okInstrs (decodeBundle bs)) (s.core.bundleItems bs) with nest := nest, pc := pc, group := g }
      launches := ls, charged := ch }
    ∧ ((∀ o, slotInstr (okInstrs (decodeBundle bs)) 1 ≠ .loopn o) → pc = s.core.pc + 32#48)
    ∧ (hdStop (slotWord bs 0) = true → g = .start) ∧ ∀ m ∈ ls, m.key = s.core.launchKey → m.started ≠ none := by
  obtain ⟨nest, pc, g, hplace, hpc, hstop⟩ := CoreState.place_fields bs (okInstrs (decodeBundle bs)) (s.core.bundleItems bs) hl hr
  have hkey : (s.core.place bs (okInstrs (decodeBundle bs)) (s.core.bundleItems bs)).launchKey = s.core.launchKey := by
    rw [hplace]
    exact s.core.placed_launchKey bs (okInstrs (decodeBundle bs)) (s.core.bundleItems bs)
  obtain ⟨ls, ch, ht, hstart⟩ := s.dispatched_frame (fun c => c.place bs (okInstrs (decodeBundle bs)) (s.core.bundleItems bs))
    s.core.launchKey 0 1 hkey
  rw [State.dispatchBytes_checked hseed hnone hwait hast, hloop]
  exact ⟨nest, pc, g, ls, ch, ht.trans (by rw [hplace]), hpc, hstop, hstart⟩

end

end

/-! ### Fetch, stalls, the timer -/

section
variable {c : CoreState} (way line : Nat) (bs : List Byte)

theorem CoreState.mem_fillLine {e : Nat × List Byte} (h : e ∈ (c.fillLine way line bs).icache) : e = (line, bs) ∨ e ∈ c.icache := by
  unfold CoreState.fillLine at h
  refine (List.mem_cons.mp h).imp_right fun hk => ?_
  split at hk
  · exact hk
  · exact List.mem_of_mem_filter hk

theorem CoreState.fillLine_new : (line, bs) ∈ (c.fillLine way line bs).icache := List.mem_cons_self ..

/-- R463: a line of another set stays. -/
theorem CoreState.fillLine_other {e : Nat × List Byte} (he : e ∈ c.icache) (hset : e.1 / 256 % 32 ≠ line / 256 % 32) :
    e ∈ (c.fillLine way line bs).icache := by
  refine List.mem_cons_of_mem _ ?_
  split
  · exact he
  · refine List.mem_filter.mpr ⟨he, bne_iff_ne.mpr fun hs => hset ?_⟩
    simpa using (List.mem_filter.mp (List.mem_of_getElem? hs.symm)).2

/-- R463: nothing gives way in a set that is not full. -/
theorem CoreState.fillLine_room (hroom : (c.icache.filter fun e => e.1 / 256 % 32 == line / 256 % 32).length < 4)
    {e : Nat × List Byte} (he : e ∈ c.icache) : e ∈ (c.fillLine way line bs).icache := by
  have hlen : ((c.icache.map (·.1)).filter fun l => l / 256 % 32 == line / 256 % 32).length < 4 := by
    rw [List.filter_map, List.length_map]
    exact hroom
  refine List.mem_cons_of_mem _ ?_
  rw [if_pos hlen]
  exact he
end

variable (s : State)

/-- R130, R463: what a fetched line changes. -/
theorem State.fetched_frame (line : Nat) (bs : List Byte) : ∃ tlb, s.fetched line bs =
    { s with core := s.core.fillLine (Config.freeNat s.tick) line bs, tick := s.tick + 1, tlb := tlb } := by
  unfold State.fetched
  dsimp only
  split
  · unfold State.fillTlb
    split <;> exact ⟨_, rfl⟩
  · exact ⟨s.tlb, rfl⟩

theorem execFetchMissFill_raw {s : State} {l : Nat} (hf : s.fetch = .miss l) (hraw : isRaw l = true) (hp : s.poisoned l 256 = false) :
    exec .fetchMissFill s = .next (s.fetched l (s.bytes l 256)) := by
  have hlt : l < 0xC000000000 := of_decide_eq_true hraw
  have hrem : isRemote l = false := by
    simp only [isRemote, isHostWin, isPeerWin, Bool.or_eq_false_iff, Bool.and_eq_false_iff, decide_eq_false_iff_not]
    omega
  show execFetchMissFill s = _
  simp [execFetchMissFill, hf, hrem, (isPhys_of_isRaw hraw).2, hp]

/-- R155: what an event of the core whose turn it is changes: its pending bit, and what a record of it takes. -/
theorem State.setEvent_frame (bit : Nat) : ∃ dev reqs uid, s.setEvent s.core.id bit = { s with
    core := s.core.crPut 0x042 (s.core.crGet 0x042 ||| BitVec.ofNat 64 (2 ^ bit)), dev := dev, reqs := reqs, uid := uid } := by
  have hcore : s.updCore s.core.id (fun c => c.crPut 0x042 (c.crGet 0x042 ||| BitVec.ofNat 64 (2 ^ bit)))
      = s.upd fun c => c.crPut 0x042 (c.crGet 0x042 ||| BitVec.ofNat 64 (2 ^ bit)) := if_pos rfl
  unfold State.setEvent
  dsimp only
  rw [hcore]
  split
  · unfold State.sendCoreEvent State.sendLaunch
    split
    · exact ⟨s.dev, s.reqs, s.uid, rfl⟩
    · obtain ⟨d, r, u, h, -⟩ := State.sendRecord_eq _ _ _ _ _ _ _ _ _
      exact ⟨d, r, u, h⟩
  · exact ⟨s.dev, s.reqs, s.uid, rfl⟩

/-- R155, R160: what one cycle charged to exhausted margin changes. -/
theorem State.countMargin_frame : ∃ cr dev reqs uid, s.countMargin = { s with
    core := { s.core with cr := cr, stalled := true }, dev := dev, reqs := reqs, uid := uid }
      ∧ ({ s.core with cr := cr, stalled := true } : CoreState).crGet 0x009 = s.core.crGet 0x009 + 1#64
      ∧ (s.core.stalled = false → (({ s.core with cr := cr, stalled := true } : CoreState).crGet 0x042).getLsbD 0 = true)
      ∧ ∀ n, n ≠ 0x009 → n ≠ 0x042 → ({ s.core with cr := cr, stalled := true } : CoreState).crGet n = s.core.crGet n := by
  unfold State.countMargin
  dsimp only
  split
  case isTrue hst =>
    refine ⟨_, s.dev, s.reqs, s.uid, rfl, ?_, fun h => ?_, fun n h9 _ => ?_⟩
    · exact (s.core.crGet_crPut 0x009 _ 0x009).trans (if_pos rfl)
    · rw [h] at hst
      cases hst
    · exact (s.core.crGet_crPut 0x009 _ n).trans (if_neg h9)
  case isFalse =>
    obtain ⟨d, r, u, h⟩ := (s.upd fun c => { (c.crPut 0x009 (c.crGet 0x009 + 1#64)) with stalled := true }).setEvent_frame 0
    refine ⟨_, d, r, u, h, ?_, fun _ => ?_, fun n h9 h42 => ?_⟩
    · show ((s.core.crPut 0x009 _).crPut 0x042 _).crGet 0x009 = _
      simp [CoreState.crGet_crPut]
    · show (((s.core.crPut 0x009 _).crPut 0x042 _).crGet 0x042).getLsbD 0 = true
      simp [CoreState.crGet_crPut]
    · show ((s.core.crPut 0x009 _).crPut 0x042 _).crGet n = _
      simp [CoreState.crGet_crPut, h9, h42]

theorem CoreState.countIdle_frame (c : CoreState) : ∃ wd, c.countIdle = { c with wdCount := wd } := by
  unfold CoreState.countIdle
  split <;> exact ⟨_, rfl⟩

theorem State.countIdle_frame : ∃ wd, s.upd (·.countIdle) = { s with core := { s.core with wdCount := wd } } := by
  obtain ⟨wd, h⟩ := s.core.countIdle_frame
  exact ⟨wd, by rw [State.upd, h]⟩

/-! ### The watchdog -/

theorem CoreState.watchdogDue_iff (c : CoreState) : c.watchdogDue = true ↔ c.mode = .running ∧ c.inTrap = false ∧ c.drain = false
    ∧ c.crGet 0x04A ≠ 0#64 ∧ (c.crGet 0x04A).toNat ≤ c.wdCount := by
  simp [CoreState.watchdogDue, and_assoc]

theorem sum_map_filter (f : Nat → Nat) (p : Nat → Bool) (l : List Nat) :
    ((l.filter p).map f).sum = (l.map fun k => if p k then f k else 0).sum := by
  induction l with
  | nil => rfl
  | cons a t ih => cases h : p a <;> simp [h, ih]

/-- R191: the slots with entries, as the watchdog's TINFO1 names them. -/
theorem getLsbD_slotBits (slots : List Nat) {k : Nat} (h1 : 1 ≤ k) (h7 : k ≤ 7) :
    (BitVec.ofNat 64 (([1, 2, 3, 4, 5, 6, 7].filter slots.contains).map fun k => 2 ^ (k - 1)).sum).getLsbD (k - 1) = slots.contains k := by
  have hsum : (([1, 2, 3, 4, 5, 6, 7].filter slots.contains).map fun k => 2 ^ (k - 1)).sum
      = flagNumber (fun i => slots.contains (i + 1)) 7 := by
    rw [sum_map_filter]
    rfl
  rw [hsum, getLsbD_flagNumber _ (by decide), decide_eq_true (by omega), Bool.true_and, Nat.sub_add_cancel h1]

/-- R191: the core after the watchdog has discarded what had not issued. -/
theorem CoreState.discardEntries_frame (c : CoreState) : c.discardEntries.bundles = [] ∧ c.discardEntries.s = c.s
    ∧ c.discardEntries.x = c.x ∧ c.discardEntries.g = c.g ∧ c.discardEntries.crGet 0 = c.crGet 0 := by
  unfold CoreState.discardEntries
  dsimp only
  split
  · exact ⟨rfl, rfl, rfl, rfl, rfl⟩
  · refine ⟨by simp, by simp, by simp, by simp, ?_⟩
    rw [CoreState.crGet]
    dsimp only
    rw [← CoreState.crGet, CoreState.crGet_crPuts]
    rfl

theorem CoreState.beginDrain_drains (c : CoreState) : c.beginDrain.drain = true ∧ c.beginDrain.g = c.g ∧ c.beginDrain.cr = c.cr := by
  unfold CoreState.beginDrain
  split
  · exact ⟨‹_›, rfl, rfl⟩
  · exact ⟨rfl, rfl, rfl⟩

theorem Still.registers {s t : State} (h : Still s t) : t.core.s = s.core.s ∧ t.core.x = s.core.x ∧ t.core.g = s.core.g
    ∧ t.core.crGet 0 = s.core.crGet 0 := by
  obtain ⟨b0, b1, hcore⟩ := h.core
  rw [hcore]
  exact ⟨rfl, rfl, rfl, rfl⟩

/-- R191: the state in which the watchdog discards the core's entries. -/
def State.watchdogCut (s : State) : State := (((s.withdrawParked s.core.id).abandonLook false).abandonLook true).ticked

theorem State.watchdogCut_still (h : ∀ x ∈ s.replies, x.core ≠ s.core.id) : Still s s.watchdogCut := by
  have hr : s.replies.all (·.core != s.core.id) = true := List.all_eq_true.mpr fun x hx => bne_iff_ne.mpr (h x hx)
  exact ((s.withdrawParked_still hr).trans (State.abandonLook_still _ false)).trans
    ((State.abandonLook_still _ true).trans (State.ticked_still _))

theorem State.abandonLook_idle {b : Bool} (h : (s.core.bank b).la = false) : s.abandonLook b = s :=
  if_neg (by simp [h])

theorem State.watchdogCut_mem (h : ∀ x ∈ s.replies, x.core ≠ s.core.id) (hw : ∀ w ∈ s.waiters, w.agent ≠ .core s.core.id)
    (h0 : s.core.bank0.la = false) (h1 : s.core.bank1.la = false) : s.watchdogCut.mem = s.mem := by
  have hr : s.replies.all (·.core != s.core.id) = true := List.all_eq_true.mpr fun x hx => bne_iff_ne.mpr (h x hx)
  have hnone : s.waiters.filter (fun w => w.agent == .core s.core.id) = [] := List.filter_eq_nil_iff.mpr fun w hm => by simpa using hw w hm
  have hpark : s.withdrawParked s.core.id = s := by
    unfold State.withdrawParked
    rw [hnone, s.takeAnswers_none hr]
    rfl
  unfold State.watchdogCut
  rw [hpark, s.abandonLook_idle (b := false) h0, s.abandonLook_idle (b := true) h1]
  rfl

variable {s}

/-- R191: the trap that the watchdog asks for. -/
def State.watchdogTrap (s : State) : Trap :=
  { cause := 0x39#8, tpc := (Config.freeWord s.tick).setWidth 48
    tinfo0 := match s.core.bundles with | b :: _ => b.pc.setWidth 64 | [] => 0#64
    tinfo1 := BitVec.ofNat 64 (([1, 2, 3, 4, 5, 6, 7].filter (s.core.bundles.flatMap fun b => b.entries.map (·.slot)).contains).map
      fun k => 2 ^ (k - 1)).sum
    tinfo2 := 0#64, tinfo3 := 0#64 }

theorem State.watchdogTrap_slots {k : Nat} (h1 : 1 ≤ k) (h7 : k ≤ 7) :
    s.watchdogTrap.tinfo1.getLsbD (k - 1) = true ↔ ∃ b ∈ s.core.bundles, ∃ e ∈ b.entries, e.slot = k := by
  rw [State.watchdogTrap, getLsbD_slotBits _ h1 h7]
  simp

theorem execWatchdogExpiry_due (h : s.core.watchdogDue = true) : exec .watchdogExpiry s = .next (s.watchdogCut.upd fun c =>
    { c.discardEntries.beginDrain with wdCount := 0, trapReq := some s.watchdogTrap }) := by
  show execWatchdogExpiry s = _
  simp only [execWatchdogExpiry, h, Bool.not_true, Bool.false_eq_true, if_false]
  rfl

theorem execWatchdogExpiry_stays (h : s.core.watchdogDue = false) : exec .watchdogExpiry s = .next s := by
  show execWatchdogExpiry s = _
  simp [execWatchdogExpiry, h]

/-- R191: what the watchdog leaves of the core. -/
theorem CoreState.expired_frame (c : CoreState) (r : Trap) :
    let d := { c.discardEntries.beginDrain with wdCount := 0, trapReq := some r }
    d.bundles = [] ∧ d.drain = true ∧ d.s = c.s ∧ d.x = c.x ∧ d.g = c.g ∧ d.crGet 0 = c.crGet 0 := by
  intro d
  obtain ⟨hb, hs, hx, hg, hcr⟩ := c.discardEntries_frame
  obtain ⟨-, hs', hx', -, hb'⟩ := c.discardEntries.beginDrain_frame
  obtain ⟨hd, hg', hcr'⟩ := c.discardEntries.beginDrain_drains
  refine ⟨hb'.trans hb, hd, hs'.trans hs, hx'.trans hx, hg'.trans hg, ?_⟩
  rw [← hcr, CoreState.crGet, CoreState.crGet, ← hcr']

/-- R47: the trap that dispatch asked for is taken by a core of which nothing has changed but its engines. -/
theorem execTrapEntry_asked {r : Trap} (h : s.core.trapReq = some r) : ∃ cur ops drain, exec .trapEntry s =
    .next (State.takeTrap { s with core := { s.core with cur := cur, ops := ops, drain := drain } } r) := by
  refine ⟨{ s.core.cur with seq := s.core.nextSeq }, if r.cause = 0x39#8 then [] else s.core.ops,
    s.core.drain && r.cause != 0x39#8, ?_⟩
  show execTrapEntry s = _
  rw [execTrapEntry, h]
  rfl

end Sys2Proof.Machine
end

section
/-! The statement on the sequencer's events. -/

open Sys2Proof Sys2Proof.Machine

/-- Settles O50: dispatch goes through one lemma per outcome of its checks; fetch, stall, watchdog, trap and timer each through
what their event changes. -/
theorem sequencerEvents : Obligations.SequencerEvents := by
  unfold Obligations.SequencerEvents
  refine ⟨fun s bs hm hst hw hf => ?_, fun s f hm hst hw hf => execBundleDispatch_fault hm hst hw hf,
    fun s h => execBundleDispatch_stays h, fun s => ⟨fun l hf hraw hp => ?fill, fun hf => ?nofill⟩,
    fun s => ⟨fun hst => ?nostall, fun hst => ?stall⟩, fun s => ⟨fun hdue => ?early, fun hdue => ?expiry⟩, fun s r hr hc hin => ?entry,
    fun s => ⟨fun hdue => ?notimer, fun hv hdue => ?timer⟩⟩
  · intro c is check waits asks s1 target astray
    rw [execBundleDispatch_bytes hm hst hw hf]
    unfold asks
    rw [execBundleDispatch_bytes hm hst hw hf]
    refine ⟨fun hseed => ?_, fun hseed => ⟨fun d hd => ?_, fun hnone hwait => ?_, fun hnone hwait hast => ?_,
      fun d hnone hwait hast hd => ?_, fun hnone hwait hloop hl hr => ?_⟩⟩
    · rw [State.dispatchBytes_seedWaits hseed]
    · rw [State.dispatchBytes_faulty hseed hd]
      rfl
    · rw [State.dispatchBytes_waits hseed hnone hwait]
    · rw [State.dispatchBytes_astray hseed hnone hwait hast]
      rfl
    · rw [State.dispatchBytes_checked hseed hnone hwait hast, hd]
      rfl
    · have hast : ¬c.bundleAstray bs := fun h => by
        obtain ⟨h7, -⟩ := h
        simp [hr] at h7
      obtain ⟨nest, pc, g, ls, ch, ht, hpc, hstop, hstart⟩ := State.dispatchBytes_places hseed hnone hwait hast hloop hl hr
      obtain ⟨hseq, hwd, hs, hx, hg, hsh, hops, hbs⟩ := c.placed_frame bs is (c.bundleItems bs)
      rw [ht]
      refine ⟨_, rfl, hseq, hwd, fun hno => hpc fun o ho => ?_, fun p hp hn => ?_, hstop, rfl, hs, hx, hg, hsh, hops, rfl, hstart⟩
      · exact hno _ (slotInstr_mem (k := 1) (by rw [ho]; exact Instr.noConfusion)) o ho
      · have hmem := CoreState.freshEntry_mem hl hp hn
        refine ⟨c.newBundle bs is, ?_, rfl, rfl, rfl, _, hmem, rfl, rfl⟩
        rw [hbs, if_neg (by simpa using List.ne_nil_of_mem hmem)]
        exact List.mem_append_right _ (List.mem_singleton_self _)
  case fill =>
    obtain ⟨tlb, h⟩ := s.fetched_frame l (s.bytes l 256)
    refine ⟨_, execFetchMissFill_raw hf hraw hp, ?_⟩
    rw [h]
    exact ⟨fun e he => CoreState.mem_fillLine _ _ _ he, CoreState.fillLine_new _ _ _, fun e he hs => CoreState.fillLine_other _ _ _ he hs,
      fun hroom e he => CoreState.fillLine_room _ _ _ hroom he, rfl, rfl, rfl⟩
  case nofill =>
    show execFetchMissFill s = _
    unfold execFetchMissFill
    split
    · exact absurd ‹_› (hf _)
    · rfl
  case nostall =>
    show execWholeCoreStall s = _
    rw [execWholeCoreStall, hst]
    rfl
  case stall =>
    obtain ⟨cr, d, r, u, h, h9, h42, hcr⟩ := s.countMargin_frame
    have hexec : exec .wholeCoreStall s = .next (s.countMargin.upd (·.countIdle)) := by
      show execWholeCoreStall s = _
      rw [execWholeCoreStall, hst]
      rfl
    obtain ⟨wd, hwd⟩ := s.countMargin.countIdle_frame
    refine ⟨_, hexec, ?_⟩
    rw [hwd, h]
    exact ⟨h9, rfl, h42, rfl, rfl, hcr⟩
  case early => exact execWatchdogExpiry_stays (Bool.eq_false_iff.mpr fun h => hdue (s.core.watchdogDue_iff.mp h))
  case expiry =>
    refine ⟨_, s.watchdogTrap, execWatchdogExpiry_due (s.core.watchdogDue_iff.mpr hdue), rfl, rfl, ?_⟩
    obtain ⟨hb, hd, hs, hx, hg, h0⟩ := s.watchdogCut.core.expired_frame s.watchdogTrap
    refine ⟨hb, hd, rfl, fun b rest hbs => ?_, fun k h1 h7 => State.watchdogTrap_slots h1 h7, fun hrep => ?_⟩
    · simp only [State.watchdogTrap, hbs]
    · obtain ⟨hs', hx', hg', h0'⟩ := (s.watchdogCut_still hrep).registers
      refine ⟨hs.trans hs', hx.trans hx', hg.trans hg', h0.trans h0', fun hw h0 h1 => ?_⟩
      exact s.watchdogCut_mem hrep hw h0 h1
  case entry =>
    obtain ⟨cur, ops, drain, hexec⟩ := execTrapEntry_asked hr
    have hout : (State.core { s with core := { s.core with cur := cur, ops := ops, drain := drain } }).inTrap = false := hin
    obtain ⟨h2, -, h4, h5, -, -, hst, hnew, -, -, -, -, hpc, hts, -, -, -, -, -, -, -, ht⟩ := State.takeTrap_enters hout r
    refine ⟨_, hexec, by rw [h2, hc]; rfl, hst, hnew, h4, h5, hpc, ?_, hts, ?_⟩
    · obtain ⟨nest, past, done, b, rs, es, sl, he⟩ := State.takeTrap_outside hout r
      rw [he]
      exact CoreState.enterTrap_trapReq ..
    · rw [ht]
  case notimer =>
    exact if_neg hdue
  case timer =>
    obtain ⟨d, r, u, h⟩ := s.setEvent_frame 2
    have hexec : exec .timerEvent s = .next (s.setEvent s.core.id 2) := if_pos ⟨hv, hdue⟩
    refine ⟨_, hexec, ?_⟩
    rw [h]
    refine ⟨?_, fun n hn => ?_, rfl, rfl⟩
    · show ((s.core.crPut _ _).crGet _).getLsbD 2 = true
      simp [CoreState.crGet_crPut]
    · exact (CoreState.crGet_crPut ..).trans (if_neg hn)

end

section
/-! SUPPORT. What CTXSV writes to a save area and what CTXLD takes from one (R72, R198 to R200). -/

namespace Sys2Proof.Machine

set_option Elab.async false

/-! ### Bytes written one after another -/

/-- Bytes written at locations, one piece after another. -/
def State.writeAll (s : State) (ws : List (Nat × List Byte)) : State := ws.foldl (fun s w => s.write w.1 w.2) s

/-- Two pieces lie apart. -/
def Apart (v w : Nat × List Byte) : Prop := v.1 + v.2.length ≤ w.1 ∨ w.1 + w.2.length ≤ v.1

theorem State.byte_writeAll_outside (s : State) {l : Nat} {ws : List (Nat × List Byte)} (h : ∀ w ∈ ws, l < w.1 ∨ w.1 + w.2.length ≤ l) :
    (s.writeAll ws).byte l = s.byte l :=
  List.foldlRecOn (motive := fun t : State => t.byte l = s.byte l) ws _ rfl fun t ht w hw =>
    (t.byte_write_outside w.1 w.2 (h w hw)).trans ht

/-- A piece is read back where the later ones lie apart from it. -/
theorem State.bytes_writeAll (s : State) {loc k n : Nat} {bs : List Byte} {pre post : List (Nat × List Byte)}
    (hpost : ∀ w ∈ post, Apart (loc, bs) w) (hn : k + n ≤ bs.length) :
    (s.writeAll (pre ++ (loc, bs) :: post)).bytes (loc + k) n = (bs.drop k).take n := by
  rw [State.writeAll, List.foldl_append, List.foldl_cons]
  generalize List.foldl _ s pre = t
  rw [← t.bytes_write_part loc bs hn]
  refine State.bytes_congr fun i hi => State.byte_writeAll_outside _ fun w hw => ?_
  have := hpost w hw
  simp only [Apart] at this
  omega

theorem State.writeAll_mem_congr {s t : State} (h : t.mem = s.mem) (ws : List (Nat × List Byte)) :
    (t.writeAll ws).mem = (s.writeAll ws).mem := by
  induction ws generalizing s t with
  | nil => exact h
  | cons w ws ih => exact ih (s := s.write w.1 w.2) (t := t.write w.1 w.2) (by simp only [State.write, h])

/-! ### The core's own writes -/

/-- What the core's own writes leave but for bytes: the launches and the core, its notes of old bytes apart. -/
structure OwnWrites (s t : State) : Prop where
  launches : t.launches = s.launches
  core : ∃ bs os, t.core = { s.core with bundles := bs, ops := os }

theorem OwnWrites.refl (s : State) : OwnWrites s s := ⟨rfl, _, _, rfl⟩

theorem OwnWrites.trans {s t u : State} (h : OwnWrites s t) (h' : OwnWrites t u) : OwnWrites s u := by
  obtain ⟨bs, os, hc⟩ := h.core
  obtain ⟨bs', os', hc'⟩ := h'.core
  exact ⟨h'.launches.trans h.launches, bs', os', by rw [hc', hc]⟩

theorem State.note_ownWrites (s : State) (seq loc n : Nat) : OwnWrites s (s.note s.core.id seq loc n)
    ∧ (s.note s.core.id seq loc n).mem = s.mem := by
  unfold State.note State.updCore
  dsimp only
  rw [if_pos rfl]
  exact ⟨⟨rfl, _, _, rfl⟩, rfl⟩

/-- R364, R437: a write of the core to raw memory while no digest is kept. -/
theorem State.performOwn_raw {s : State} (hdg : ∀ l ∈ s.launches, l.dg = false) {loc : Nat} (h : isRaw loc = true) (bs : List Byte) :
    (s.performOwn loc bs).mem = (s.write loc bs).mem ∧ OwnWrites s (s.performOwn loc bs) := by
  unfold State.performOwn
  obtain ⟨hnote, hmem⟩ := s.note_ownWrites s.core.cur.seq loc bs.length
  generalize s.note s.core.id s.core.cur.seq loc bs.length = t at hnote hmem
  have hdg' : ∀ l ∈ t.launches, l.dg = false := by
    rw [hnote.launches]
    exact hdg
  obtain ⟨hp, hd⟩ := isPhys_of_isRaw h
  obtain ⟨ls, hm⟩ := ((t.dropDecoded loc bs.length).write loc bs).markBytes_eq (some s.core.launchKey) loc bs.length
  have hguard : ∀ u : State, t.guardDigest u loc bs.length = u := fun u => by
    have : t.digesting = false := by simpa [State.digesting] using hdg'
    simp [State.guardDigest, this]
  have hnoDigest : ∀ u : State, u.launches = t.launches → u.digestNote s.core.launchKey loc bs.length = u := fun u hu => by
    unfold State.digestNote
    rw [hu]
    refine if_neg ?_
    simp only [Bool.and_eq_true, List.any_eq_true]
    rintro ⟨⟨l, hl, _, hlg⟩, -⟩
    rw [hdg' l hl] at hlg
    cases hlg
  have he : t.performWrite (some s.core.launchKey) loc bs = { (t.dropDecoded loc bs.length).write loc bs with lines := ls } := by
    unfold State.performWrite
    simp only [hp, hd, Bool.and_false, Bool.false_eq_true, if_false, if_true]
    rw [hm, hguard]
    exact hnoDigest _ rfl
  rw [he]
  refine ⟨?_, hnote.trans ⟨rfl, _, _, rfl⟩⟩
  show (t.write loc bs).mem = _
  simp only [State.write, hmem]

/-- R124: raw memory is neither remote nor the decoded view. -/
theorem near_of_lt {l : Nat} (h : l < 0xC000000000) : isRemote l = false ∧ isDecoded l = false := by
  simp only [isRemote, isHostWin, isPeerWin, isDecoded, Bool.or_eq_false_iff, Bool.and_eq_false_iff, decide_eq_false_iff_not]
  omega

/-! ### Pieces of a save area -/

section
variable {s : State} {ps : List Nat}

/-- R198: a piece of a save area as it lies in memory. -/
def areaPiece (ps : List Nat) (p : Nat × List Byte) : Nat × List Byte := (areaLoc ps p.1, p.2)

theorem State.putArea_raw (hdg : ∀ l ∈ s.launches, l.dg = false) {o : Nat} (h : isRaw (areaLoc ps o) = true) (bs : List Byte) :
    (s.putArea ps o bs).mem = (s.write (areaLoc ps o) bs).mem ∧ OwnWrites s (s.putArea ps o bs) := by
  obtain ⟨hrem, -⟩ := near_of_lt (of_decide_eq_true h)
  have he : s.putArea ps o bs = s.performOwn (areaLoc ps o) bs := if_neg (by simp [hrem])
  rw [he]
  exact State.performOwn_raw hdg h bs

/-- Pieces of a save area written one after another. -/
def State.putAreas (s : State) (ps : List Nat) (qs : List (Nat × List Byte)) : State := qs.foldl (fun s q => s.putArea ps q.1 q.2) s

theorem State.putAreas_raw (hdg : ∀ l ∈ s.launches, l.dg = false) {qs : List (Nat × List Byte)}
    (h : ∀ q ∈ qs, isRaw (areaLoc ps q.1) = true) :
    (s.putAreas ps qs).mem = (s.writeAll (qs.map (areaPiece ps))).mem ∧ OwnWrites s (s.putAreas ps qs) := by
  induction qs generalizing s with
  | nil => exact ⟨rfl, .refl s⟩
  | cons q qs ih =>
    obtain ⟨hq, hqs⟩ := List.forall_mem_cons.mp h
    obtain ⟨hm, hw⟩ := State.putArea_raw hdg hq q.2
    obtain ⟨hm', hw'⟩ := ih (s := s.putArea ps q.1 q.2) (by rw [hw.launches]; exact hdg) hqs
    exact ⟨hm'.trans (State.writeAll_mem_congr hm _), hw.trans hw'⟩

/-! ### The store image -/

theorem State.granuleBytes_length (s : State) (g : Nat) : (s.granuleBytes g).length = 1024 := by
  have hlen : ∀ l n, (s.bytes l n).length = n := fun l n => by rw [State.bytes_eq_map, List.length_map, List.length_range]
  unfold State.granuleBytes
  split
  · rw [List.length_append, length_flatMap_range 64 8 fun i => length_leBytes 8 _, hlen]
  · exact hlen _ _

/-- The store image does not depend on raw memory. -/
theorem State.granuleBytes_congr {s t : State} (hcore : t.core.s = s.core.s) (hid : t.core.id = s.core.id)
    (h : ∀ l, isRaw l = false → t.byte l = s.byte l) (g : Nat) : t.granuleBytes g = s.granuleBytes g := by
  have hst : ∀ a, isRaw (s.st a) = false := fun a => decide_eq_false (by simp only [State.st, Loc.store]; omega)
  have hbytes : ∀ a n, t.bytes (t.st a) n = s.bytes (s.st a) n := fun a n => by
    have ha : t.st a = s.st a := by rw [State.st, hid, State.st]
    rw [ha]
    refine State.bytes_congr fun i _ => h _ ?_
    have := hst a
    simp only [isRaw, decide_eq_false_iff_not] at this ⊢
    omega
  rw [State.granuleBytes, State.granuleBytes, hcore, hbytes, hbytes]

/-- A granule's image as a piece of a save area. -/
def State.granulePiece (s : State) (g : Nat) : Nat × List Byte := (0x10000 + 1024 * g, s.granuleBytes g)

theorem OwnWrites.core_frame {s t : State} (h : OwnWrites s t) : t.core.s = s.core.s ∧ t.core.x = s.core.x ∧ t.core.g = s.core.g
    ∧ t.core.cr = s.core.cr ∧ t.core.pc = s.core.pc ∧ t.core.id = s.core.id := by
  obtain ⟨_, _, hc⟩ := h.core
  rw [hc]
  exact ⟨rfl, rfl, rfl, rfl, rfl, rfl⟩

end

/-! ### Where the pieces lie -/

/-- A piece that lies in one page of a save area. -/
def FitsPage (q : Nat × List Byte) : Prop := q.1 < 0x110000 ∧ q.1 % 65536 + q.2.length ≤ 65536

section
variable {s : State} {a : Word64} {k : AccKind} {page : Nat → Nat}

theorem areaLoc_pages {o : Nat} (h : o < 0x110000) : areaLoc ((List.range 17).map page) o = page (o / 65536) + o % 65536 := by
  have hlt : o / 65536 < 17 := by omega
  simp [areaLoc, hlt]

/-- A byte outside the pages is outside every piece. -/
theorem areaPiece_outside {q : Nat × List Byte} (hq : FitsPage q) {l : Nat} (hl : ∀ i < 17, l < page i ∨ page i + 65536 ≤ l) :
    l < (areaPiece ((List.range 17).map page) q).1 ∨ (areaPiece ((List.range 17).map page) q).1 + q.2.length ≤ l := by
  obtain ⟨hq, hqn⟩ := hq
  have := hl (q.1 / 65536) (by omega)
  simp only [areaPiece, areaLoc_pages hq]
  omega

variable (ha : AreaLies s a k page)
include ha

theorem AreaLies.page_lt {i : Nat} (h : i < 17) : page i + 65535 < 0xC000000000 := by
  obtain ⟨-, -, hpages, -⟩ := ha
  exact of_decide_eq_true (hpages i h).2.1

theorem AreaLies.apart {q r : Nat × List Byte} (hq : FitsPage q) (hr : FitsPage r) (h : Apart q r) :
    Apart (areaPiece ((List.range 17).map page) q) (areaPiece ((List.range 17).map page) r) := by
  obtain ⟨-, -, -, hpages⟩ := ha
  obtain ⟨hq, hqn⟩ := hq
  obtain ⟨hr, hrn⟩ := hr
  simp only [Apart, areaPiece, areaLoc_pages hq, areaLoc_pages hr] at h ⊢
  by_cases hpage : q.1 / 65536 = r.1 / 65536
  · rw [hpage]
    omega
  · have := hpages (q.1 / 65536) (by omega) (r.1 / 65536) (by omega) hpage
    omega

theorem AreaLies.isRaw {o : Nat} (h : o < 0x110000) : isRaw (areaLoc ((List.range 17).map page) o) = true := by
  have hp := ha.page_lt (i := o / 65536) (by omega)
  rw [areaLoc_pages h]
  exact decide_eq_true (by omega)

/-- R198: the checks of such an area's address pass, with its pages. -/
theorem AreaLies.areaCheck : ∃ places, s.areaCheck a k = .ok places ∧ places.map (·.loc) = (List.range 17).map page := by
  obtain ⟨halign, hlt, hpages, -⟩ := ha
  have hwalk : ∀ n i, i + n ≤ 17 → ∃ places, s.areaPages a k n i = .ok places ∧ places.map (·.loc) = (List.range' i n).map page := by
    intro n
    induction n with
    | zero => exact fun i _ => ⟨[], rfl, rfl⟩
    | succ n ih =>
      intro i hi
      obtain ⟨-, -, pg, hplace⟩ := hpages i (by omega)
      obtain ⟨places, hrest, hlocs⟩ := ih (i + 1) (by omega)
      refine ⟨⟨page i, pg⟩ :: places, ?_, ?_⟩
      · simp only [State.areaPages, hplace, hrest]
      · rw [List.map_cons, hlocs, List.range'_succ, List.map_cons]
  obtain ⟨places, hok, hlocs⟩ := hwalk 17 0 (by omega)
  refine ⟨places, ?_, by rw [hlocs, List.range_eq_range']⟩
  unfold State.areaCheck
  rw [if_neg (by omega), if_neg (by omega)]
  exact hok

end

/-! ### Pages noted -/

/-- The state in which an instruction has noted pages: the translation buffer, and what the entry's check has found. -/
def Noted (s t : State) : Prop := ∃ tlb pass, t = { s with tlb := tlb, core := { s.core with cur := { s.core.cur with pass := pass } } }

theorem State.usePage_noted (s : State) (p : Page) : Noted s (s.usePage p) := by
  have hfill : ∃ tlb, (if p.va < 2 ^ 48 then s.fillTlb (cluster s.core.id) (s.core.crGet 0x018) p else s) = { s with tlb := tlb } := by
    split
    · unfold State.fillTlb
      split <;> exact ⟨_, rfl⟩
    · exact ⟨s.tlb, rfl⟩
  obtain ⟨tlb, h⟩ := hfill
  unfold State.usePage
  dsimp only
  rw [h]
  split
  · exact ⟨tlb, s.core.cur.pass, rfl⟩
  · exact ⟨tlb, _, rfl⟩

theorem Noted.trans {s t u : State} (h : Noted s t) (h' : Noted t u) : Noted s u := by
  obtain ⟨_, _, rfl⟩ := h
  obtain ⟨tlb, pass, rfl⟩ := h'
  exact ⟨tlb, pass, rfl⟩

theorem State.notePages_noted (s : State) (ps : List Place) : Noted s (ps.foldl State.notePage s) := by
  refine List.foldlRecOn ps _ ⟨s.tlb, s.core.cur.pass, rfl⟩ fun t ht p _ => ht.trans ?_
  unfold State.notePage
  split
  · exact t.usePage_noted _
  · exact ⟨t.tlb, t.core.cur.pass, rfl⟩

/-! ### CTXSV -/

section
variable {s v : State} {a : Word64} {k : AccKind} {page : Nat → Nat} (ha : AreaLies v a k page) (hdg : ∀ l ∈ s.launches, l.dg = false)
include ha

theorem AreaLies.fits_raw {q : Nat × List Byte} (h : FitsPage q) : areaLoc ((List.range 17).map page) q.1 + q.2.length ≤ 0xC000000000 := by
  have hp := ha.page_lt (i := q.1 / 65536) (by obtain ⟨h, -⟩ := h; omega)
  obtain ⟨hlt, hn⟩ := h
  rw [areaLoc_pages hlt]
  omega

omit ha in
theorem State.granulePiece_fits {t : State} {g : Nat} (h : g < 1024) : FitsPage (t.granulePiece g) := by
  constructor
  · show 0x10000 + 1024 * g < 0x110000
    omega
  · rw [State.granulePiece, State.granuleBytes_length]
    show (0x10000 + 1024 * g) % 65536 + 1024 ≤ 65536
    omega

include hdg

/-- R198: pieces that fit their pages, written one after another. -/
theorem AreaLies.putAreas {qs : List (Nat × List Byte)} (h : ∀ q ∈ qs, FitsPage q) :
    (s.putAreas ((List.range 17).map page) qs).mem = (s.writeAll (qs.map (areaPiece ((List.range 17).map page)))).mem
      ∧ OwnWrites s (s.putAreas ((List.range 17).map page) qs) :=
  State.putAreas_raw hdg fun q hq => ha.isRaw (h q hq).1

/-- R199: the store image is not touched. -/
theorem AreaLies.granulePiece_putAreas {qs : List (Nat × List Byte)} (h : ∀ q ∈ qs, FitsPage q) :
    (s.putAreas ((List.range 17).map page) qs).granulePiece = s.granulePiece := by
  obtain ⟨hm, hown⟩ := ha.putAreas hdg h
  obtain ⟨hs, -, -, -, -, hid⟩ := hown.core_frame
  funext g
  refine congrArg (Prod.mk _) (State.granuleBytes_congr hs hid (fun l hl => ?_) g)
  rw [State.byte_of_mem hm]
  refine State.byte_writeAll_outside _ fun w hw => .inr ?_
  obtain ⟨q, hq, rfl⟩ := List.mem_map.mp hw
  have hlo : ¬l < 0xC000000000 := of_decide_eq_false hl
  exact (ha.fits_raw (h q hq)).trans (Nat.le_of_not_lt hlo)

/-- R199: granules written as the store holds them at the time, which is as it held them before. -/
theorem AreaLies.putGranules {gs : List Nat} (hgs : ∀ g ∈ gs, g < 1024) :
    gs.foldl (fun s g => s.putArea ((List.range 17).map page) (0x10000 + 1024 * g) (s.granuleBytes g)) s
      = s.putAreas ((List.range 17).map page) (gs.map s.granulePiece) := by
  induction gs generalizing s with
  | nil => rfl
  | cons g gs ih =>
    obtain ⟨hg, hgs⟩ := List.forall_mem_cons.mp hgs
    have hfits : ∀ q ∈ [s.granulePiece g], FitsPage q := List.forall_mem_singleton.mpr (State.granulePiece_fits hg)
    have hown := (ha.putAreas hdg hfits).2
    have hrest := ih (s := s.putAreas ((List.range 17).map page) [s.granulePiece g]) (by rw [hown.launches]; exact hdg) hgs
    rw [ha.granulePiece_putAreas hdg hfits] at hrest
    exact hrest

end

theorem State.putAreas_append (s : State) (ps : List Nat) (qs rs : List (Nat × List Byte)) :
    s.putAreas ps (qs ++ rs) = (s.putAreas ps qs).putAreas ps rs := List.foldl_append ..

/-! ### The items of a save area -/

/-- The guard registers as a save area holds them. -/
def CoreState.gBytes (c : CoreState) : List Byte := (List.range 8).flatMap fun i => leBytes 4 (c.gReg (BitVec.ofNat 3 i)).toNat

theorem LoopLevel.length_bytes (l : LoopLevel) : l.bytes.length = 16 := by
  simp only [LoopLevel.bytes, List.length_append, length_leBytes]

theorem NestLevel.length_bytes (v : NestLevel) : v.bytes.length = 32 := by
  simp only [NestLevel.bytes, Binding.bytes, List.length_append, length_leBytes]

theorem mem_savedCrs_lt : ∀ n ∈ savedCrs, n < 0x60 := by decide

/-- R199: the first items of a save area; the others lie above them, within the first page. -/
theorem CoreState.saveArea_head (c : CoreState) (pc : BitVec 48) (hcup : c.cupQ.length ≤ 16) (hloops : c.loops.length ≤ 4)
    (hnest : c.nest.length ≤ 6) (hcont : c.cont.length ≤ 4) : ∃ views fs k top,
    c.saveArea 1 pc [] = [(0, leBytes 8 (0x15CB7 + views * 2 ^ 32)), (8, leBytes 8 pc.toNat), (0x10, word c.status), (0x18, leBytes 8 fs),
      (0x20, leBytes 8 k), (0x100, c.sBytes), (0x300, c.xBytes), (0x340, c.gBytes)] ++ top
      ∧ ∀ p ∈ top, 0x360 ≤ p.1 ∧ p.1 + p.2.length ≤ 0x10000 := by
  refine ⟨((c.savedViews.map (2 ^ ·)).sum), c.fseq.toNat, c.gang.k % 128, _, rfl, ?_⟩
  simp only [List.append_eq, List.forall_mem_append, List.forall_mem_cons, List.forall_mem_map]
  simp only [List.length_append, List.length_flatMap, length_leBytes, LoopLevel.length_bytes, NestLevel.length_bytes, word,
    List.map_const', List.sum_replicate, smul_eq_mul, List.length_range, List.length_reverse, List.mem_range,
    List.not_mem_nil, false_imp_iff, implies_true, and_true]
  and_intros
  any_goals omega
  · intro n hn
    have := mem_savedCrs_lt n hn
    omega

/-- R199: the granules that a core's save area holds. -/
def CoreState.savedGranules (c : CoreState) : List Nat := granules (c.savedViews.map c.viewReg)

theorem CoreState.savedGranules_lt (c : CoreState) : ∀ g ∈ c.savedGranules, g < 1024 := by
  intro g hg
  obtain ⟨hr, -⟩ := List.mem_filter.mp hg
  exact List.mem_range.mp hr

theorem CoreState.savedGranules_ascend (c : CoreState) : c.savedGranules.Pairwise (· < ·) :=
  List.pairwise_lt_range.filter _

/-- R198, R199: all that CTXSV writes, in order. -/
def State.areaPieces (s : State) : List (Nat × List Byte) :=
  (0, List.replicate 65536 0#8) :: (s.core.saveArea 1 s.core.cur.next [] ++ s.core.savedGranules.map s.granulePiece)

section
variable {s : State} (hcup : s.core.cupQ.length ≤ 16) (hloops : s.core.loops.length ≤ 4) (hnest : s.core.nest.length ≤ 6)
  (hcont : s.core.cont.length ≤ 4)
include hcup hloops hnest hcont

/-- R199: every piece lies in a page of the area, and what the statement names is there to be read. -/
theorem State.areaPieces_hold : (∀ q ∈ s.areaPieces, FitsPage q) ∧ (∃ views, IsPiece s.areaPieces 0 (leBytes 8 (0x15CB7 + views * 2 ^ 32)))
    ∧ IsPiece s.areaPieces 8 (leBytes 8 s.core.cur.next.toNat) ∧ IsPiece s.areaPieces 0x10 (word s.core.status)
    ∧ IsPiece s.areaPieces 0x100 s.core.sBytes ∧ IsPiece s.areaPieces 0x300 s.core.xBytes ∧ IsPiece s.areaPieces 0x340 s.core.gBytes
    ∧ ∀ g ∈ s.core.savedGranules, IsPiece s.areaPieces (0x10000 + 1024 * g) (s.granuleBytes g) := by
  obtain ⟨views, fs, k, top, harea, htop⟩ := s.core.saveArea_head s.core.cur.next hcup hloops hnest hcont
  have hs : s.core.sBytes.length = 512 := length_flatMap_range 64 8 fun i => length_leBytes 8 _
  have hx : s.core.xBytes.length = 64 := length_flatMap_range 16 4 fun i => length_leBytes 4 _
  have hg : s.core.gBytes.length = 32 := length_flatMap_range 8 4 fun i => length_leBytes 4 _
  have hstore : ∀ q ∈ s.core.savedGranules.map s.granulePiece, FitsPage q ∧ 0x10000 ≤ q.1 := by
    intro q hq
    obtain ⟨g, hg, rfl⟩ := List.mem_map.mp hq
    exact ⟨State.granulePiece_fits (s.core.savedGranules_lt g hg), Nat.le_add_right ..⟩
  have hrest : ∀ q ∈ top ++ s.core.savedGranules.map s.granulePiece, FitsPage q ∧ 0x360 ≤ q.1 := by
    refine List.forall_mem_append.mpr ⟨fun q hq => ?_, fun q hq => ?_⟩
    · have := htop q hq
      exact ⟨⟨by omega, by omega⟩, this.1⟩
    · have := hstore q hq
      exact ⟨this.1, by omega⟩
  have hparts : s.areaPieces = [(0, List.replicate 65536 0#8), (0, leBytes 8 (0x15CB7 + views * 2 ^ 32)),
      (8, leBytes 8 s.core.cur.next.toNat), (0x10, word s.core.status), (0x18, leBytes 8 fs), (0x20, leBytes 8 k),
      (0x100, s.core.sBytes), (0x300, s.core.xBytes), (0x340, s.core.gBytes)] ++ (top ++ s.core.savedGranules.map s.granulePiece) := by
    rw [State.areaPieces, harea, List.append_assoc]
    rfl
  have hzero : (List.replicate 65536 0#8).length = 65536 := List.length_replicate
  rw [hparts]
  generalize List.replicate 65536 0#8 = z at hzero
  refine ⟨?_, ⟨views, [(0, z)], _, rfl, ?_⟩, ⟨[(0, z), (0, _)], _, rfl, ?_⟩, ⟨[(0, z), (0, _), (8, _)], _, rfl, ?_⟩,
    ⟨[(0, z), (0, _), (8, _), (0x10, _), (0x18, _), (0x20, _)], _, rfl, ?_⟩,
    ⟨[(0, z), (0, _), (8, _), (0x10, _), (0x18, _), (0x20, _), (0x100, _)], _, rfl, ?_⟩,
    ⟨[(0, z), (0, _), (8, _), (0x10, _), (0x18, _), (0x20, _), (0x100, _), (0x300, _)], _, rfl, ?_⟩, fun g hg => ?_⟩
  · simp only [List.forall_mem_append, List.forall_mem_cons, FitsPage, length_leBytes, hs, hx, hg, hzero, word]
    exact ⟨by simp, fun q hq => (hrest q (List.mem_append_left _ hq)).1, fun q hq => (hstore q hq).1⟩
  case refine_8 =>
    obtain ⟨pre, post, hgs⟩ := List.append_of_mem hg
    have hasc := s.core.savedGranules_ascend
    rw [hgs, List.pairwise_append, List.pairwise_cons] at hasc
    obtain ⟨-, ⟨hafter, -⟩, -⟩ := hasc
    rw [hgs, List.map_append, List.map_cons, ← List.append_assoc, ← List.append_assoc]
    refine ⟨_, post.map s.granulePiece, rfl, fun p hp => ?_⟩
    obtain ⟨g', hg', rfl⟩ := List.mem_map.mp hp
    have := hafter g' hg'
    rw [State.granuleBytes_length]
    show 0x10000 + 1024 * g + 1024 ≤ 0x10000 + 1024 * g'
    omega
  all_goals
    simp only [List.append_eq, List.forall_mem_append, List.forall_mem_cons, length_leBytes, hs, hx, hg, word]
    exact ⟨by simp, fun p hp => Nat.le_trans (by decide) (hrest p (List.mem_append_left _ hp)).2,
      fun p hp => Nat.le_trans (by decide) (hrest p (List.mem_append_right _ hp)).2⟩
end

section
variable {s v : State} {a : Word64} {k : AccKind} {page : Nat → Nat} (ha : AreaLies v a k page)
include ha

/-- What a piece of an area holds in memory is read back, where the later ones lie above it. -/
theorem AreaLies.bytes_piece {qs : List (Nat × List Byte)} (hfits : ∀ q ∈ qs, FitsPage q) {o i n : Nat} {bs : List Byte}
    (h : IsPiece qs o bs) (hn : i + n ≤ bs.length) :
    (s.writeAll (qs.map (areaPiece ((List.range 17).map page)))).bytes (page (o / 65536) + o % 65536 + i) n = (bs.drop i).take n := by
  obtain ⟨pre, post, rfl, hpost⟩ := h
  have ho : FitsPage (o, bs) := hfits _ (List.mem_append_right _ (List.mem_cons_self ..))
  rw [List.map_append, List.map_cons, areaPiece, ← areaLoc_pages ho.1]
  refine State.bytes_writeAll _ (fun w hw => ?_) hn
  obtain ⟨q, hq, rfl⟩ := List.mem_map.mp hw
  exact ha.apart ho (hfits q (List.mem_append_right _ (List.mem_cons_of_mem _ hq))) (.inl (hpost q hq))

end

section
variable {o : OpS1} {s : State} {page : Nat → Nat} (hon : s.core.on o.g = true) (hq : s.quiet true = true)
  (hheld : s.areaHeld (s.core.sVal o.p) = false) (hp : s.poison = [])
  (hcup : s.core.cupQ.length ≤ 16) (hloops : s.core.loops.length ≤ 4) (hnest : s.core.nest.length ≤ 6) (hcont : s.core.cont.length ≤ 4)
include hon hq hheld hp hcup hloops hnest hcont

/-- R198: CTXSV of an area that lies in raw memory, while no digest is kept. -/
theorem execCtxsv_saves (ha : AreaLies s (s.core.sVal o.p) .wr page) (hdg : ∀ l ∈ s.launches, l.dg = false) : ∃ u n, Noted s u
    ∧ exec (.ctxsv o) s = .next ((u.putAreas ((List.range 17).map page) u.areaPieces).charge u.core.launchKey 13 n) := by
  obtain ⟨places, hcheck, hlocs⟩ := ha.areaCheck
  have hnoted := s.notePages_noted places
  refine ⟨places.foldl State.notePage s, 1024 + 16 * (places.foldl State.notePage s).core.savedGranules.length, hnoted, ?_⟩
  show execCtxsv o s = _
  unfold execCtxsv
  refine (State.whenOn_on s _ hon).trans ?_
  dsimp only
  rw [hcheck]
  dsimp only
  rw [hlocs]
  generalize places.foldl State.notePage s = u at hnoted
  obtain ⟨hqu, hheldu, hpu, hlu, hcup, hloops, hnest, hcont⟩ : u.quiet true = true ∧ u.areaHeld (s.core.sVal o.p) = false ∧ u.poison = []
      ∧ u.launches = s.launches ∧ u.core.cupQ.length ≤ 16 ∧ u.core.loops.length ≤ 4 ∧ u.core.nest.length ≤ 6 ∧ u.core.cont.length ≤ 4 := by
    obtain ⟨tlb, pass, rfl⟩ := hnoted
    exact ⟨hq, hheld, hp, rfl, hcup, hloops, hnest, hcont⟩
  have hfits := (State.areaPieces_hold hcup hloops hnest hcont).1
  have hclean : (granules (u.core.savedViews.map u.core.viewReg)).find? (fun g => u.poisoned (u.st (1024 * g)) 1024) = none :=
    List.find?_eq_none.mpr fun g _ => by simp [State.poisoned, hpu]
  have hdg' : ∀ l ∈ u.launches, l.dg = false := by rw [hlu]; exact hdg
  rw [if_neg (by simp [hqu, hheldu]), hclean]
  dsimp only
  rw [← CoreState.savedGranules]
  unfold State.areaPieces at hfits ⊢
  generalize List.replicate 65536 0#8 = z at hfits ⊢
  have hhead : ∀ q ∈ (0, z) :: u.core.saveArea 1 u.core.cur.next [], FitsPage q := fun q hq => hfits q (List.mem_append_left _ hq)
  have hown := (ha.putAreas hdg' hhead).2
  have hput := ha.putGranules (s := u.putAreas ((List.range 17).map page) _) (by rw [hown.launches]; exact hdg') u.core.savedGranules_lt
  rw [ha.granulePiece_putAreas hdg' hhead, ← State.putAreas_append] at hput
  rw [State.putAreas, List.foldl_cons, List.cons_append] at hput
  rw [hput]
end

section
variable {s v : State} {a : Word64} {k : AccKind} {page : Nat → Nat} (ha : AreaLies v a k page)
include ha

/-- R199: a number that a piece of the first page holds. -/
theorem AreaLies.num_piece {t : State} {qs : List (Nat × List Byte)} (hfits : ∀ q ∈ qs, FitsPage q)
    (ht : t.mem = (s.writeAll (qs.map (areaPiece ((List.range 17).map page)))).mem) {o i n : Nat} {bs : List Byte}
    (h : IsPiece qs o bs) (ho : o / 65536 = 0) (hn : i + n ≤ bs.length) : t.num (page 0 + o + i) n = leNat ((bs.drop i).take n) := by
  have hbytes := ha.bytes_piece (s := s) hfits h hn
  have hmod : o % 65536 = o := Nat.mod_eq_of_lt (by omega)
  rw [ho, hmod] at hbytes
  rw [← hbytes]
  exact State.num_of_mem ht _ _

end

/-! ### CTXLD -/

section
variable {s v : State} {a : Word64} {k : AccKind} {page : Nat → Nat} (ha : AreaLies v a k page)
include ha

theorem AreaLies.page_near {i : Nat} (h : i < 17) : isRemote (page i) = false ∧ isDecoded (page i) = false :=
  near_of_lt (by have := ha.page_lt h; omega)

theorem AreaLies.loc_near {o : Nat} (h : o < 0x110000) : isRemote (areaLoc ((List.range 17).map page) o) = false
    ∧ isDecoded (areaLoc ((List.range 17).map page) o) = false :=
  near_of_lt (of_decide_eq_true (ha.isRaw h))

/-- R137: no page lies in a remote window, nor in the decoded view. -/
theorem AreaLies.areaFar : s.areaFar ((List.range 17).map page) = none := by
  have hnone : ((List.range 17).map page).filter isRemote = [] := by
    refine List.filter_eq_nil_iff.mpr (List.forall_mem_map.mpr fun i hi => ?_)
    rw [(ha.page_near (List.mem_range.mp hi)).1]
    exact Bool.false_ne_true
  rw [State.areaFar, hnone]
  rfl

theorem AreaLies.areaMissing : s.areaMissing ((List.range 17).map page) = [] := by
  have hnone : ((List.range 17).map page).filter isDecoded = [] := by
    refine List.filter_eq_nil_iff.mpr (List.forall_mem_map.mpr fun i hi => ?_)
    rw [(ha.page_near (List.mem_range.mp hi)).2]
    exact Bool.false_ne_true
  rw [State.areaMissing, hnone]
  rfl

/-- R119: nothing that is read carries an error. -/
theorem AreaLies.areaPoison (hp : s.poison = []) {rs : List (Nat × Nat)} (h : ∀ r ∈ rs, r.1 < 0x110000) :
    s.areaPoison ((List.range 17).map page) rs = none := by
  refine List.findSome?_eq_none_iff.mpr (List.forall_mem_map.mpr fun r hr => ?_)
  obtain ⟨hrem, hdec⟩ := ha.loc_near (h r hr)
  dsimp only
  rw [hrem, hdec]
  simp [State.poisoned, hp]

/-- R198: a number read from the first page. -/
theorem AreaLies.areaNum {o n : Nat} (h : o + n ≤ 65536) : s.areaNum ((List.range 17).map page) o n = s.num (page 0 + o) n := by
  rw [State.areaNum, State.num, State.bytes_eq_map]
  refine congrArg leNat (List.map_congr_left fun i hi => ?_)
  have hi' := List.mem_range.mp hi
  have hlt : o + i < 0x110000 := by omega
  obtain ⟨hrem, hdec⟩ := ha.loc_near hlt
  unfold State.areaByte
  dsimp only
  rw [hrem, if_neg Bool.false_ne_true, State.sliceBytes, hdec, if_neg Bool.false_ne_true, areaLoc_pages hlt, Nat.div_eq_of_lt (by omega),
    Nat.mod_eq_of_lt (by omega), ← Nat.add_assoc]
  rfl

end

/-- A register that none of the writes names stands. -/
theorem CoreState.crGet_crPuts_other (c : CoreState) {l : List (Nat × Word64)} {n : Nat} (h : ∀ p ∈ l, p.1 ≠ n) :
    (c.crPuts l).crGet n = c.crGet n := by
  have hnone : l.reverse.lookup n = none :=
    List.lookup_eq_none_iff.mpr fun p hp => bne_iff_ne.mpr (h p (List.mem_reverse.mp hp)).symm
  rw [CoreState.crGet_crPuts, hnone]
  rfl

/-- R200: STATUS is the first of the saved registers, and no later one is number 0. -/
theorem CoreState.crGet_loadArea_status (c : CoreState) (get : Nat → Nat → Nat) :
    (c.loadArea get).crGet 0 = BitVec.ofNat 64 (get 0x400 8) &&& savedBits 0 := by
  rw [CoreState.crGet]
  unfold CoreState.loadArea
  dsimp only
  rw [← CoreState.crGet, CoreState.crGet_crPuts_other, CoreState.crGet_crPuts_other, CoreState.crGet_crPuts]
  · rfl
  · simp only [List.mem_flatMap, List.mem_range]
    rintro p ⟨i, -, hp⟩
    simp only [List.mem_cons, List.not_mem_nil, or_false] at hp
    rcases hp with rfl | rfl <;> simp
  · simp

/-- R200: what a load takes from an area, of the items that the statement names. -/
theorem CoreState.loadArea_fields (c : CoreState) (get : Nat → Nat → Nat) : let d := c.loadArea get
    (∀ n, d.sReg n = BitVec.ofNat 64 (get (0x100 + 8 * n.toNat) 8)) ∧ (∀ n, d.xReg n = BitVec.ofNat 32 (get (0x300 + 4 * n.toNat) 4))
      ∧ (∀ n, n ≠ 0#3 → d.gReg n = BitVec.ofNat 32 (get (0x340 + 4 * n.toNat) 4))
      ∧ d.pc = BitVec.ofNat 48 (get 8 8) &&& 0xFFFFFFFFFFE0#48
      ∧ d.bundles = [] ∧ d.group = .start := by
  intro d
  refine ⟨fun n => get_tableOf _ _ _ n.isLt, fun n => get_tableOf _ _ _ n.isLt, fun n hn => ?_, rfl, rfl, rfl⟩
  have hget := get_tableOf 0#32 8 (fun i => if i = 0 then 0 else get (0x340 + 4 * i) 4) n.isLt
  have hne : n.toNat ≠ 0 := fun h => hn (BitVec.eq_of_toNat_eq h)
  rw [CoreState.gReg, if_neg hn]
  exact hget.trans (by rw [if_neg hne])

/-- What CTXLD does to the core once the items are loaded. -/
def CoreState.contextWoken (d : CoreState) : CoreState :=
  { (d.crPut 0x000 (d.status &&& 0xFFFFFFFFFFFFFFFD#64)).wakeM with shadow := none }

/-- R200: INTRAP is clear after a load, and waking the arrays leaves STATUS. -/
theorem CoreState.crGet_contextWoken_status (d : CoreState) : d.contextWoken.crGet 0 = d.crGet 0 &&& 0xFFFFFFFFFFFFFFFD#64 := by
  have hwake : ∀ e : CoreState, e.wakeM.crGet 0 = e.crGet 0 := by
    intro e
    rw [CoreState.crGet, CoreState.wakeM]
    dsimp only
    rw [← CoreState.crGet, CoreState.crGet_crPuts_other]
    simp
  have hput : (d.crPut 0x000 (d.status &&& 0xFFFFFFFFFFFFFFFD#64)).crGet 0 = d.crGet 0 &&& 0xFFFFFFFFFFFFFFFD#64 := by
    rw [CoreState.crGet_crPut, if_pos rfl, CoreState.status]
  rw [CoreState.contextWoken, CoreState.crGet]
  dsimp only
  rw [← CoreState.crGet, hwake, hput]

/-- R308: waking keeps the registers and the place in the program. -/
theorem CoreState.contextWoken_fields (d : CoreState) :
    d.contextWoken.s = d.s ∧ d.contextWoken.x = d.x ∧ d.contextWoken.g = d.g ∧ d.contextWoken.pc = d.pc
      ∧ d.contextWoken.bundles = d.bundles ∧ d.contextWoken.group = d.group ∧ d.contextWoken.shadow = none := by
  unfold CoreState.contextWoken CoreState.wakeM
  simp

theorem mem_granules_lt {vs : List Word64} : ∀ g ∈ granules vs, g < 1024 := fun _ hg =>
  List.mem_range.mp (List.mem_filter.mp hg).1

/-- R72: the store image leaves the cores. -/
theorem State.putGranules_frame (bytes : Nat → List Byte) (gs : List Nat) (s : State) :
    (gs.foldl (fun t g => t.putGranule g (bytes g)) s).core = s.core ∧ (gs.foldl (fun t g => t.putGranule g (bytes g)) s).parked = s.parked := by
  induction gs generalizing s with
  | nil => exact ⟨rfl, rfl⟩
  | cons g gs ih =>
    obtain ⟨hcore, hparked⟩ := ih (s.putGranule g (bytes g))
    have hput : (s.putGranule g (bytes g)).core = s.core ∧ (s.putGranule g (bytes g)).parked = s.parked := by
      unfold State.putGranule
      split <;> exact ⟨rfl, rfl⟩
    exact ⟨hcore.trans hput.1, hparked.trans hput.2⟩

/-- R281: an area whose remainders are all marked empty has none. -/
theorem remaindersOf_eq_nil {get : Nat → Nat → Nat} (h : ∀ ch < 32, get (0x1020 + 64 * ch) 8 / 2 ^ 36 % 2 = 0) : remaindersOf get = [] := by
  refine List.filterMap_eq_nil_iff.mpr fun ch hch => if_pos ?_
  have hoff : 0x1010 + 64 * ch + 16 = 0x1020 + 64 * ch := by omega
  rw [hoff]
  exact h ch (List.mem_range.mp hch)

/-- R200, R281: what follows the loading of the items, where no copy is left over, touches the loop levels alone of the core. -/
theorem State.loadEnd_frame (t : State) (f : CoreState → CoreState) (key kind n : Nat) :
    let r := (((t.upd f).l1Clear.headSlots.reissueAll []).ticked).charge key kind n
    ∃ loops, r.core = { f t.core with loops := loops } ∧ r.parked = t.parked := by
  intro r
  have hcharge : r.core = ((t.upd f).l1Clear.headSlots.reissueAll []).core ∧ r.parked = t.parked := by
    dsimp only [r]
    rw [State.charge_frame]
    exact ⟨rfl, rfl⟩
  exact ⟨_, hcharge⟩

section
variable {o : OpS1} {s : State} {page : Nat → Nat}

/-- R200: CTXLD of an area that lies in raw memory. -/
theorem execCtxld_loads (hon : s.core.on o.g = true) (hq : s.quiet true = true)
    (hheld : s.areaHeld (s.core.sVal o.p) = false) (hp : s.poison = []) (hbad : s.areaBad ((List.range 17).map page) = false)
    (hrem : ∀ ch < 32, s.num (page 0 + 0x1020 + 64 * ch) 8 / 2 ^ 36 % 2 = 0)
    (ha : AreaLies s (s.core.sVal o.p) .rd page) : ∃ t u loops, Noted s u ∧ exec (.ctxld o) s = .next t
      ∧ t.core = { (u.core.loadArea (s.areaNum ((List.range 17).map page))).contextWoken with loops := loops } ∧ t.parked = s.parked := by
  obtain ⟨places, hcheck, hlocs⟩ := ha.areaCheck
  have hnoted := s.notePages_noted places
  have hexec : exec (.ctxld o) s = execCtxld o s := rfl
  unfold execCtxld at hexec
  rw [State.whenOn_on s _ hon] at hexec
  dsimp only at hexec
  rw [hcheck] at hexec
  dsimp only at hexec
  rw [hlocs] at hexec
  generalize places.foldl State.notePage s = u at hnoted hexec
  obtain ⟨hqu, hheldu, hpu, hbadu, hnum, hparked⟩ : u.quiet true = true ∧ u.areaHeld (s.core.sVal o.p) = false ∧ u.poison = []
      ∧ u.areaBad ((List.range 17).map page) = false
      ∧ u.areaNum ((List.range 17).map page) = s.areaNum ((List.range 17).map page) ∧ u.parked = s.parked := by
    obtain ⟨tlb, pass, rfl⟩ := hnoted
    exact ⟨hq, hheld, hp, hbad, rfl, rfl⟩
  have hranges : ∀ vs : List Word64, ∀ r ∈ (0, 65536) :: (granules vs).map (fun g => (0x10000 + 1024 * g, 1024)), r.1 < 0x110000 := by
    intro vs
    refine List.forall_mem_cons.mpr ⟨by decide, List.forall_mem_map.mpr fun g hg => ?_⟩
    have := mem_granules_lt g hg
    dsimp only
    omega
  have hnone : remaindersOf (s.areaNum ((List.range 17).map page)) = [] := by
    refine remaindersOf_eq_nil fun ch hch => ?_
    rw [ha.areaNum (by omega), ← Nat.add_assoc]
    exact hrem ch hch
  rw [hqu, hheldu, hbadu, hnum, hnone, ha.areaFar, ha.areaMissing, ha.areaPoison hpu (hranges _)] at hexec
  obtain ⟨hcore, hpark⟩ := State.putGranules_frame
    (fun g => (List.range 1024).map fun i => u.areaByte ((List.range 17).map page) (0x10000 + 1024 * g + i)) (granules _) u
  obtain ⟨loops, hend, hpend⟩ := State.loadEnd_frame _ (fun c => (c.loadArea (s.areaNum ((List.range 17).map page))).contextWoken) u.core.launchKey 13 (1024 + 16 * _)
  rw [hcore] at hend
  exact ⟨_, u, loops, hnoted, hexec, hend, hpend.trans (hpark.trans hparked)⟩
end

/-- R200: the core after a load, item by item. -/
theorem CoreState.loaded_fields (c : CoreState) (get : Nat → Nat → Nat) (loops : List LoopLevel) :
    let d : CoreState := { (c.loadArea get).contextWoken with loops := loops }
    (∀ n, d.sReg n = BitVec.ofNat 64 (get (0x100 + 8 * n.toNat) 8)) ∧ (∀ n, d.xReg n = BitVec.ofNat 32 (get (0x300 + 4 * n.toNat) 4))
      ∧ (∀ n, n ≠ 0#3 → d.gReg n = BitVec.ofNat 32 (get (0x340 + 4 * n.toNat) 4))
      ∧ d.pc = BitVec.ofNat 48 (get 8 8) &&& 0xFFFFFFFFFFE0#48 ∧ d.crGet 0 = BitVec.ofNat 64 (get 0x400 8) &&& 0x7D#64
      ∧ d.bundles = [] ∧ d.group = .start ∧ d.shadow = none := by
  obtain ⟨hs, hx, hg, hpc, hbundles, hgroup⟩ := c.loadArea_fields get
  have hbits : savedBits 0 &&& 0xFFFFFFFFFFFFFFFD#64 = 0x7D#64 := by decide
  have hstatus := (c.loadArea get).crGet_contextWoken_status
  rw [c.crGet_loadArea_status, BitVec.and_assoc, hbits] at hstatus
  obtain ⟨ws, wx, wg, wpc, wbundles, wgroup, wshadow⟩ := (c.loadArea get).contextWoken_fields
  intro d
  refine ⟨fun n => ?_, fun n => ?_, fun n hn => ?_, ?_, ?_, ?_, ?_, wshadow⟩
  · rw [← hs, CoreState.sReg, CoreState.sReg, ← ws]
  · rw [← hx, CoreState.xReg, CoreState.xReg, ← wx]
  · rw [← hg n hn, CoreState.gReg, CoreState.gReg, ← wg]
  · rw [← hpc, ← wpc]
  · rw [← hstatus, CoreState.crGet, CoreState.crGet]
  · rw [← hbundles, ← wbundles]
  · rw [← hgroup, ← wgroup]

theorem ctxsv_saves {o : OpS1} {s : State} {page : Nat → Nat} (hon : s.core.on o.g = true)
    (ha : AreaLies s (s.core.sVal o.p) .wr page) (hq : s.quiet true = true) (hheld : s.areaHeld (s.core.sVal o.p) = false)
    (hp : s.poison = []) (hdg : ∀ l ∈ s.launches, l.dg = false) (hcup : s.core.cupQ.length ≤ 16) (hloops : s.core.loops.length ≤ 4) (hnest : s.core.nest.length ≤ 6) (hcont : s.core.cont.length ≤ 4) :
      ∃ t, exec (.ctxsv o) s = .next t
        ∧ (∀ n, t.num (page 0 + 0x100 + 8 * n.toNat) 8 = (s.core.sReg n).toNat)
        ∧ (∀ n, t.num (page 0 + 0x300 + 4 * n.toNat) 4 = (s.core.xReg n).toNat)
        ∧ (∀ n, t.num (page 0 + 0x340 + 4 * n.toNat) 4 = (s.core.gReg n).toNat)
        ∧ t.num (page 0 + 8) 8 = s.core.cur.next.toNat ∧ t.num (page 0 + 0x10) 8 = (s.core.crGet 0).toNat
        ∧ t.num (page 0) 4 = 0x15CB7
        ∧ (∀ g ∈ granules (s.core.savedViews.map s.core.viewReg),
          t.bytes (page ((0x10000 + 1024 * g) / 65536) + 1024 * g % 65536) 1024 = s.granuleBytes g)
        ∧ (∀ l, (∀ i < 17, l < page i ∨ page i + 65536 ≤ l) → t.byte l = s.byte l)
        ∧ t.core.s = s.core.s ∧ t.core.x = s.core.x ∧ t.core.g = s.core.g ∧ t.core.cr = s.core.cr ∧ t.core.pc = s.core.pc := by
  obtain ⟨u, n, hnoted, hexec⟩ := execCtxsv_saves hon hq hheld hp hcup hloops hnest hcont ha hdg
  obtain ⟨hlu, hmu, hcs, hcx, hcg, hccr, hcpc, hcid, hcnext, hcv, hcv', hcup, hloops, hnest, hcont⟩ : u.launches = s.launches ∧ u.mem = s.mem
     ∧ u.core.s = s.core.s ∧ u.core.x = s.core.x ∧ u.core.g = s.core.g ∧ u.core.cr = s.core.cr ∧ u.core.pc = s.core.pc ∧ u.core.id = s.core.id
      ∧ u.core.cur.next = s.core.cur.next ∧ u.granuleBytes = s.granuleBytes ∧ u.core.savedGranules = s.core.savedGranules
      ∧ u.core.cupQ.length ≤ 16 ∧ u.core.loops.length ≤ 4 ∧ u.core.nest.length ≤ 6 ∧ u.core.cont.length ≤ 4 := by
    obtain ⟨tlb, pass, rfl⟩ := hnoted
    exact ⟨rfl, rfl, rfl, rfl, rfl, rfl, rfl, rfl, rfl, rfl, rfl, hcup, hloops, hnest, hcont⟩
  have hdg' : ∀ l ∈ u.launches, l.dg = false := by rw [hlu]; exact hdg
  obtain ⟨hfits, ⟨views, hhead⟩, hnext, hst, hs, hx, hg, hgr⟩ := State.areaPieces_hold hcup hloops hnest hcont
  obtain ⟨hm, hown⟩ := ha.putAreas hdg' hfits
  refine ⟨_, hexec, ?_⟩
  have hacc := (u.putAreas ((List.range 17).map page) u.areaPieces).charge_accounts u.core.launchKey 13 n
  generalize ht : (u.putAreas ((List.range 17).map page) u.areaPieces).charge u.core.launchKey 13 n = t at hacc
  have hmem := hacc.mem.trans hm
  refine ⟨fun n => ?_, fun n => ?_, fun n => ?_, ?_, ?_, ?_, fun g hg => ?_, fun l hl => ?_, ?_⟩
  · have hn := n.isLt
    have hlen : 8 * n.toNat + 8 ≤ u.core.sBytes.length := by
      rw [CoreState.sBytes, length_flatMap_range 64 8 fun i => length_leBytes 8 _]
      omega
    rw [ha.num_piece hfits hmem hs rfl hlen, CoreState.sBytes, take_drop_flatMap_range (fun i => length_leBytes 8 _) hn, leNat_leBytes, hcs]
    exact Nat.mod_eq_of_lt (s.core.sReg n).isLt
  · have hn := n.isLt
    have hlen : 4 * n.toNat + 4 ≤ u.core.xBytes.length := by
      rw [CoreState.xBytes, length_flatMap_range 16 4 fun i => length_leBytes 4 _]
      omega
    rw [ha.num_piece hfits hmem hx rfl hlen, CoreState.xBytes, take_drop_flatMap_range (fun i => length_leBytes 4 _) hn, leNat_leBytes, hcx]
    exact Nat.mod_eq_of_lt (s.core.xReg n).isLt
  · have hn := n.isLt
    have hlen : 4 * n.toNat + 4 ≤ u.core.gBytes.length := by
      rw [CoreState.gBytes, length_flatMap_range 8 4 fun i => length_leBytes 4 _]
      omega
    rw [ha.num_piece hfits hmem hg rfl hlen, CoreState.gBytes, take_drop_flatMap_range (fun i => length_leBytes 4 _) hn, leNat_leBytes,
      BitVec.ofNat_toNat, BitVec.setWidth_eq, CoreState.gReg, hcg, ← CoreState.gReg]
    exact Nat.mod_eq_of_lt (s.core.gReg n).isLt
  · have h := ha.num_piece hfits hmem hnext rfl (i := 0) (n := 8) (length_leBytes 8 _).ge
    rw [Nat.add_zero, List.drop_zero, List.take_of_length_le (length_leBytes 8 _).le, leNat_leBytes, hcnext] at h
    rw [h]
    exact Nat.mod_eq_of_lt (s.core.cur.next.isLt.trans (by decide))
  · have h := ha.num_piece hfits hmem hst rfl (i := 0) (n := 8) (length_leBytes 8 _).ge
    rw [Nat.add_zero, List.drop_zero, word, List.take_of_length_le (length_leBytes 8 _).le, leNat_leBytes] at h
    rw [h, CoreState.status, CoreState.crGet, hccr, ← CoreState.crGet]
    exact Nat.mod_eq_of_lt (s.core.crGet 0).isLt
  · have h := ha.num_piece hfits hmem hhead rfl (i := 0) (n := 4) (by rw [length_leBytes]; decide)
    have htake : ∀ v, (leBytes 8 v).take 4 = leBytes 4 v := fun _ => rfl
    rw [Nat.add_zero, List.drop_zero, htake, leNat_leBytes] at h
    rw [h]
    omega
  · rw [← CoreState.savedGranules, ← hcv'] at hg
    have h := ha.bytes_piece (s := u) hfits (hgr g hg) (i := 0) (n := 1024) (by rw [State.granuleBytes_length])
    rw [Nat.add_zero, Nat.add_mod_left, List.drop_zero, List.take_of_length_le (State.granuleBytes_length u g).le] at h
    rw [← hcv, ← h]
    exact State.bytes_congr fun i _ => State.byte_of_mem hmem _
  · rw [State.byte_of_mem hmem]
    refine (State.byte_writeAll_outside _ fun w hw => ?_).trans (State.byte_of_mem hmu l)
    obtain ⟨q, hq, rfl⟩ := List.mem_map.mp hw
    exact areaPiece_outside (hfits q hq) hl
  · obtain ⟨hs, hx, hg, hcr, hpc, -⟩ := hown.core_frame
    rw [hacc.core, hs, hx, hg, hcr, hpc]
    exact ⟨hcs, hcx, hcg, hccr, hcpc⟩

/-- R200: CTXLD of an area that lies in raw memory, where no copy is left over. -/
theorem ctxld_loads {o : OpS1} {s : State} {page : Nat → Nat} (hon : s.core.on o.g = true) (ha : AreaLies s (s.core.sVal o.p) .rd page)
    (hq : s.quiet true = true) (hheld : s.areaHeld (s.core.sVal o.p) = false) (hp : s.poison = [])
    (hbad : s.areaBad ((List.range 17).map page) = false)
    (hrem : ∀ ch < 32, s.num (page 0 + 0x1020 + 64 * ch) 8 / 2 ^ 36 % 2 = 0) :
    ∃ t, exec (.ctxld o) s = .next t
      ∧ (∀ n, t.core.sReg n = BitVec.ofNat 64 (s.num (page 0 + 0x100 + 8 * n.toNat) 8))
      ∧ (∀ n, t.core.xReg n = BitVec.ofNat 32 (s.num (page 0 + 0x300 + 4 * n.toNat) 4))
      ∧ (∀ n, n ≠ 0#3 → t.core.gReg n = BitVec.ofNat 32 (s.num (page 0 + 0x340 + 4 * n.toNat) 4))
      ∧ t.core.pc = BitVec.ofNat 48 (s.num (page 0 + 8) 8) &&& 0xFFFFFFFFFFE0#48
      ∧ t.core.crGet 0 = BitVec.ofNat 64 (s.num (page 0 + 0x400) 8) &&& 0x7D#64
      ∧ t.core.bundles = [] ∧ t.core.group = .start ∧ t.core.shadow = none ∧ t.parked = s.parked := by
  obtain ⟨t, u, loops, -, hexec, hcore, hparked⟩ := execCtxld_loads hon hq hheld hp hbad hrem ha
  obtain ⟨hs, hx, hg, hpc, hstatus, hbundles, hgroup, hshadow⟩ :=
    u.core.loaded_fields (s.areaNum ((List.range 17).map page)) loops
  refine ⟨t, hexec, ?_⟩
  rw [hcore]
  refine ⟨fun n => ?_, fun n => ?_, fun n hn => ?_, ?_, ?_, hbundles, hgroup, hshadow, hparked⟩
  · have := n.isLt
    rw [hs, ha.areaNum (by omega), ← Nat.add_assoc]
  · have := n.isLt
    rw [hx, ha.areaNum (by omega), ← Nat.add_assoc]
  · have := n.isLt
    rw [hg n hn, ha.areaNum (by omega), ← Nat.add_assoc]
  · rw [hpc, ha.areaNum (by decide)]
  · rw [hstatus, ha.areaNum (by decide)]

end Sys2Proof.Machine
end

section
/-! The statement on save areas. -/
open Sys2Proof Sys2Proof.Machine

/-- Settles O47: a save area is written as a list of pieces that lie apart in its first page, with the store image on the sixteen others
(`State.areaPieces_hold`), and a load reads the items back by their offsets. -/
theorem contextSavesAndLoads : Obligations.ContextSavesAndLoads := by
  refine ⟨fun _ => rfl, ?_, ?_⟩
  · intro o s page hon ha hq hheld hp hdg hcup hloops hnest hcont
    exact ctxsv_saves hon ha hq hheld hp hdg hcup hloops hnest hcont
  · intro o s page hon ha hq hheld hp hbad hrem
    exact ctxld_loads hon ha hq hheld hp hbad hrem

end

section
/-! SUPPORT. What the decoder accepts belongs to a slot (R48 to R60). -/

namespace Sys2Proof

set_option Elab.async false

/-- What is accepted has a slot class. -/
def Slotted : Decoded → Prop
  | .ok i => i.slotClass.isSome = true
  | .error _ => True

section
variable {r q : Decoded} {l : Option (BitVec 9)}

@[simp] theorem slotted_error (e : Reject) : Slotted (.error e) := trivial

@[simp] theorem slotted_ok {i : Instr} : Slotted (.ok i) ↔ i.slotClass.isSome = true := Iff.rfl

@[simp] theorem slotted_ite (c : Prop) [Decidable c] : Slotted (if c then r else q) ↔ (c → Slotted r) ∧ (¬c → Slotted q) := by
  split <;> simp_all

@[simp] theorem slotted_require (b : Bool) {i : Instr} : Slotted (require b i) ↔ (b = true → i.slotClass.isSome = true) := by
  simp [require]

@[simp] theorem slotted_noLend : Slotted (noLend l r) ↔ (l = none → Slotted r) := by
  cases l <;> simp [noLend]

@[simp] theorem slotted_zeroLend : Slotted (zeroLend l r) ↔ (l.getD 0#9 = 0#9 → Slotted r) := by
  cases l <;> simp [zeroLend]

@[simp] theorem slotted_maskLend (m : BitVec 9) : Slotted (maskLend m l r) ↔ (l.getD 0#9 &&& m = 0#9 → Slotted r) := by
  simp [maskLend]

@[simp] theorem slotted_copyLend (w : Nat) (h : Slotted r) : Slotted (copyLend w l r) := by
  cases l <;> simp [copyLend, h]

theorem slotted_decVA {f : OpVA → Instr} (w : Nat) : Slotted (decVA f w l) ↔ (fld w 0 1 = 0 → (f (dVA w l)).slotClass.isSome = true) := by
  simp [decVA]

theorem slotted_decVU {f : OpVU → Instr} (w : Nat) : Slotted (decVU f w l)
    ↔ (l.getD 0#9 &&& 7#9 = 0#9 → fld w 0 1 = 0 → fld w 4 6 = 0 → (f (dVU w l)).slotClass.isSome = true) := by
  simp [decVU]
end

/-! ### The opcode maps -/

theorem alu64_slotted (n : Nat) (o : OpSA) : (alu64 n o).slotClass.isSome = true := by unfold alu64; split <;> rfl

theorem alu32_slotted (n : Nat) (o : OpSA) : (alu32 n o).slotClass.isSome = true := by unfold alu32; split <;> rfl

theorem slotted_decodeBit (w : Nat) : Slotted (decodeBit w) := by unfold decodeBit; split <;> simp [Instr.slotClass]

theorem slotted_decodeGuard (w : Nat) : Slotted (decodeGuard w) := by unfold decodeGuard; split <;> simp [Instr.slotClass]

theorem slotted_decodeQueue (w : Nat) : Slotted (decodeQueue w) := by unfold decodeQueue; split <;> simp [Instr.slotClass]

theorem slotted_decodeOrder (w : Nat) : Slotted (decodeOrder w) := by unfold decodeOrder; split <;> simp [Instr.slotClass]

theorem slotted_decodeLnset (w : Nat) : Slotted (decodeLnset w) := by
  unfold decodeLnset
  split
  · split <;> simp [Instr.slotClass]
  · exact slotted_error _

theorem slotted_decodeLaunch (w : Nat) : Slotted (decodeLaunch w) := by unfold decodeLaunch; split <;> simp [Instr.slotClass]

theorem slotted_decodeLink (w : Nat) : Slotted (decodeLink w) := by unfold decodeLink; split <;> simp [Instr.slotClass]

theorem slotted_decodeLcfg (w : Nat) (i : BitVec 16) : Slotted (decodeLcfg w i) := by unfold decodeLcfg; split <;> simp [Instr.slotClass]

theorem slotted_decodeS (w : Nat) (l : Option (BitVec 9)) : Slotted (decodeS w l) := by
  unfold decodeS
  split <;> simp [alu64_slotted, alu32_slotted, slotted_decodeBit, slotted_decodeGuard, slotted_decodeQueue, slotted_decodeOrder,
    slotted_decodeLnset, slotted_decodeLaunch, slotted_decodeLink, apply_ite Instr.slotClass] <;> simp [Instr.slotClass]

theorem slotted_decodeV (w : Nat) (l : Option (BitVec 9)) : Slotted (decodeV w l) := by
  unfold decodeV
  split <;> simp [Instr.slotClass, slotted_decVA, slotted_decVU]

theorem slotted_decodeM (w : Nat) (l : Option (BitVec 9)) : Slotted (decodeM w l) := by
  unfold decodeM
  split <;> simp [Instr.slotClass]

theorem slotted_decodeN (w : Nat) (l : Option (BitVec 9)) : Slotted (decodeN w l) := by
  unfold decodeN
  split <;> simp [Instr.slotClass, slotted_decodeLcfg]

theorem slotted_decodeC (w : Nat) (l : Option (BitVec 9)) : Slotted (decodeC w l) := by
  unfold decodeC
  split <;> simp [Instr.slotClass]

theorem slotted_decodeSlot (k : SlotClass) (w : Word32) (l : Option (BitVec 9)) : Slotted (decodeSlot k w l) :=
  match k with
  | .s => slotted_decodeS _ _
  | .v => slotted_decodeV _ _
  | .m => slotted_decodeM _ _
  | .n => slotted_decodeN _ _
  | .c => slotted_decodeC _ _

end Sys2Proof
end

section
/-! SUPPORT. The dispatch numbers (R43): no instruction of a slot but CTXLD, which numbers the copies it takes up again, changes the
number of a bundle to come, on any core. -/

namespace Sys2Proof.Machine

set_option Elab.async false

/-- The core whose turn it is, and by each core's id the number it gives to the bundle it dispatches next. -/
abbrev Seqs := BitVec 7 × (BitVec 7 → Option Nat)

def seqsOf (c : CoreState) (ps : List CoreState) : Seqs :=
  (c.id, fun id => if c.id = id then some c.nextSeq else (ps.find? (·.id == id)).map (·.nextSeq))

/-- Reducible, so that a state written out field by field shows its core and its parked cores. -/
@[reducible] def State.seqs (s : State) : Seqs := seqsOf s.core s.parked

/-- An outcome after which the dispatch numbers are as given. -/
def Keeps (w : Seqs) : Out → Prop
  | .next t => t.seqs = w
  | _ => True

theorem State.nextSeq_of_seqs {s t : State} (h : t.seqs = s.seqs) : t.core.nextSeq = s.core.nextSeq := by
  obtain ⟨hid, hseq⟩ := Prod.ext_iff.mp h
  have hcore := congrFun hseq s.core.id
  simp only [State.seqs, seqsOf] at hid hcore
  simpa [hid] using hcore

section
variable {c d : CoreState} {ps : List CoreState} {w : Seqs}

theorem seqsOf_congr (h : d.id = c.id ∧ d.nextSeq = c.nextSeq) : seqsOf d ps = seqsOf c ps := by
  simp only [seqsOf, h.1, h.2]

/-- Every core may change otherwise. -/
theorem find_map_nextSeq {f : CoreState → CoreState} (h : ∀ c, (f c).id = c.id ∧ (f c).nextSeq = c.nextSeq) (id : BitVec 7) :
    ((ps.map f).find? (·.id == id)).map (·.nextSeq) = (ps.find? (·.id == id)).map (·.nextSeq) := by
  induction ps with
  | nil => rfl
  | cons p ps ih =>
    obtain ⟨hid, hseq⟩ := h p
    rw [List.map_cons, List.find?_cons, List.find?_cons, hid]
    split
    · exact congrArg some hseq
    · exact ih

theorem seqsOf_map {f : CoreState → CoreState} (h : ∀ c, (f c).id = c.id ∧ (f c).nextSeq = c.nextSeq) :
    seqsOf c (ps.map f) = seqsOf c ps := by
  simp only [seqsOf, find_map_nextSeq h]

/-- One function of every core. -/
theorem seqs_of_every {s t : State} {f : CoreState → CoreState} (hparked : t.parked = s.parked.map f) (hcore : t.core = f s.core)
    (h : ∀ c, (f c).id = c.id ∧ (f c).nextSeq = c.nextSeq) : t.seqs = s.seqs := by
  rw [State.seqs, hcore, hparked]
  exact (seqsOf_congr (h s.core)).trans (seqsOf_map h)

@[simp] theorem foldl_stamp {α : Type} {f : CoreState → α → CoreState} (h : ∀ c a, (f c a).id = c.id ∧ (f c a).nextSeq = c.nextSeq)
    (l : List α) : (l.foldl f c).id = c.id ∧ (l.foldl f c).nextSeq = c.nextSeq := by
  induction l generalizing c with
  | nil => exact ⟨rfl, rfl⟩
  | cons a l ih => exact ⟨ih.1.trans (h c a).1, ih.2.trans (h c a).2⟩

theorem stamp_ite {p : Prop} [Decidable p] {e : CoreState} (hd : d.id = c.id ∧ d.nextSeq = c.nextSeq)
    (he : e.id = c.id ∧ e.nextSeq = c.nextSeq) : (if p then d else e).id = c.id ∧ (if p then d else e).nextSeq = c.nextSeq := by
  split <;> assumption

@[simp] theorem keeps_next {t : State} : Keeps w (.next t) ↔ t.seqs = w := Iff.rfl

theorem Keeps.ite {p : Prop} [Decidable p] {a b : Out} (ha : Keeps w a) (hb : Keeps w b) : Keeps w (if p then a else b) := by
  split <;> assumption

@[simp] theorem keeps_ite {p : Prop} [Decidable p] {a b : Out} : Keeps w (if p then a else b) ↔ (p → Keeps w a) ∧ (¬p → Keeps w b) := by
  split <;> simp_all
end

section
variable {s t : State}

@[simp] theorem State.upd_seqs {f : CoreState → CoreState} (h : (f s.core).id = s.core.id ∧ (f s.core).nextSeq = s.core.nextSeq) :
    (s.upd f).seqs = s.seqs := seqsOf_congr h

theorem State.focus_seqs (s : State) (id : BitVec 7) : (s.focus id).seqs.2 = s.seqs.2 := by
  unfold State.focus
  split
  · rfl
  · next hne =>
    split
    · next c hc =>
      have hid : c.id = id := by simpa using List.find?_some hc
      funext j
      simp only [State.seqs, seqsOf, hid, List.find?_cons]
      by_cases hj : id = j
      · subst hj
        simp [hne, hc]
      · have hfind : (s.parked.filter (·.id != id)).find? (·.id == j) = s.parked.find? (·.id == j) := by
          rw [List.find?_filter]
          refine congrArg (s.parked.find? ·) (funext fun c => ?_)
          by_cases hc : c.id = j
          · simp [hc, Ne.symm hj]
          · simp [hc]
        rw [hfind, if_neg hj]
        by_cases hs : s.core.id = j
        · simp [hs]
        · simp [beq_eq_false_iff_ne.mpr hs, hs]
    · rfl

/-- A core that the device has is found. -/
theorem State.focus_id {id : BitVec 7} (h : (s.seqs.2 id).isSome = true) : (s.focus id).core.id = id := by
  unfold State.focus
  split
  · assumption
  · next hne =>
    split
    · next c hc => simpa using List.find?_some hc
    · next hc => simp [State.seqs, seqsOf, hne, hc] at h

/-- A function run as another core, which keeps the dispatch numbers, keeps them as it comes back. -/
@[simp] theorem State.asCore_seqs {f : State → State} (h : ∀ t, (f t).seqs = t.seqs) (id : BitVec 7) : (s.asCore id f).seqs = s.seqs := by
  have hback : ((s.asCore id f).seqs).2 = s.seqs.2 :=
    (State.focus_seqs _ _).trans ((congrArg Prod.snd (h _)).trans (State.focus_seqs _ _))
  refine Prod.ext (State.focus_id ?_) hback
  rw [h, State.focus_seqs]
  simp [State.seqs, seqsOf]

@[simp] theorem State.updCore_seqs {f : CoreState → CoreState} (h : ∀ c, (f c).id = c.id ∧ (f c).nextSeq = c.nextSeq) (id : BitVec 7) :
    (s.updCore id f).seqs = s.seqs := by
  unfold State.updCore
  split
  · exact State.upd_seqs (h _)
  · refine seqsOf_map fun c => ?_
    split
    · exact h c
    · exact ⟨rfl, rfl⟩

@[simp] theorem seqs_ite {p : Prop} [Decidable p] {a b : State} {w : Seqs} (ha : a.seqs = w) (hb : b.seqs = w) :
    (if p then a else b).seqs = w := by
  split <;> assumption

@[simp] theorem foldl_fst_seqs {α β : Type} {f : State × β → α → State × β} (h : ∀ p a, (f p a).1.seqs = p.1.seqs) (l : List α) (p : State × β) :
    (l.foldl f p).1.seqs = p.1.seqs := by
  induction l generalizing p with
  | nil => rfl
  | cons a l ih => exact (ih _).trans (h p a)

@[simp] theorem foldl_seqs {α : Type} {f : State → α → State} (h : ∀ t a, (f t a).seqs = t.seqs) (l : List α) :
    (l.foldl f s).seqs = s.seqs := by
  induction l generalizing s with
  | nil => rfl
  | cons a l ih => exact ih.trans (h s a)
end
end Sys2Proof.Machine
end

section
/-! SUPPORT. Dispatch numbers: bytes, engines whose work is given up, requests, the answers of queues. -/

namespace Sys2Proof.Machine
set_option Elab.async false

section
variable (s : State) (c : CoreState) {w : Seqs}

@[simp] theorem State.fresh_seqs : s.fresh.2.seqs = s.seqs := by rfl

@[simp] theorem CoreState.updBundle_stamp (seq : Nat) (f : Bundle → Bundle) : (c.updBundle seq f).id = c.id ∧
    (c.updBundle seq f).nextSeq = c.nextSeq := by
  simp [CoreState.updBundle]

@[simp] theorem State.hold_keeps (h : s.seqs = w) : Keeps w s.hold := h
@[simp] theorem State.leaveWindows_seqs : s.leaveWindows.seqs = s.seqs := by rfl

@[simp] theorem CoreState.setBuf_stamp (b : Nat) (v : StatBuf) : (c.setBuf b v).id = c.id ∧ (c.setBuf b v).nextSeq = c.nextSeq := by
  unfold CoreState.setBuf
  split <;> exact ⟨rfl, rfl⟩

@[simp] theorem State.write_seqs (loc : Nat) (bs : List Byte) : (s.write loc bs).seqs = s.seqs := by rfl

@[simp] theorem CoreState.setBank_stamp (b : Bool) (d : BankDesc) : (c.setBank b d).id = c.id ∧ (c.setBank b d).nextSeq = c.nextSeq := by
  unfold CoreState.setBank
  split <;> exact ⟨rfl, rfl⟩

@[simp] theorem CoreState.dirtyBank_stamp (b : Bool) (loc n : Nat) : (c.dirtyBank b loc n).id = c.id ∧
    (c.dirtyBank b loc n).nextSeq = c.nextSeq := by
  unfold CoreState.dirtyBank
  dsimp only
  split <;> simp

/-- R338: the write is noted at the same cores wherever they stand. -/
theorem State.noteSpad_every (loc n : Nat) : ∃ p : CoreState → Bool,
    let f := fun c => if p c then (c.dirtyBank false loc n).dirtyBank true loc n else c
    s.noteSpad loc n = if loc < 2 ^ 46 ∨ 2 ^ 47 ≤ loc then s else { s with core := f s.core, parked := s.parked.map f } := by
  refine ⟨fun c => decide (Loc.spad (cluster c.id) 0 ≤ loc ∧ loc < Loc.spad (cluster c.id + 1) 0
    ∧ (c.bank0.state = 2 ∨ c.bank1.state = 2)), ?_⟩
  simp only [decide_eq_true_eq]
  rfl

@[simp] theorem State.noteSpad_seqs (loc n : Nat) : (s.noteSpad loc n).seqs = s.seqs := by
  obtain ⟨p, h⟩ := s.noteSpad_every loc n
  rw [h]
  exact seqs_ite rfl (seqs_of_every rfl rfl fun c => stamp_ite (by simp) ⟨rfl, rfl⟩)

@[simp] theorem State.writeLocal_seqs (loc : Nat) (bs : List Byte) : (s.writeLocal loc bs).seqs = s.seqs := by simp [State.writeLocal]
@[simp] theorem State.note_seqs (id : BitVec 7) (seq loc n : Nat) : (s.note id seq loc n).seqs = s.seqs := by simp [State.note]
@[simp] theorem State.setPoison_seqs (loc n : Nat) : (s.setPoison loc n).seqs = s.seqs := by rfl

@[simp] theorem State.abandonFrame_seqs (o : EngineOp) : (s.abandonFrame o).seqs = s.seqs := by
  unfold State.abandonFrame
  (repeat' split) <;> simp

@[simp] theorem State.markLine_seqs (key : Option Nat) (line lo n : Nat) : (s.markLine key line lo n).seqs = s.seqs := by
  unfold State.markLine
  split <;> rfl

@[simp] theorem State.markBytes_seqs (key : Option Nat) (pa n : Nat) : (s.markBytes key pa n).seqs = s.seqs := by simp [State.markBytes]
@[simp] theorem State.dropDecoded_seqs (loc n : Nat) : (s.dropDecoded loc n).seqs = s.seqs := by rfl
@[simp] theorem State.updLaunch_seqs (key : Nat) (f : Launch → Launch) : (s.updLaunch key f).seqs = s.seqs := by rfl
@[simp] theorem State.writeNum_seqs (loc n v : Nat) : (s.writeNum loc n v).seqs = s.seqs := by rfl

@[simp] theorem State.digestLine_seqs (key line : Nat) : (s.digestLine key line).seqs = s.seqs := by
  unfold State.digestLine
  (repeat' split) <;> simp

@[simp] theorem State.digestNote_seqs (key pa n : Nat) : (s.digestNote key pa n).seqs = s.seqs := by
  unfold State.digestNote
  split <;> simp

@[simp] theorem State.guardDigest_seqs (s t : State) (loc n : Nat) : (s.guardDigest t loc n).seqs = t.seqs :=
  seqs_ite (t.write_seqs _ _) rfl

@[simp] theorem State.performWrite_seqs (key : Option Nat) (loc : Nat) (bs : List Byte) : (s.performWrite key loc bs).seqs = s.seqs := by
  unfold State.performWrite
  (repeat' split) <;> simp

@[simp] theorem State.ticked_seqs : s.ticked.seqs = s.seqs := by rfl

@[simp] theorem State.mixBytes_seqs (full : State) (loc n : Nat) : (s.mixBytes full loc n).seqs = s.seqs := by
  refine (foldl_seqs (fun t i => ?_) _).trans (State.ticked_seqs s)
  split <;> simp

@[simp] theorem CoreState.crPut_stamp (n : Nat) (v : Word64) : (c.crPut n v).id = c.id ∧ (c.crPut n v).nextSeq = c.nextSeq := by
  simp [CoreState.crPut]

@[simp] theorem State.mixBuf_seqs (full : State) (b : Nat) : (s.mixBuf full b).seqs = s.seqs := by
  unfold State.mixBuf
  refine (State.upd_seqs ?_).trans (State.ticked_seqs s)
  dsimp only
  split <;> simp

@[simp] theorem CoreState.setCarry_stamp (k : BitVec 3) (i : Nat) (p : Pair) : (c.setCarry k i p).id = c.id ∧
    (c.setCarry k i p).nextSeq = c.nextSeq := by
  cases c
  exact ⟨rfl, rfl⟩

@[simp] theorem State.mixCarry_seqs (full : State) (k : BitVec 3) (n : Nat) : (s.mixCarry full k n).seqs = s.seqs :=
  seqsOf_congr (foldl_stamp (fun c i => by split <;> simp) _)

@[simp] theorem State.abandonUnit_seqs (full : State) (o : EngineOp) : (s.abandonUnit full o).seqs = s.seqs := by
  unfold State.abandonUnit
  split <;> simp

@[simp] theorem State.dropRequest_seqs (uid : Nat) : (s.dropRequest uid).seqs = s.seqs := by rfl

@[simp] theorem State.abandonSeg_seqs (full : State) (g : Seg) : (s.abandonSeg full g).seqs = s.seqs := by
  unfold State.abandonSeg
  refine (foldl_seqs (fun t d => ?_) _).trans ?_
  · split <;> simp
  · split <;> simp

@[simp] theorem State.abandon_seqs (full : State) (o : EngineOp) : (s.abandon full o).seqs = s.seqs := by
  unfold State.abandon
  split <;> simp

@[simp] theorem State.copyBytes_seqs (src dst n : Nat) : (s.copyBytes src dst n).seqs = s.seqs := by rfl

@[simp] theorem State.abandonLook_seqs (b : Bool) : (s.abandonLook b).seqs = s.seqs := by
  unfold State.abandonLook
  dsimp only
  split <;> simp

@[simp] theorem State.abandonAll_seqs : s.abandonAll.seqs = s.seqs := by
  unfold State.abandonAll
  split <;> simp

@[simp] theorem State.writeBlock_seqs (pa : Nat) (bs : List Byte) : (s.writeBlock pa bs).seqs = s.seqs := by simp [State.writeBlock]
@[simp] theorem State.unpark_seqs (w : QReq) : (s.unpark w).seqs = s.seqs := by simp [State.unpark]
@[simp] theorem State.l1Clear_seqs : s.l1Clear.seqs = s.seqs := by rfl

@[simp] theorem CoreState.lateOld_stamp (seq key : Nat) (v : Word64) : (c.lateOld seq key v).id = c.id ∧
    (c.lateOld seq key v).nextSeq = c.nextSeq := by
  simp [CoreState.lateOld]

@[simp] theorem CoreState.lateS_stamp (seq : Nat) (d : BitVec 6) (v : Word64) : (c.lateS seq d v).id = c.id ∧
    (c.lateS seq d v).nextSeq = c.nextSeq := by
  simp [CoreState.lateS]

@[simp] theorem State.nextEsn_seqs (src ch cls : Nat) : (s.nextEsn src ch cls).2.seqs = s.seqs := by rfl
@[simp] theorem State.send_seqs (r : Req) : (s.send r).seqs = s.seqs := by rfl
@[simp] theorem State.l1Drop_seqs (id : BitVec 7) (pa : Nat) : (s.l1Drop id pa).seqs = s.seqs := by rfl

@[simp] theorem State.fillBuffer_seqs (seq : Nat) (pc : BitVec 48) (slack : Nat) (z0 : List Nat) (z1 : List Byte) :
    (s.fillBuffer seq pc slack z0 z1).seqs = s.seqs := by
  induction z0 generalizing s z1 with
  | nil => rfl
  | cons loc t ih =>
    rw [State.fillBuffer, ih]
    split
    · simp
    · split <;> simp

@[simp] theorem CoreState.lateG_stamp (seq : Nat) (k : BitVec 3) (v : Word32) : (c.lateG seq k v).id = c.id ∧
    (c.lateG seq k v).nextSeq = c.nextSeq := by
  unfold CoreState.lateG
  split <;> exact ⟨rfl, rfl⟩

@[simp] theorem CoreState.sweep_stamp : c.sweep.id = c.id ∧ c.sweep.nextSeq = c.nextSeq := by simp [CoreState.sweep]

@[simp] theorem CoreState.retireEntry_stamp (seq slot : Nat) : (c.retireEntry seq slot).id = c.id ∧
    (c.retireEntry seq slot).nextSeq = c.nextSeq := by
  simp [CoreState.retireEntry]

@[simp] theorem State.answerGood_seqs (r : QReq) (seq : Nat) (q : BitVec 6) (k : BitVec 3) (buf : List Nat) (a : QAnswer) :
    (s.answerGood r seq q k buf a).seqs = s.seqs := by
  unfold State.answerGood
  (repeat' split) <;> simp

@[simp] theorem State.countChildOf_seqs (id : BitVec 7) (a : QAnswer) : (s.countChildOf id a).seqs = s.seqs := by
  unfold State.countChildOf
  split <;> rfl

@[simp] theorem State.takeAnswers_seqs (id : BitVec 7) : (s.takeAnswers id).seqs = s.seqs := by
  unfold State.takeAnswers
  refine (foldl_seqs (fun t x => ?_) _).trans rfl
  split
  · split <;> simp
  · rfl

@[simp] theorem State.withdrawParked_seqs (id : BitVec 7) : (s.withdrawParked id).seqs = s.seqs := by simp [State.withdrawParked]
@[simp] theorem State.correctLaunch_seqs (key : Nat) : (s.correctLaunch key).seqs = s.seqs := by rfl

@[simp] theorem CoreState.crPuts_stamp (l : List (Nat × Word64)) : (c.crPuts l).id = c.id ∧ (c.crPuts l).nextSeq = c.nextSeq := by
  simp [CoreState.crPuts]

@[simp] theorem State.deliver_seqs (cerr : List (Nat × Word64)) : (s.deliver cerr).seqs = s.seqs := by
  unfold State.deliver
  dsimp only
  refine (State.upd_seqs ?_).trans (by simp)
  split <;> simp

@[simp] theorem CoreState.taint_stamp : c.taint.id = c.id ∧ c.taint.nextSeq = c.nextSeq := by simp [CoreState.taint]
end

end Sys2Proof.Machine
end

section
/-! SUPPORT. Dispatch numbers: queues, L1s, traps, registers, the ends of segments and programs. -/

namespace Sys2Proof.Machine
set_option Elab.async false

section
variable (s : State) (c : CoreState) {w : Seqs}

@[simp] theorem State.taintLaunch_seqs (key : Nat) (cause : BitVec 8) : (s.taintLaunch key cause).seqs = s.seqs := by rfl
@[simp] theorem State.devPut_seqs (n : Nat) (v : Word64) : (s.devPut n v).seqs = s.seqs := by rfl

@[simp] theorem State.sendRecord_seqs (handle root : Word64) (sl cls lid core : Nat) (die : Bool) (body : List Byte) :
    (s.sendRecord handle root sl cls lid core die body).seqs = s.seqs := by
  unfold State.sendRecord
  split <;> rfl

@[simp] theorem State.sendLaunch_seqs (evq root : Word64) (sl cls lid core : Nat) (die : Bool) (body : List Byte) :
    (s.sendLaunch evq root sl cls lid core die body).seqs = s.seqs := by
  unfold State.sendLaunch
  split <;> simp

@[simp] theorem State.doubleTrap_seqs (cause : BitVec 8) : (s.doubleTrap cause).seqs = s.seqs := by simp [State.doubleTrap]

@[simp] theorem CoreState.enterTrap_stamp (t : Trap) (done : BitVec 8) (b : Option Bundle) (rs : List (BitVec 8))
    (es : List (List (Nat × Word64))) (sl : List (BitVec 10)) : (c.enterTrap t done b rs es sl).id = c.id ∧
    (c.enterTrap t done b rs es sl).nextSeq = c.nextSeq := by
  simp [CoreState.enterTrap]

@[simp] theorem CoreState.lateEntry_stamp (t : Trap) (seq slot : Nat) : (c.lateEntry t seq slot).id = c.id ∧
    (c.lateEntry t seq slot).nextSeq = c.nextSeq := by
  simp [CoreState.lateEntry]

@[simp] theorem State.consume_seqs (seq : Nat) (pc : BitVec 48) (slot src : Nat) (addr : Word64) :
    (s.consume seq pc slot src addr).seqs = s.seqs := by
  unfold State.consume
  dsimp only
  (repeat' split) <;> simp

@[simp] theorem State.consumeHere_keeps (loc : Nat) (addr : Word64) (h : s.seqs = w) : Keeps w (s.consumeHere loc addr) := by
  simp [State.consumeHere, h]

@[simp] theorem State.farWait_keeps (addr : Word64) (loc n : Nat) (kind : ReqKind) (data : List Byte) (k : State → List Byte → Out)
    (hk : ∀ t a, t.seqs = w → Keeps w (k t a)) (h : s.seqs = w) : Keeps w (s.farWait addr loc n kind data k) := by
  unfold State.farWait
  dsimp only
  split
  · split
    · simp [h]
    · split
      · simp [h]
      · exact hk _ _ h
  · simp [h]

@[simp] theorem State.farRead_keeps (addr : Word64) (loc n : Nat) (k : State → List Byte → Out)
    (hk : ∀ t a, t.seqs = w → Keeps w (k t a)) (h : s.seqs = w) : Keeps w (s.farRead addr loc n k) :=
  s.farWait_keeps _ _ _ _ _ k hk h

@[simp] theorem State.dispatch_seqs (src ch pass : Nat) (t : Tag) (what : Moved) : (s.dispatch src ch pass t what).seqs = s.seqs := by rfl

@[simp] theorem State.missed_seqs (line : Nat) : (s.missed line).seqs = s.seqs := by
  unfold State.missed
  split <;> rfl

@[simp] theorem State.directRead_keeps (addr : Word64) (loc n : Nat) (k : State → List Byte → Out)
    (hk : ∀ t a, t.seqs = w → Keeps w (k t a)) (h : s.seqs = w) : Keeps w (s.directRead addr loc n k) := by
  unfold State.directRead
  split
  · simp [h]
  · split
    · exact s.farRead_keeps _ _ _ k hk h
    · split
      · split
        · simp [h]
        · split
          · simp [h]
          · exact hk _ _ h
      · split
        · simp [h]
        · exact hk _ _ h

@[simp] theorem State.replyTo_seqs (r : Req) (k : BitVec 7) (dest : LoadDest) (parts : List Part) (bad : Bool) (src site : Nat) :
    (s.replyTo r k dest parts bad src site).seqs = s.seqs := by
  rfl

@[simp] theorem CoreState.begin_stamp (b : Bundle) (e : Entry) : (c.begin b e).id = c.id ∧ (c.begin b e).nextSeq = c.nextSeq := by
  simp [CoreState.begin]

@[simp] theorem State.asEntry_seqs (seq : Nat) (f : State → State) (hf : ∀ t, (f t).seqs = t.seqs) : (s.asEntry seq f).seqs = s.seqs := by
  unfold State.asEntry
  split
  · rfl
  · split
    · rfl
    · rw [hf]
      simp

@[simp] theorem State.takeTrap_seqs (t : Trap) : (s.takeTrap t).seqs = s.seqs := by
  unfold State.takeTrap
  dsimp only
  (repeat' split) <;> simp

@[simp] theorem State.answerEntry_seqs (r : QReq) (seq : Nat) (q : BitVec 6) (k : BitVec 3) (buf : List Nat) (a : QAnswer) :
    (s.answerEntry r seq q k buf a).seqs = s.seqs := by
  unfold State.answerEntry
  split <;> simp

@[simp] theorem State.answerLaunch_seqs (r : QReq) (seq : Nat) (a : QAnswer) : (s.answerLaunch r seq a).seqs = s.seqs := by
  unfold State.answerLaunch
  split <;> simp

@[simp] theorem State.slotReturn_seqs (r : QReq) (n : BitVec 8) (bs : List Byte) : (s.slotReturn r n bs).seqs = s.seqs := by
  unfold State.slotReturn
  split <;> rfl

@[simp] theorem State.answerSlot_seqs (r : QReq) (n : BitVec 8) (a : QAnswer) : (s.answerSlot r n a).seqs = s.seqs := by
  unfold State.answerSlot
  split <;> simp

@[simp] theorem State.sendMsix_seqs (v : BitVec 6) : (s.sendMsix v).seqs = s.seqs := by
  unfold State.sendMsix
  split <;> rfl

@[simp] theorem State.recordSent_seqs (r : QReq) (event : Bool) : (s.recordSent r event).seqs = s.seqs := by
  unfold State.recordSent
  (repeat' split) <;> simp

@[simp] theorem State.eventLost_seqs : s.eventLost.seqs = s.seqs := by rfl

@[simp] theorem State.answer_seqs (r : QReq) (a : QAnswer) : (s.answer r a).seqs = s.seqs := by
  unfold State.answer
  split <;> simp

@[simp] theorem State.chargeMeter_seqs (m pj : Nat) : (s.chargeMeter m pj).seqs = s.seqs := by
  unfold State.chargeMeter
  split <;> rfl

@[simp] theorem State.chargeQueue_seqs (pa : Nat) : (s.chargeQueue pa).seqs = s.seqs := by simp [State.chargeQueue]

@[simp] theorem State.peekTaken_seqs (pa head : Nat) (who : Agent) : (s.peekTaken pa head who).seqs = s.seqs := by
  unfold State.peekTaken
  extract_lets own hit one
  have hone (t : State) (c : CoreState) (b : Bool) : (one t c b).seqs = t.seqs := by
    refine seqs_ite rfl (seqs_ite (State.updCore_seqs (fun c => ?_) _) (State.asCore_seqs (fun t => ?_) _)) <;> simp
  exact foldl_seqs (fun t c => (hone _ c true).trans (hone t c false)) _

@[simp] theorem State.setQcb_seqs (pa : Nat) (f : Qcb → Qcb) : (s.setQcb pa f).seqs = s.seqs := by simp [State.setQcb]
@[simp] theorem State.dequeue_seqs (pa : Nat) (who : Agent) : (s.dequeue pa who).seqs = s.seqs := by simp [State.dequeue]
@[simp] theorem State.wakeOn_seqs (pa : Nat) : (s.wakeOn pa).seqs = s.seqs := by rfl
@[simp] theorem State.enqueue_seqs (r : QReq) : (s.enqueue r).seqs = s.seqs := by simp [State.enqueue]

@[simp] theorem CoreState.bumpX_stamp (n : BitVec 4) (by' : Word32) : (c.bumpX n by').id = c.id ∧
    (c.bumpX n by').nextSeq = c.nextSeq := by
  simp [CoreState.bumpX]

@[simp] theorem CoreState.swapped_stamp (sh : BitVec 2) (swap : Bool) : (c.swapped sh swap).id = c.id ∧
    (c.swapped sh swap).nextSeq = c.nextSeq := by
  unfold CoreState.swapped
  split <;> exact ⟨rfl, rfl⟩

@[simp] theorem State.holdUnchecked_keeps (h : s.seqs = w) : Keeps w s.holdUnchecked := h
@[simp] theorem State.await_keeps (fails : Bool) (h : s.seqs = w) : Keeps w (s.await fails) := by simp [State.await, h]

@[simp] theorem State.updCtl_seqs (die : Bool) (f : Controller → Controller) : (s.updCtl die f).seqs = s.seqs := by
  unfold State.updCtl
  split <;> rfl

@[simp] theorem State.charge_seqs (key kind n : Nat) : (s.charge key kind n).seqs = s.seqs := by
  unfold State.charge
  split <;> simp

@[simp] theorem State.sendCoreEvent_seqs (bits : Nat) : (s.sendCoreEvent c bits).seqs = s.seqs := by simp [State.sendCoreEvent]

@[simp] theorem State.sendHost_seqs (cls core : Nat) (die : Bool) (body : List Byte) : (s.sendHost cls core die body).seqs = s.seqs := by
  simp [State.sendHost]

@[simp] theorem State.setEvent_seqs (id : BitVec 7) (bit : Nat) : (s.setEvent id bit).seqs = s.seqs := by
  unfold State.setEvent
  dsimp only
  split <;> simp

@[simp] theorem State.countOverdue_seqs (a : Agent) (old new : Tag) : (s.countOverdue a old new).seqs = s.seqs := by
  unfold State.countOverdue
  (repeat' split) <;> simp

@[simp] theorem State.trap_keeps (cause : BitVec 8) (t0 t1 t2 t3 : Word64) (h : s.seqs = w) : Keeps w (s.trap cause t0 t1 t2 t3) := by
  simp [State.trap, h]

@[simp] theorem State.trap0B_keeps (h : s.seqs = w) : Keeps w s.trap0B := by simp [State.trap0B, h]
@[simp] theorem State.trap02_keeps (h : s.seqs = w) : Keeps w s.trap02 := by simp [State.trap02, h]
@[simp] theorem CoreState.returnTrap_stamp : c.returnTrap.id = c.id ∧ c.returnTrap.nextSeq = c.nextSeq := by simp [CoreState.returnTrap]

@[simp] theorem State.fillTlb_seqs (cl : Nat) (root : Word64) (p : Page) : (s.fillTlb cl root p).seqs = s.seqs := by
  unfold State.fillTlb
  split <;> rfl

@[simp] theorem State.accTrap_keeps (f : AccFault) (k : AccKind) (e : Nat) (addr done : Word64) (h : s.seqs = w) : Keeps w
    (s.accTrap f k e addr done) := by
  simp [State.accTrap, h]

@[simp] theorem State.usePage_seqs (p : Page) : (s.usePage p).seqs = s.seqs := by
  unfold State.usePage
  dsimp only
  (repeat' split) <;> simp

@[simp] theorem State.notePage_seqs (p : Place) : (s.notePage p).seqs = s.seqs := by
  unfold State.notePage
  split <;> simp

@[simp] theorem State.writeSync_seqs (loc : Nat) (bs : List Byte) : (s.writeSync loc bs).seqs = s.seqs := by simp [State.writeSync]
@[simp] theorem State.l1Store_seqs (pa : Nat) (bs : List Byte) : (s.l1Store pa bs).seqs = s.seqs := by rfl
@[simp] theorem State.sendLoad_seqs (dest : LoadDest) (parts : List Part) : (s.sendLoad dest parts).seqs = s.seqs := by rfl
@[simp] theorem State.sendStore_seqs (parts : List Part) (release : Bool) : (s.sendStore parts release).seqs = s.seqs := by rfl

@[simp] theorem State.whenOn_keeps (g : BitVec 4) (k : Out) (hk : Keeps w k) (h : s.seqs = w) : Keeps w (s.whenOn g k) := by
  unfold State.whenOn
  split
  · exact hk
  · exact h

@[simp] theorem State.putS_seqs (d : BitVec 6) (v : Word64) : (s.putS d v).seqs = s.seqs := by simp [State.putS]
@[simp] theorem State.alu_keeps (o : OpSA) (f : Word64 → Word64 → Word64) (h : s.seqs = w) : Keeps w (s.alu o f) := by simp [State.alu, h]

@[simp] theorem State.alu32_keeps (o : OpSA) (f : Word32 → Word32 → Word32) (h : s.seqs = w) : Keeps w (s.alu32 o f) := by
  simp [State.alu32, h]

@[simp] theorem State.aluDiv_keeps (o : OpSA) (zero : Word64 → Bool) (f : Word64 → Word64 → Word64) (h : s.seqs = w) : Keeps w
    (s.aluDiv o zero f) := by
  simp [State.aluDiv, h]

@[simp] theorem State.div64_keeps (o : OpSA) (f : Word64 → Word64 → Word64) (h : s.seqs = w) : Keeps w (s.div64 o f) := by
  simp [State.div64, h]

@[simp] theorem State.div32_keeps (o : OpSA) (f : Word32 → Word32 → Word32) (h : s.seqs = w) : Keeps w (s.div32 o f) := by
  simp [State.div32, h]

@[simp] theorem State.aluUn_keeps (o : OpSU) (f : Word64 → Word64) (h : s.seqs = w) : Keeps w (s.aluUn o f) := by simp [State.aluUn, h]

@[simp] theorem State.aluImm_keeps (o : OpSI) (f : Word64 → Word64 → Word64) (h : s.seqs = w) : Keeps w (s.aluImm o f) := by
  simp [State.aluImm, h]

@[simp] theorem State.aluShift_keeps (o : OpShift) (f : Word64 → Nat → Word64) (h : s.seqs = w) : Keeps w (s.aluShift o f) := by
  simp [State.aluShift, h]

@[simp] theorem State.guardOp_keeps (o : OpGuard) (f : Word32 → Word32 → Word32) (h : s.seqs = w) : Keeps w (s.guardOp o f) := by
  simp [State.guardOp, h]

@[simp] theorem State.injectReserved_seqs (ls : List (Nat × Nat × Reserved)) : (s.injectReserved ls).seqs = s.seqs := by
  unfold State.injectReserved
  refine foldl_seqs (fun t p => ?_) _
  split
  next e u heq =>
    have h := t.nextEsn_seqs p.1 p.2.1 1
    rw [heq] at h
    exact h

@[simp] theorem State.performOwn_seqs (loc : Nat) (bs : List Byte) : (s.performOwn loc bs).seqs = s.seqs := by simp [State.performOwn]
@[simp] theorem State.poisonBlock_seqs (pa : Nat) : (s.poisonBlock pa).seqs = s.seqs := by simp [State.poisonBlock]

@[simp] theorem CoreState.openLevel_stamp (pc next : BitVec 48) (o : OpLoop) (rpt : Bool) : (c.openLevel pc next o rpt).id = c.id ∧
    (c.openLevel pc next o rpt).nextSeq = c.nextSeq := by
  unfold CoreState.openLevel
  dsimp only
  (repeat' split) <;> exact ⟨rfl, rfl⟩

@[simp] theorem CoreState.moveX_stamp (b : Binding) (by' : Word32) : (c.moveX b by').id = c.id ∧ (c.moveX b by').nextSeq = c.nextSeq := by
  unfold CoreState.moveX
  split <;> simp

@[simp] theorem CoreState.loopnMove_stamp (v : NestLevel) : (c.loopnMove v).id = c.id ∧ (c.loopnMove v).nextSeq = c.nextSeq := by
  simp [CoreState.loopnMove]

@[simp] theorem CoreState.jumpTo_stamp (t : BitVec 48) : (c.jumpTo t).id = c.id ∧ (c.jumpTo t).nextSeq = c.nextSeq := by
  simp [CoreState.jumpTo]

@[simp] theorem State.loadScalar_keeps (o : OpSL) (a : Word64) (loc : Nat) (h : s.seqs = w) : Keeps w (s.loadScalar o a loc) := by
  unfold State.loadScalar
  dsimp only
  (repeat' split) <;> simp [h]

@[simp] theorem State.acquired_seqs : s.acquired.seqs = s.seqs := by rfl

@[simp] theorem State.storeScalar_seqs (a : Word64) (loc : Nat) (bs : List Byte) (release : Bool) :
    (s.storeScalar a loc bs release).seqs = s.seqs := by
  unfold State.storeScalar
  split <;> rfl

@[simp] theorem State.drainScope_keeps (scope : Nat) (h : s.seqs = w) : Keeps w (s.drainScope scope) := by
  unfold State.drainScope
  (repeat' split) <;> simp [h]

@[simp] theorem State.transfer_keeps (g : BitVec 4) (i : Instr) (link : Bool) (h : s.seqs = w) : Keeps w (s.transfer g i link) := by
  unfold State.transfer
  split <;> simp [h]

@[simp] theorem State.setNest_seqs (lv : BitVec 3) (f : NestLevel → NestLevel) : (s.setNest lv f).seqs = s.seqs := by rfl
@[simp] theorem State.taintSig_seqs : s.taintSig.seqs = s.seqs := by rfl
@[simp] theorem CoreState.closeSeg_stamp : c.closeSeg.id = c.id ∧ c.closeSeg.nextSeq = c.nextSeq := by simp [CoreState.closeSeg]

@[simp] theorem State.sigTaint_seqs (i : Nat) (expected measured : Word64) : (s.sigTaint i expected measured).seqs = s.seqs := by
  refine (State.taintSig_seqs _).trans (State.upd_seqs ?_)
  simp

@[simp] theorem State.mismatch_seqs (i : Nat) (expected measured : Word64) : (s.mismatch i expected measured).seqs = s.seqs :=
  seqs_ite (State.deliver_seqs _ _) (State.sigTaint_seqs _ _ _ _)

@[simp] theorem State.endCore_seqs : s.endCore.seqs = s.seqs := by rfl
end

end Sys2Proof.Machine
end

section
/-! SUPPORT. Dispatch numbers: the vector slots. -/

namespace Sys2Proof.Machine
set_option Elab.async false

section
variable (s : State) (c : CoreState) {w : Seqs}

@[simp] theorem State.ending_seqs : s.ending.seqs = s.seqs := by simp [State.ending]
@[simp] theorem CoreState.wakeM_stamp : c.wakeM.id = c.id ∧ c.wakeM.nextSeq = c.nextSeq := by simp [CoreState.wakeM]
theorem State.wakeHold_keeps (h : s.seqs = w) : ∀ o ∈ s.wakeHold, Keeps w o := by simp [State.wakeHold, h]

@[simp] theorem State.cupTurn_keeps (uses : Bool) (k : State → Out) (hk : ∀ t, t.seqs = w → Keeps w (k t)) (h : s.seqs = w) : Keeps w
    (s.cupTurn uses k) := by
  unfold State.cupTurn
  split
  · simp [h]
  · exact hk _ ((State.upd_seqs ⟨rfl, rfl⟩).trans h)

@[simp] theorem CoreState.popCup_stamp : c.popCup.id = c.id ∧ c.popCup.nextSeq = c.nextSeq := by simp [CoreState.popCup]
@[simp] theorem State.chargeV_seqs : s.chargeV.seqs = s.seqs := by simp [State.chargeV]

@[simp] theorem State.vecOpen_keeps (u : VUse) (k : State → BitVec 128 → List Nat → Nat → Out)
    (hk : ∀ t a b c, t.seqs = w → Keeps w (k t a b c)) (h : s.seqs = w) : Keeps w (s.vecOpen u k) := by
  unfold State.vecOpen
  refine s.cupTurn_keeps _ _ (fun t ht => ?_) h
  dsimp only
  split
  · simp [ht]
  · split
    · next o ho => exact t.wakeHold_keeps ht o ho
    · split
      · simp [ht]
      · split
        · simp [ht]
        · split
          · simp [ht]
          · split
            · simp [ht]
            · split
              · simp [ht]
              · exact hk _ _ _ _ (seqs_ite (by simp [ht]) (by simp [ht]))

@[simp] theorem CoreState.addFlags_stamp (u : Nat) (fl : List (Nat × Flags)) : (c.addFlags u fl).id = c.id ∧
    (c.addFlags u fl).nextSeq = c.nextSeq := by
  unfold CoreState.addFlags
  refine foldl_stamp (fun c f => ?_) _
  extract_lets m
  clear_value m
  split
  · exact ⟨rfl, rfl⟩
  · exact CoreState.crPut_stamp _ _ _

@[simp] theorem State.fpTrap_keeps (fl : List (Nat × Flags)) (h : s.seqs = w) : Keeps w (s.fpTrap fl) := by simp [State.fpTrap, h]

@[simp] theorem State.putLanes_seqs (a : Nat) (vs : List (Nat × Nat)) : (s.putLanes a vs).seqs = s.seqs := by
  unfold State.putLanes
  exact foldl_seqs (fun t p => t.writeSync_seqs _ _) _

@[simp] theorem State.vecEnd_keeps (a : Nat) (res : List (Nat × FRes)) (h : s.seqs = w) : Keeps w (s.vecEnd a res) := by
  simp [State.vecEnd, h]

@[simp] theorem State.vec3_keeps (o : OpVA) (useD draws : Bool) (types : BitVec 128 → Bool)
    (f : BitVec 128 → Nat → Nat → Nat → Nat → Nat → FRes) (h : s.seqs = w) : Keeps w (s.vec3 o useD draws types f) := by
  unfold State.vec3
  refine s.vecOpen_keeps _ _ (fun t sh lanes x ht => ?_) h
  exact t.vecEnd_keeps _ _ ht

@[simp] theorem State.vec2_keeps (o : OpVA) (draws : Bool) (types : BitVec 128 → Bool) (f : BitVec 128 → Nat → Nat → Nat → Nat → FRes)
    (h : s.seqs = w) : Keeps w (s.vec2 o draws types f) := by
  simp [State.vec2, h]

@[simp] theorem State.vec1_keeps (o : OpVU) (draws : Bool) (types : BitVec 128 → Bool) (f : BitVec 128 → Nat → Nat → Nat → FRes)
    (h : s.seqs = w) : Keeps w (s.vec1 o draws types f) := by
  unfold State.vec1
  refine s.vecOpen_keeps _ _ (fun t sh lanes x ht => ?_) h
  exact t.vecEnd_keeps _ _ ht

@[simp] theorem State.vecPair_keeps (hi lo : Nat) (res : List (Nat × Pair × Flags)) (h : s.seqs = w) : Keeps w (s.vecPair hi lo res) := by
  simp [State.vecPair, h]

@[simp] theorem State.markDone_seqs (is : List Nat) : (s.markDone is).seqs = s.seqs := by rfl
@[simp] theorem State.notePages_seqs (ls : List (Nat × Word64 × Place)) : (s.notePages ls).seqs = s.seqs := by simp [State.notePages]

@[simp] theorem State.performLanes_seqs (d : Nat) (write : Bool) (ls : List (Nat × Word64 × Place)) :
    (s.performLanes d write ls).seqs = s.seqs := by
  unfold State.performLanes
  dsimp only
  split
  · refine (foldl_seqs (fun t p => State.sendStore_seqs _ _ _) _).trans ((foldl_seqs (fun t p => ?_) _).trans
      (foldl_seqs (fun t p => State.writeSync_seqs _ _ _) _))
    split <;> simp
  · refine (foldl_seqs (fun t p => State.sendLoad_seqs _ _ _) _).trans ((foldl_seqs (fun t p => State.l1Drop_seqs _ _ _) _).trans ?_)
    simp

@[simp] theorem State.moveLanes_keeps (d : Nat) (write wait : Bool) (as : List (Nat × Word64)) (done : State → State)
    (hdone : ∀ t, (done t).seqs = t.seqs) (h : s.seqs = w) : Keeps w (s.moveLanes d write wait as done) := by
  unfold State.moveLanes
  extract_lets k
  dsimp only
  split
  · simp [h]
  · split
    · simp [h]
    · split
      · simp [hdone, h]
      · split
        · simp [h]
        · split <;> simp [h]

@[simp] theorem State.moveStore_keeps (d : Nat) (write : Bool) (as : List (Nat × Nat)) (done : State → State)
    (hdone : ∀ t, (done t).seqs = t.seqs) (h : s.seqs = w) : Keeps w (s.moveStore d write as done) := by
  unfold State.moveStore
  extract_lets c u k as ok ranges regs vals t t'
  have ht : t.seqs = w := (foldl_seqs (fun t v => State.writeSync_seqs _ _ _) _).trans h
  clear_value k
  refine Keeps.ite (by simp [h]) ?_
  split
  · simp [h]
  · split
    · simp [hdone, ht]
    · exact State.accTrap_keeps _ _ _ _ _ _ ((t.markDone_seqs _).trans ht)

@[simp] theorem advance_seqs (base : BitVec 6) (sh : BitVec 128) : (advance base sh s).seqs = s.seqs := by simp [advance]

@[simp] theorem State.vmOpen_keeps (g : BitVec 4) (sh : BitVec 2) (swap : Bool) (types : BitVec 128 → Bool) (regs : List (Option Nat))
    (k : State → BitVec 128 → List Nat → Out) (hk : ∀ t a b, t.seqs = w → Keeps w (k t a b)) (h : s.seqs = w) : Keeps w
    (s.vmOpen g sh swap types regs k) := by
  unfold State.vmOpen
  dsimp only
  split
  · simp [h]
  · split
    · next o ho => exact s.wakeHold_keeps h o ho
    · split
      · simp [h]
      · split
        · simp [h]
        · exact hk _ _ _ h

@[simp] theorem vmDone_seqs (sh : BitVec 2) (swap mode : Bool) (base : BitVec 6) (shape : BitVec 128) :
    (vmDone sh swap mode base shape s).seqs = s.seqs := by
  unfold vmDone
  split <;> simp

@[simp] theorem State.vmove_keeps (o : OpVM) (write : Bool) (h : s.seqs = w) : Keeps w (s.vmove o write) := by
  unfold State.vmove
  refine s.vmOpen_keeps _ _ _ _ _ _ (fun t sh lanes ht => ?_) h
  split <;> simp [ht]
end

end Sys2Proof.Machine
end

section
/-! SUPPORT. Dispatch numbers: links, atomics, the engines and their queues, the ends of launches. -/

namespace Sys2Proof.Machine
set_option Elab.async false

section
variable (s : State) (c : CoreState) {w : Seqs}

@[simp] theorem State.vindexed_keeps (o : OpVX) (write : Bool) (h : s.seqs = w) : Keeps w (s.vindexed o write) := by
  unfold State.vindexed
  refine s.vmOpen_keeps _ _ _ _ _ _ (fun t sh lanes ht => ?_) h
  extract_lets d ix done idx
  split
  · simp [ht]
  · split
    · simp [ht]
    · split <;> simp [ht, done]

@[simp] theorem State.setLink_seqs (l : Link) : (s.setLink l).seqs = s.seqs := by rfl

@[simp] theorem State.chargeFor_seqs (r : Req) (kind n : Nat) : (s.chargeFor r kind n).seqs = s.seqs := by
  unfold State.chargeFor
  split <;> simp

@[simp] theorem State.updRemote_seqs (uid : Nat) (f : Remote → Remote) : (s.updRemote uid f).seqs = s.seqs := by rfl
@[simp] theorem State.updPeerOut_seqs (uid : Nat) (f : PeerAnswer → PeerAnswer) : (s.updPeerOut uid f).seqs = s.seqs := by rfl

@[simp] theorem State.sendOut_seqs (n : BitVec 8) (w : Waiting) : (s.sendOut n w).seqs = s.seqs := by
  unfold State.sendOut
  extract_lets l
  refine seqs_ite ?_ ?_
  · split
    · rfl
    · next a _ => exact s.setLink_seqs { l with sent := l.sent + flitsOf a.data.length }
  · split <;> simp

@[simp] theorem State.transmit_seqs (n : BitVec 8) : (s.transmit n).seqs = s.seqs := by
  unfold State.transmit
  dsimp only
  split <;> simp

@[simp] theorem State.assignOne_seqs (m : Remote) : (s.assignOne m).seqs = s.seqs := by
  unfold State.assignOne
  dsimp only
  (repeat' split) <;> simp

@[simp] theorem State.assignAnswer_seqs (a : PeerAnswer) : (s.assignAnswer a).seqs = s.seqs := by
  unfold State.assignAnswer
  dsimp only
  (repeat' split) <;> simp

@[simp] theorem State.assign_seqs : s.assign.seqs = s.seqs := by simp [State.assign]
@[simp] theorem State.unlink_seqs (n : BitVec 8) : (s.unlink n).seqs = s.seqs := by simp [State.unlink]

@[simp] theorem State.chargeAtom_seqs (key : Option Nat) : (s.chargeAtom key).seqs = s.seqs := by
  unfold State.chargeAtom
  split <;> simp

@[simp] theorem State.updWindow_seqs (launch : Nat) (id : BitVec 3) (f : Window → Window) : (s.updWindow launch id f).seqs = s.seqs := by
  rfl

@[simp] theorem State.dropWindow_seqs (launch : Nat) (id : BitVec 3) : (s.dropWindow launch id).seqs = s.seqs := by rfl

@[simp] theorem State.atomOne_keeps (a : Word64) (n : Nat) (far : Bool) (e : ElemOp) (v cmp : Word64) (d : BitVec 6) (ty : BitVec 3)
    (h : s.seqs = w) : Keeps w (s.atomOne a n far e v cmp d ty) := by
  unfold State.atomOne
  (repeat' split) <;> simp [h]

@[simp] theorem State.atomLane_seqs (e : ElemOp) (d : Nat) (ret : Bool) (lane loc v : Nat) :
    (s.atomLane e d ret lane loc v).seqs = s.seqs := by
  unfold State.atomLane
  split <;> simp

@[simp] theorem State.performAtoms_seqs (e : ElemOp) (d : Nat) (ret : Bool) (ls : List (Nat × Word64 × Place)) :
    (s.performAtoms e d ret ls).seqs = s.seqs := by
  unfold State.performAtoms
  extract_lets v far kind t
  have ht : t.seqs = s.seqs := foldl_seqs (fun t l => t.atomLane_seqs _ _ _ _ _ _) _
  refine (foldl_seqs (fun t ps => ?_) _).trans ht
  exact (State.send_seqs _ _).trans (State.fresh_seqs _)

@[simp] theorem CoreState.bumpSeq_stamp (n : Nat) : (c.bumpSeq n).id = c.id ∧ (c.bumpSeq n).nextSeq = c.nextSeq := by
  simp [CoreState.bumpSeq]

@[simp] theorem vatomDone_seqs (o : OpVatom) : (vatomDone o s).seqs = s.seqs := by
  unfold vatomDone
  split <;> simp

@[simp] theorem State.pushOp_seqs (eng : Nat) (i : Instr) (shape : BitVec 128) (addrs regs : List Nat) (locks busy : List (Nat × Nat))
    (segs : List Seg) (extra : List Nat) : (s.pushOp eng i shape addrs regs locks busy segs extra).seqs = s.seqs := by
  rfl

@[simp] theorem State.engOpen_keeps (g : BitVec 4) (sh : BitVec 2) (swap : Bool) (ok : BitVec 128 → Bool) (k : State → BitVec 128 → Out)
    (hk : ∀ t a, t.seqs = w → Keeps w (k t a)) (h : s.seqs = w) : Keeps w (s.engOpen g sh swap ok k) := by
  refine s.whenOn_keeps _ _ ?_ h
  split
  · next o ho => exact s.wakeHold_keeps h o ho
  · exact Keeps.ite (by simp [h]) (hk _ _ h)

@[simp] theorem State.engGate_keeps (g : BitVec 4) (k : Out) (hk : Keeps w k) (h : s.seqs = w) : Keeps w (s.engGate g k) := by
  refine s.whenOn_keeps _ _ ?_ h
  cases hw : s.wakeHold with
  | none => exact hk
  | some o => exact s.wakeHold_keeps h o hw

@[simp] theorem State.storeTrap_keeps (write : Bool) (a : Nat) (h : s.seqs = w) : Keeps w (s.storeTrap write a) := by
  simp [State.storeTrap, h]

@[simp] theorem State.endOp_seqs (o : EngineOp) : (s.endOp o).seqs = s.seqs := by rfl

@[simp] theorem CoreState.feed_stamp (x : BitVec 4) (pi : Bool) (stride : Word32) : (c.feed x pi stride).id = c.id ∧
    (c.feed x pi stride).nextSeq = c.nextSeq := by
  unfold CoreState.feed
  split <;> simp

@[simp] theorem State.issueMma_keeps (i : Instr) (shape : BitVec 128) (r0 : Nat) (accs : List (BitVec 3)) (feeds : List (Nat × Nat))
    (done : CoreState → CoreState) (hdone : ∀ c, (done c).id = c.id ∧ (done c).nextSeq = c.nextSeq) (h : s.seqs = w) : Keeps w
    (s.issueMma i shape r0 accs feeds done) := by
  unfold State.issueMma
  extract_lets c n as as' busy
  refine Keeps.ite (by simp [h]) (Keeps.ite (by simp [h]) ?_)
  split
  · simp [h]
  · exact Keeps.ite (by simp [h]) (by simp [hdone, h])

@[simp] theorem State.issueAcc_keeps (i : Instr) (addrs regs : List Nat) (shape : BitVec 128) (locks busy : List (Nat × Nat))
    (extra : List Nat) (done : CoreState → CoreState) (hdone : ∀ c, (done c).id = c.id ∧ (done c).nextSeq = c.nextSeq) (h : s.seqs = w) :
    Keeps w (s.issueAcc i addrs regs shape locks busy extra done) :=
  Keeps.ite (by simp [h]) (by simp [hdone, h])

theorem State.rowTrap_keeps (us : List RowUse) (h : s.seqs = w) : ∀ o ∈ s.rowTrap us, Keeps w o := by simp [State.rowTrap, h]

@[simp] theorem State.lcfgMove_keeps (o : OpLcfgX) (i : Instr) (out : Bool) (h : s.seqs = w) : Keeps w (s.lcfgMove o i out) := by
  unfold State.lcfgMove
  (repeat' split) <;> simp [h]

@[simp] theorem State.issueRows_keeps (i : Instr) (shape : BitVec 128) (xa xb : BitVec 4) (sh : BitVec 2) (pi swap : Bool)
    (acc : List (Nat × Nat)) (rows : Word32 → Word32 → List RowUse) (h : s.seqs = w) : Keeps w
    (s.issueRows i shape xa xb sh pi swap acc rows) := by
  unfold State.issueRows
  dsimp only
  split
  · next o ho => exact s.rowTrap_keeps _ h o ho
  · exact Keeps.ite (by simp [h]) (by simp [h])

@[simp] theorem State.pushCopy_seqs (i : Instr) (shape : BitVec 128) (segs : List Seg) (list : List (Nat × Nat)) (extra : List Nat) :
    (s.pushCopy i shape segs list extra).seqs = s.seqs := by
  rfl

@[simp] theorem State.copyGo_keeps (i : Instr) (shape : BitVec 128) (f : CopyForm) (moves : List RowMove) (list : List (Nat × Nat))
    (extra : List Nat) (done : CoreState → CoreState) (hdone : ∀ c, (done c).id = c.id ∧ (done c).nextSeq = c.nextSeq) (h : s.seqs = w) :
    Keeps w (s.copyGo i shape f moves list extra done) := by
  unfold State.copyGo
  split
  · simp [h]
  · next segs pages hm =>
    extract_lets t
    have ht : t.seqs = w := (foldl_seqs (fun t p => t.usePage_seqs p) _).trans h
    exact Keeps.ite (by simp [ht]) (by simp [hdone, ht])

@[simp] theorem State.copyOpen_keeps (g : BitVec 4) (sh : BitVec 2) (swap : Bool) (ok : BitVec 128 → Bool) (k : BitVec 128 → Out)
    (hk : ∀ a, Keeps w (k a)) (h : s.seqs = w) : Keeps w (s.copyOpen g sh swap ok k) := by
  refine s.whenOn_keeps _ _ ?_ h
  split
  · next o ho => exact s.wakeHold_keeps h o ho
  · exact Keeps.ite (by simp [h]) (hk _)

@[simp] theorem State.watermarkWait_keeps (g : BitVec 4) (ch : BitVec 5) (t : Option Nat) (h : s.seqs = w) : Keeps w
    (s.watermarkWait g ch t) := by
  simp [State.watermarkWait, h]

@[simp] theorem CoreState.addBar_stamp (b n : Nat) : (c.addBar b n).id = c.id ∧ (c.addBar b n).nextSeq = c.nextSeq := by
  simp [CoreState.addBar]

@[simp] theorem State.barrierOp_keeps (g : BitVec 4) (who : BitVec 3) (i : Instr) (v : Nat) (h : s.seqs = w) : Keeps w
    (s.barrierOp g who i v) := by
  refine s.whenOn_keeps _ _ ?_ h
  split
  · next o ho => exact s.wakeHold_keeps h o ho
  · split <;> simp [h]

@[simp] theorem State.dropRegion_seqs (r : Nat) (old : State) : (s.dropRegion r old).seqs = s.seqs := by rfl

@[simp] theorem State.doorbell_seqs (v : Word64) : (s.doorbell v).seqs = s.seqs := by
  refine seqs_ite rfl (seqs_ite ?_ ?_)
  · exact s.setEvent_seqs _ _
  · exact s.setEvent_seqs _ _

@[simp] theorem State.orphan_seqs (id : BitVec 7) : (s.orphan id).seqs = s.seqs := by rfl
@[simp] theorem State.updLq_seqs (die : Bool) (n : BitVec 6) (f : LaunchQueue → LaunchQueue) : (s.updLq die n f).seqs = s.seqs := by rfl

@[simp] theorem State.tailToHead_seqs (key : Nat) : (s.tailToHead key).seqs = s.seqs := by
  unfold State.tailToHead
  (repeat' split) <;> rfl

@[simp] theorem State.updGang_seqs (key k0 : Nat) (f : Gang → Gang) : (s.updGang key k0 f).seqs = s.seqs := by rfl

@[simp] theorem State.flush_seqs : s.flush.seqs = s.seqs := by
  unfold State.flush
  extract_lets now t
  refine (foldl_seqs (fun t l => foldl_seqs (fun t g => ?_) _) _ : t.seqs = s.seqs)
  exact seqs_ite (by simp) rfl

@[simp] theorem State.endLaunch_seqs (key : Nat) (cause : BitVec 8) : (s.endLaunch key cause).seqs = s.seqs := by
  unfold State.endLaunch
  extract_lets cores t
  have ht : t.seqs = s.seqs := by
    refine (foldl_seqs (fun t k => (State.orphan_seqs _ _).trans (State.asCore_seqs (fun t => ?_) _)) _).trans s.flush_seqs
    exact (State.upd_seqs ⟨rfl, rfl⟩).trans (by simp)
  simp [ht]

@[simp] theorem State.clusterReset_seqs (cl : BitVec 5) : (s.clusterReset cl).seqs = s.seqs := by
  unfold State.clusterReset
  extract_lets mine cut u held t hit v fresh x
  have ht : t.seqs = s.seqs := foldl_seqs (fun t c => (State.orphan_seqs _ _).trans (State.asCore_seqs State.abandonAll_seqs _)) _
  have hx : x.seqs = s.seqs := (State.injectReserved_seqs _ _).trans ((foldl_seqs (fun t l => t.endLaunch_seqs _ _) _).trans ht)
  exact (seqs_of_every (f := fresh) rfl rfl fun c => stamp_ite ⟨rfl, rfl⟩ ⟨rfl, rfl⟩).trans hx
end

end Sys2Proof.Machine
end

section
/-! SUPPORT. Dispatch numbers: control registers, queue requests, the Pod, moves of pages. -/

namespace Sys2Proof.Machine
set_option Elab.async false

section
variable (s : State) (c : CoreState) {w : Seqs}

@[simp] theorem State.hrst_seqs (v : Word64) : (s.hrst v).seqs = s.seqs := by
  unfold State.hrst
  split <;> simp

@[simp] theorem CoreState.clearVsf_stamp (u : Nat) (v : Word64) : (c.clearVsf u v).id = c.id ∧ (c.clearVsf u v).nextSeq = c.nextSeq := by
  unfold CoreState.clearVsf
  refine foldl_stamp (fun c f => ?_) _
  split <;> simp

@[simp] theorem CoreState.clearBits_stamp (n : Nat) (v : Word64) : (c.clearBits n v).id = c.id ∧
    (c.clearBits n v).nextSeq = c.nextSeq := by
  simp [CoreState.clearBits]

@[simp] theorem State.writeReg_seqs (n : Nat) (v : Word64) : (s.writeReg n v).seqs = s.seqs := by
  unfold State.writeReg
  iterate 9 refine seqs_ite (by simp) ?_
  split
  · exact seqs_ite (by simp) (by simp)
  · exact seqs_ite (by simp) (by simp)
  · exact seqs_ite (by simp) (by simp)
  · rfl

@[simp] theorem State.noteGroup_seqs (pa : Nat) (root : Word64) (va : Nat) : (s.noteGroup pa root va).seqs = s.seqs := by
  unfold State.noteGroup
  split <;> simp

@[simp] theorem State.peekAgain_seqs (pa : Nat) : (s.peekAgain pa).seqs = s.seqs := by rfl

@[simp] theorem State.wakeAfter_seqs (pa : Nat) (enq : Bool) (z0 : Nat) : (s.wakeAfter pa enq z0).seqs = s.seqs := by
  induction z0 generalizing s enq with
  | zero => rfl
  | succ fuel ih =>
    rw [State.wakeAfter]
    refine seqs_ite ?_ ?_
    · extract_lets t
      have ht : t.seqs = s.seqs := foldl_seqs (fun t q => by simp) _
      split
      · exact ht
      · simp [ih, ht]
    · split <;> simp [ih]

@[simp] theorem State.release_seqs (pa : Nat) (which : QReq → Bool) (count : Bool) : (s.release pa which count).seqs = s.seqs := by
  unfold State.release
  dsimp only
  split
  · exact foldl_seqs (fun t q => t.unpark_seqs q) _
  · rfl

@[simp] theorem State.runQueue_seqs (r : QReq) : (s.runQueue r).1.seqs = s.seqs := by
  unfold State.runQueue
  dsimp only
  (repeat' split) <;> simp

@[simp] theorem State.tryQueue_seqs (r : QReq) : (s.tryQueue r).1.seqs = s.seqs := by
  unfold State.tryQueue
  dsimp only
  (repeat' split) <;> simp

@[simp] theorem State.acceptQueue_seqs (r : QReq) : (s.acceptQueue r).1.seqs = s.seqs := by
  have h := s.tryQueue_seqs r
  unfold State.acceptQueue
  split
  · next heq => rwa [heq] at h
  · next heq =>
    rw [heq] at h
    exact (State.peekAgain_seqs _ _).trans h

@[simp] theorem State.purge_seqs (pa : Nat) : (s.purge pa).seqs = s.seqs := by simp [State.purge]

@[simp] theorem State.gather_keeps (ps : List (Word64 × Place)) (acc : List Byte) (k : State → List Byte → Out)
    (hk : ∀ t a, t.seqs = w → Keeps w (k t a)) (h : s.seqs = w) : Keeps w (s.gather ps acc k) := by
  induction ps generalizing s acc with
  | nil => exact hk _ _ h
  | cons p ps ih => exact s.directRead_keeps _ _ _ _ (fun t bs ht => ih t _ ht) h

@[simp] theorem unchecked_keeps {o : Out} (h : Keeps w o) : Keeps w (unchecked o) := by
  unfold unchecked
  split
  · refine Keeps.ite ?_ h
    exact (State.upd_seqs (CoreState.updBundle_stamp _ _ _)).trans h
  · exact h

@[simp] theorem State.sendQueue_seqs (op : QOp) (handle : Word64) (pa : Nat) (elem : List Byte) (dest : QDest) :
    (s.sendQueue op handle pa elem dest).seqs = s.seqs := by
  rfl

@[simp] theorem State.sendWhenFree_keeps (op : QOp) (handle : Word64) (pa : Nat) (elem : List Byte) (dest : QDest) (h : s.seqs = w) :
    Keeps w (s.sendWhenFree op handle pa elem dest) := by
  simp [State.sendWhenFree, h]

@[simp] theorem State.queueOp_keeps (op : QOp) (g : BitVec 4) (p q : BitVec 6) (k : BitVec 3) (h : s.seqs = w) : Keeps w
    (s.queueOp op g p q k) := by
  refine s.whenOn_keeps _ _ ?_ h
  extract_lets handle v code ak bk
  refine Keeps.ite (by simp [h]) ?_
  split
  · simp [h]
  · extract_lets t
    have ht : t.seqs = w := (s.notePage_seqs _).trans h
    refine Keeps.ite (by simp [ht]) (Keeps.ite (by simp [ht]) (Keeps.ite ?_ (by simp [ht])))
    split
    · simp [ht]
    · extract_lets u
      have hu : u.seqs = w := (foldl_seqs (fun t p => t.notePage_seqs _) _).trans ht
      refine Keeps.ite (unchecked_keeps ?_) (Keeps.ite (by simp [hu]) (by simp [hu]))
      exact u.gather_keeps _ _ _ (fun t bs ht => by simp [ht]) hu

@[simp] theorem State.podOpen_seqs : s.podOpen.1.seqs = s.seqs := by
  unfold State.podOpen
  dsimp only
  (repeat' split) <;> simp

@[simp] theorem State.losePages_seqs (n : Nat) : (s.losePages n).seqs = s.seqs := by rfl

@[simp] theorem State.podTake_seqs (k : Nat) : (s.podTake k).1.seqs = s.seqs := by
  have h := s.podOpen_seqs
  unfold State.podTake
  split
  · rfl
  · split
    · next heq => rwa [heq] at h
    · next heq =>
      rw [heq] at h
      dsimp only
      split
      · exact h
      · split
        · exact h
        · split <;> simpa using h

@[simp] theorem State.podReturn_seqs (pn : Nat) : (s.podReturn pn).seqs = s.seqs := by
  have h := s.podOpen_seqs
  unfold State.podReturn
  split
  · next heq =>
    rw [heq] at h
    exact (State.losePages_seqs _ _).trans h
  · next heq =>
    rw [heq] at h
    exact (seqs_ite (by simp) (by simp)).trans h

@[simp] theorem State.podReady_seqs (back : List Nat) : (s.podReady back).1.seqs = s.seqs := by
  have h := s.podOpen_seqs
  unfold State.podReady
  split
  · rfl
  · split
    · next heq => rwa [heq] at h
    · next heq => rwa [heq] at h

@[simp] theorem State.countAct_seqs (a : Nat) : (s.countAct a).seqs = s.seqs := by
  unfold State.countAct
  dsimp only
  (repeat' split) <;> simp

@[simp] theorem State.movePage_seqs (o : EngineOp) (g : Seg) : (s.movePage o g).seqs = s.seqs := by
  unfold State.movePage
  extract_lets a b bs c d
  have hb : b.seqs = s.seqs := seqs_ite ((State.dropDecoded_seqs _ _ _).trans (s.note_seqs _ _ _ _)) (s.note_seqs _ _ _ _)
  have hc : c.seqs = s.seqs := (b.copyBytes_seqs _ _ _).trans hb
  have hd : d.seqs = s.seqs := by
    unfold d
    split <;> exact hc
  exact seqs_ite (by simp [hd]) (by simp [hd])

@[simp] theorem State.loaded_seqs (o : EngineOp) (b : Bool) : (s.loaded o b).seqs = s.seqs := by
  refine State.upd_seqs ?_
  split <;> simp

@[simp] theorem State.unbind_seqs (o : EngineOp) (f : Nat) : (s.unbind o f).seqs = s.seqs := by
  unfold State.unbind
  dsimp only
  (repeat' split) <;> simp

@[simp] theorem CoreState.useAgain_stamp (f : Nat) (b : Bool) : (c.useAgain f b).id = c.id ∧ (c.useAgain f b).nextSeq = c.nextSeq := by
  unfold CoreState.useAgain
  split <;> simp

@[simp] theorem State.frAfter_seqs (o : EngineOp) : (s.frAfter o).seqs = s.seqs := by
  unfold State.frAfter
  (repeat' split) <;> simp

@[simp] theorem State.performFrame_seqs (o : EngineOp) : (s.performFrame o).seqs = s.seqs := by simp [State.performFrame]

@[simp] theorem State.frTrap_keeps (f f2 : Nat) (e : FrErr) (h : s.seqs = w) : Keeps w (s.frTrap f f2 e) := by
  unfold State.frTrap
  split <;> simp [h]
end

end Sys2Proof.Machine
end

section
/-! SUPPORT. Dispatch numbers: frames, save areas, records, links, controllers. -/

namespace Sys2Proof.Machine
set_option Elab.async false

section
variable (s : State) (c : CoreState) {w : Seqs}

@[simp] theorem State.framesAhead_seqs : s.framesAhead.seqs = s.seqs := by simp [State.framesAhead]

@[simp] theorem State.frOpen_keeps (g : BitVec 4) (banks : Bool) (f f2 : Nat) (k : State → Out) (hk : ∀ t, t.seqs = w → Keeps w (k t))
    (h : s.seqs = w) : Keeps w (s.frOpen g banks f f2 k) := by
  refine s.whenOn_keeps _ _ ?_ h
  split
  · next o ho => exact s.wakeHold_keeps h o ho
  · refine Keeps.ite (by simp [h]) (Keeps.ite (by simp [h]) (Keeps.ite (by simp [h]) (hk _ ?_)))
    simp [h]

@[simp] theorem State.frAccept_keeps {α : Type} (f f2 : Nat) (r : Except FrErr α) (names : List Nat) (pages : α → List Nat) (k : α → Out)
    (hk : ∀ a, Keeps w (k a)) (h : s.seqs = w) : Keeps w (s.frAccept f f2 r names pages k) := by
  unfold State.frAccept
  split
  · simp [h]
  · exact Keeps.ite (by simp [h]) (hk _)

@[simp] theorem State.frTake_keeps (f n : Nat) (k : State → List Nat → Out) (hk : ∀ t a, t.seqs = w → Keeps w (k t a)) (h : s.seqs = w) :
    Keeps w (s.frTake f n k) := by
  have ht := (s.podTake_seqs n).trans h
  unfold State.frTake
  split
  · next heq =>
    rw [heq] at ht
    exact Keeps.ite (by simp [h]) (State.frTrap_keeps _ _ _ _ ht)
  · next heq =>
    rw [heq] at ht
    exact hk _ _ ht

@[simp] theorem State.pushFr_seqs (i : Instr) (names acts : List Nat) (segs : List Seg) (writes : List (Nat × List Byte))
    (busy : List (Nat × Nat)) (extra : List Nat) : (s.pushFr i names acts segs writes busy extra).seqs = s.seqs := by
  rfl

@[simp] theorem State.beginLoad_keeps (v : State) (i : Instr) (x : Word32) (comp b : Bool) (done : State → State)
    (hdone : ∀ t, (done t).seqs = t.seqs) (h : s.seqs = w) : Keeps w (s.beginLoad v i x comp b done) := by
  simp [State.beginLoad, hdone, h]

@[simp] theorem State.forkOp_keeps (i : Instr) (o : OpFr2) (snap : Bool) (h : s.seqs = w) : Keeps w (s.forkOp i o snap) := by
  simp [State.forkOp, h]

@[simp] theorem State.frReturns_keeps (f f2 : Nat) (back : List Nat) (k : State → Out) (hk : ∀ t, t.seqs = w → Keeps w (k t))
    (h : s.seqs = w) : Keeps w (s.frReturns f f2 back k) := by
  have ht := (s.podReady_seqs back).trans h
  unfold State.frReturns
  split
  · next heq =>
    rw [heq] at ht
    exact State.frTrap_keeps _ _ _ _ ht
  · next heq =>
    rw [heq] at ht
    exact hk _ ht

@[simp] theorem State.frSpad_keeps (x : Word32) (n : Nat) (write : Bool) (k : Nat → Out) (hk : ∀ a, Keeps w (k a)) (h : s.seqs = w) :
    Keeps w (s.frSpad x n write k) :=
  Keeps.ite (by simp [h]) (Keeps.ite (by simp [h]) (hk _))

@[simp] theorem State.putGranule_seqs (g : Nat) (bs : List Byte) : (s.putGranule g bs).seqs = s.seqs := by
  unfold State.putGranule
  split <;> rfl

@[simp] theorem CoreState.loadArea_stamp (get : Nat → Nat → Nat) : (c.loadArea get).id = c.id ∧ (c.loadArea get).nextSeq = c.nextSeq := by
  simp [CoreState.loadArea]

@[simp] theorem State.headSlots_seqs : s.headSlots.seqs = s.seqs := by rfl

@[simp] theorem State.putArea_seqs (ps : List Nat) (o : Nat) (bs : List Byte) : (s.putArea ps o bs).seqs = s.seqs := by
  unfold State.putArea
  dsimp only
  split <;> simp

theorem State.reissue_nextSeq (r : Remainder) : s.core.nextSeq ≤ (s.reissue r).1.core.nextSeq := by
  generalize hp : s.reissue r = p
  unfold State.reissue at hp
  extract_lets -underBinder eng shape i at' t at hp
  have ht : s.core.nextSeq ≤ t.core.nextSeq := Nat.le_succ _
  clear_value t shape
  split at hp
  · subst hp
    exact le_rfl
  · split at hp
    · subst hp
      exact le_rfl
    · subst hp
      exact ht.trans (State.nextSeq_of_seqs (t.pushCopy_seqs _ _ _ _ _)).ge

theorem State.reissueAll_nextSeq (rs : List Remainder) : s.core.nextSeq ≤ (s.reissueAll rs).core.nextSeq := by
  unfold State.reissueAll
  induction rs generalizing s with
  | nil => exact le_rfl
  | cons r rs ih =>
    have h := s.reissue_nextSeq r
    rw [List.foldl_cons]
    refine le_trans ?_ (ih _)
    split
    · next heq => rwa [heq] at h
    · next t cause heq =>
      rw [heq] at h
      have ht : ((t.upd (·.taint)).taintLaunch t.core.launchKey cause).seqs = t.seqs := by simp
      exact h.trans (State.nextSeq_of_seqs ht).ge

@[simp] theorem State.sendLines_seqs (die : Bool) (sl z0 z1 : Nat) (z2 : List Byte) : (s.sendLines die sl z0 z1 z2).seqs = s.seqs := by
  induction z0 generalizing s z1 z2 with
  | zero => rfl
  | succ fuel ih =>
    rw [State.sendLines]
    exact seqs_ite rfl (ih _ _ _)

@[simp] theorem State.deviceWrite_seqs (die : Bool) (sl pa : Nat) (bs : List Byte) : (s.deviceWrite die sl pa bs).seqs = s.seqs := by
  unfold State.deviceWrite
  (repeat' split) <;> simp

@[simp] theorem State.noteTaint_seqs (l : Launch) (g : Gang) : (s.noteTaint l g).seqs = s.seqs := by
  unfold State.noteTaint
  split <;> rfl

@[simp] theorem State.askPreempt_seqs (l : Launch) (g : Gang) : (s.askPreempt l g).seqs = s.seqs := by
  unfold State.askPreempt
  (repeat' split) <;> simp

@[simp] theorem State.takeLid_seqs (die : Bool) : (s.takeLid die).2.seqs = s.seqs := by simp [State.takeLid]

@[simp] theorem State.dequeueRecord_seqs (die : Bool) (n : BitVec 6) : (s.dequeueRecord die n).1.seqs = s.seqs := by
  unfold State.dequeueRecord
  extract_lets pa r
  have h := (State.acceptQueue_seqs _ r).trans (s.purge_seqs pa)
  split
  · next heq =>
    rw [heq] at h
    exact (State.wakeAfter_seqs _ _ _ _).trans h
  · next heq => rwa [heq] at h

@[simp] theorem State.digestRead_keeps (ps : List (Word64 × Place)) (acc : Nat) (k : State → Nat → Out)
    (hk : ∀ t a, t.seqs = w → Keeps w (k t a)) (h : s.seqs = w) : Keeps w (s.digestRead ps acc k) := by
  induction ps generalizing s acc with
  | nil => exact hk _ _ h
  | cons p ps ih => exact s.directRead_keeps _ _ _ _ (fun t bs ht => ih t _ ht) h

@[simp] theorem State.launchWith_keeps (image : Word64) (r : List Byte) (h : s.seqs = w) : Keeps w (s.launchWith image r) := by
  unfold State.launchWith
  (repeat' split) <;> simp [h]

@[simp] theorem State.meterRead_seqs (v : Nat) : (s.meterRead v).seqs = s.seqs := by
  unfold State.meterRead
  split <;> rfl

@[simp] theorem State.cancelRecord_seqs (q : LaunchQueue) (r : QueuedRecord) : (s.cancelRecord q r).1.seqs = s.seqs := by
  unfold State.cancelRecord
  extract_lets lid l add add'
  split
  · next tail _ => exact s.updLq_seqs q.die q.n fun q => { q with held := tail }
  · have h := (State.dequeueRecord_seqs _ q.die q.n).trans (s.updLq_seqs q.die q.n fun q => { q with head := none })
    split
    · next heq => exact (congrArg (·.1.seqs) heq).symm.trans h
    · next u b heq =>
      have hu : u.seqs = s.seqs := (congrArg (·.1.seqs) heq).symm.trans h
      split
      · exact hu
      · exact (State.updLq_seqs _ _ _ _).trans ((State.takeLid_seqs _ _).trans hu)

@[simp] theorem State.result_keeps (q : BitVec 6) (v : Nat) (h : s.seqs = w) : Keeps w (s.result q v) := (s.putS_seqs _ _).trans h
@[simp] theorem State.begun_seqs : s.begun.seqs = s.seqs := by rfl

def Selected.Keeps (w : Seqs) : Selected → Prop
  | .begun t => t.seqs = w
  | .done t _ => t.seqs = w
  | _ => True

@[simp] theorem State.selected_keeps (q : BitVec 6) {r : Selected} (hr : r.Keeps w) (h : s.seqs = w) : Keeps w (s.selected q r) := by
  cases r with
  | begun t => exact State.hold_keeps _ ((State.begun_seqs _).trans hr)
  | done t v => exact State.result_keeps _ _ _ hr
  | bad => exact State.trap0B_keeps _ h
  | wait => exact State.hold_keeps _ h

theorem State.askSleep_seqs {die : Bool} {v : Nat} {t : State} (h : s.askSleep die v = some t) : t.seqs = s.seqs := by
  unfold State.askSleep at h
  split at h
  · cases h
  · cases h
    simp

@[simp] theorem State.linkRecord_seqs (site : Nat) (kind time : Word64) (flits : Nat) :
    (s.linkRecord site kind time flits).seqs = s.seqs := by
  simp [State.linkRecord]

@[simp] theorem State.linkEvent_seqs (l : Link) (kind : Nat) (time : Word64) (flits : Nat) :
    (s.linkEvent l kind time flits).seqs = s.seqs := by
  simp [State.linkEvent]

@[simp] theorem State.lossRecords_seqs (l : Link) (flits : Nat) : (s.lossRecords l flits).seqs = s.seqs := by simp [State.lossRecords]

@[simp] theorem State.writeCtl_seqs (l : Link) (v : Word64) : (s.writeCtl l v).seqs = s.seqs := by
  unfold State.writeCtl
  dsimp only
  (repeat' split) <;> simp

@[simp] theorem State.fatal_seqs (cause : BitVec 8) : (s.fatal cause).seqs = s.seqs := by
  unfold State.fatal
  extract_lets base east west stopped t
  have ht : t.seqs = s.seqs := foldl_seqs (fun t p => t.deviceWrite_seqs _ _ _ _) _
  simp [ht]

@[simp] theorem State.setCpu_seqs (die begun : Bool) : (s.setCpu die c begun).seqs = s.seqs := by simp [State.setCpu]

@[simp] theorem State.cpuTrap_seqs (die : Bool) (t : DTrap) : (s.cpuTrap die c t).seqs = s.seqs :=
  seqs_ite (s.fatal_seqs _) (s.setCpu_seqs _ _ _)
end

end Sys2Proof.Machine
end

section
/-! SUPPORT. Dispatch numbers: the instructions. -/

namespace Sys2Proof.Machine
set_option Elab.async false

section
variable (s : State) {w : Seqs}

theorem execLd_keeps (o : OpSL) (h : s.seqs = w) : Keeps w (execLd o s) := by
  refine s.whenOn_keeps _ _ ?_ h
  dsimp only
  split
  · simp [h]
  · simp [h]

theorem execLdacq_keeps (o : OpSL) (h : s.seqs = w) : Keeps w (execLdacq o s) := by
  refine s.whenOn_keeps _ _ ?_ h
  dsimp only
  split
  · simp [h]
  · refine Keeps.ite (by simp [h]) (Keeps.ite (Keeps.ite ?_ ?_) ?_) <;> simp [h]

theorem execSt_keeps (o : OpSL) (h : s.seqs = w) : Keeps w (execSt o s) := by
  refine s.whenOn_keeps _ _ ?_ h
  dsimp only
  split
  · simp [h]
  · refine Keeps.ite ?_ (Keeps.ite ?_ (Keeps.ite ?_ ?_)) <;> simp [h]

theorem execStrel_keeps (o : OpSL) (h : s.seqs = w) : Keeps w (execStrel o s) := by
  refine s.whenOn_keeps _ _ ?_ h
  dsimp only
  split
  · simp [h]
  · refine Keeps.ite ?_ (Keeps.ite ?_ ?_) <;> simp [h]

theorem execFence_keeps (o : OpFence) (h : s.seqs = w) : Keeps w (execFence o s) := by simp [execFence, h]
theorem execFwait_keeps (o : OpS1) (h : s.seqs = w) : Keeps w (execFwait o s) := by simp [execFwait, h]
theorem execDrain_keeps (o : OpDrain) (h : s.seqs = w) : Keeps w (execDrain o s) := by simp [execDrain, h]
theorem execJoin_keeps (o : OpJoin) (h : s.seqs = w) : Keeps w (execJoin o s) := by simp [execJoin, h]

theorem execBr_keeps (o : OpSJ) (h : s.seqs = w) : Keeps w (execBr o s) := s.transfer_keeps _ _ _ h
theorem execJmp_keeps (o : OpSJ) (h : s.seqs = w) : Keeps w (execJmp o s) := s.transfer_keeps _ _ _ h
theorem execJmpi_keeps (o : OpS1) (h : s.seqs = w) : Keeps w (execJmpi o s) := s.transfer_keeps _ _ _ h
theorem execCall_keeps (o : OpSJ) (h : s.seqs = w) : Keeps w (execCall o s) := s.transfer_keeps _ _ _ h
theorem execRet_keeps (o : OpG) (h : s.seqs = w) : Keeps w (execRet o s) := s.transfer_keeps _ _ _ h

theorem execLoop_keeps (o : OpLoop) (h : s.seqs = w) : Keeps w (execLoop o s) := by simp [execLoop, h]
theorem execRpt_keeps (o : OpLoop) (h : s.seqs = w) : Keeps w (execRpt o s) := by simp [execRpt, h]
theorem execLoopn_keeps (o : OpLoopn) (h : s.seqs = w) : Keeps w (execLoopn o s) := by simp [execLoopn, h]
theorem execMargin_keeps (o : OpMargin) (h : s.seqs = w) : Keeps w (execMargin o s) := by simp [execMargin, h]
theorem execLnsetBound_keeps (o : OpLnBound) (h : s.seqs = w) : Keeps w (execLnsetBound o s) := by simp [execLnsetBound, h]
theorem execLnsetBind_keeps (o : OpLnBind) (h : s.seqs = w) : Keeps w (execLnsetBind o s) := by simp [execLnsetBind, h]
theorem execLnsetClear_keeps (o : OpLnClear) (h : s.seqs = w) : Keeps w (execLnsetClear o s) := by simp [execLnsetClear, h]

theorem execSegOpen_keeps (o : OpSeg) (h : s.seqs = w) : Keeps w (execSegOpen o s) := by
  unfold execSegOpen
  extract_lets a
  split
  · simp [h]
  · refine State.directRead_keeps _ _ _ _ _ (fun t bs ht => ?_) ((s.notePage_seqs _).trans h)
    extract_lets u
    have hu : u.seqs = w := seqs_ite ((t.mismatch_seqs _ _ _).trans ht) ht
    exact Keeps.ite hu ((State.upd_seqs (CoreState.crPuts_stamp _ _)).trans hu)

theorem execSegClose_keeps (o : OpSeg) (h : s.seqs = w) : Keeps w (execSegClose o s) := by simp [execSegClose, h]
theorem execCont_keeps (o : OpSJ) (h : s.seqs = w) : Keeps w (execCont o s) := by simp [execCont, h]
theorem execEndcont_keeps (o : OpG) (h : s.seqs = w) : Keeps w (execEndcont o s) := by simp [execEndcont, h]
theorem execHalt_keeps (o : OpG) (h : s.seqs = w) : Keeps w (execHalt o s) := by simp [execHalt, h]
theorem execTret_keeps (o : OpG) (h : s.seqs = w) : Keeps w (execTret o s) := by simp [execTret, h]
theorem execTrap_keeps (o : OpTrap) (h : s.seqs = w) : Keeps w (execTrap o s) := by simp [execTrap, h]
theorem execYield_keeps (o : OpG) (h : s.seqs = w) : Keeps w (execYield o s) := by simp [execYield, h]
theorem execWaitev_keeps (o : OpWaitev) (h : s.seqs = w) : Keeps w (execWaitev o s) := by simp [execWaitev, h]

theorem execGate_keeps (o : OpGate) (h : s.seqs = w) : Keeps w (execGate o s) := by
  refine s.whenOn_keeps _ _ (Keeps.ite (by simp [h]) ?_) h
  refine (State.upd_seqs ?_).trans h
  exact stamp_ite (by simp) (by simp)

theorem execVadd_keeps (o : OpVA) (h : s.seqs = w) : Keeps w (execVadd o s) := s.vec2_keeps _ _ _ _ h
theorem execVsub_keeps (o : OpVA) (h : s.seqs = w) : Keeps w (execVsub o s) := s.vec2_keeps _ _ _ _ h
theorem execVmul_keeps (o : OpVA) (h : s.seqs = w) : Keeps w (execVmul o s) := s.vec2_keeps _ _ _ _ h
theorem execVfma_keeps (o : OpVA) (h : s.seqs = w) : Keeps w (execVfma o s) := s.vec3_keeps _ _ _ _ _ h
theorem execVmin_keeps (o : OpVA) (h : s.seqs = w) : Keeps w (execVmin o s) := s.vec2_keeps _ _ _ _ h
theorem execVmax_keeps (o : OpVA) (h : s.seqs = w) : Keeps w (execVmax o s) := s.vec2_keeps _ _ _ _ h
theorem execVabs_keeps (o : OpVU) (h : s.seqs = w) : Keeps w (execVabs o s) := s.vec1_keeps _ _ _ _ h
theorem execVneg_keeps (o : OpVU) (h : s.seqs = w) : Keeps w (execVneg o s) := s.vec1_keeps _ _ _ _ h
theorem execVdiv_keeps (o : OpVA) (h : s.seqs = w) : Keeps w (execVdiv o s) := s.vec2_keeps _ _ _ _ h
theorem execVsqrt_keeps (o : OpVU) (h : s.seqs = w) : Keeps w (execVsqrt o s) := s.vec1_keeps _ _ _ _ h
theorem execVrcp_keeps (o : OpVU) (h : s.seqs = w) : Keeps w (execVrcp o s) := s.vec1_keeps _ _ _ _ h
theorem execVrsq_keeps (o : OpVU) (h : s.seqs = w) : Keeps w (execVrsq o s) := s.vec1_keeps _ _ _ _ h
theorem execVexp2_keeps (o : OpVU) (h : s.seqs = w) : Keeps w (execVexp2 o s) := s.vec1_keeps _ _ _ _ h
theorem execVlog2_keeps (o : OpVU) (h : s.seqs = w) : Keeps w (execVlog2 o s) := s.vec1_keeps _ _ _ _ h

theorem execVcmp_keeps (o : OpVcmp) (h : s.seqs = w) : Keeps w (execVcmp o s) := by
  unfold execVcmp
  refine s.vecOpen_keeps _ _ (fun t sh lanes x ht => ?_) h
  exact State.fpTrap_keeps _ _ ((State.upd_seqs (by simp)).trans ht)

theorem execVsel_keeps (o : OpVA) (h : s.seqs = w) : Keeps w (execVsel o s) := by
  unfold execVsel
  refine s.vecOpen_keeps _ _ (fun t sh lanes x ht => ?_) h
  exact t.vecEnd_keeps _ _ ht

theorem execVand_keeps (o : OpVA) (h : s.seqs = w) : Keeps w (execVand o s) := s.vec2_keeps _ _ _ _ h
theorem execVor_keeps (o : OpVA) (h : s.seqs = w) : Keeps w (execVor o s) := s.vec2_keeps _ _ _ _ h
theorem execVxor_keeps (o : OpVA) (h : s.seqs = w) : Keeps w (execVxor o s) := s.vec2_keeps _ _ _ _ h
theorem execVnot_keeps (o : OpVU) (h : s.seqs = w) : Keeps w (execVnot o s) := s.vec1_keeps _ _ _ _ h
theorem execVshl_keeps (o : OpVA) (h : s.seqs = w) : Keeps w (execVshl o s) := s.vec2_keeps _ _ _ _ h
theorem execVshr_keeps (o : OpVA) (h : s.seqs = w) : Keeps w (execVshr o s) := s.vec2_keeps _ _ _ _ h
theorem execVsar_keeps (o : OpVA) (h : s.seqs = w) : Keeps w (execVsar o s) := s.vec2_keeps _ _ _ _ h
theorem execVcvt_keeps (o : OpVU) (h : s.seqs = w) : Keeps w (execVcvt o s) := s.vec1_keeps _ _ _ _ h

theorem execVpack_keeps (o : OpVA) (h : s.seqs = w) : Keeps w (execVpack o s) := by
  unfold execVpack
  extract_lets c shape
  refine Keeps.ite (s.cupTurn_keeps _ _ (fun t ht => by simp [ht]) h) (s.vecOpen_keeps _ _ (fun t sh lanes x ht => ?_) h)
  exact State.fpTrap_keeps _ _ ((State.upd_seqs (by simp)).trans ((t.writeSync_seqs _ _).trans ht))

theorem execVunpk_keeps (o : OpVunpk) (h : s.seqs = w) : Keeps w (execVunpk o s) := by
  unfold execVunpk
  refine s.vecOpen_keeps _ _ (fun t sh lanes x ht => ?_) h
  exact t.vecEnd_keeps _ _ ht

theorem execVperm_keeps (o : OpVA) (h : s.seqs = w) : Keeps w (execVperm o s) := by
  unfold execVperm
  refine s.vecOpen_keeps _ _ (fun t sh lanes x ht => ?_) h
  exact t.vecEnd_keeps _ _ ht

theorem execVbcstLane_keeps (o : OpVbcstLane) (h : s.seqs = w) : Keeps w (execVbcstLane o s) := by
  unfold execVbcstLane
  refine s.vecOpen_keeps _ _ (fun t sh lanes x ht => ?_) h
  exact t.vecEnd_keeps _ _ ht

theorem execVbcstScalar_keeps (o : OpVbcstScalar) (h : s.seqs = w) : Keeps w (execVbcstScalar o s) := by
  unfold execVbcstScalar
  refine s.vecOpen_keeps _ _ (fun t sh lanes x ht => ?_) h
  exact t.vecEnd_keeps _ _ ht

theorem execVmov_keeps (o : OpVU) (h : s.seqs = w) : Keeps w (execVmov o s) := s.vec1_keeps _ _ _ _ h
theorem execXmov_keeps (o : OpVU) (h : s.seqs = w) : Keeps w (execXmov o s) := s.vec1_keeps _ _ _ _ h

theorem execVred_keeps (o : OpVred) (h : s.seqs = w) : Keeps w (execVred o s) := by
  unfold execVred
  refine s.vecOpen_keeps _ _ (fun t sh lanes x ht => ?_) h
  exact State.fpTrap_keeps _ _ ((State.upd_seqs (by simp)).trans ((t.putLanes_seqs _ _).trans ht))

theorem execVcadd_keeps (o : OpVA) (h : s.seqs = w) : Keeps w (execVcadd o s) := by
  unfold execVcadd
  refine s.vecOpen_keeps _ _ (fun t sh lanes x ht => ?_) h
  exact t.vecPair_keeps _ _ _ ht

theorem execVcacc_keeps (o : OpVU) (h : s.seqs = w) : Keeps w (execVcacc o s) := by
  unfold execVcacc
  refine s.vecOpen_keeps _ _ (fun t sh lanes x ht => ?_) h
  exact t.vecPair_keeps _ _ _ ht

theorem execVfade_keeps (o : OpVA) (h : s.seqs = w) : Keeps w (execVfade o s) := s.vec3_keeps _ _ _ _ _ h

theorem execVqdeq_keeps (o : OpVA) (h : s.seqs = w) : Keeps w (execVqdeq o s) := by
  unfold execVqdeq
  refine s.vecOpen_keeps _ _ (fun t sh lanes x ht => ?_) h
  exact t.vecEnd_keeps _ _ ht

theorem execCupseed_keeps (o : OpS1) (h : s.seqs = w) : Keeps w (execCupseed o s) := by
  refine s.cupTurn_keeps _ _ (fun t ht => ?_) h
  refine Keeps.ite (by simp [ht]) ?_
  split
  · next o ho => exact t.wakeHold_keeps ht o ho
  · exact (State.upd_seqs ⟨rfl, rfl⟩).trans (t.chargeV_seqs.trans ht)

theorem execCupstat_keeps (o : OpCupstat) (h : s.seqs = w) : Keeps w (execCupstat o s) := by
  refine Keeps.ite (by simp [h]) ?_
  split
  · next o ho => exact s.wakeHold_keeps h o ho
  · split
    · simp [h]
    · exact Keeps.ite (by simp [h]) (by simp [h])

theorem execVld_keeps (o : OpVM) (h : s.seqs = w) : Keeps w (execVld o s) := s.vmove_keeps _ _ h
theorem execVst_keeps (o : OpVM) (h : s.seqs = w) : Keeps w (execVst o s) := s.vmove_keeps _ _ h
theorem execVgth_keeps (o : OpVX) (h : s.seqs = w) : Keeps w (execVgth o s) := s.vindexed_keeps _ _ h
theorem execVsct_keeps (o : OpVX) (h : s.seqs = w) : Keeps w (execVsct o s) := s.vindexed_keeps _ _ h

theorem execRwopen_keeps (o : OpSQ) (h : s.seqs = w) : Keeps w (execRwopen o s) := by
  refine s.whenOn_keeps _ _ ?_ h
  extract_lets a v n id key bad
  have hbad : Keeps w bad := s.accTrap_keeps _ _ _ _ _ h
  split
  · exact Keeps.ite (by simp [h]) (by simp [h])
  · refine Keeps.ite (by simp [h]) (Keeps.ite hbad ?_)
    split
    · simp [h]
    · refine Keeps.ite hbad ?_
      exact State.holdUnchecked_keeps _ ((s.notePage_seqs _).trans h)

theorem execRwclose_keeps (o : OpSQ) (h : s.seqs = w) : Keeps w (execRwclose o s) := by
  refine s.whenOn_keeps _ _ ?_ h
  extract_lets v id key
  split
  · simp [h]
  · refine Keeps.ite ?_ (Keeps.ite (Keeps.ite ?_ ?_) (Keeps.ite ?_ ?_)) <;> simp [h]

theorem execAtom64_keeps (o : OpAtom) (h : s.seqs = w) : Keeps w (execAtom64 o s) := by simp [execAtom64, h]
theorem execAtom32_keeps (o : OpAtom) (h : s.seqs = w) : Keeps w (execAtom32 o s) := by simp [execAtom32, h]
theorem execAtomn_keeps (o : OpAtomn) (h : s.seqs = w) : Keeps w (execAtomn o s) := by simp [execAtomn, h]

theorem execVatom_keeps (o : OpVatom) (h : s.seqs = w) : Keeps w (execVatom o s) := by
  unfold execVatom
  refine s.vmOpen_keeps _ _ _ _ _ _ (fun t sh lanes ht => ?_) h
  extract_lets d ix e lanes' wait as
  refine Keeps.ite (by simp [ht]) ?_
  split
  · simp [ht]
  · split
    refine Keeps.ite (by simp [ht]) ?_
    split
    · simp [ht]
    · simp [ht]
    · split
      · simp [ht]
      · refine Keeps.ite ?_ (Keeps.ite ?_ ?_) <;> simp [ht]

theorem State.swap_bump_seqs (sh : BitVec 2) (swap p : Bool) (n : Nat) (v : Word64) (x : BitVec 4) (by' : Word32) :
    (s.upd fun c => let c := (c.swapped sh swap).crPut n v; if p then c.bumpX x by' else c).seqs = s.seqs :=
  State.upd_seqs (stamp_ite (by simp) (by simp))

theorem execMbld_keeps (o : OpMbld) (h : s.seqs = w) : Keeps w (execMbld o s) := by
  refine s.engGate_keeps _ _ ?_ h
  extract_lets -underBinder c shape ty at' b t
  have ht : t.seqs = w := (s.pushOp_seqs _ _ _ _ _ _ _ _ _).trans h
  refine Keeps.ite ?_ (Keeps.ite ?_ (Keeps.ite ?_ (Keeps.ite ?_ (Keeps.ite ?_ ?_))))
  iterate 5 simp [h]
  exact (t.swap_bump_seqs o.sh o.swap o.pi (0x01C + b) _ o.xd (shStride1 shape)).trans ht

theorem execMbsw_keeps (o : OpG) (h : s.seqs = w) : Keeps w (execMbsw o s) := by
  refine s.whenOn_keeps _ _ ?_ h
  split
  · next r hr => exact s.wakeHold_keeps h r hr
  · exact Keeps.ite (by simp [h]) ((State.upd_seqs (CoreState.crPut_stamp _ _ _)).trans h)

theorem execMma_keeps (o : OpMma) (h : s.seqs = w) : Keeps w (execMma o s) := by
  unfold execMma
  refine s.engOpen_keeps _ _ _ _ _ (fun t sh ht => ?_) h
  exact t.issueMma_keeps _ _ _ _ _ _ (fun c => by simp) ht

theorem execMmaz_keeps (o : OpMma) (h : s.seqs = w) : Keeps w (execMmaz o s) := by
  unfold execMmaz
  extract_lets record
  refine s.engOpen_keeps _ _ _ _ _ (fun t sh ht => ?_) h
  exact t.issueMma_keeps _ _ _ _ _ _ (fun c => by simp) ht

theorem execMtap_keeps (o : OpMtap) (h : s.seqs = w) : Keeps w (execMtap o s) := by
  unfold execMtap
  refine s.engOpen_keeps _ _ _ _ _ (fun t sh ht => ?_) h
  exact t.issueMma_keeps _ _ _ _ _ _ (fun c => by simp) ht

theorem execMscl_keeps (o : OpMscl) (h : s.seqs = w) : Keeps w (execMscl o s) := by
  unfold execMscl
  extract_lets c record
  refine s.engOpen_keeps _ _ _ _ _ (fun t sh ht => ?_) h
  split
  · simp [ht]
  · exact t.issueAcc_keeps _ _ _ _ _ _ _ _ (fun c => by simp) ht

theorem execMzero_keeps (o : OpMzero) (h : s.seqs = w) : Keeps w (execMzero o s) := by
  refine s.engOpen_keeps _ _ _ _ _ (fun t sh ht => ?_) h
  split
  · simp [ht]
  · exact t.issueAcc_keeps _ _ _ _ _ _ _ _ (fun c => by simp) ht

theorem execMacc_keeps (o : OpMacc) (h : s.seqs = w) : Keeps w (execMacc o s) := by
  unfold execMacc
  extract_lets c n
  refine s.engOpen_keeps _ _ _ _ _ (fun t sh ht => ?_) h
  extract_lets srcs
  split
  · simp [ht]
  · exact Keeps.ite (by simp [ht]) (t.issueAcc_keeps _ _ _ _ _ _ _ _ (fun c => by simp) ht)

theorem execMout_keeps (o : OpMma) (h : s.seqs = w) : Keeps w (execMout o s) := by
  unfold execMout
  extract_lets c
  refine s.engOpen_keeps _ _ _ _ _ (fun t sh ht => ?_) h
  extract_lets b x
  split
  · simp [ht]
  · refine Keeps.ite (by simp [ht]) (Keeps.ite (by simp [ht]) (Keeps.ite (by simp [ht]) ?_))
    refine (State.upd_seqs ?_).trans ((t.pushOp_seqs _ _ _ _ _ _ _ _ _).trans ht)
    exact stamp_ite (by simp) (by simp)

theorem execLcfgSet_keeps (o : OpLcfgSet) (h : s.seqs = w) : Keeps w (execLcfgSet o s) := by simp [execLcfgSet, h]
theorem execLcfgClear_keeps (o : OpLcfgClear) (h : s.seqs = w) : Keeps w (execLcfgClear o s) := by simp [execLcfgClear, h]

theorem execLcfgLoad_keeps (o : OpLcfgX) (h : s.seqs = w) : Keeps w (execLcfgLoad o s) := s.lcfgMove_keeps _ _ _ h
theorem execLcfgSave_keeps (o : OpLcfgX) (h : s.seqs = w) : Keeps w (execLcfgSave o s) := s.lcfgMove_keeps _ _ _ h

theorem execLscan_keeps (o : OpScan) (h : s.seqs = w) : Keeps w (execLscan o s) := by
  refine s.engOpen_keeps _ _ _ _ _ (fun t sh ht => ?_) h
  exact t.issueRows_keeps _ _ _ _ _ _ _ _ _ ht

theorem execLscanc_keeps (o : OpScan) (h : s.seqs = w) : Keeps w (execLscanc o s) := by
  refine s.engOpen_keeps _ _ _ _ _ (fun t sh ht => ?_) h
  exact t.issueRows_keeps _ _ _ _ _ _ _ _ _ ht

theorem execLgate_keeps (o : OpLgate) (h : s.seqs = w) : Keeps w (execLgate o s) := by
  refine s.engOpen_keeps _ _ _ _ _ (fun t sh ht => ?_) h
  exact t.issueRows_keeps _ _ _ _ _ _ _ _ _ ht

theorem execLmat_keeps (o : OpLmat) (h : s.seqs = w) : Keeps w (execLmat o s) := by
  refine s.engOpen_keeps _ _ _ _ _ (fun t sh ht => ?_) h
  split
  · simp [ht]
  · exact t.issueRows_keeps _ _ _ _ _ _ _ _ _ ht

theorem execCpy_keeps (o : OpCpy) (h : s.seqs = w) : Keeps w (execCpy o s) := by simp [execCpy, h]
theorem execCpyh_keeps (o : OpCpyh) (h : s.seqs = w) : Keeps w (execCpyh o s) := by simp [execCpyh, h]
theorem execCpym_keeps (o : OpCpym) (h : s.seqs = w) : Keeps w (execCpym o s) := by simp [execCpym, h]
theorem execCpyr_keeps (o : OpCpyr) (h : s.seqs = w) : Keeps w (execCpyr o s) := by simp [execCpyr, h]
theorem execCpyg_keeps (o : OpCpy) (h : s.seqs = w) : Keeps w (execCpyg o s) := by simp [execCpyg, h]
theorem execCpyd_keeps (o : OpCpym) (h : s.seqs = w) : Keeps w (execCpyd o s) := by simp [execCpyd, h]

theorem execWmark_keeps (o : OpWmark) (h : s.seqs = w) : Keeps w (execWmark o s) := by
  refine s.whenOn_keeps _ _ ?_ h
  split
  · next r hr => exact s.wakeHold_keeps h r hr
  · refine Keeps.ite (by simp [h]) (Keeps.ite (by simp [h]) (Keeps.ite (by simp [h]) ?_))
    exact (State.upd_seqs (CoreState.crPuts_stamp _ _)).trans h

theorem execWmwait_keeps (o : OpWmwait) (h : s.seqs = w) : Keeps w (execWmwait o s) := s.watermarkWait_keeps _ _ _ h
theorem execWmwaitAll_keeps (o : OpWmwaitAll) (h : s.seqs = w) : Keeps w (execWmwaitAll o s) := s.watermarkWait_keeps _ _ _ h
theorem execBinit_keeps (o : OpBar) (h : s.seqs = w) : Keeps w (execBinit o s) := s.barrierOp_keeps _ _ _ _ h
theorem execArrive_keeps (o : OpArrive) (h : s.seqs = w) : Keeps w (execArrive o s) := s.barrierOp_keeps _ _ _ _ h
theorem execBadd_keeps (o : OpBar) (h : s.seqs = w) : Keeps w (execBadd o s) := s.barrierOp_keeps _ _ _ _ h

theorem execBwait_keeps (o : OpBwait) (h : s.seqs = w) : Keeps w (execBwait o s) := by
  refine s.whenOn_keeps _ _ ?_ h
  split
  · simp [h]
  · exact Keeps.ite (by simp [h]) (Keeps.ite (by simp [h]) (by simp [h]))

theorem execMfc_keeps (o : OpMfc) (h : s.seqs = w) : Keeps w (execMfc o s) := by simp [execMfc, h]
theorem execMtc_keeps (o : OpMtc) (h : s.seqs = w) : Keeps w (execMtc o s) := by simp [execMtc, h]

theorem execQinit_keeps (o : OpSQ) (h : s.seqs = w) : Keeps w (execQinit o s) := s.queueOp_keeps _ _ _ _ _ h
theorem execEnq_keeps (o : OpSQ) (h : s.seqs = w) : Keeps w (execEnq o s) := s.queueOp_keeps _ _ _ _ _ h
theorem execDeq_keeps (o : OpSQ) (h : s.seqs = w) : Keeps w (execDeq o s) := s.queueOp_keeps _ _ _ _ _ h
theorem execEnqn_keeps (o : OpSQK) (h : s.seqs = w) : Keeps w (execEnqn o s) := s.queueOp_keeps _ _ _ _ _ h
theorem execDeqn_keeps (o : OpSQK) (h : s.seqs = w) : Keeps w (execDeqn o s) := s.queueOp_keeps _ _ _ _ _ h
theorem execQpeek_keeps (o : OpSQ) (h : s.seqs = w) : Keeps w (execQpeek o s) := s.queueOp_keeps _ _ _ _ _ h
theorem execQstat_keeps (o : OpSQ) (h : s.seqs = w) : Keeps w (execQstat o s) := s.queueOp_keeps _ _ _ _ _ h
theorem execQclose_keeps (o : OpS1) (h : s.seqs = w) : Keeps w (execQclose o s) := s.queueOp_keeps _ _ _ _ _ h

theorem execFrld_keeps (o : OpFrld) (h : s.seqs = w) : Keeps w (execFrld o s) := by simp [execFrld, h]

theorem execFrsw_keeps (o : OpFrsw) (h : s.seqs = w) : Keeps w (execFrsw o s) := by
  unfold execFrsw
  extract_lets c x f b addr turn
  have hturn (t : State) : (turn t).seqs = t.seqs := State.upd_seqs (by simp)
  refine s.frOpen_keeps _ _ _ _ _ (fun v _ => ?_) h
  refine Keeps.ite (s.frAccept_keeps _ _ _ _ _ _ (fun _ => ?_) h) (Keeps.ite (s.frAccept_keeps _ _ _ _ _ _ (fun _ => ?_) h) ?_)
  · refine (State.upd_seqs (by simp)).trans ((State.pushFr_seqs _ _ _ _ _ _ _ _).trans (seqs_ite ?_ h))
    exact (State.upd_seqs (by simp)).trans ((s.abandonLook_seqs _).trans h)
  · exact (hturn _).trans ((s.pushFr_seqs _ _ _ _ _ _ _).trans h)
  · exact s.beginLoad_keeps _ _ _ _ _ _ hturn h

theorem execFrst_keeps (o : OpFrst) (h : s.seqs = w) : Keeps w (execFrst o s) := by
  unfold execFrst
  extract_lets b
  refine s.frOpen_keeps _ _ _ _ _ (fun v _ => ?_) h
  refine s.frAccept_keeps _ _ _ _ _ _ (fun e => s.frTake_keeps _ _ _ (fun t new ht => ?_) h) h
  exact (State.pushFr_seqs _ _ _ _ _ _ _ _).trans ((State.upd_seqs (by simp)).trans ht)

theorem execSnap_keeps (o : OpFr2) (h : s.seqs = w) : Keeps w (execSnap o s) := s.forkOp_keeps _ _ _ h
theorem execFork_keeps (o : OpFr2) (h : s.seqs = w) : Keeps w (execFork o s) := s.forkOp_keeps _ _ _ h

theorem execRback_keeps (o : OpRback) (h : s.seqs = w) : Keeps w (execRback o s) := by
  unfold execRback
  extract_lets x y
  refine s.frOpen_keeps _ _ _ _ _ (fun v _ => ?_) h
  refine s.frAccept_keeps _ _ _ _ _ _ (fun e => s.frReturns_keeps _ _ _ _ (fun t ht => ?_) h) h
  exact (t.pushFr_seqs _ _ _ _ _ _ _).trans ht

theorem execFrel_keeps (o : OpFrel) (h : s.seqs = w) : Keeps w (execFrel o s) := by
  unfold execFrel
  extract_lets x
  refine s.frOpen_keeps _ _ _ _ _ (fun v _ => ?_) h
  refine s.frAccept_keeps _ _ _ _ _ _ (fun e => s.frReturns_keeps _ _ _ _ (fun t ht => ?_) h) h
  exact (t.pushFr_seqs _ _ _ _ _ _ _).trans ht

theorem execHpapp_keeps (o : OpFr2) (h : s.seqs = w) : Keeps w (execHpapp o s) := by
  unfold execHpapp
  extract_lets x
  refine s.frOpen_keeps _ _ _ _ _ (fun v _ => s.frSpad_keeps _ _ _ _ (fun row => ?_) h) h
  refine s.frAccept_keeps _ _ _ _ _ _ (fun e => s.frTake_keeps _ _ _ (fun t new ht => ?_) h) h
  exact (t.pushFr_seqs _ _ _ _ _ _ _).trans ht

theorem execHpmap_keeps (o : OpHpmap) (h : s.seqs = w) : Keeps w (execHpmap o s) := by
  unfold execHpmap
  extract_lets x n t0
  refine s.frOpen_keeps _ _ _ _ _ (fun v _ => s.frSpad_keeps _ _ _ _ (fun dst => ?_) h) h
  refine s.frAccept_keeps _ _ _ _ _ _ (fun e => Keeps.ite (by simp [h]) ?_) h
  exact (s.pushFr_seqs _ _ _ _ _ _ _).trans h

theorem execFrstat_keeps (o : OpFr2) (h : s.seqs = w) : Keeps w (execFrstat o s) := by
  unfold execFrstat
  extract_lets x a
  refine s.whenOn_keeps _ _ ?_ h
  split
  · next r hr => exact s.wakeHold_keeps h r hr
  · refine Keeps.ite (by simp [h]) (Keeps.ite (by simp [h]) (Keeps.ite (by simp [h]) (Keeps.ite (by simp [h]) ?_)))
    split
    · exact (s.pushFr_seqs _ _ _ _ _ _ _).trans h
    · simp [h]
    · exact (s.pushFr_seqs _ _ _ _ _ _ _).trans h

theorem execNop_keeps (h : s.seqs = w) : Keeps w (execNop s) := by simp [execNop, h]

theorem execAdd_keeps (o : OpSA) (h : s.seqs = w) : Keeps w (execAdd o s) := s.alu_keeps _ _ h
theorem execSub_keeps (o : OpSA) (h : s.seqs = w) : Keeps w (execSub o s) := s.alu_keeps _ _ h
theorem execMul_keeps (o : OpSA) (h : s.seqs = w) : Keeps w (execMul o s) := s.alu_keeps _ _ h
theorem execMulh_keeps (o : OpSA) (h : s.seqs = w) : Keeps w (execMulh o s) := s.alu_keeps _ _ h
theorem execMulhu_keeps (o : OpSA) (h : s.seqs = w) : Keeps w (execMulhu o s) := s.alu_keeps _ _ h
theorem execDiv_keeps (o : OpSA) (h : s.seqs = w) : Keeps w (execDiv o s) := s.div64_keeps _ _ h
theorem execDivu_keeps (o : OpSA) (h : s.seqs = w) : Keeps w (execDivu o s) := s.div64_keeps _ _ h
theorem execRem_keeps (o : OpSA) (h : s.seqs = w) : Keeps w (execRem o s) := s.div64_keeps _ _ h
theorem execRemu_keeps (o : OpSA) (h : s.seqs = w) : Keeps w (execRemu o s) := s.div64_keeps _ _ h
theorem execAnd_keeps (o : OpSA) (h : s.seqs = w) : Keeps w (execAnd o s) := s.alu_keeps _ _ h
theorem execOr_keeps (o : OpSA) (h : s.seqs = w) : Keeps w (execOr o s) := s.alu_keeps _ _ h
theorem execXor_keeps (o : OpSA) (h : s.seqs = w) : Keeps w (execXor o s) := s.alu_keeps _ _ h
theorem execShl_keeps (o : OpSA) (h : s.seqs = w) : Keeps w (execShl o s) := s.alu_keeps _ _ h
theorem execShr_keeps (o : OpSA) (h : s.seqs = w) : Keeps w (execShr o s) := s.alu_keeps _ _ h
theorem execSar_keeps (o : OpSA) (h : s.seqs = w) : Keeps w (execSar o s) := s.alu_keeps _ _ h
theorem execRotr_keeps (o : OpSA) (h : s.seqs = w) : Keeps w (execRotr o s) := s.alu_keeps _ _ h
theorem execAddS32_keeps (o : OpSA) (h : s.seqs = w) : Keeps w (execAddS32 o s) := s.alu32_keeps _ _ h
theorem execSubS32_keeps (o : OpSA) (h : s.seqs = w) : Keeps w (execSubS32 o s) := s.alu32_keeps _ _ h
theorem execMulS32_keeps (o : OpSA) (h : s.seqs = w) : Keeps w (execMulS32 o s) := s.alu32_keeps _ _ h
theorem execMulhS32_keeps (o : OpSA) (h : s.seqs = w) : Keeps w (execMulhS32 o s) := s.alu32_keeps _ _ h
theorem execMulhuS32_keeps (o : OpSA) (h : s.seqs = w) : Keeps w (execMulhuS32 o s) := s.alu32_keeps _ _ h
theorem execDivS32_keeps (o : OpSA) (h : s.seqs = w) : Keeps w (execDivS32 o s) := s.div32_keeps _ _ h
theorem execDivuS32_keeps (o : OpSA) (h : s.seqs = w) : Keeps w (execDivuS32 o s) := s.div32_keeps _ _ h
theorem execRemS32_keeps (o : OpSA) (h : s.seqs = w) : Keeps w (execRemS32 o s) := s.div32_keeps _ _ h
theorem execRemuS32_keeps (o : OpSA) (h : s.seqs = w) : Keeps w (execRemuS32 o s) := s.div32_keeps _ _ h
theorem execAndS32_keeps (o : OpSA) (h : s.seqs = w) : Keeps w (execAndS32 o s) := s.alu32_keeps _ _ h
theorem execOrS32_keeps (o : OpSA) (h : s.seqs = w) : Keeps w (execOrS32 o s) := s.alu32_keeps _ _ h
theorem execXorS32_keeps (o : OpSA) (h : s.seqs = w) : Keeps w (execXorS32 o s) := s.alu32_keeps _ _ h
theorem execShlS32_keeps (o : OpSA) (h : s.seqs = w) : Keeps w (execShlS32 o s) := s.alu32_keeps _ _ h
theorem execShrS32_keeps (o : OpSA) (h : s.seqs = w) : Keeps w (execShrS32 o s) := s.alu32_keeps _ _ h
theorem execSarS32_keeps (o : OpSA) (h : s.seqs = w) : Keeps w (execSarS32 o s) := s.alu32_keeps _ _ h
theorem execRotrS32_keeps (o : OpSA) (h : s.seqs = w) : Keeps w (execRotrS32 o s) := s.alu32_keeps _ _ h
theorem execMin_keeps (o : OpSA) (h : s.seqs = w) : Keeps w (execMin o s) := s.alu_keeps _ _ h
theorem execMinu_keeps (o : OpSA) (h : s.seqs = w) : Keeps w (execMinu o s) := s.alu_keeps _ _ h
theorem execMax_keeps (o : OpSA) (h : s.seqs = w) : Keeps w (execMax o s) := s.alu_keeps _ _ h
theorem execMaxu_keeps (o : OpSA) (h : s.seqs = w) : Keeps w (execMaxu o s) := s.alu_keeps _ _ h
theorem execClz_keeps (o : OpSU) (h : s.seqs = w) : Keeps w (execClz o s) := s.aluUn_keeps _ _ h
theorem execCtz_keeps (o : OpSU) (h : s.seqs = w) : Keeps w (execCtz o s) := s.aluUn_keeps _ _ h
theorem execPopc_keeps (o : OpSU) (h : s.seqs = w) : Keeps w (execPopc o s) := s.aluUn_keeps _ _ h
theorem execBswap_keeps (o : OpSU) (h : s.seqs = w) : Keeps w (execBswap o s) := s.aluUn_keeps _ _ h
theorem execAndn_keeps (o : OpSA) (h : s.seqs = w) : Keeps w (execAndn o s) := s.alu_keeps _ _ h
theorem execOrn_keeps (o : OpSA) (h : s.seqs = w) : Keeps w (execOrn o s) := s.alu_keeps _ _ h
theorem execAddi_keeps (o : OpSI) (h : s.seqs = w) : Keeps w (execAddi o s) := s.aluImm_keeps _ _ h
theorem execAndi_keeps (o : OpSI) (h : s.seqs = w) : Keeps w (execAndi o s) := s.aluImm_keeps _ _ h
theorem execOri_keeps (o : OpSI) (h : s.seqs = w) : Keeps w (execOri o s) := s.aluImm_keeps _ _ h
theorem execXori_keeps (o : OpSI) (h : s.seqs = w) : Keeps w (execXori o s) := s.aluImm_keeps _ _ h
theorem execMuli_keeps (o : OpSI) (h : s.seqs = w) : Keeps w (execMuli o s) := s.aluImm_keeps _ _ h
theorem execShli_keeps (o : OpShift) (h : s.seqs = w) : Keeps w (execShli o s) := s.aluShift_keeps _ _ h
theorem execShri_keeps (o : OpShift) (h : s.seqs = w) : Keeps w (execShri o s) := s.aluShift_keeps _ _ h
theorem execSari_keeps (o : OpShift) (h : s.seqs = w) : Keeps w (execSari o s) := s.aluShift_keeps _ _ h

theorem execMovi_keeps (o : OpMovi) (h : s.seqs = w) : Keeps w (execMovi o s) := by simp [execMovi, h]
theorem execMovh_keeps (o : OpSI) (h : s.seqs = w) : Keeps w (execMovh o s) := by simp [execMovh, h]
theorem execCmp_keeps (o : OpCmp) (h : s.seqs = w) : Keeps w (execCmp o s) := by simp [execCmp, h]
theorem execCmpi_keeps (o : OpCmpi) (h : s.seqs = w) : Keeps w (execCmpi o s) := by simp [execCmpi, h]

theorem execGand_keeps (o : OpGuard) (h : s.seqs = w) : Keeps w (execGand o s) := s.guardOp_keeps _ _ h
theorem execGor_keeps (o : OpGuard) (h : s.seqs = w) : Keeps w (execGor o s) := s.guardOp_keeps _ _ h
theorem execGxor_keeps (o : OpGuard) (h : s.seqs = w) : Keeps w (execGxor o s) := s.guardOp_keeps _ _ h
theorem execGandn_keeps (o : OpGuard) (h : s.seqs = w) : Keeps w (execGandn o s) := s.guardOp_keeps _ _ h

theorem execGset_keeps (o : OpGset) (h : s.seqs = w) : Keeps w (execGset o s) := by simp [execGset, h]
theorem execGget_keeps (o : OpGget) (h : s.seqs = w) : Keeps w (execGget o s) := by simp [execGget, h]
theorem execSel_keeps (o : OpSel) (h : s.seqs = w) : Keeps w (execSel o s) := by simp [execSel, h]
theorem execXset_keeps (o : OpXset) (h : s.seqs = w) : Keeps w (execXset o s) := by simp [execXset, h]
theorem execXadd_keeps (o : OpXadd) (h : s.seqs = w) : Keeps w (execXadd o s) := by simp [execXadd, h]
theorem execView_keeps (o : OpView) (h : s.seqs = w) : Keeps w (execView o s) := by simp [execView, h]
theorem execShw_keeps (o : OpShw) (h : s.seqs = w) : Keeps w (execShw o s) := by simp [execShw, h]
theorem execSlk_keeps (o : OpSlk) (h : s.seqs = w) : Keeps w (execSlk o s) := by simp [execSlk, h]

theorem execCtxsv_keeps (o : OpS1) (h : s.seqs = w) : Keeps w (execCtxsv o s) := by
  refine s.whenOn_keeps _ _ ?_ h
  extract_lets a
  split
  · simp [h]
  · extract_lets t ps c gs u v x
    have ht : t.seqs = w := (foldl_seqs (fun t p => t.notePage_seqs p) _).trans h
    refine Keeps.ite (by simp [ht]) ?_
    split
    · simp [ht]
    · have hv : v.seqs = w := (foldl_seqs (fun t p => t.putArea_seqs _ _ _) _).trans ((t.putArea_seqs _ _ _).trans ht)
      have hx : x.seqs = w := (foldl_seqs (fun t p => t.putArea_seqs _ _ _) _).trans hv
      simp [hx]

theorem execDigest_keeps (o : OpSQ) (h : s.seqs = w) : Keeps w (execDigest o s) := by
  refine s.whenOn_keeps _ _ ?_ h
  refine Keeps.ite (by simp [h]) ?_
  split
  · simp [h]
  · exact State.digestRead_keeps _ _ _ _ (fun t v ht => by simp [ht]) ((foldl_seqs (fun t p => t.notePage_seqs _) _).trans h)

theorem execLaunch_keeps (o : OpSQ) (h : s.seqs = w) : Keeps w (execLaunch o s) := by
  refine s.whenOn_keeps _ _ (Keeps.ite h ?_) h
  split
  · simp [h]
  · refine unchecked_keeps (State.gather_keeps _ _ _ _ (fun t r ht => t.launchWith_keeps _ _ ht) ?_)
    exact (foldl_seqs (fun t p => t.notePage_seqs _) _).trans h

theorem execChwait_keeps (o : OpS1) (h : s.seqs = w) : Keeps w (execChwait o s) := by
  refine s.whenOn_keeps _ _ ?_ h
  split
  · simp [h]
  · exact Keeps.ite (by simp [h]) (by simp [h])

theorem execEmrd_keeps (o : OpSQ) (h : s.seqs = w) : Keeps w (execEmrd o s) := by
  refine s.whenOn_keeps _ _ (Keeps.ite ?_ (Keeps.ite ?_ ?_)) h <;> simp [h]

theorem State.preempt_keeps (begun : Bool) (v : Nat) (h : s.seqs = w) : (s.preempt begun v).Keeps w := by
  unfold State.preempt
  split
  · trivial
  · split
    · split
      · split
        · exact h
        · trivial
      · exact h
    · split
      · next l _ =>
        split
        · split
          · exact h
          · exact (s.endLaunch_seqs _ _).trans h
        · split
          · exact h
          · split
            · trivial
            · extract_lets t u
              have ht : t.seqs = w := (foldl_seqs (fun t g => seqs_ite (t.askPreempt_seqs _ _) rfl) _).trans h
              split <;> exact (t.updLaunch_seqs _ _).trans ht
      · split
        · exact h
        · next q r _ =>
          split
          · exact (s.cancelRecord_seqs _ _).trans h
          · split
            · exact h
            · exact (s.updLq_seqs _ _ _).trans h

theorem State.resume_keeps (v : Nat) (h : s.seqs = w) : (s.resume v).Keeps w := by
  unfold State.resume
  split
  · trivial
  · split
    · split
      · exact (s.updLaunch_seqs _ _).trans h
      · exact h
    · split
      · exact h
      · extract_lets set
        have hset (f : QueuedRecord → QueuedRecord) : (set f).Keeps w := (s.updLq_seqs _ _ _).trans h
        split
        · exact hset _
        · split
          · exact hset _
          · exact h

theorem execPreempt_keeps (o : OpSQ) (h : s.seqs = w) : Keeps w (execPreempt o s) :=
  s.whenOn_keeps _ _ (s.selected_keeps _ (s.preempt_keeps _ _ h) h) h

theorem execResume_keeps (o : OpSQ) (h : s.seqs = w) : Keeps w (execResume o s) :=
  s.whenOn_keeps _ _ (s.selected_keeps _ (s.resume_keeps _ h) h) h

theorem execLinkst_keeps (o : OpSQ) (h : s.seqs = w) : Keeps w (execLinkst o s) :=
  s.whenOn_keeps _ _ (Keeps.ite (by simp [h]) (by simp [h])) h

theorem execLnkcfg_keeps (o : OpSQ) (h : s.seqs = w) : Keeps w (execLnkcfg o s) := by
  refine s.whenOn_keeps _ _ ?_ h
  refine Keeps.ite ?_ (Keeps.ite (Keeps.ite ?_ ?_) (Keeps.ite ?_ (Keeps.ite (Keeps.ite ?_ ?_) (Keeps.ite ?_ ?_)))) <;> simp [h]

theorem execTalign_keeps (o : OpSQ) (h : s.seqs = w) : Keeps w (execTalign o s) := by
  refine s.whenOn_keeps _ _ (Keeps.ite ?_ (Keeps.ite ?_ ?_)) h
  · simp [h]
  · simp [h]
  · exact State.hold_keeps _ ((State.begun_seqs _).trans h)

theorem execSleep_keeps (o : OpS1) (h : s.seqs = w) : Keeps w (execSleep o s) := by
  refine Keeps.ite h ?_
  split
  · next t ht => exact (s.askSleep_seqs ht).trans h
  · exact (s.cpuTrap_seqs _ _ _).trans h
end

end Sys2Proof.Machine
end

section
/-! SUPPORT. Dispatch numbers: CTXLD, and every instruction of a slot (R43). -/

namespace Sys2Proof.Machine
set_option Elab.async false

section
variable (s : State)

/-- After an outcome the core's next number is `n` or more. -/
def Ahead (n : Nat) (out : Out) : Prop := ∀ t, out = .next t → n ≤ t.core.nextSeq

theorem Keeps.ahead {s : State} {out : Out} (h : Keeps s.seqs out) : Ahead s.core.nextSeq out := by
  rintro t rfl
  exact (State.nextSeq_of_seqs h).ge

theorem Ahead.ite {n : Nat} {p : Prop} [Decidable p] {a b : Out} (ha : Ahead n a) (hb : Ahead n b) : Ahead n (if p then a else b) := by
  split <;> assumption

/-- R281: the remainders are taken up again once the area is loaded. -/
theorem State.reissued_ahead {t : State} (rs : List Remainder) (key kind n : Nat) (h : t.seqs = s.seqs) :
    Ahead s.core.nextSeq (.next (((t.reissueAll rs).ticked).charge key kind n)) := by
  have hcharged : ∀ u : State, (u.ticked.charge key kind n).seqs = u.seqs := by simp
  rintro u ⟨⟩
  calc s.core.nextSeq = t.core.nextSeq := (State.nextSeq_of_seqs h).symm
    _ ≤ (t.reissueAll rs).core.nextSeq := State.reissueAll_nextSeq _ rs
    _ = _ := (State.nextSeq_of_seqs (hcharged _)).symm

theorem State.loadRegs_seqs (get : Nat → Nat → Nat) (v : CoreState → Word64) :
    (s.upd fun c => let c := c.loadArea get; { (c.crPut 0x000 (v c)).wakeM with shadow := none }).seqs = s.seqs :=
  State.upd_seqs (by simp)

/-- R200, R281: CTXLD numbers the copies that it takes up again. -/
theorem execCtxld_ahead (o : OpS1) : Ahead s.core.nextSeq (execCtxld o s) := by
  unfold execCtxld State.whenOn
  refine Ahead.ite ?_ (Keeps.ahead (out := .next s) rfl)
  extract_lets -underBinder a
  split
  · exact (s.accTrap_keeps _ _ _ _ _ rfl).ahead
  · extract_lets -underBinder t ps
    have ht : t.seqs = s.seqs := foldl_seqs (fun t p => t.notePage_seqs p) _
    refine Ahead.ite (t.holdUnchecked_keeps ht).ahead ?_
    split
    · exact (unchecked_keeps (t.farRead_keeps _ _ _ (fun u _ => .next u) (fun v bs hv => hv) ht)).ahead
    · refine (State.holdUnchecked_keeps _ (?_ : State.seqs _ = _)).ahead
      exact (foldl_seqs (fun t l => t.missed_seqs l) _).trans ht
    · refine Ahead.ite (t.accTrap_keeps _ _ _ _ _ ht).ahead ?_
      extract_lets -underBinder get vs gs
      split
      · exact (t.consumeHere_keeps _ _ ht).ahead
      · extract_lets -underBinder x y
        have hx : x.seqs = s.seqs := (foldl_seqs (fun t g => t.putGranule_seqs _ _) _).trans ht
        have hy : y.seqs = s.seqs := (x.loadRegs_seqs get fun c => c.status &&& 0xFFFFFFFFFFFFFFFD#64).trans hx
        exact s.reissued_ahead _ _ _ _ ((State.headSlots_seqs _).trans ((State.l1Clear_seqs _).trans hy))

theorem exec_ahead_of_scalar {i : Instr} (hi : i.slotClass = some .s) : Ahead s.core.nextSeq (exec i s) := by
  cases i with
  | nop => exact (execNop_keeps s rfl).ahead
  | add o => exact (execAdd_keeps s o rfl).ahead
  | sub o => exact (execSub_keeps s o rfl).ahead
  | mul o => exact (execMul_keeps s o rfl).ahead
  | mulh o => exact (execMulh_keeps s o rfl).ahead
  | mulhu o => exact (execMulhu_keeps s o rfl).ahead
  | div o => exact (execDiv_keeps s o rfl).ahead
  | divu o => exact (execDivu_keeps s o rfl).ahead
  | rem o => exact (execRem_keeps s o rfl).ahead
  | remu o => exact (execRemu_keeps s o rfl).ahead
  | and o => exact (execAnd_keeps s o rfl).ahead
  | or o => exact (execOr_keeps s o rfl).ahead
  | xor o => exact (execXor_keeps s o rfl).ahead
  | shl o => exact (execShl_keeps s o rfl).ahead
  | shr o => exact (execShr_keeps s o rfl).ahead
  | sar o => exact (execSar_keeps s o rfl).ahead
  | rotr o => exact (execRotr_keeps s o rfl).ahead
  | addS32 o => exact (execAddS32_keeps s o rfl).ahead
  | subS32 o => exact (execSubS32_keeps s o rfl).ahead
  | mulS32 o => exact (execMulS32_keeps s o rfl).ahead
  | mulhS32 o => exact (execMulhS32_keeps s o rfl).ahead
  | mulhuS32 o => exact (execMulhuS32_keeps s o rfl).ahead
  | divS32 o => exact (execDivS32_keeps s o rfl).ahead
  | divuS32 o => exact (execDivuS32_keeps s o rfl).ahead
  | remS32 o => exact (execRemS32_keeps s o rfl).ahead
  | remuS32 o => exact (execRemuS32_keeps s o rfl).ahead
  | andS32 o => exact (execAndS32_keeps s o rfl).ahead
  | orS32 o => exact (execOrS32_keeps s o rfl).ahead
  | xorS32 o => exact (execXorS32_keeps s o rfl).ahead
  | shlS32 o => exact (execShlS32_keeps s o rfl).ahead
  | shrS32 o => exact (execShrS32_keeps s o rfl).ahead
  | sarS32 o => exact (execSarS32_keeps s o rfl).ahead
  | rotrS32 o => exact (execRotrS32_keeps s o rfl).ahead
  | min o => exact (execMin_keeps s o rfl).ahead
  | minu o => exact (execMinu_keeps s o rfl).ahead
  | max o => exact (execMax_keeps s o rfl).ahead
  | maxu o => exact (execMaxu_keeps s o rfl).ahead
  | clz o => exact (execClz_keeps s o rfl).ahead
  | ctz o => exact (execCtz_keeps s o rfl).ahead
  | popc o => exact (execPopc_keeps s o rfl).ahead
  | bswap o => exact (execBswap_keeps s o rfl).ahead
  | andn o => exact (execAndn_keeps s o rfl).ahead
  | orn o => exact (execOrn_keeps s o rfl).ahead
  | cmp o => exact (execCmp_keeps s o rfl).ahead
  | cmpi o => exact (execCmpi_keeps s o rfl).ahead
  | gand o => exact (execGand_keeps s o rfl).ahead
  | gor o => exact (execGor_keeps s o rfl).ahead
  | gxor o => exact (execGxor_keeps s o rfl).ahead
  | gandn o => exact (execGandn_keeps s o rfl).ahead
  | gset o => exact (execGset_keeps s o rfl).ahead
  | gget o => exact (execGget_keeps s o rfl).ahead
  | sel o => exact (execSel_keeps s o rfl).ahead
  | addi o => exact (execAddi_keeps s o rfl).ahead
  | andi o => exact (execAndi_keeps s o rfl).ahead
  | ori o => exact (execOri_keeps s o rfl).ahead
  | xori o => exact (execXori_keeps s o rfl).ahead
  | shli o => exact (execShli_keeps s o rfl).ahead
  | shri o => exact (execShri_keeps s o rfl).ahead
  | sari o => exact (execSari_keeps s o rfl).ahead
  | muli o => exact (execMuli_keeps s o rfl).ahead
  | movi o => exact (execMovi_keeps s o rfl).ahead
  | movh o => exact (execMovh_keeps s o rfl).ahead
  | ld o => exact (execLd_keeps s o rfl).ahead
  | st o => exact (execSt_keeps s o rfl).ahead
  | ldacq o => exact (execLdacq_keeps s o rfl).ahead
  | strel o => exact (execStrel_keeps s o rfl).ahead
  | atom64 o => exact (execAtom64_keeps s o rfl).ahead
  | atom32 o => exact (execAtom32_keeps s o rfl).ahead
  | atomn o => exact (execAtomn_keeps s o rfl).ahead
  | qinit o => exact (execQinit_keeps s o rfl).ahead
  | enq o => exact (execEnq_keeps s o rfl).ahead
  | deq o => exact (execDeq_keeps s o rfl).ahead
  | enqn o => exact (execEnqn_keeps s o rfl).ahead
  | deqn o => exact (execDeqn_keeps s o rfl).ahead
  | qpeek o => exact (execQpeek_keeps s o rfl).ahead
  | qstat o => exact (execQstat_keeps s o rfl).ahead
  | qclose o => exact (execQclose_keeps s o rfl).ahead
  | rwopen o => exact (execRwopen_keeps s o rfl).ahead
  | rwclose o => exact (execRwclose_keeps s o rfl).ahead
  | fence o => exact (execFence_keeps s o rfl).ahead
  | fwait o => exact (execFwait_keeps s o rfl).ahead
  | drain o => exact (execDrain_keeps s o rfl).ahead
  | join o => exact (execJoin_keeps s o rfl).ahead
  | xset o => exact (execXset_keeps s o rfl).ahead
  | xadd o => exact (execXadd_keeps s o rfl).ahead
  | view o => exact (execView_keeps s o rfl).ahead
  | shw o => exact (execShw_keeps s o rfl).ahead
  | slk o => exact (execSlk_keeps s o rfl).ahead
  | mfc o => exact (execMfc_keeps s o rfl).ahead
  | mtc o => exact (execMtc_keeps s o rfl).ahead
  | br o => exact (execBr_keeps s o rfl).ahead
  | jmp o => exact (execJmp_keeps s o rfl).ahead
  | jmpi o => exact (execJmpi_keeps s o rfl).ahead
  | call o => exact (execCall_keeps s o rfl).ahead
  | ret o => exact (execRet_keeps s o rfl).ahead
  | loop o => exact (execLoop_keeps s o rfl).ahead
  | lnsetBound o => exact (execLnsetBound_keeps s o rfl).ahead
  | lnsetBind o => exact (execLnsetBind_keeps s o rfl).ahead
  | lnsetClear o => exact (execLnsetClear_keeps s o rfl).ahead
  | loopn o => exact (execLoopn_keeps s o rfl).ahead
  | rpt o => exact (execRpt_keeps s o rfl).ahead
  | margin o => exact (execMargin_keeps s o rfl).ahead
  | segOpen o => exact (execSegOpen_keeps s o rfl).ahead
  | segClose o => exact (execSegClose_keeps s o rfl).ahead
  | cont o => exact (execCont_keeps s o rfl).ahead
  | endcont o => exact (execEndcont_keeps s o rfl).ahead
  | trap o => exact (execTrap_keeps s o rfl).ahead
  | tret o => exact (execTret_keeps s o rfl).ahead
  | halt o => exact (execHalt_keeps s o rfl).ahead
  | yield o => exact (execYield_keeps s o rfl).ahead
  | waitev o => exact (execWaitev_keeps s o rfl).ahead
  | gate o => exact (execGate_keeps s o rfl).ahead
  | ctxsv o => exact (execCtxsv_keeps s o rfl).ahead
  | ctxld o => exact execCtxld_ahead s o
  | bwait o => exact (execBwait_keeps s o rfl).ahead
  | wmwait o => exact (execWmwait_keeps s o rfl).ahead
  | wmwaitAll o => exact (execWmwaitAll_keeps s o rfl).ahead
  | launch o => exact (execLaunch_keeps s o rfl).ahead
  | chwait o => exact (execChwait_keeps s o rfl).ahead
  | preempt o => exact (execPreempt_keeps s o rfl).ahead
  | resume o => exact (execResume_keeps s o rfl).ahead
  | emrd o => exact (execEmrd_keeps s o rfl).ahead
  | digest o => exact (execDigest_keeps s o rfl).ahead
  | sleep o => exact (execSleep_keeps s o rfl).ahead
  | linkst o => exact (execLinkst_keeps s o rfl).ahead
  | lnkcfg o => exact (execLnkcfg_keeps s o rfl).ahead
  | talign o => exact (execTalign_keeps s o rfl).ahead
  | _ => cases hi

theorem exec_ahead_of_vector {i : Instr} (hi : i.slotClass = some .v) : Ahead s.core.nextSeq (exec i s) := by
  cases i with
  | vadd o => exact (execVadd_keeps s o rfl).ahead
  | vsub o => exact (execVsub_keeps s o rfl).ahead
  | vmul o => exact (execVmul_keeps s o rfl).ahead
  | vfma o => exact (execVfma_keeps s o rfl).ahead
  | vmin o => exact (execVmin_keeps s o rfl).ahead
  | vmax o => exact (execVmax_keeps s o rfl).ahead
  | vabs o => exact (execVabs_keeps s o rfl).ahead
  | vneg o => exact (execVneg_keeps s o rfl).ahead
  | vdiv o => exact (execVdiv_keeps s o rfl).ahead
  | vsqrt o => exact (execVsqrt_keeps s o rfl).ahead
  | vrcp o => exact (execVrcp_keeps s o rfl).ahead
  | vrsq o => exact (execVrsq_keeps s o rfl).ahead
  | vexp2 o => exact (execVexp2_keeps s o rfl).ahead
  | vlog2 o => exact (execVlog2_keeps s o rfl).ahead
  | vcmp o => exact (execVcmp_keeps s o rfl).ahead
  | vsel o => exact (execVsel_keeps s o rfl).ahead
  | vand o => exact (execVand_keeps s o rfl).ahead
  | vor o => exact (execVor_keeps s o rfl).ahead
  | vxor o => exact (execVxor_keeps s o rfl).ahead
  | vnot o => exact (execVnot_keeps s o rfl).ahead
  | vshl o => exact (execVshl_keeps s o rfl).ahead
  | vshr o => exact (execVshr_keeps s o rfl).ahead
  | vsar o => exact (execVsar_keeps s o rfl).ahead
  | vcvt o => exact (execVcvt_keeps s o rfl).ahead
  | vpack o => exact (execVpack_keeps s o rfl).ahead
  | vunpk o => exact (execVunpk_keeps s o rfl).ahead
  | vperm o => exact (execVperm_keeps s o rfl).ahead
  | vbcstLane o => exact (execVbcstLane_keeps s o rfl).ahead
  | vbcstScalar o => exact (execVbcstScalar_keeps s o rfl).ahead
  | vred o => exact (execVred_keeps s o rfl).ahead
  | vcadd o => exact (execVcadd_keeps s o rfl).ahead
  | vcacc o => exact (execVcacc_keeps s o rfl).ahead
  | vfade o => exact (execVfade_keeps s o rfl).ahead
  | vqdeq o => exact (execVqdeq_keeps s o rfl).ahead
  | xmov o => exact (execXmov_keeps s o rfl).ahead
  | vmov o => exact (execVmov_keeps s o rfl).ahead
  | cupseed o => exact (execCupseed_keeps s o rfl).ahead
  | cupstat o => exact (execCupstat_keeps s o rfl).ahead
  | vld o => exact (execVld_keeps s o rfl).ahead
  | vst o => exact (execVst_keeps s o rfl).ahead
  | vgth o => exact (execVgth_keeps s o rfl).ahead
  | vsct o => exact (execVsct_keeps s o rfl).ahead
  | vatom o => exact (execVatom_keeps s o rfl).ahead
  | _ => cases hi

theorem exec_ahead_of_matrix {i : Instr} (hi : i.slotClass = some .m) : Ahead s.core.nextSeq (exec i s) := by
  cases i with
  | mbld o => exact (execMbld_keeps s o rfl).ahead
  | mbsw o => exact (execMbsw_keeps s o rfl).ahead
  | mma o => exact (execMma_keeps s o rfl).ahead
  | mmaz o => exact (execMmaz_keeps s o rfl).ahead
  | mscl o => exact (execMscl_keeps s o rfl).ahead
  | macc o => exact (execMacc_keeps s o rfl).ahead
  | mzero o => exact (execMzero_keeps s o rfl).ahead
  | mout o => exact (execMout_keeps s o rfl).ahead
  | mtap o => exact (execMtap_keeps s o rfl).ahead
  | _ => cases hi

theorem exec_ahead_of_ladder {i : Instr} (hi : i.slotClass = some .n) : Ahead s.core.nextSeq (exec i s) := by
  cases i with
  | lcfgSet o => exact (execLcfgSet_keeps s o rfl).ahead
  | lcfgLoad o => exact (execLcfgLoad_keeps s o rfl).ahead
  | lcfgSave o => exact (execLcfgSave_keeps s o rfl).ahead
  | lcfgClear o => exact (execLcfgClear_keeps s o rfl).ahead
  | lscan o => exact (execLscan_keeps s o rfl).ahead
  | lscanc o => exact (execLscanc_keeps s o rfl).ahead
  | lgate o => exact (execLgate_keeps s o rfl).ahead
  | lmat o => exact (execLmat_keeps s o rfl).ahead
  | _ => cases hi

theorem exec_ahead_of_copy {i : Instr} (hi : i.slotClass = some .c) : Ahead s.core.nextSeq (exec i s) := by
  cases i with
  | cpy o => exact (execCpy_keeps s o rfl).ahead
  | cpyh o => exact (execCpyh_keeps s o rfl).ahead
  | cpym o => exact (execCpym_keeps s o rfl).ahead
  | cpyr o => exact (execCpyr_keeps s o rfl).ahead
  | cpyg o => exact (execCpyg_keeps s o rfl).ahead
  | cpyd o => exact (execCpyd_keeps s o rfl).ahead
  | wmark o => exact (execWmark_keeps s o rfl).ahead
  | binit o => exact (execBinit_keeps s o rfl).ahead
  | arrive o => exact (execArrive_keeps s o rfl).ahead
  | badd o => exact (execBadd_keeps s o rfl).ahead
  | frld o => exact (execFrld_keeps s o rfl).ahead
  | frst o => exact (execFrst_keeps s o rfl).ahead
  | frsw o => exact (execFrsw_keeps s o rfl).ahead
  | snap o => exact (execSnap_keeps s o rfl).ahead
  | fork o => exact (execFork_keeps s o rfl).ahead
  | rback o => exact (execRback_keeps s o rfl).ahead
  | frel o => exact (execFrel_keeps s o rfl).ahead
  | hpapp o => exact (execHpapp_keeps s o rfl).ahead
  | hpmap o => exact (execHpmap_keeps s o rfl).ahead
  | frstat o => exact (execFrstat_keeps s o rfl).ahead
  | _ => cases hi

/-- R43: no instruction of a slot lowers the number of the bundle to come. -/
theorem exec_ahead {i : Instr} (hi : i.slotClass.isSome = true) : Ahead s.core.nextSeq (exec i s) := by
  obtain ⟨k, hk⟩ := Option.isSome_iff_exists.mp hi
  cases k with
  | s => exact exec_ahead_of_scalar s hk
  | v => exact exec_ahead_of_vector s hk
  | m => exact exec_ahead_of_matrix s hk
  | n => exact exec_ahead_of_ladder s hk
  | c => exact exec_ahead_of_copy s hk
end

end Sys2Proof.Machine
end

section
/-! SUPPORT. What a step does (R43, R47, R156, R157, R159, R191). -/

namespace Sys2Proof.Machine

set_option Elab.async false

/-- A step that no schedule names, before the core whose turn it is goes on: time has passed. -/
def State.turned (s : State) : State := State.passTime { s with turn := s.turn + 1 }

/-- The record of an issue follows an outcome. -/
def finished (o : Out) : Out := match o with | .next u => .next (u.upd CoreState.finish) | x => x

theorem issueEntry_eq (s : State) (b : Bundle) (e : Entry) : issueEntry s b e = finished (exec e.instr (s.upd fun c => c.begin b e)) := by
  unfold issueEntry finished
  cases exec e.instr (s.upd fun c => c.begin b e) <;> rfl

section
variable {s : State}

theorem State.turned_turn (s : State) : s.turned.turn = s.turn + 1 := by
  unfold State.turned State.passTime
  dsimp only
  split <;> rfl

theorem step_turned (ha : s.agenda = []) (ht : (s.turn + 1) % 64 ≠ 0) : step s = coreStep s.turned := by
  have hturn : s.turned.turn % 64 ≠ 0 := by rwa [State.turned_turn]
  cases s
  cases ha
  exact if_neg hturn

theorem coreStep_watchdog (hw : s.core.watchdogDue = true) : coreStep s = exec .watchdogExpiry s := if_pos hw

theorem coreStep_trap (hw : s.core.watchdogDue = false) (hm : s.core.mode = .running) (ht : s.core.trapDue = true) :
    coreStep s = exec .trapEntry s := by
  simp [coreStep, hw, hm, ht]

/-- R157: a running core that neither the watchdog nor a trap concerns. -/
theorem coreStep_cycle (hw : s.core.watchdogDue = false) (hm : s.core.mode = .running) (ht : s.core.trapDue = false) :
    coreStep s = if s.core.fired = 0#8 then cycleStep s else (issueStep s).getD (cycleStep s.endCycle) := by
  simp [coreStep, hw, hm, ht]

/-- The entry whose turn it is, of a bundle that is not SYNC, issues. -/
theorem issueStep_next {b : Bundle} {e : Entry} (hn : s.nextNow = some (b, e)) (hs : b.sync = false) :
    issueStep s = some (finished (exec e.instr (s.upd fun c => c.begin b e))) := by
  rw [issueStep, hn, Option.map_some, hs, if_neg Bool.false_ne_true, issueEntry_eq]

theorem issueStep_none (hn : s.nextNow = none) : issueStep s = none := by rw [issueStep, hn, Option.map_none]

/-- R160: a cycle with margin left, in which nothing is dispatched. -/
theorem cycleStep_issues (hc : checkStep s = none) (hm : s.core.crGet 0x040 ≠ 0#64) (hd : s.core.mayDispatch = false) :
    cycleStep s = (issueStep s).getD (backgroundStep s.endCycle) := by
  have hstart : startCycle s = s := if_neg hm
  have hstall : s.stalls = false := by simp [State.stalls, hm]
  simp [cycleStep, hc, hstart, hstall, hd]

/-- R157: where an entry may issue in the present cycle, or in one in which nothing can be dispatched, the step is its issue. -/
theorem step_issues {b : Bundle} {e : Entry} (ha : s.agenda = []) (ht : (s.turn + 1) % 64 ≠ 0)
    (hw : s.turned.core.watchdogDue = false) (hm : s.turned.core.mode = .running) (hd : s.turned.core.trapDue = false)
    (hn : s.turned.nextNow = some (b, e)) (hs : b.sync = false)
    (hor : s.turned.core.fired ≠ 0#8
      ∨ (checkStep s.turned = none ∧ s.turned.core.crGet 0x040 ≠ 0#64 ∧ s.turned.core.mayDispatch = false)) :
    step s = finished (exec e.instr (s.turned.upd fun c => c.begin b e)) := by
  rw [step_turned ha ht, coreStep_cycle hw hm hd]
  by_cases hf : s.turned.core.fired = 0#8
  · obtain ⟨hc, hmargin, hmay⟩ := hor.resolve_left fun h => h hf
    rw [if_pos hf, cycleStep_issues hc hmargin hmay, issueStep_next hn hs, Option.getD_some]
  · rw [if_neg hf, issueStep_next hn hs, Option.getD_some]

/-- A scheduled event. -/
theorem step_event {i : Instr} {rest : List Instr} (ha : s.agenda = i :: rest) (hi : mayStand i = true) (hd : i ≠ .bundleDispatch)
    (hp : ∀ k, i ≠ .preemption k) : step s = (match exec i { s with agenda := rest, tick := s.tick + 1 } with
      | .next t => .next t.retryAll.hostTurn | x => x) := by
  unfold step
  rw [ha]
  refine (if_pos hi).trans ?_
  unfold eventStep
  split
  · exact absurd rfl hd
  · exact absurd rfl (hp _)
  · rfl

theorem State.hostTurn_idle (hw : s.heldWrites = []) (ho : s.hostOps = []) : s.hostTurn = s := by
  cases s
  cases hw
  cases ho
  rfl
end

/-! ### A step that dispatches -/

theorem CoreState.finish_nextSeq (c : CoreState) : c.finish.nextSeq = c.nextSeq := by
  unfold CoreState.finish
  split <;> rfl

/-- The only instruction of a bundle is its only entry. -/
theorem CoreState.newBundle_single {c : CoreState} {bs : List Byte} {k : Nat} {i : Instr} (hl : c.loops = [])
    (h : (okInstrs (decodeBundle bs)).filter (·.2 != .nop) = [(k, i)]) :
    (c.newBundle bs (okInstrs (decodeBundle bs))).entries = [freshEntry k i] := by
  have hmem : (k, i) ∈ (okInstrs (decodeBundle bs)).filter (·.2 != .nop) := h ▸ List.mem_singleton_self _
  obtain ⟨hin, hnop⟩ := List.mem_filter.mp hmem
  have hi := slotInstr_of_mem hin
  have honly : ∀ j, (slotInstr (okInstrs (decodeBundle bs)) j != .nop) = (j == k) := by
    intro j
    rw [Bool.eq_iff_iff, beq_iff_eq, bne_iff_ne]
    constructor
    · intro hj
      have hm : (j, slotInstr (okInstrs (decodeBundle bs)) j) ∈ (okInstrs (decodeBundle bs)).filter (·.2 != .nop) :=
        List.mem_filter.mpr ⟨slotInstr_mem hj, bne_iff_ne.mpr hj⟩
      rw [h, List.mem_singleton] at hm
      exact congrArg Prod.fst hm
    · rintro rfl
      rw [hi]
      exact bne_iff_ne.mp hnop
  have hcount : issueOrder.count k = 1 :=
    List.count_eq_one_of_mem (by decide) (mem_issueOrder (mem_okInstrs.mp hin).1)
  show c.entriesOf _ _ _ = _
  rw [CoreState.entriesOf_outside _ _ hl, List.filter_congr fun j _ => honly j, List.filter_beq,
    hcount, List.replicate_one, List.map_singleton, hi]

theorem single_inner {b : Bundle} {e : Entry} (c : CoreState) (he : b.entries = [e]) : innerReady c (b.others e) e = true := by
  have hothers : b.others e = [] := by simp [Bundle.others, he]
  rw [hothers]
  unfold innerReady
  cases e.instr <;> simp

section
variable {t : State} {b : Bundle} {e : Entry} (he : b.entries = [e]) (hwait : e.waiting = false)
  (hload : ∀ n, t.loadItems n = [])
include he hwait hload

/-- Nothing keeps the one entry of the one bundle back. -/
theorem State.single_ready : t.ready [] b e = true ∧ t.stuck [] b e = false := by
  have houter : t.outerReady [] b e = true := by simp [State.outerReady, hload, dependent]
  have hinner := single_inner t.core he
  simp [State.ready, State.stuck, houter, hinner, hwait]

section
variable (hb : t.core.bundles = [b]) (hf : t.core.fired.getLsbD e.slot = false)
include hb hf

theorem State.single_nextNow : t.nextNow = some (b, e) := by
  obtain ⟨hready, hstuck⟩ := State.single_ready he hwait hload
  simp [State.nextNow, State.nextFrom, hb, he, hready, hstuck, hf]

/-- R44: so it is in a SYNC bundle, where after the issue the entry is held or the bundle is gone. -/
theorem State.single_issueStep (hs : b.sync = false ∨ ∀ v, finished (exec e.instr (t.upd fun c => c.begin b e)) = .next v →
      v.foundHeld b.seq e.slot = true ∨ ∀ b' ∈ v.core.bundles, b'.seq ≠ b.seq) :
    issueStep t = some (finished (exec e.instr (t.upd fun c => c.begin b e))) := by
  have hnext := State.single_nextNow he hwait hload hb hf
  cases hsync : b.sync with
  | false => exact issueStep_next hnext hsync
  | true =>
    have hv := hs.resolve_left (by simp [hsync])
    have hinner := single_inner t.core he
    have hfind : t.core.bundles.find? (·.seq == b.seq) = some b := by simp [hb]
    have hentry : (b.entries.find? fun e => !e.waiting && innerReady t.core (b.others e) e) = some e := by simp [he, hwait, hinner]
    rw [issueStep, hnext, Option.map_some, hsync, if_pos rfl, he, syncHeld, issueAll, hfind]
    dsimp only
    rw [hentry]
    dsimp only
    rw [issueEntry_eq]
    generalize finished (exec e.instr (t.upd fun c => c.begin b e)) = out at hv
    cases out with
    | next v =>
      rcases hv v rfl with hheld | hgone
      · simp [hheld]
      · have hnone : v.core.bundles.find? (·.seq == b.seq) = none := by simpa [List.find?_eq_none] using hgone
        simp only [syncHeld, issueAll, hnone]
        cases v.foundHeld b.seq e.slot <;> rfl
    | _ => rfl
end
end

/-! ### The step that dispatches a bundle of one instruction -/

section
variable {c : CoreState} {pc next : BitVec 48}

theorem CoreState.openLevel_eq (o : OpLoop) (rpt : Bool) : ∃ g pc' loops,
    c.openLevel pc next o rpt = { c with group := g, pc := pc', loops := loops } := by
  unfold CoreState.openLevel
  dsimp only
  split
  · split
    · exact ⟨_, _, c.loops, rfl⟩
    · exact ⟨_, c.pc, c.loops, rfl⟩
  · exact ⟨_, c.pc, _, rfl⟩
end

/-- R165: the counted-loop instructions are never held, and trap at dispatch alone. -/
theorem exec_atDispatch {i : Instr} (h : atDispatch i = true) (s : State) : ∃ cr g pc loops stalled,
    exec i s = .next (s.upd fun c => { c with cr := cr, group := g, pc := pc, loops := loops, stalled := stalled }) := by
  cases i with
  | loop o =>
    obtain ⟨g, pc, loops, heq⟩ := s.core.openLevel_eq (pc := s.core.cur.pc) (next := s.core.cur.next) o false
    have hexec : exec (.loop o) s = .next { s with core := s.core.openLevel s.core.cur.pc s.core.cur.next o false } := rfl
    rw [heq] at hexec
    exact ⟨s.core.cr, g, pc, loops, s.core.stalled, hexec⟩
  | rpt o =>
    obtain ⟨g, pc, loops, heq⟩ := s.core.openLevel_eq (pc := s.core.cur.pc) (next := s.core.cur.next) o true
    have hexec : exec (.rpt o) s = .next { s with core := s.core.openLevel s.core.cur.pc s.core.cur.next o true } := rfl
    rw [heq] at hexec
    exact ⟨s.core.cr, g, pc, loops, s.core.stalled, hexec⟩
  | margin o => exact ⟨_, s.core.group, s.core.pc, s.core.loops, false, rfl⟩
  | _ => cases h

/-- R165: so their bundle, which held nothing else, has gone once they have issued. -/
theorem finished_atDispatch {t v : State} {b : Bundle} {e : Entry} (hb : t.core.bundles = [b]) (he : b.entries = [e])
    (h : atDispatch e.instr = true) (hv : finished (exec e.instr (t.upd fun c => c.begin b e)) = .next v) : v.core.bundles = [] := by
  obtain ⟨cr, g, pc, loops, stalled, hexec⟩ := exec_atDispatch h (t.upd fun c => c.begin b e)
  rw [hexec] at hv
  cases hv
  simp [CoreState.finish, State.upd, CoreState.begin, CoreState.updBundle, CoreState.sweep, hb, he]

theorem CoreState.finish_nextSeq_le {o : Out} {n : Nat} (h : ∀ t, o = .next t → n ≤ t.core.nextSeq) {v : State}
    (hv : finished o = .next v) : n ≤ v.core.nextSeq := by
  cases o with
  | next t =>
    cases hv
    exact (h t rfl).trans (CoreState.finish_nextSeq _).ge
  | _ => cases hv

section
variable {u t : State} {b : Bundle} {e : Entry} (ht : exec .bundleDispatch u = .next t)
  (hseq : t.core.nextSeq = u.core.nextSeq + 1) (hb : t.core.bundles = [b]) (hbseq : b.seq = u.core.nextSeq) (he : b.entries = [e])
  (hwait : e.waiting = false) (hload : ∀ n, t.loadItems n = []) (hf : t.core.fired.getLsbD e.slot = false)
  (hs : b.sync = false ∨ ∀ v, finished (exec e.instr (t.upd fun c => c.begin b e)) = .next v →
    v.foundHeld b.seq e.slot = true ∨ ∀ b' ∈ v.core.bundles, b'.seq ≠ b.seq)
  (hi : e.instr.slotClass.isSome = true)
include ht hseq hb hbseq he hwait hload hf hs hi

/-- R157: the bundle's one entry issues in the cycle of its dispatch, and the dispatch numbers stand ahead of it. -/
theorem dispatchAndIssue_single : dispatchAndIssue u = finished (exec e.instr (t.upd fun c => c.begin b e))
    ∧ ∀ v, finished (exec e.instr (t.upd fun c => c.begin b e)) = .next v → v.core.nextSeq ≠ u.core.nextSeq := by
  have hnew : t.core.nextSeq ≠ u.core.nextSeq := by omega
  have hahead : ∀ v, finished (exec e.instr (t.upd fun c => c.begin b e)) = .next v → v.core.nextSeq ≠ u.core.nextSeq := by
    intro v hv
    have hexec : ∀ w, exec e.instr (t.upd fun c => c.begin b e) = .next w → t.core.nextSeq ≤ w.core.nextSeq :=
      exec_ahead _ hi
    have hle := CoreState.finish_nextSeq_le hexec hv
    omega
  refine ⟨?_, hahead⟩
  have hresolved : t.resolvedNow = if e.slot == 1 && atDispatch e.instr then some (b, e) else none := by
    rw [State.resolvedNow, hb]
    dsimp only [List.getLast?_singleton]
    rw [if_pos (by omega), he, List.find?_singleton]
    split <;> rfl
  unfold dispatchAndIssue dispatchStep
  rw [ht]
  dsimp only
  rw [if_neg hnew, hresolved]
  by_cases hat : (e.slot == 1 && atDispatch e.instr) = true
  · rw [if_pos hat]
    dsimp only
    rw [issueEntry_eq]
    cases hout : finished (exec e.instr (t.upd fun c => c.begin b e)) with
    | next v =>
      have hgone := finished_atDispatch hb he (Bool.and_eq_true_iff.mp hat).2 hout
      have hnone : v.nextNow = none := by rw [State.nextNow, hgone, State.nextFrom]
      dsimp only
      rw [if_neg (hahead v hout), issueStep_none hnone]
      rfl
    | _ => rfl
  · rw [if_neg hat]
    dsimp only
    rw [if_neg hnew, State.single_issueStep he hwait hload hb hf hs]
    rfl

/-- R43, R157: with nothing older in the core, the cycle is the dispatch and that issue. -/
theorem cycleStep_single {bs : List Byte} (hu : u.core.bundles = []) (hm : u.core.mayDispatch = true) (hfetch : u.fetch = .bytes bs) :
    cycleStep u = finished (exec e.instr (t.upd fun c => c.begin b e)) := by
  obtain ⟨hissue, hahead⟩ := dispatchAndIssue_single ht hseq hb hbseq he hwait hload hf hs hi
  have hcheck : checkStep u = none := by simp [checkStep, hu, State.nextChecks]
  have hstart : startCycle u = u := by simp [startCycle, probe, hu]
  have hstall : u.stalls = false := by simp [State.stalls, State.anyHeld, State.heldFrom, hu]
  unfold cycleStep
  rw [hcheck]
  dsimp only
  rw [hstart, hstall, if_neg Bool.false_ne_true, if_pos hm, hfetch]
  dsimp only
  rw [hissue]
  cases hout : finished (exec e.instr (t.upd fun c => c.begin b e)) with
  | next v => exact if_neg (by simp [hahead v hout])
  | _ => rfl
end

/-- The state in which the next dispatch of a step finds the core: the present cycle, where nothing has happened in it, or the next. -/
def State.cycleNow (s : State) : State := if s.core.fired = 0#8 then s else s.endCycle

/-- R155, R160: what the charge of a cycle to the margin changes. -/
theorem State.chargeMargin_frame (s : State) : ∃ cr stalled dev reqs uid, s.chargeMargin = { s with
    core := { s.core with cr := cr, stalled := stalled }, dev := dev, reqs := reqs, uid := uid }
      ∧ ∀ n, n ≠ 0x009 → n ≠ 0x040 → n ≠ 0x042 → ({ s.core with cr := cr } : CoreState).crGet n = s.core.crGet n := by
  unfold State.chargeMargin
  dsimp only
  split
  · split
    · obtain ⟨cr, dev, reqs, uid, h, -, -, hcr⟩ := s.countMargin_frame
      exact ⟨cr, true, dev, reqs, uid, h, fun n h9 _ h42 => hcr n h9 h42⟩
    · exact ⟨s.core.cr, s.core.stalled, s.dev, s.reqs, s.uid, rfl, fun _ _ _ _ => rfl⟩
  · split
    · exact ⟨_, s.core.stalled, s.dev, s.reqs, s.uid, rfl, fun n _ h40 _ => (s.core.crGet_crPut 0x040 _ n).trans (if_neg h40)⟩
    · exact ⟨s.core.cr, s.core.stalled, s.dev, s.reqs, s.uid, rfl, fun _ _ _ _ => rfl⟩

theorem CoreState.wdCount_le_countIdle (c : CoreState) : c.wdCount ≤ c.countIdle.wdCount := by
  unfold CoreState.countIdle
  split
  · exact Nat.le_succ _
  · exact le_rfl

/-- What the end of a cycle changes of the core: registers other than STATUS and WDOG, and its counts. -/
theorem State.endCycle_core (s : State) : ∃ cr stalled wd, s.endCycle.core
      = { s.core with cr := cr, stalled := stalled, wdCount := wd, fired := 0#8 } ∧ s.core.wdCount ≤ wd
    ∧ s.endCycle.core.crGet 0 = s.core.crGet 0 ∧ s.endCycle.core.crGet 0x04A = s.core.crGet 0x04A := by
  obtain ⟨cr, stalled, dev, reqs, uid, h, hcr⟩ := s.chargeMargin_frame
  have hend : s.endCycle.core = { s.chargeMargin.core.countIdle.tally with fired := 0#8 } := rfl
  rw [h] at hend
  obtain ⟨wd, hidle⟩ := ({ s.core with cr := cr, stalled := stalled } : CoreState).countIdle_frame
  have hle := ({ s.core with cr := cr, stalled := stalled } : CoreState).wdCount_le_countIdle
  rw [hidle] at hle hend
  have hget : ∀ n, n ≠ 0x00B → s.endCycle.core.crGet n = ({ s.core with cr := cr } : CoreState).crGet n := by
    intro n hn
    rw [hend]
    exact (CoreState.crGet_crPut _ 0x00B _ n).trans (if_neg hn)
  refine ⟨_, stalled, wd, hend, hle, ?_, ?_⟩
  · rw [hget _ (by decide), hcr _ (by decide) (by decide) (by decide)]
  · rw [hget _ (by decide), hcr _ (by decide) (by decide) (by decide)]

/-- R160, R191: a core that may dispatch, with no older bundle, and whose watchdog has not run out when the cycle begins. -/
theorem step_dispatches {s : State} (ha : s.agenda = []) (hturn : (s.turn + 1) % 64 ≠ 0)
    (hw : s.turned.cycleNow.core.watchdogDue = false) (hm : s.turned.cycleNow.core.mayDispatch = true)
    (hb : s.turned.cycleNow.core.bundles = []) : step s = cycleStep s.turned.cycleNow := by
  rw [step_turned ha hturn]
  generalize s.turned = u at hw hm hb
  have hmay : u.cycleNow.core.mode = .running ∧ u.cycleNow.core.trapReq = none := by
    simp only [CoreState.mayDispatch, Bool.and_eq_true, beq_iff_eq, Option.isNone_iff_eq_none] at hm
    obtain ⟨⟨⟨⟨⟨hmode, hreq⟩, -⟩, -⟩, -⟩, -⟩ := hm
    exact ⟨hmode, hreq⟩
  obtain ⟨hmode, hreq⟩ := hmay
  unfold State.cycleNow at *
  by_cases hf : u.core.fired = 0#8
  · rw [if_pos hf] at *
    have hdue : u.core.trapDue = false := by rw [CoreState.trapDue, hreq]
    rw [coreStep_cycle hw hmode hdue, if_pos hf]
  · rw [if_neg hf] at *
    obtain ⟨cr, stalled, wd, hcore, hle, hstatus, hwdog⟩ := u.endCycle_core
    have hintrap : u.endCycle.core.inTrap = u.core.inTrap := by rw [CoreState.inTrap, CoreState.status, hstatus]; rfl
    have hdue : u.core.trapDue = false := by
      rw [hcore] at hreq
      rw [CoreState.trapDue, hreq]
    have hwd : u.core.watchdogDue = false := by
      rw [Bool.eq_false_iff] at hw ⊢
      intro h
      obtain ⟨hmode', hin, hdrain, hset, hcount⟩ := u.core.watchdogDue_iff.mp h
      refine hw ((CoreState.watchdogDue_iff _).mpr ⟨hmode, hintrap.trans hin, ?_, ?_, ?_⟩)
      · rw [hcore]
        exact hdrain
      · rwa [hwdog]
      · rw [hwdog, hcore]
        exact hcount.trans hle
    rw [hcore] at hmode hb
    have hnone : u.nextNow = none := by rw [State.nextNow, hb, State.nextFrom]
    rw [coreStep_cycle hwd hmode hdue, if_neg hf, issueStep_none hnone, Option.getD_none]

/-- What the dispatch of a bundle of one instruction leaves: its record, its one entry, and the place in the program. -/
theorem execBundleDispatch_single {u : State} {bs : List Byte} {k : Nat} {i : Instr} (hw : u.core.watchdogDue = false)
    (hm : u.core.mayDispatch = true) (hfetch : u.fetch = .bytes bs)
    (hone : (okInstrs (decodeBundle bs)).filter (·.2 != .nop) = [(k, i)]) (hcheck : u.core.bundleFault bs = none)
    (hloop : loopCheck u.core (slotWord bs 0) (okInstrs (decodeBundle bs)) = none) (hb : u.core.bundles = []) (hl : u.core.loops = [])
    (hr : u.core.replay = 0#8) (hload : ∀ n, u.loadItems n = []) : ∃ t, exec .bundleDispatch u = .next t
      ∧ t.core.bundles = [u.core.newBundle bs (okInstrs (decodeBundle bs))] ∧ t.core.nextSeq = u.core.nextSeq + 1
      ∧ t.core.fired = u.core.fired ||| 1#8 ∧ (∀ n, t.loadItems n = [])
      ∧ ((∀ o, i ≠ .loopn o) → t.core.pc = u.core.pc + 32#48) := by
  have hstall : u.stalls = false := by simp [State.stalls, State.anyHeld, State.heldFrom, hb]
  have hseed : u.core.seedWaits (okInstrs (decodeBundle bs)) = false := by
    unfold CoreState.seedWaits
    split <;> simp [hb]
  have hwait : u.bundleWaits bs = false := by
    unfold State.bundleWaits State.dispatchWaits
    generalize slotInstr (okInstrs (decodeBundle bs)) 1 = i
    cases i <;> simp [hb, hload, hr, dependent]
  have hast : ¬u.core.bundleAstray bs := by
    rintro ⟨h7, -⟩
    simp [hr] at h7
  obtain ⟨nest, pc, g, ls, ch, hdisp, hpc, -, -⟩ := State.dispatchBytes_places hseed hcheck hwait hast hloop hl hr
  obtain ⟨hseq, -, -, -, -, -, -, hbundles⟩ := u.core.placed_frame bs (okInstrs (decodeBundle bs)) (u.core.bundleItems bs)
  have hentry := CoreState.newBundle_single hl hone
  rw [hentry, List.isEmpty_cons, if_neg Bool.false_ne_true, hb, List.nil_append] at hbundles
  obtain ⟨cr, hcount⟩ := u.core.countSegment_eq bs
  have hid : (u.core.placed bs (okInstrs (decodeBundle bs)) (u.core.bundleItems bs)).id = u.core.id := by
    simp only [CoreState.placed, hcount]
  have hfired : (u.core.placed bs (okInstrs (decodeBundle bs)) (u.core.bundleItems bs)).fired = u.core.fired ||| 1#8 := by
    simp only [CoreState.placed, hcount]
  refine ⟨_, execBundleDispatch_bytes hm hstall hw hfetch, ?_⟩
  rw [hdisp]
  refine ⟨hbundles, hseq, hfired, fun n => ?_, fun hnot => hpc fun o ho => hnot o ?_⟩
  · rw [← hload n]
    simp only [State.loadItems, State.pendingOf, State.pending, hid]
  · have hmem := slotInstr_mem (is := okInstrs (decodeBundle bs)) (k := 1) (by rw [ho]; exact Instr.noConfusion)
    have hin : (1, slotInstr (okInstrs (decodeBundle bs)) 1) ∈ (okInstrs (decodeBundle bs)).filter (·.2 != .nop) :=
      List.mem_filter.mpr ⟨hmem, by rw [ho]; rfl⟩
    rw [hone, List.mem_singleton, ho] at hin
    exact (congrArg Prod.snd hin).symm

/-- R43, R157: the step that dispatches such a bundle is exec of its instruction. -/
theorem step_dispatches_single {s : State} {bs : List Byte} {k : Nat} {i : Instr} (ha : s.agenda = []) (hturn : (s.turn + 1) % 64 ≠ 0)
    (hw : s.turned.cycleNow.core.watchdogDue = false) (hm : s.turned.cycleNow.core.mayDispatch = true)
    (hfetch : s.turned.cycleNow.fetch = .bytes bs) (hone : (okInstrs (decodeBundle bs)).filter (·.2 != .nop) = [(k, i)])
    (hcheck : s.turned.cycleNow.core.bundleFault bs = none)
    (hloop : loopCheck s.turned.cycleNow.core (slotWord bs 0) (okInstrs (decodeBundle bs)) = none)
    (hb : s.turned.cycleNow.core.bundles = []) (hl : s.turned.cycleNow.core.loops = []) (hr : s.turned.cycleNow.core.replay = 0#8)
    (hload : ∀ n, s.turned.cycleNow.loadItems n = []) : ∃ t b e, exec .bundleDispatch s.turned.cycleNow = .next t
      ∧ t.core.bundles = [b] ∧ b.entries = [e] ∧ e.instr = i ∧ e.slot = k ∧ b.pc = s.turned.cycleNow.core.pc
      ∧ b.next = s.turned.cycleNow.core.pc + 32#48 ∧ b.seq = s.turned.cycleNow.core.nextSeq
      ∧ ((∀ o, i ≠ .loopn o) → t.core.pc = s.turned.cycleNow.core.pc + 32#48)
      ∧ ((hdSync (slotWord bs 0) = false ∨ ∀ v, finished (exec i (t.upd fun c => c.begin b e)) = .next v →
          v.foundHeld b.seq k = true ∨ ∀ b' ∈ v.core.bundles, b'.seq ≠ b.seq) →
        step s = finished (exec i (t.upd fun c => c.begin b e))) := by
  rw [step_dispatches ha hturn hw hm hb]
  have hfired : s.turned.cycleNow.core.fired = 0#8 := by
    unfold State.cycleNow
    split
    · assumption
    · obtain ⟨_, _, _, hcore, -⟩ := s.turned.endCycle_core
      rw [hcore]
  generalize s.turned.cycleNow = u at *
  obtain ⟨t, ht, htb, hseq, htf, htl, hpc⟩ := execBundleDispatch_single hw hm hfetch hone hcheck hloop hb hl hr hload
  have hmem : (k, i) ∈ (okInstrs (decodeBundle bs)).filter (·.2 != .nop) := hone ▸ List.mem_singleton_self _
  obtain ⟨hk, hdec⟩ := mem_okInstrs.mp (List.mem_filter.mp hmem).1
  have hslot : t.core.fired.getLsbD k = false := by
    rw [htf, hfired]
    simp only [slotNumbers, List.mem_cons, List.not_mem_nil, or_false] at hk
    rcases hk with rfl | rfl | rfl | rfl | rfl | rfl | rfl <;> rfl
  refine ⟨t, _, _, ht, htb, CoreState.newBundle_single hl hone, rfl, rfl, rfl, rfl, rfl, hpc, fun hs => ?_⟩
  have hslotted : Slotted (.ok i) := hdec ▸ slotted_decodeSlot _ _ _
  exact cycleStep_single ht hseq htb rfl (CoreState.newBundle_single hl hone) rfl htl hslot hs hslotted hb hm hfetch

end Sys2Proof.Machine
end

section
/-! The statement on the step. -/
open Sys2Proof Sys2Proof.Machine

/-- Settles O51: the schedule of a step is followed branch by branch, and after a dispatch the one entry issues because nothing else is in
the core; that the step goes no further rests on `exec_ahead`, as only a dispatch takes the number of the bundle to come. -/
theorem stepRunsDecodedInstruction : Obligations.StepRunsDecodedInstruction := by
  refine ⟨?_, ?_, ?_, ?_⟩
  · intro s bs k i ha hturn u c is hw hm hfetch hone hcheck hloop hb hl hr hload
    exact step_dispatches_single ha hturn hw hm hfetch hone hcheck hloop hb hl hr hload
  · intro s b e ha hturn u hw hm hd hn hs hor
    exact step_issues ha hturn hw hm hd hn hs hor
  · intro s ha hturn
    refine ⟨fun hw => ?_, fun hw hm hd => ?_⟩
    · exact (step_turned ha hturn).trans (coreStep_watchdog hw)
    · exact (step_turned ha hturn).trans (coreStep_trap hw hm hd)
  · intro s i rest ha hi hd hp
    refine ⟨step_event ha hi hd hp, fun t hw ho => ?_⟩
    exact State.hostTurn_idle hw ho
end

section
/-! SUPPORT. Compares and guard logic (R56, R207 to R209), and the low bits of a register (R209, R215). -/

namespace Sys2Proof.Machine

/-- R56: the conditions of the model are the conditions in whole numbers. -/
theorem cond64_iff (c : Nat) (a b : Word64) : cond64 c a b = true ↔ condHolds c a b := by
  match c with
  | 0 | 1 => simp [cond64, condHolds]
  | 2 | 4 => simp [cond64, condHolds, BitVec.slt]
  | 3 | 5 => simp [cond64, condHolds, BitVec.sle]
  | 6 | 8 => simp [cond64, condHolds, BitVec.ult]
  | 7 | _ + 9 => simp [cond64, condHolds, BitVec.ule]

/-- R207: a compare writes all ones where its condition holds and zero where it does not. -/
theorem allLanes_cond64 (c : Nat) (a b : Word64) :
    (condHolds c a b → allLanes (cond64 c a b) = 0xFFFFFFFF#32) ∧ (¬condHolds c a b → allLanes (cond64 c a b) = 0#32) := by
  rw [← cond64_iff]
  cases cond64 c a b <;> simp [allLanes]

/-- R209, R215: the low bits of a word as a number. -/
theorem setWidth_eq_ofNat_mod {w : Nat} (v : BitVec w) (m : Nat) : v.setWidth m = BitVec.ofNat m (v.toNat % 2 ^ m) :=
  BitVec.eq_of_toNat_eq (by simp)

/-- R209: guard logic by a word operation that acts bit by bit. -/
theorem guardLogic_of_bitwise {i : OpGuard → Instr} {f : Word32 → Word32 → Word32} {b : Bool → Bool → Bool}
    (hi : ∀ o s, exec (i o) s = s.guardOp o f) (hf : ∀ x y, ∀ j < 32, (f x y).getLsbD j = b (x.getLsbD j) (y.getLsbD j)) :
    GuardLogic i b := fun o s hon =>
  ⟨_, _, (hi o s).trans (s.whenOn_on _ hon), hf _ _, s.writesG_setG _ _⟩

end Sys2Proof.Machine
end

section
/-! The statement on compares, guard logic and selection. -/

open Sys2Proof Sys2Proof.Machine

/-- Settles O3: each instruction is one guarded write, of a guard or of a scalar register, and the conditions are those of R56. -/
theorem comparesGuardsSelection : Obligations.ComparesGuardsSelection := by
  unfold Obligations.ComparesGuardsSelection
  refine ⟨⟨fun o s hon _ => ?cmp, fun o s hon => ?cmpi, ?gand, ?gor, ?gxor, ?gandn, fun o s hon => ?gset, fun o s hon => ?gget,
    fun o s hon => ?sel⟩, fun c => ⟨rfl, ?always, ?never, fun v n => ⟨rfl, fun hn => ?written⟩⟩⟩
  case cmp => exact ⟨_, _, s.whenOn_on _ hon, s.writesG_setG _ _, allLanes_cond64 ..⟩
  case cmpi =>
    refine ⟨_, _, s.whenOn_on _ hon, s.writesG_setG _ _, ?_⟩
    exact allLanes_cond64 (condImm o.c) _ _
  case gand => exact guardLogic_of_bitwise (fun _ _ => rfl) fun x y j _ => BitVec.getLsbD_and
  case gor => exact guardLogic_of_bitwise (fun _ _ => rfl) fun x y j _ => BitVec.getLsbD_or
  case gxor => exact guardLogic_of_bitwise (fun _ _ => rfl) fun x y j _ => BitVec.getLsbD_xor
  case gandn => exact guardLogic_of_bitwise (f := fun a b => a &&& ~~~b) (fun _ _ => rfl) fun x y j hj => by simp [hj]
  case gset =>
    rw [← setWidth_eq_ofNat_mod]
    exact ⟨_, s.whenOn_on _ hon, s.writesG_setG _ _⟩
  case gget =>
    rw [BitVec.ofNat_toNat]
    exact ⟨_, s.whenOn_on _ hon, s.writesS_putS _ _⟩
  case sel => exact ⟨_, s.whenOn_on _ hon, s.writesS_putS _ _⟩
  case always => simp [CoreState.on, CoreState.guard, CoreState.gVal]
  case never => simp [CoreState.on, CoreState.guard, CoreState.gVal]
  case written => rw [CoreState.gReg_setG, if_pos ⟨rfl, hn⟩]
end

section
/-! SUPPORT. One field of a shape (R80, R81, R218) and the validity of views (R74). -/

namespace Sys2Proof.Machine

/-! ### One field of a shape -/

/-- The bits of a number of which a field has been replaced. -/
theorem testBit_replaceField (a lo n x i : Nat) :
    (a - a / 2 ^ lo % 2 ^ n * 2 ^ lo + x % 2 ^ n * 2 ^ lo).testBit i
      = if lo ≤ i ∧ i < lo + n then x.testBit (i - lo) else a.testBit i := by
  have hlow : a % 2 ^ lo < 2 ^ lo := Nat.mod_lt _ (Nat.two_pow_pos lo)
  have hfield : x % 2 ^ n < 2 ^ n := Nat.mod_lt _ (Nat.two_pow_pos n)
  have ha : a = 2 ^ lo * (2 ^ n * (a / 2 ^ lo / 2 ^ n) + a / 2 ^ lo % 2 ^ n) + a % 2 ^ lo := by
    rw [Nat.div_add_mod, Nat.div_add_mod]
  have hnew : a - a / 2 ^ lo % 2 ^ n * 2 ^ lo + x % 2 ^ n * 2 ^ lo
      = 2 ^ lo * (2 ^ n * (a / 2 ^ lo / 2 ^ n) + x % 2 ^ n) + a % 2 ^ lo := by
    rw [Nat.mul_add] at ha ⊢
    rw [Nat.mul_comm _ (2 ^ lo), Nat.mul_comm _ (2 ^ lo)]
    omega
  rw [hnew, Nat.testBit_two_pow_mul_add _ hlow, Nat.testBit_two_pow_mul_add _ hfield, Nat.testBit_mod_two_pow,
    Nat.testBit_mod_two_pow, Nat.testBit_div_two_pow, Nat.testBit_div_two_pow]
  by_cases hi : i < lo
  · rw [if_pos hi, if_neg (by omega), decide_eq_true hi, Bool.true_and]
  · by_cases hi' : i < lo + n
    · rw [if_neg hi, if_pos (by omega), if_pos (by omega), decide_eq_true (by omega), Bool.true_and]
    · rw [if_neg hi, if_neg (by omega), if_neg (by omega)]
      congr 1
      omega

/-- R81: the bits of a shape of which a field has been replaced. -/
theorem getLsbD_setShape (v : BitVec 128) (f x : Nat) {i : Nat} (hi : i < 128) :
    (setShape v f x).getLsbD i = if (shapeField f).1 ≤ i ∧ i < (shapeField f).1 + (shapeField f).2
      then x.testBit (i - (shapeField f).1) else v.getLsbD i := by
  rw [setShape, BitVec.getLsbD_ofNat, decide_eq_true hi, Bool.true_and]
  exact testBit_replaceField ..

/-! ### The validity of views (R74) -/

/-- R74: the conditions under which a value is valid for view register n. -/
def ViewHolds (n : Nat) (v : Word64) : Prop :=
  let lo := 128 * bitsOf v 0 13
  let hi := lo + 128 * bitsOf v 13 14
  bitsOf v 27 3 = (if n ≤ 3 then n else 4) ∧ bitsOf v 31 1 = 0 ∧ bitsOf v 52 12 = 0
    ∧ hi ≤ 2 ^ 20 ∧ (hi ≤ 2 ^ 19 ∨ 2 ^ 19 ≤ lo ∨ lo = hi)
    ∧ (bitsOf v 30 1 = 1 → n ≤ 3 ∧ hi ≤ 2 ^ 19)
    ∧ (n = 2 → bitsOf v 32 12 ≠ 0 ∧ bitsOf v 44 8 ≠ 0) ∧ (lo = hi ∨ 512 ≤ lo)

theorem bitsOf_one {w : Nat} (v : BitVec w) (i : Nat) : bitsOf v i 1 = (v.getLsbD i).toNat :=
  (Nat.toNat_testBit ..).symm

/-- R74: a window within the register store that is not empty begins and ends in one half exactly when it does not pass the border. -/
theorem sameHalf_iff {lo size : Nat} (h : lo + size ≤ 2 ^ 20) : (size = 0 ∨ lo / 0x80000 = (lo + size - 1) / 0x80000)
    ↔ (lo + size ≤ 2 ^ 19 ∨ 2 ^ 19 ≤ lo ∨ size = 0) := by
  omega

theorem viewValid_iff (n : Nat) (v : Word64) : viewValid n v = true ↔ ViewHolds n v := by
  simp only [viewValid, ViewHolds, vwBase, vwSize, vwKind, vwSplit, vwRows, vwRowb, bitsOf_one, Nat.mul_comm _ 128]
  generalize 128 * bitsOf v 0 13 = lo
  generalize 128 * bitsOf v 13 14 = size
  simp only [Bool.and_eq_true, Bool.or_eq_true, beq_iff_eq, bne_iff_ne, Bool.not_eq_true', decide_eq_true_eq, Bool.toNat_eq_zero,
    Bool.toNat_eq_one, Nat.left_eq_add, ← Bool.not_eq_true (v.getLsbD 30), ← imp_iff_not_or, ne_eq]
  constructor
  · rintro ⟨⟨⟨⟨⟨⟨⟨hkind, hzero⟩, hrest⟩, hhalf⟩, hend⟩, hsplit⟩, hrows⟩, hlow⟩
    exact ⟨hkind, hzero, hrest, hend, (sameHalf_iff hend).mp hhalf, hsplit, hrows, hlow⟩
  · rintro ⟨hkind, hzero, hrest, hend, hhalf, hsplit, hrows, hlow⟩
    exact ⟨⟨⟨⟨⟨⟨⟨hkind, hzero⟩, hrest⟩, (sameHalf_iff hend).mpr hhalf⟩, hend⟩, hsplit⟩, hrows⟩, hlow⟩

end Sys2Proof.Machine
end

section
/-! The statement on address registers, shadow shapes, the slack table and views. -/

open Sys2Proof Sys2Proof.Machine

/-- Settles O4: each instruction is one guarded write of its register; SHW replaces the bits of one field, and the check of VIEW is R74. -/
theorem smallRegisterWrites : Obligations.SmallRegisterWrites := by
  unfold Obligations.SmallRegisterWrites
  refine ⟨⟨fun o s hon => ?xset, fun o s hon => ?xadd, fun o s hon _ => ?shw, fun o s hon => ?slk⟩, ?view⟩
  case xset =>
    rw [← setWidth_eq_ofNat_mod]
    exact ⟨_, s.whenOn_on _ hon, s.writesX_setX _ _⟩
  case xadd =>
    refine ⟨_, s.whenOn_on _ hon, ?_⟩
    have hsum : s.core.xVal o.k + o.imm.signExtend 32 = BitVec.ofInt 32 ((s.core.xVal o.k).toNat + o.imm.toInt) := by
      rw [BitVec.ofInt_add]
      simp [BitVec.signExtend]
    rw [← hsum]
    exact s.writesX_setX _ _
  case shw =>
    refine ⟨_, s.whenOn_on _ hon, rfl, fun i h hne => ?_, fun j hj => ?_⟩
    · exact (Cells.get_put ..).trans (if_neg hne)
    · have hnew := getLsbD_setShape (s.core.shadowAt o.slot.toNat o.h.toNat) o.f.toNat (s.core.sVal o.p).toNat hj
      exact (congrArg (fun w : BitVec 128 => w.getLsbD j) ((Cells.get_put ..).trans (if_pos rfl))).trans hnew
  case slk => exact ⟨_, s.whenOn_on _ hon, rfl, fun n => Cells.get_put ..⟩
  case view =>
    intro o s hon v n lo hi valid
    refine ⟨fun hv => ⟨_, ?_, s.writesCr_crPut _ _⟩, fun hv => ?_⟩
    · exact (s.whenOn_on _ hon).trans (if_pos ((viewValid_iff n v).mpr hv))
    · exact (s.whenOn_on _ hon).trans (if_neg (mt (viewValid_iff n v).mp hv))
end

section
/-! SUPPORT. The state after reset as a core sees it (R5). -/

namespace Sys2Proof.Machine

/-! ### The cores -/

/-- R10: each core but core 0 is among the others. -/
theorem find?_othersReset {k : BitVec 7} (hk : k ≠ 0#7) : othersReset.find? (·.id == k) = some (CoreState.reset k) := by
  have hpos : k.toNat ≠ 0 := fun h => hk (BitVec.eq_of_toNat_eq h)
  have hlt := k.isLt
  have hback : BitVec.ofNat 7 (k.toNat - 1 + 1) = k := by rw [Nat.sub_add_cancel (by omega), BitVec.ofNat_toNat, BitVec.setWidth_eq]
  have hfirst : (List.range 127).find? (fun i => (CoreState.reset (BitVec.ofNat 7 (i + 1))).id == k) = some (k.toNat - 1) := by
    rw [List.find?_range_eq_some]
    refine ⟨beq_iff_eq.mpr hback, List.mem_range.mpr (by omega), fun j hj => ?_⟩
    rw [Bool.not_eq_true', beq_eq_false_iff_ne]
    intro h
    have := congrArg BitVec.toNat h
    simp [CoreState.reset] at this
    omega
  rw [othersReset, List.find?_map]
  exact (congrArg (Option.map _) hfirst).trans (congrArg (some ∘ CoreState.reset) hback)

theorem State.reset_coreAt (k : BitVec 7) : State.reset.coreAt k = CoreState.reset k := by
  unfold State.coreAt
  by_cases hk : k = 0#7
  · subst hk
    rfl
  · refine (if_neg (Ne.symm hk)).trans ?_
    exact congrArg (fun c : Option CoreState => c.getD _) (find?_othersReset hk)

/-- The device after reset while a core has the turn. -/
def resetAt (k : BitVec 7) (ps : List CoreState) : State := { State.reset with core := CoreState.reset k, parked := ps }

theorem State.reset_focus (k : BitVec 7) : ∃ ps, State.reset.focus k = resetAt k ps := by
  unfold State.focus
  by_cases hk : k = 0#7
  · subst hk
    exact ⟨_, rfl⟩
  · have hother : State.reset.parked.find? (·.id == k) = some (CoreState.reset k) := find?_othersReset hk
    rw [hother]
    exact ⟨_, if_neg (Ne.symm hk)⟩

/-! ### Control registers -/

/-- R5: the registers that only take writes. -/
theorem eq_of_crAccess_wo {n : Nat} (h : crAccess n = some .wo) : n = 0x019 ∨ n = 0x104 ∨ n = 0x105 := by
  have hn : n < 0x180 := by
    by_contra hn
    unfold crAccess at h
    repeat rw [if_neg (by omega)] at h
    cases h
  exact (by decide +kernel : ∀ n < 0x180, crAccess n = some .wo → n = 0x019 ∨ n = 0x104 ∨ n = 0x105) n hn h

theorem CoreState.mstat_reset (k : BitVec 7) : (CoreState.reset k).mstat = 0#64 := by
  show setBits (setBits 0#64 1 1 0) 2 1 0 = 0#64
  decide

theorem CoreState.crGet_reset (k : BitVec 7) (n : Nat) : (CoreState.reset k).crGet n = Cr.reset n := rfl

theorem CoreState.banks_reset (k : BitVec 7) : (CoreState.reset k).bank0 = .empty ∧ (CoreState.reset k).bank1 = .empty := ⟨rfl, rfl⟩

theorem core_resetAt (k : BitVec 7) (ps : List CoreState) : (resetAt k ps).core = CoreState.reset k := rfl

/-- A core after reset leads itself. -/
theorem lead_resetAt (k : BitVec 7) (ps : List CoreState) :
    (resetAt k ps).coreAt (CoreState.reset k).gang.lead = CoreState.reset k := if_pos rfl

theorem CoreState.vsf_reset (k : BitVec 7) : (CoreState.reset k).vsf 0 = 0#64 ∧ (CoreState.reset k).vsf 1 = 0#64 := ⟨rfl, rfl⟩

/-- R433: no launch stands after reset. -/
theorem lchld_resetAt (k : BitVec 7) (ps : List CoreState) : (resetAt k ps).lchld (CoreState.reset k) = 0#64 := rfl

/-- R337: a core after reset has no bank. -/
theorem frbnk_resetAt (k : BitVec 7) (ps : List CoreState) : (resetAt k ps).frbnk = 0#64 := by
  simp only [State.frbnk, core_resetAt, lead_resetAt, CoreState.crGet_reset, CoreState.banks_reset]
  decide

theorem readDev_resetAt (k : BitVec 7) (ps : List CoreState) {n : Nat} (hfree : n ∉ [0x00B, 0x100, 0x101, 0x102, 0x103, 0x10C]) :
    (resetAt k ps).readDev n = Dev.reset n := by
  simp only [List.mem_cons, List.not_mem_nil, or_false, not_or] at hfree
  obtain ⟨-, h0, h1, h2, h3, hC⟩ := hfree
  simp only [State.readDev, h0, h1, h2, h3, hC, if_false]
  rfl

/-- R90: the registers whose reading is made of other state, and those that only take writes. -/
theorem State.readCr_made (s : State) : s.readCr 0x008 = s.time ∧ s.readCr 0x00C = s.core.id.setWidth 64 ∧ s.readCr 0x00E = s.frbnk
    ∧ s.readCr 0x01B = s.core.mstat ∧ s.readCr 0x020 = s.core.vsf 0 ∧ s.readCr 0x021 = s.core.vsf 1 ∧ s.readCr 0x045 = s.core.lstat
    ∧ s.readCr 0x0C3 = s.lchld s.core ∧ s.readCr 0x019 = 0#64 ∧ s.readCr 0x104 = 0#64 ∧ s.readCr 0x105 = 0#64 :=
  ⟨rfl, rfl, rfl, rfl, rfl, rfl, rfl, rfl, rfl, rfl, rfl⟩

/-- The numbers of those registers but COREID. -/
def madeRegisters : List Nat := [0x008, 0x00E, 0x01B, 0x020, 0x021, 0x045, 0x0C3, 0x019, 0x104, 0x105]

theorem readCr_resetAt_made (k : BitVec 7) (ps : List CoreState) {n : Nat} (hn : n ∈ madeRegisters) : (resetAt k ps).readCr n = 0#64 := by
  obtain ⟨h8, -, hE, h1B, h20, h21, h45, hC3, h19, h104, h105⟩ := State.readCr_made (resetAt k ps)
  simp only [madeRegisters, List.mem_cons, List.not_mem_nil, or_false] at hn
  rcases hn with rfl | rfl | rfl | rfl | rfl | rfl | rfl | rfl | rfl | rfl
  exacts [h8, hE.trans (frbnk_resetAt k ps), h1B.trans (CoreState.mstat_reset k), h20.trans (CoreState.vsf_reset k).1,
    h21.trans (CoreState.vsf_reset k).2, h45, hC3.trans (lchld_resetAt k ps), h19, h104, h105]

theorem resetValue_made : ∀ n ∈ madeRegisters, (if crOfDevice n then Dev.reset n else Cr.reset n) = 0#64 := by decide

/-- What MFC reads after reset of a register that is neither free nor fused: the number of the core in COREID, else the reset value of
the device's or the core's own register. -/
theorem readCr_resetAt (k : BitVec 7) (ps : List CoreState) {n : Nat} (hfree : n ∉ [0x00B, 0x100, 0x101, 0x102, 0x103, 0x10C]) :
    (resetAt k ps).readCr n = if n = 0x00C then k.setWidth 64 else if crOfDevice n then Dev.reset n else Cr.reset n := by
  by_cases hC : n = 0x00C
  · subst hC
    rw [if_pos rfl]
    exact (State.readCr_made _).2.1
  rw [if_neg hC]
  by_cases hmade : n ∈ madeRegisters
  · rw [readCr_resetAt_made k ps hmade, resetValue_made n hmade]
  · simp only [madeRegisters, List.mem_cons, List.not_mem_nil, or_false, not_or] at hmade
    obtain ⟨h8, hE, h1B, h20, h21, h45, hC3, h19, h104, h105⟩ := hmade
    have hwo : crAccess n ≠ some .wo := fun h => by
      rcases eq_of_crAccess_wo h with rfl | rfl | rfl <;> contradiction
    rw [State.readCr_plain _ h8 hC hE h1B h20 h21 h45 hC3 hwo, readDev_resetAt k ps hfree, core_resetAt, CoreState.crGet_reset]

end Sys2Proof.Machine
end

section
/-! The statement on reset. -/

open Sys2Proof Sys2Proof.Machine

/-- Settles O58: each core is found as reset leaves it, and its control registers then read their reset values. -/
theorem resetValues : Obligations.ResetValues := by
  unfold Obligations.ResetValues
  refine ⟨fun k n _ hfree _ => ?registers, fun k => ?core, rfl, fun _ => rfl, fun _ _ => ⟨rfl, rfl, rfl, rfl⟩⟩
  case registers =>
    obtain ⟨ps, hfocus⟩ := State.reset_focus k
    rw [hfocus, readCr_resetAt k ps hfree]
    by_cases hC : n = 0x00C
    · subst hC
      rfl
    cases hd : crOfDevice n
    · have := lt_of_crOfDevice_false hd
      have h107 : n ≠ 0x107 := by omega
      simp only [hC, h107, if_false, Bool.false_eq_true, Cr.reset]
    · have hn : 0x0C6 ≤ n := of_decide_eq_true (Bool.and_eq_true_iff.mp hd).1
      rw [if_neg hC, if_pos rfl]
      iterate 7 rw [if_neg (by omega)]
      rfl
  case core =>
    rw [State.reset_coreAt]
    exact ⟨rfl, rfl, fun g hg => if_neg hg, fun _ => rfl, fun _ _ _ _ => ⟨rfl, rfl⟩⟩
end

section
/-! SUPPORT. The canonical form of storage (log entry 4): what it says of a state and of an outcome, and the writes that keep it. -/

namespace Sys2Proof.Machine
set_option Elab.async false

/-- The one form of bytes and poison marks (log entry 4). -/
def CanonicalStorage (mem : Cells 8) (poison : Cells 1) : Prop := Memory.wf mem = true ∧ Cells.wf 0#1 poison = true

/-- The invariant, reducible, so that a state written out field by field shows its storage. -/
@[reducible] def State.Canon (s : State) : Prop := CanonicalStorage s.mem s.poison

theorem State.canon_iff_inv {s : State} : s.Canon ↔ s.Inv := Iff.rfl

/-- An outcome that goes on, if it does, with the storage in its one form. -/
def CanonAfter (o : Out) : Prop := ∀ t, o = .next t → t.Canon

section
variable {s t : State}

/-- A state written out shows its storage. -/
@[simp] theorem State.canon_mk {
    core parked mem poison l1 tlb dev time clock slowing packets reserved reqs replies lines misses missing
      notices decoded decodes waiters released withdrawals peekBad podBack windows heldUpds links remotes
      transits peerOut esns resetPermits peerAnswers launches launchQueues east west charged meters qwCfg
      qwStage qwStatus msixTable msixPending msixSent hostWrites hostReads answers hostOps heldWrites aer
      mailbox bootNext imageCame retiredCores retiredSlices stamps agenda turn picks tick uid } :
    (State.mk
    core parked mem poison l1 tlb dev time clock slowing packets reserved reqs replies lines misses missing
      notices decoded decodes waiters released withdrawals peekBad podBack windows heldUpds links remotes
      transits peerOut esns resetPermits peerAnswers launches launchQueues east west charged meters qwCfg
      qwStage qwStatus msixTable msixPending msixSent hostWrites hostReads answers hostOps heldWrites aer
      mailbox bootNext imageCame retiredCores retiredSlices stamps agenda turn picks tick uid).Canon ↔
      CanonicalStorage mem poison := Iff.rfl

@[simp] theorem canonAfter_next : CanonAfter (.next t) ↔ t.Canon := by simp [CanonAfter]
theorem State.Canon.next (h : t.Canon) : CanonAfter (.next t) := canonAfter_next.mpr h

@[simp] theorem canon_ite {p : Prop} [Decidable p] {a b : State} :
    (if p then a else b).Canon ↔ if p then a.Canon else b.Canon := by
  split <;> rfl

theorem State.Canon.ite {p : Prop} [Decidable p] {a b : State} (ha : a.Canon) (hb : b.Canon) : (if p then a else b).Canon := by
  split <;> assumption

@[simp] theorem canonAfter_ite {p : Prop} [Decidable p] {a b : Out} :
    CanonAfter (if p then a else b) ↔ if p then CanonAfter a else CanonAfter b := by
  split <;> rfl

theorem CanonAfter.ite {p : Prop} [Decidable p] {a b : Out} (ha : CanonAfter a) (hb : CanonAfter b) :
    CanonAfter (if p then a else b) := by
  split <;> assumption

@[simp] theorem foldl_canon_iff {α : Type} {f : State → α → State} (hf : ∀ t a, (f t a).Canon ↔ t.Canon) (l : List α) :
    (l.foldl f s).Canon ↔ s.Canon := by
  induction l generalizing s with
  | nil => rfl
  | cons a l ih => exact ih.trans (hf s a)

@[simp] theorem foldl_canon {α : Type} {f : State → α → State} (hf : ∀ t a, t.Canon → (f t a).Canon) (l : List α) (h : s.Canon) :
    (l.foldl f s).Canon := State.inv_foldl f hf l h

@[simp] theorem foldl_fst_canon {α β : Type} {f : State × β → α → State × β} (hf : ∀ p a, p.1.Canon → (f p a).1.Canon) (l : List α)
    {p : State × β} (h : p.1.Canon) : (l.foldl f p).1.Canon :=
  List.foldlRecOn l f h fun p hp a _ => hf p a hp

@[simp] theorem State.upd_canon (f : CoreState → CoreState) : (s.upd f).Canon ↔ s.Canon := Iff.rfl

@[simp] theorem State.updCore_canon (id : BitVec 7) (f : CoreState → CoreState) : (s.updCore id f).Canon ↔ s.Canon := by
  unfold State.updCore
  split <;> rfl

@[simp] theorem State.note_canon (id : BitVec 7) (seq loc n : Nat) : (s.note id seq loc n).Canon ↔ s.Canon := by
  simp [State.note]

@[simp] theorem State.noteSpad_canon (h : s.Canon) (loc n : Nat) : (s.noteSpad loc n).Canon := State.inv_noteSpad h loc n

@[simp] theorem State.dropDecoded_canon (loc n : Nat) : (s.dropDecoded loc n).Canon ↔ s.Canon := Iff.rfl

@[simp] theorem State.markLine_canon (key : Option Nat) (line lo n : Nat) : (s.markLine key line lo n).Canon ↔ s.Canon := by
  unfold State.markLine
  dsimp only
  split <;> rfl

@[simp] theorem State.markBytes_canon (key : Option Nat) (pa n : Nat) : (s.markBytes key pa n).Canon ↔ s.Canon := by
  simp [State.markBytes]

/-! Writes, copies and poison (R119, R181) -/

@[simp] theorem State.write_canon (h : s.Canon) (loc : Nat) (bs : List Byte) : (s.write loc bs).Canon := State.inv_write h loc bs
@[simp] theorem State.setPoison_canon (h : s.Canon) (loc n : Nat) : (s.setPoison loc n).Canon := State.inv_setPoison h loc n
@[simp] theorem State.copyBytes_canon (h : s.Canon) (src dst n : Nat) : (s.copyBytes src dst n).Canon := State.inv_copyBytes h src dst n
@[simp] theorem State.zeroBytes_canon (h : s.Canon) (loc n : Nat) : (s.zeroBytes loc n).Canon := State.inv_zeroBytes h loc n
@[simp] theorem State.freeBytes_canon (h : s.Canon) (lo n : Nat) : (s.freeBytes lo n).Canon := State.inv_freeBytes h lo n
@[simp] theorem State.writeLocal_canon (h : s.Canon) (loc : Nat) (bs : List Byte) :
    (s.writeLocal loc bs).Canon := State.inv_writeLocal h loc bs
@[simp] theorem State.performOwn_canon (h : s.Canon) (loc : Nat) (bs : List Byte) :
    (s.performOwn loc bs).Canon := State.inv_performOwn h loc bs
@[simp] theorem State.guardDigest_canon (h : t.Canon) (loc n : Nat) : (s.guardDigest t loc n).Canon := State.inv_guardDigest h loc n
@[simp] theorem State.digestNote_canon (h : s.Canon) (key pa n : Nat) : (s.digestNote key pa n).Canon := State.inv_digestNote h key pa n

@[simp] theorem State.performWrite_canon (h : s.Canon) (key : Option Nat) (loc : Nat) (bs : List Byte) :
    (s.performWrite key loc bs).Canon :=
  State.inv_performWrite h key loc bs

@[simp] theorem State.mixBytes_canon (h : s.Canon) (full : State) (loc n : Nat) : (s.mixBytes full loc n).Canon :=
  State.inv_mixBytes h full loc n

end
end Sys2Proof.Machine
end

section
/-! SUPPORT. The canonical form of storage is kept by the state's operations, the accesses and the operands. -/

namespace Sys2Proof.Machine
set_option Elab.async false

/-! ### Ops -/

@[simp] theorem State.devPut_canon (s : State) (n : Nat) (v : Word64) : (s.devPut n v).Canon ↔ s.Canon := Iff.rfl

@[simp] theorem State.focus_canon (s : State) (id : BitVec 7) : (s.focus id).Canon ↔ s.Canon := by
  unfold State.focus
  (repeat' split) <;> simp

@[simp] theorem State.asCore_canon {s : State} (h : s.Canon) {f : State → State} (hf : ∀ t, t.Canon → (f t).Canon) (id : BitVec 7) :
    (s.asCore id f).Canon := by
  simp [State.asCore, h, hf]

@[simp] theorem State.fresh_canon (s : State) : s.fresh.2.Canon ↔ s.Canon := Iff.rfl

@[simp] theorem State.ticked_canon (s : State) : s.ticked.Canon ↔ s.Canon := Iff.rfl

@[simp] theorem State.holdUnchecked_canon {s : State} (h : s.Canon) : CanonAfter s.holdUnchecked := by
  simp [State.holdUnchecked, h]

@[simp] theorem State.hold_canon {s : State} (h : s.Canon) : CanonAfter s.hold := by
  simp [State.hold, h]

@[simp] theorem State.await_canon {s : State} (h : s.Canon) (fails : Bool) : CanonAfter (s.await fails) := by
  simp [State.await, h]

@[simp] theorem State.updLaunch_canon (s : State) (key : Nat) (f : Launch → Launch) : (s.updLaunch key f).Canon ↔ s.Canon := Iff.rfl

@[simp] theorem State.taintLaunch_canon (s : State) (key : Nat) (cause : BitVec 8) : (s.taintLaunch key cause).Canon ↔ s.Canon := Iff.rfl

@[simp] theorem State.updCtl_canon (s : State) (die : Bool) (f : Controller → Controller) : (s.updCtl die f).Canon ↔ s.Canon := by
  simp [State.updCtl]

@[simp] theorem State.correctLaunch_canon (s : State) (key : Nat) : (s.correctLaunch key).Canon ↔ s.Canon := Iff.rfl

@[simp] theorem State.chargeMeter_canon (s : State) (m pj : Nat) : (s.chargeMeter m pj).Canon ↔ s.Canon := by
  simp [State.chargeMeter]

@[simp] theorem State.charge_canon (s : State) (key kind n : Nat) : (s.charge key kind n).Canon ↔ s.Canon := by
  unfold State.charge
  (repeat' split) <;> simp

@[simp] theorem State.lostRecord_canon (s : State) : s.lostRecord.Canon ↔ s.Canon := Iff.rfl

@[simp] theorem State.sendRecord_canon (s : State) (handle root : Word64) (sl cls lid core : Nat) (die : Bool) (body : List Byte) :
    (s.sendRecord handle root sl cls lid core die body).Canon ↔ s.Canon := by
  simp [State.sendRecord]

@[simp] theorem State.sendLaunch_canon (s : State) (evq root : Word64) (sl cls lid core : Nat) (die : Bool) (body : List Byte) :
    (s.sendLaunch evq root sl cls lid core die body).Canon ↔ s.Canon := by
  simp [State.sendLaunch]

@[simp] theorem State.sendCoreEvent_canon (s : State) (c : CoreState) (bits : Nat) : (s.sendCoreEvent c bits).Canon ↔ s.Canon := by
  simp [State.sendCoreEvent]

@[simp] theorem State.sendHost_canon (s : State) (cls core : Nat) (die : Bool) (body : List Byte) :
    (s.sendHost cls core die body).Canon ↔ s.Canon := by
  simp [State.sendHost]

@[simp] theorem State.setEvent_canon (s : State) (id : BitVec 7) (bit : Nat) : (s.setEvent id bit).Canon ↔ s.Canon := by
  simp [State.setEvent]

@[simp] theorem State.countOverdue_canon (s : State) (a : Agent) (old new : Tag) : (s.countOverdue a old new).Canon ↔ s.Canon := by
  unfold State.countOverdue
  (repeat' split) <;> simp

@[simp] theorem State.nextEsn_canon (s : State) (src ch cls : Nat) : (s.nextEsn src ch cls).2.Canon ↔ s.Canon := Iff.rfl

@[simp] theorem State.doubleTrap_canon (s : State) (cause : BitVec 8) : (s.doubleTrap cause).Canon ↔ s.Canon := by
  simp [State.doubleTrap]

@[simp] theorem State.takeTrap_canon (s : State) (t : Trap) : (s.takeTrap t).Canon ↔ s.Canon := by
  simp [State.takeTrap]

@[simp] theorem State.trap_canon {s : State} (h : s.Canon) (cause : BitVec 8) (t0 t1 t2 t3 : Word64) :
    CanonAfter (s.trap cause t0 t1 t2 t3) := by
  simp [State.trap, h]

@[simp] theorem State.trap0B_canon {s : State} (h : s.Canon) : CanonAfter s.trap0B := by
  simp [State.trap0B, h]

@[simp] theorem State.trap02_canon {s : State} (h : s.Canon) : CanonAfter s.trap02 := by
  simp [State.trap02, h]

/-! ### Access -/

@[simp] theorem State.fillTlb_canon (s : State) (cl : Nat) (root : Word64) (p : Page) : (s.fillTlb cl root p).Canon ↔ s.Canon := by
  unfold State.fillTlb
  (repeat' split) <;> simp

@[simp] theorem State.accTrap_canon {s : State} (h : s.Canon) (f : AccFault) (k : AccKind) (e : Nat) (addr done : Word64) :
    CanonAfter (s.accTrap f k e addr done) := by
  simp [State.accTrap, h]

@[simp] theorem State.usePage_canon (s : State) (p : Page) : (s.usePage p).Canon ↔ s.Canon := by
  simp [State.usePage]

@[simp] theorem State.notePage_canon (s : State) (p : Place) : (s.notePage p).Canon ↔ s.Canon := by
  unfold State.notePage
  (repeat' split) <;> simp

@[simp] theorem State.writeSync_canon {s : State} (h : s.Canon) (loc : Nat) (bs : List Byte) : (s.writeSync loc bs).Canon := by
  simp [State.writeSync, h]

@[simp] theorem State.l1Drop_canon (s : State) (id : BitVec 7) (pa : Nat) : (s.l1Drop id pa).Canon ↔ s.Canon := Iff.rfl

@[simp] theorem State.l1Store_canon (s : State) (pa : Nat) (bs : List Byte) : (s.l1Store pa bs).Canon ↔ s.Canon := Iff.rfl

@[simp] theorem State.l1Clear_canon (s : State) : s.l1Clear.Canon ↔ s.Canon := Iff.rfl

@[simp] theorem State.inject_canon (s : State) (src : Nat) (r : Req) : (s.inject src r).Canon ↔ s.Canon := Iff.rfl

@[simp] theorem State.replyTo_canon (s : State) (r : Req) (k : BitVec 7) (dest : LoadDest) (parts : List Part) (bad : Bool)
    (src site : Nat) : (s.replyTo r k dest parts bad src site).Canon ↔ s.Canon := Iff.rfl

@[simp] theorem State.takePermit_canon (s : State) (p : Packet) : (s.takePermit p).Canon ↔ s.Canon := by
  unfold State.takePermit
  (repeat' split) <;> simp

@[simp] theorem State.takePermits_canon (s : State) : s.takePermits.Canon ↔ s.Canon := by
  simp [State.takePermits]

@[simp] theorem State.send_canon (s : State) (r : Req) : (s.send r).Canon ↔ s.Canon := Iff.rfl

@[simp] theorem State.sendLoad_canon (s : State) (dest : LoadDest) (parts : List Part) : (s.sendLoad dest parts).Canon ↔ s.Canon := Iff.rfl

@[simp] theorem State.sendStore_canon (s : State) (parts : List Part) (release : Bool) :
    (s.sendStore parts release).Canon ↔ s.Canon := Iff.rfl

/-! ### Operands -/

@[simp] theorem State.whenOn_canon {s : State} (h : s.Canon) (g : BitVec 4) {k : Out} (hk : CanonAfter k) : CanonAfter (s.whenOn g k) := by
  simp [State.whenOn, h, hk]

@[simp] theorem State.putS_canon (s : State) (d : BitVec 6) (v : Word64) : (s.putS d v).Canon ↔ s.Canon := Iff.rfl

@[simp] theorem State.alu_canon {s : State} (h : s.Canon) (o : OpSA) (f : Word64 → Word64 → Word64) : CanonAfter (s.alu o f) := by
  simp [State.alu, h]

@[simp] theorem State.alu32_canon {s : State} (h : s.Canon) (o : OpSA) (f : Word32 → Word32 → Word32) : CanonAfter (s.alu32 o f) := by
  simp [State.alu32, h]

@[simp] theorem State.aluDiv_canon {s : State} (h : s.Canon) (o : OpSA) (zero : Word64 → Bool) (f : Word64 → Word64 → Word64) :
    CanonAfter (s.aluDiv o zero f) := by
  simp [State.aluDiv, h]

@[simp] theorem State.div64_canon {s : State} (h : s.Canon) (o : OpSA) (f : Word64 → Word64 → Word64) : CanonAfter (s.div64 o f) := by
  simp [State.div64, h]

@[simp] theorem State.div32_canon {s : State} (h : s.Canon) (o : OpSA) (f : Word32 → Word32 → Word32) : CanonAfter (s.div32 o f) := by
  simp [State.div32, h]

@[simp] theorem State.aluUn_canon {s : State} (h : s.Canon) (o : OpSU) (f : Word64 → Word64) : CanonAfter (s.aluUn o f) := by
  simp [State.aluUn, h]

@[simp] theorem State.aluImm_canon {s : State} (h : s.Canon) (o : OpSI) (f : Word64 → Word64 → Word64) : CanonAfter (s.aluImm o f) := by
  simp [State.aluImm, h]

@[simp] theorem State.aluShift_canon {s : State} (h : s.Canon) (o : OpShift) (f : Word64 → Nat → Word64) : CanonAfter (s.aluShift o f) := by
  simp [State.aluShift, h]

@[simp] theorem State.guardOp_canon {s : State} (h : s.Canon) (o : OpGuard) (f : Word32 → Word32 → Word32) :
    CanonAfter (s.guardOp o f) := by
  simp [State.guardOp, h]

end Sys2Proof.Machine
end

section
/-! SUPPORT. The canonical form of storage is kept by the slices, the answers and the units of the engines. -/

namespace Sys2Proof.Machine
set_option Elab.async false

/-! ### Slice -/

@[simp] theorem State.injectReserved_canon (s : State) (ls : List (Nat × Nat × Reserved)) : (s.injectReserved ls).Canon ↔ s.Canon := by
  simp [State.injectReserved]

@[simp] theorem State.dispatch_canon (s : State) (src ch pass : Nat) (t : Tag) (what : Moved) :
    (s.dispatch src ch pass t what).Canon ↔ s.Canon := Iff.rfl

@[simp] theorem State.missed_canon (s : State) (line : Nat) : (s.missed line).Canon ↔ s.Canon := by
  simp [State.missed]

/-! ### Answers -/

@[simp] theorem State.lateLanes_canon {s : State} (h : s.Canon) (seq a : Nat) (parts : List Part) : (s.lateLanes seq a parts).Canon :=
  foldl_canon (fun t _ ht => State.writeLocal_canon ((t.note_canon _ _ _ _).mpr ht) _ _) _ h

@[simp] theorem State.fillBuffer_canon {s : State} (h : s.Canon) (seq : Nat) (pc : BitVec 48) (slack : Nat) (locs : List Nat) (bs : List Byte) :
    (s.fillBuffer seq pc slack locs bs).Canon := by
  induction locs generalizing s bs with
  | nil => exact h
  | cons loc t ih =>
    rw [State.fillBuffer]
    refine ih ?_ _
    simp [h]

@[simp] theorem State.answerGood_canon {s : State} (h : s.Canon) (r : QReq) (seq : Nat) (q : BitVec 6) (k : BitVec 3)
    (buf : List Nat) (a : QAnswer) : (s.answerGood r seq q k buf a).Canon := by
  unfold State.answerGood
  (repeat' split) <;> simp [h]

@[simp] theorem State.countChildOf_canon (s : State) (id : BitVec 7) (a : QAnswer) : (s.countChildOf id a).Canon ↔ s.Canon := by
  unfold State.countChildOf
  (repeat' split) <;> simp

@[simp] theorem State.takeAnswers_canon {s : State} (h : s.Canon) (id : BitVec 7) : (s.takeAnswers id).Canon := by
  refine foldl_canon (fun t x ht => ?_) _ h
  have hgood (r seq q k buf a) : (t.asCore id fun s => s.answerGood r seq q k buf a).Canon :=
    State.asCore_canon ht (fun _ hu => State.answerGood_canon hu _ _ _ _ _ _) _
  (repeat' split) <;> simp [ht, hgood]

/-! ### Blocks -/

@[simp] theorem State.writeBlock_canon {s : State} (h : s.Canon) (pa : Nat) (bs : List Byte) : (s.writeBlock pa bs).Canon := by
  simp [State.writeBlock, h]

@[simp] theorem State.setQcb_canon {s : State} (h : s.Canon) (pa : Nat) (f : Qcb → Qcb) : (s.setQcb pa f).Canon := by
  simp [State.setQcb, h]

@[simp] theorem State.poisonBlock_canon {s : State} (h : s.Canon) (pa : Nat) : (s.poisonBlock pa).Canon := by
  simp [State.poisonBlock, h]

@[simp] theorem State.unpark_canon {s : State} (h : s.Canon) (w : QReq) : (s.unpark w).Canon := by
  simp [State.unpark, h]

/-! ### Units -/

@[simp] theorem State.opWrite_canon {s : State} (h : s.Canon) (o : EngineOp) (loc : Nat) (bs : List Byte) : (s.opWrite o loc bs).Canon := by
  simp [State.opWrite, h]

/-! ### CopyUnit -/

@[simp] theorem State.putBytes_canon {s : State} (h : s.Canon) (loc : Nat) (bs : List Byte) (bad : Nat → Bool) :
    (s.putBytes loc bs bad).Canon := by
  simp +contextual [State.putBytes, h]

@[simp] theorem State.elemsDone_canon {s : State} (h : s.Canon) (o : EngineOp) (i : OpCpyr) (g : Seg) (bs : List Byte) :
    (s.elemsDone o i g bs).Canon := by
  simp +contextual [State.elemsDone, h]

@[simp] theorem State.copied_canon {s : State} (h : s.Canon) (o : EngineOp) : (s.copied o).Canon := by
  refine foldl_canon (fun t g ht => ?_) _ h
  dsimp only
  split
  · exact State.elemsDone_canon ht _ _ _ _
  · exact foldl_canon (fun u d hu => State.putBytes_canon hu _ _ _) _ ht

/-! ### LadderUnit -/

@[simp] theorem Ladders.put_canon {t : Ladders} (h : t.s.Canon) (o : EngineOp) (a : Nat) (vs : List Nat) : (t.put o a vs).s.Canon :=
  State.opWrite_canon h _ _ _

/-- What every step of a fold keeps of the state of the Ladder's operation, the fold keeps. -/
theorem Ladders.foldl_canon {α : Type} {f : Ladders → α → Ladders} (hf : ∀ t a, t.s.Canon → (f t a).s.Canon) (l : List α) {t : Ladders}
    (h : t.s.Canon) : (l.foldl f t).s.Canon :=
  List.foldlRecOn l f h fun t ht a _ => hf t a ht

@[simp] theorem Ladders.scan_canon {t : Ladders} (h : t.s.Canon) (o : EngineOp) (comp : Bool) (k : BitVec 3) (zero : Bool) (a b : Nat) :
    (t.scan o comp k zero a b).s.Canon := by
  refine (State.upd_canon _).mpr (Ladders.foldl_canon (fun u i hu => ?_) _ h)
  dsimp only
  split
  · exact Ladders.put_canon (Ladders.put_canon hu _ _ _) _ _ _
  · exact Ladders.put_canon hu _ _ _

@[simp] theorem Ladders.gate_canon {t : Ladders} (h : t.s.Canon) (o : EngineOp) (a b : Nat) : (t.gate o a b).s.Canon :=
  Ladders.foldl_canon (fun _ _ hu => Ladders.put_canon (Ladders.put_canon hu _ _ _) _ _ _) _ h

@[simp] theorem Ladders.mat_canon {t : Ladders} (h : t.s.Canon) (o : EngineOp) (acc a b : Nat) : (t.mat o acc a b).s.Canon := by
  refine Ladders.foldl_canon (fun u r hu => ?_) _ h
  exact Ladders.put_canon hu _ _ _

@[simp] theorem State.loadCarry_canon (s : State) (o : EngineOp) (k : BitVec 3) (a : Nat) : (s.loadCarry o k a).Canon ↔ s.Canon := by
  simp [State.loadCarry]

@[simp] theorem State.saveCarry_canon {s : State} (h : s.Canon) (o : EngineOp) (k : BitVec 3) (a : Nat) : (s.saveCarry o k a).Canon := by
  simp [State.saveCarry, h]

@[simp] theorem State.performN_canon {s : State} (h : s.Canon) (o : EngineOp) : (s.performN o).s.Canon := by
  unfold State.performN
  dsimp only
  split
  · exact (s.loadCarry_canon _ _ _).mpr h
  · exact State.saveCarry_canon h _ _ _
  · exact h
  · exact Ladders.foldl_canon (fun _ _ ht => Ladders.scan_canon ht _ _ _ _ _ _) _ h
  · exact Ladders.foldl_canon (fun _ _ ht => Ladders.scan_canon ht _ _ _ _ _ _) _ h
  · exact Ladders.foldl_canon (fun _ _ ht => Ladders.gate_canon ht _ _ _) _ h
  · exact Ladders.foldl_canon (fun _ _ ht => Ladders.mat_canon ht _ _ _ _) _ h
  · exact h

/-! ### MatrixUnit -/

@[simp] theorem State.putRow_canon {s : State} (h : s.Canon) (o : EngineOp) (a row : Nat) (vs : List FRes) :
    (s.putRow o a row vs).Canon := by
  simp [State.putRow, h]

@[simp] theorem State.performMma_canon {s : State} (h : s.Canon) (o : EngineOp) : (s.performMma o).1.Canon :=
  foldl_fst_canon (fun _ _ hp => foldl_canon (fun _ _ ht => State.putRow_canon ht _ _ _ _) _ hp) _ h

@[simp] theorem State.loadBuf_canon (s : State) (o : EngineOp) : (s.loadBuf o).Canon ↔ s.Canon := Iff.rfl

@[simp] theorem State.mapRows_canon {s : State} (h : s.Canon) (o : EngineOp) (a r0 n base : Nat) (f : (Nat → Nat → Nat → Nat) → Nat → Nat → FRes) :
    (s.mapRows o a r0 n base f).1.Canon :=
  foldl_fst_canon (fun _ _ hp => State.putRow_canon hp _ _ _ _) _ h

@[simp] theorem State.performMacc_canon {s : State} (h : s.Canon) (o : EngineOp) (ss : Bool) (r0 : Nat) :
    (s.performMacc o ss r0).1.Canon := by
  simp +contextual [State.performMacc, h]

@[simp] theorem State.performMout_canon {s : State} (h : s.Canon) (o : EngineOp) (r0 : Nat) : (s.performMout o r0).1.Canon :=
  foldl_fst_canon (fun _ _ hp => State.opWrite_canon hp _ _ _) _ h

@[simp] theorem State.performM_canon {s : State} (h : s.Canon) (o : EngineOp) : (s.performM o).1.Canon := by
  unfold State.performM
  (repeat' split) <;> simp [h]

/-! ### Containment -/

@[simp] theorem State.mixCarry_canon (s full : State) (k : BitVec 3) (n : Nat) : (s.mixCarry full k n).Canon ↔ s.Canon := Iff.rfl

@[simp] theorem State.mixBuf_canon (s full : State) (b : Nat) : (s.mixBuf full b).Canon ↔ s.Canon := Iff.rfl

@[simp] theorem State.abandonUnit_canon (s full : State) (o : EngineOp) : (s.abandonUnit full o).Canon ↔ s.Canon := by
  unfold State.abandonUnit
  (repeat' split) <;> simp

@[simp] theorem State.dropRequest_canon (s : State) (uid : Nat) : (s.dropRequest uid).Canon ↔ s.Canon := Iff.rfl

@[simp] theorem State.abandonSeg_canon {s : State} (h : s.Canon) (full : State) (g : Seg) : (s.abandonSeg full g).Canon := by
  simp +contextual [State.abandonSeg, h]

@[simp] theorem State.abandon_canon {s : State} (h : s.Canon) (full : State) (o : EngineOp) : (s.abandon full o).Canon := by
  unfold State.abandon
  (repeat' split) <;> simp +contextual [h]

@[simp] theorem State.abandonFrame_canon (s : State) (o : EngineOp) : (s.abandonFrame o).Canon ↔ s.Canon := by
  unfold State.abandonFrame
  (repeat' split) <;> simp

@[simp] theorem State.abandonLook_canon {s : State} (h : s.Canon) (b : Bool) : (s.abandonLook b).Canon := by
  simp [State.abandonLook, h]

@[simp] theorem State.abandonOne_canon {s : State} (h : s.Canon) (o : EngineOp) : (s.abandonOne o).Canon := by
  simp [State.abandonOne, h]

@[simp] theorem State.abandonAll_canon {s : State} (h : s.Canon) : s.abandonAll.Canon := by
  refine (State.upd_canon _).mpr (State.abandonLook_canon (State.abandonLook_canon ?_ _) _)
  exact foldl_fst_canon (fun p o hp => (State.abandonFrame_canon _ _).mpr (State.abandon_canon hp _ _)) _ h

@[simp] theorem State.withdrawParked_canon {s : State} (h : s.Canon) (id : BitVec 7) : (s.withdrawParked id).Canon := by
  simp +contextual [State.withdrawParked, h]

@[simp] theorem State.leaveWindows_canon (s : State) : s.leaveWindows.Canon ↔ s.Canon := Iff.rfl

@[simp] theorem State.deliver_canon {s : State} (h : s.Canon) (cerr : List (Nat × Word64)) : (s.deliver cerr).Canon := by
  simp [State.deliver, h]

@[simp] theorem State.consume_canon {s : State} (h : s.Canon) (seq : Nat) (pc : BitVec 48) (slot src : Nat) (addr : Word64) :
    (s.consume seq pc slot src addr).Canon := by
  simp +contextual [State.consume, h]

@[simp] theorem State.consumeHere_canon {s : State} (h : s.Canon) (loc : Nat) (addr : Word64) : CanonAfter (s.consumeHere loc addr) := by
  simp [State.consumeHere, h]

@[simp] theorem State.farWait_canon {s : State} (h : s.Canon) (addr : Word64) (loc n : Nat) (kind : ReqKind) (data : List Byte)
    {k : State → List Byte → Out} (hk : ∀ t bs, t.Canon → CanonAfter (k t bs)) : CanonAfter (s.farWait addr loc n kind data k) := by
  unfold State.farWait
  dsimp only
  split
  · split
    · simp [h]
    · split <;> simp [h, hk]
  · simp [h]

@[simp] theorem State.farRead_canon {s : State} (h : s.Canon) (addr : Word64) (loc n : Nat) {k : State → List Byte → Out}
    (hk : ∀ t bs, t.Canon → CanonAfter (k t bs)) : CanonAfter (s.farRead addr loc n k) := State.farWait_canon h _ _ _ _ _ hk

@[simp] theorem State.directRead_canon {s : State} (h : s.Canon) (addr : Word64) (loc n : Nat) {k : State → List Byte → Out}
    (hk : ∀ t bs, t.Canon → CanonAfter (k t bs)) : CanonAfter (s.directRead addr loc n k) := by
  unfold State.directRead
  split
  · simp [h]
  · split
    · exact State.farRead_canon h _ _ _ hk
    · split
      · split
        · simp [h]
        · simp [h, hk]
      · simp [h, hk]

end Sys2Proof.Machine
end

section
/-! SUPPORT. The canonical form of storage is kept by the instructions of the load and store, sequencer and vector slots. -/

namespace Sys2Proof.Machine
set_option Elab.async false

/-! ### LoadStore -/

@[simp] theorem State.loadScalar_canon {s : State} (h : s.Canon) (o : OpSL) (a : Word64) (loc : Nat) :
    CanonAfter (s.loadScalar o a loc) := by
  unfold State.loadScalar
  dsimp only
  (repeat' split) <;> simp [h]

@[simp] theorem execLd_canon {s : State} (h : s.Canon) (o : OpSL) : CanonAfter (execLd o s) := by
  unfold execLd
  dsimp only
  (repeat' split) <;> simp [h]

@[simp] theorem State.acquired_canon (s : State) : s.acquired.Canon ↔ s.Canon := Iff.rfl

@[simp] theorem execLdacq_canon {s : State} (h : s.Canon) (o : OpSL) : CanonAfter (execLdacq o s) := by
  unfold execLdacq
  dsimp only
  (repeat' split) <;> simp [h]

@[simp] theorem State.storeScalar_canon (s : State) (a : Word64) (loc : Nat) (bs : List Byte) (release : Bool) :
    (s.storeScalar a loc bs release).Canon ↔ s.Canon := by
  simp [State.storeScalar]

@[simp] theorem execSt_canon {s : State} (h : s.Canon) (o : OpSL) : CanonAfter (execSt o s) := by
  unfold execSt
  dsimp only
  (repeat' split) <;> simp [h]

@[simp] theorem execStrel_canon {s : State} (h : s.Canon) (o : OpSL) : CanonAfter (execStrel o s) := by
  unfold execStrel
  dsimp only
  (repeat' split) <;> simp [h]

@[simp] theorem execFence_canon {s : State} (h : s.Canon) (o : OpFence) : CanonAfter (execFence o s) := by
  simp [execFence, h]

@[simp] theorem State.drainScope_canon {s : State} (h : s.Canon) (scope : Nat) : CanonAfter (s.drainScope scope) := by
  simp [State.drainScope, h]

@[simp] theorem execFwait_canon {s : State} (h : s.Canon) (o : OpS1) : CanonAfter (execFwait o s) := by
  simp [execFwait, h]

@[simp] theorem execDrain_canon {s : State} (h : s.Canon) (o : OpDrain) : CanonAfter (execDrain o s) := by
  simp [execDrain, h]

@[simp] theorem execJoin_canon {s : State} (h : s.Canon) (o : OpJoin) : CanonAfter (execJoin o s) := by
  simp [execJoin, h]

/-! ### Sequencer -/

@[simp] theorem State.transfer_canon {s : State} (h : s.Canon) (g : BitVec 4) (i : Instr) (link : Bool) :
    CanonAfter (s.transfer g i link) := by
  simp [State.transfer, h]

@[simp] theorem execBr_canon {s : State} (h : s.Canon) (o : OpSJ) : CanonAfter (execBr o s) := by
  simp [execBr, h]

@[simp] theorem execJmp_canon {s : State} (h : s.Canon) (o : OpSJ) : CanonAfter (execJmp o s) := by
  simp [execJmp, h]

@[simp] theorem execJmpi_canon {s : State} (h : s.Canon) (o : OpS1) : CanonAfter (execJmpi o s) := by
  simp [execJmpi, h]

@[simp] theorem execCall_canon {s : State} (h : s.Canon) (o : OpSJ) : CanonAfter (execCall o s) := by
  simp [execCall, h]

@[simp] theorem execRet_canon {s : State} (h : s.Canon) (o : OpG) : CanonAfter (execRet o s) := by
  simp [execRet, h]

@[simp] theorem execLoop_canon {s : State} (h : s.Canon) (o : OpLoop) : CanonAfter (execLoop o s) := by
  simp [execLoop, h]

@[simp] theorem execRpt_canon {s : State} (h : s.Canon) (o : OpLoop) : CanonAfter (execRpt o s) := by
  simp [execRpt, h]

@[simp] theorem execLoopn_canon {s : State} (h : s.Canon) (o : OpLoopn) : CanonAfter (execLoopn o s) := by
  simp [execLoopn, h]

@[simp] theorem execMargin_canon {s : State} (h : s.Canon) (o : OpMargin) : CanonAfter (execMargin o s) := by
  simp [execMargin, h]

@[simp] theorem State.setNest_canon (s : State) (lv : BitVec 3) (f : NestLevel → NestLevel) : (s.setNest lv f).Canon ↔ s.Canon := Iff.rfl

@[simp] theorem execLnsetBound_canon {s : State} (h : s.Canon) (o : OpLnBound) : CanonAfter (execLnsetBound o s) := by
  simp [execLnsetBound, h]

@[simp] theorem execLnsetBind_canon {s : State} (h : s.Canon) (o : OpLnBind) : CanonAfter (execLnsetBind o s) := by
  simp [execLnsetBind, h]

@[simp] theorem execLnsetClear_canon {s : State} (h : s.Canon) (o : OpLnClear) : CanonAfter (execLnsetClear o s) := by
  simp [execLnsetClear, h]

@[simp] theorem State.taintSig_canon (s : State) : s.taintSig.Canon ↔ s.Canon := Iff.rfl

@[simp] theorem State.sigTaint_canon (s : State) (i : Nat) (expected measured : Word64) :
    (s.sigTaint i expected measured).Canon ↔ s.Canon := by
  simp [State.sigTaint]

@[simp] theorem State.mismatch_canon {s : State} (h : s.Canon) (i : Nat) (expected measured : Word64) :
    (s.mismatch i expected measured).Canon := by
  simp [State.mismatch, h]

@[simp] theorem execSegOpen_canon {s : State} (h : s.Canon) (o : OpSeg) : CanonAfter (execSegOpen o s) := by
  unfold execSegOpen
  dsimp only
  (repeat' split) <;> simp +contextual [h]

@[simp] theorem execSegClose_canon {s : State} (h : s.Canon) (o : OpSeg) : CanonAfter (execSegClose o s) := by
  simp [execSegClose, h]

@[simp] theorem execCont_canon {s : State} (h : s.Canon) (o : OpSJ) : CanonAfter (execCont o s) := by
  simp [execCont, h]

@[simp] theorem execEndcont_canon {s : State} (h : s.Canon) (o : OpG) : CanonAfter (execEndcont o s) := by
  simp [execEndcont, h]

@[simp] theorem State.endCore_canon (s : State) : s.endCore.Canon ↔ s.Canon := Iff.rfl

@[simp] theorem State.ending_canon (s : State) : s.ending.Canon ↔ s.Canon := by
  simp [State.ending]

@[simp] theorem execHalt_canon {s : State} (h : s.Canon) (o : OpG) : CanonAfter (execHalt o s) := by
  simp [execHalt, h]

@[simp] theorem execTret_canon {s : State} (h : s.Canon) (o : OpG) : CanonAfter (execTret o s) := by
  simp [execTret, h]

@[simp] theorem execTrap_canon {s : State} (h : s.Canon) (o : OpTrap) : CanonAfter (execTrap o s) := by
  simp [execTrap, h]

@[simp] theorem execYield_canon {s : State} (h : s.Canon) (o : OpG) : CanonAfter (execYield o s) := by
  simp [execYield, h]

@[simp] theorem execWaitev_canon {s : State} (h : s.Canon) (o : OpWaitev) : CanonAfter (execWaitev o s) := by
  simp [execWaitev, h]

@[simp] theorem execGate_canon {s : State} (h : s.Canon) (o : OpGate) : CanonAfter (execGate o s) := by
  simp [execGate, h]

theorem State.wakeHold_canon {s : State} (h : s.Canon) {o : Out} (ho : s.wakeHold = some o) : CanonAfter o := by
  simp only [State.wakeHold] at ho
  split at ho
  · cases ho
    simp [h]
  · cases ho

@[simp] theorem execEngineWakeDone_canon {s : State} (h : s.Canon) (engine : BitVec 3) : CanonAfter (execEngineWakeDone engine s) := by
  simp [execEngineWakeDone, h]

@[simp] theorem execTrapEntry_canon {s : State} (h : s.Canon) : CanonAfter (execTrapEntry s) := by
  unfold execTrapEntry
  (repeat' split) <;> simp [h]

@[simp] theorem execWatchdogExpiry_canon {s : State} (h : s.Canon) : CanonAfter (execWatchdogExpiry s) := by
  have ht : (((s.withdrawParked s.core.id).abandonLook false).abandonLook true).Canon :=
    State.abandonLook_canon (State.abandonLook_canon (State.withdrawParked_canon h _) _) _
  unfold execWatchdogExpiry
  simp [h, ht]

@[simp] theorem execTimerEvent_canon {s : State} (h : s.Canon) : CanonAfter (execTimerEvent s) := by
  simp [execTimerEvent, h]

@[simp] theorem execCupGenerate_canon {s : State} (h : s.Canon) : CanonAfter (execCupGenerate s) := by
  simp [execCupGenerate, h]

/-! ### Vector -/

@[simp] theorem State.cupTurn_canon {s : State} (h : s.Canon) (uses : Bool) {k : State → Out} (hk : ∀ t, t.Canon → CanonAfter (k t)) :
    CanonAfter (s.cupTurn uses k) := by
  unfold State.cupTurn
  (repeat' split) <;> simp [h, hk]

@[simp] theorem State.chargeV_canon (s : State) : s.chargeV.Canon ↔ s.Canon := by
  simp [State.chargeV]

@[simp] theorem State.vecOpen_canon {s : State} (h : s.Canon) (u : VUse) {k : State → BitVec 128 → List Nat → Nat → Out}
    (hk : ∀ t b l w, t.Canon → CanonAfter (k t b l w)) : CanonAfter (s.vecOpen u k) := by
  unfold State.vecOpen
  refine State.cupTurn_canon h _ fun t ht => ?_
  dsimp only
  split
  · simp [ht]
  · split
    · next o ho => exact State.wakeHold_canon ht ho
    · (repeat' split) <;> simp [ht, hk]

@[simp] theorem State.fpTrap_canon {s : State} (h : s.Canon) (fl : List (Nat × Flags)) : CanonAfter (s.fpTrap fl) := by
  simp [State.fpTrap, h]

@[simp] theorem State.putLanes_canon {s : State} (h : s.Canon) (a : Nat) (vs : List (Nat × Nat)) : (s.putLanes a vs).Canon :=
  foldl_canon (fun _ _ ht => State.writeSync_canon ht _ _) _ h

@[simp] theorem State.vecEnd_canon {s : State} (h : s.Canon) (a : Nat) (res : List (Nat × FRes)) : CanonAfter (s.vecEnd a res) := by
  simp [State.vecEnd, h]

@[simp] theorem State.vec3_canon {s : State} (h : s.Canon) (o : OpVA) (useD draws : Bool) (types : BitVec 128 → Bool)
    (f : BitVec 128 → Nat → Nat → Nat → Nat → Nat → FRes) : CanonAfter (s.vec3 o useD draws types f) := by
  simp +contextual [State.vec3, h]

@[simp] theorem State.vec2_canon {s : State} (h : s.Canon) (o : OpVA) (draws : Bool) (types : BitVec 128 → Bool)
    (f : BitVec 128 → Nat → Nat → Nat → Nat → FRes) : CanonAfter (s.vec2 o draws types f) := by
  simp [State.vec2, h]

@[simp] theorem State.vec1_canon {s : State} (h : s.Canon) (o : OpVU) (draws : Bool) (types : BitVec 128 → Bool)
    (f : BitVec 128 → Nat → Nat → Nat → FRes) : CanonAfter (s.vec1 o draws types f) := by
  simp +contextual [State.vec1, h]

@[simp] theorem execVadd_canon {s : State} (h : s.Canon) (o : OpVA) : CanonAfter (execVadd o s) := by
  simp [execVadd, h]

@[simp] theorem execVsub_canon {s : State} (h : s.Canon) (o : OpVA) : CanonAfter (execVsub o s) := by
  simp [execVsub, h]

@[simp] theorem execVmul_canon {s : State} (h : s.Canon) (o : OpVA) : CanonAfter (execVmul o s) := by
  simp [execVmul, h]

@[simp] theorem execVfma_canon {s : State} (h : s.Canon) (o : OpVA) : CanonAfter (execVfma o s) := by
  simp [execVfma, h]

@[simp] theorem execVmin_canon {s : State} (h : s.Canon) (o : OpVA) : CanonAfter (execVmin o s) := by
  simp [execVmin, h]

@[simp] theorem execVmax_canon {s : State} (h : s.Canon) (o : OpVA) : CanonAfter (execVmax o s) := by
  simp [execVmax, h]

@[simp] theorem execVabs_canon {s : State} (h : s.Canon) (o : OpVU) : CanonAfter (execVabs o s) := by
  simp [execVabs, h]

@[simp] theorem execVneg_canon {s : State} (h : s.Canon) (o : OpVU) : CanonAfter (execVneg o s) := by
  simp [execVneg, h]

@[simp] theorem execVdiv_canon {s : State} (h : s.Canon) (o : OpVA) : CanonAfter (execVdiv o s) := by
  simp [execVdiv, h]

@[simp] theorem execVsqrt_canon {s : State} (h : s.Canon) (o : OpVU) : CanonAfter (execVsqrt o s) := by
  simp [execVsqrt, h]

@[simp] theorem execVrcp_canon {s : State} (h : s.Canon) (o : OpVU) : CanonAfter (execVrcp o s) := by
  simp [execVrcp, h]

@[simp] theorem execVrsq_canon {s : State} (h : s.Canon) (o : OpVU) : CanonAfter (execVrsq o s) := by
  simp [execVrsq, h]

@[simp] theorem execVexp2_canon {s : State} (h : s.Canon) (o : OpVU) : CanonAfter (execVexp2 o s) := by
  simp [execVexp2, h]

@[simp] theorem execVlog2_canon {s : State} (h : s.Canon) (o : OpVU) : CanonAfter (execVlog2 o s) := by
  simp [execVlog2, h]

@[simp] theorem execVcmp_canon {s : State} (h : s.Canon) (o : OpVcmp) : CanonAfter (execVcmp o s) := by
  simp +contextual [execVcmp, h]

@[simp] theorem execVsel_canon {s : State} (h : s.Canon) (o : OpVA) : CanonAfter (execVsel o s) := by
  simp +contextual [execVsel, h]

@[simp] theorem execVand_canon {s : State} (h : s.Canon) (o : OpVA) : CanonAfter (execVand o s) := by
  simp [execVand, h]

@[simp] theorem execVor_canon {s : State} (h : s.Canon) (o : OpVA) : CanonAfter (execVor o s) := by
  simp [execVor, h]

@[simp] theorem execVxor_canon {s : State} (h : s.Canon) (o : OpVA) : CanonAfter (execVxor o s) := by
  simp [execVxor, h]

@[simp] theorem execVnot_canon {s : State} (h : s.Canon) (o : OpVU) : CanonAfter (execVnot o s) := by
  simp [execVnot, h]

@[simp] theorem execVshl_canon {s : State} (h : s.Canon) (o : OpVA) : CanonAfter (execVshl o s) := by
  simp [execVshl, h]

@[simp] theorem execVshr_canon {s : State} (h : s.Canon) (o : OpVA) : CanonAfter (execVshr o s) := by
  simp [execVshr, h]

@[simp] theorem execVsar_canon {s : State} (h : s.Canon) (o : OpVA) : CanonAfter (execVsar o s) := by
  simp [execVsar, h]

@[simp] theorem execVcvt_canon {s : State} (h : s.Canon) (o : OpVU) : CanonAfter (execVcvt o s) := by
  simp [execVcvt, h]

@[simp] theorem execVpack_canon {s : State} (h : s.Canon) (o : OpVA) : CanonAfter (execVpack o s) := by
  unfold execVpack
  dsimp only
  split
  · exact State.cupTurn_canon h _ fun t ht => by simp [ht]
  · exact State.vecOpen_canon h _ fun t sh lanes w ht => by simp [ht]

@[simp] theorem execVunpk_canon {s : State} (h : s.Canon) (o : OpVunpk) : CanonAfter (execVunpk o s) := by
  simp +contextual [execVunpk, h]

@[simp] theorem execVperm_canon {s : State} (h : s.Canon) (o : OpVA) : CanonAfter (execVperm o s) := by
  simp +contextual [execVperm, h]

@[simp] theorem execVbcstLane_canon {s : State} (h : s.Canon) (o : OpVbcstLane) : CanonAfter (execVbcstLane o s) := by
  simp +contextual [execVbcstLane, h]

@[simp] theorem execVbcstScalar_canon {s : State} (h : s.Canon) (o : OpVbcstScalar) : CanonAfter (execVbcstScalar o s) := by
  simp +contextual [execVbcstScalar, h]

@[simp] theorem execVmov_canon {s : State} (h : s.Canon) (o : OpVU) : CanonAfter (execVmov o s) := by
  simp [execVmov, h]

@[simp] theorem execXmov_canon {s : State} (h : s.Canon) (o : OpVU) : CanonAfter (execXmov o s) := by
  simp [execXmov, h]

@[simp] theorem execVred_canon {s : State} (h : s.Canon) (o : OpVred) : CanonAfter (execVred o s) := by
  unfold execVred
  refine State.vecOpen_canon h _ fun t sh lanes w ht => ?_
  dsimp only
  simp [ht]

@[simp] theorem State.vecPair_canon {s : State} (h : s.Canon) (hi lo : Nat) (res : List (Nat × Pair × Flags)) :
    CanonAfter (s.vecPair hi lo res) := by
  simp [State.vecPair, h]

@[simp] theorem execVcadd_canon {s : State} (h : s.Canon) (o : OpVA) : CanonAfter (execVcadd o s) := by
  simp +contextual [execVcadd, h]

@[simp] theorem execVcacc_canon {s : State} (h : s.Canon) (o : OpVU) : CanonAfter (execVcacc o s) := by
  simp +contextual [execVcacc, h]

@[simp] theorem execVfade_canon {s : State} (h : s.Canon) (o : OpVA) : CanonAfter (execVfade o s) := by
  simp [execVfade, h]

@[simp] theorem execVqdeq_canon {s : State} (h : s.Canon) (o : OpVA) : CanonAfter (execVqdeq o s) := by
  simp +contextual [execVqdeq, h]

@[simp] theorem execCupseed_canon {s : State} (h : s.Canon) (o : OpS1) : CanonAfter (execCupseed o s) := by
  refine State.cupTurn_canon h _ fun t ht => ?_
  split
  · simp [ht]
  · split
    · next r hr => exact State.wakeHold_canon ht hr
    · simp [ht]

@[simp] theorem execCupstat_canon {s : State} (h : s.Canon) (o : OpCupstat) : CanonAfter (execCupstat o s) := by
  unfold execCupstat
  dsimp only
  split
  · simp [h]
  · split
    · next r hr => exact State.wakeHold_canon h hr
    · (repeat' split) <;> simp [h]

/-! ### VectorMemory -/

@[simp] theorem State.markDone_canon (s : State) (is : List Nat) : (s.markDone is).Canon ↔ s.Canon := Iff.rfl

@[simp] theorem State.notePages_canon (s : State) (ls : List (Nat × Word64 × Place)) : (s.notePages ls).Canon ↔ s.Canon := by
  simp [State.notePages]

@[simp] theorem State.performLanes_canon {s : State} (h : s.Canon) (d : Nat) (write : Bool) (ls : List (Nat × Word64 × Place)) :
    (s.performLanes d write ls).Canon := by
  simp +contextual [State.performLanes, h]

@[simp] theorem State.moveLanes_canon {s : State} (h : s.Canon) (d : Nat) (write wait : Bool) (as : List (Nat × Word64)) {done : State → State}
    (hd : ∀ t, t.Canon → (done t).Canon) : CanonAfter (s.moveLanes d write wait as done) := by
  unfold State.moveLanes
  dsimp only
  (repeat' split) <;> simp [h, hd]

@[simp] theorem State.moveStore_canon {s : State} (h : s.Canon) (d : Nat) (write : Bool) (as : List (Nat × Nat)) {done : State → State}
    (hd : ∀ t, t.Canon → (done t).Canon) : CanonAfter (s.moveStore d write as done) := by
  unfold State.moveStore
  extract_lets c u k as ok ranges regs vals t t'
  have ht : t.Canon := foldl_canon (fun _ _ hu => State.writeSync_canon hu _ _) _ h
  by_cases hw : (s.storeWait none (if write then regs else ranges) (if write then ranges else regs)
      || ok.any (fun l => c.wmWait 3 l.2 4)) = true
  · rw [if_pos hw]
    simp [h]
  · rw [if_neg hw]
    split
    · simp [h]
    · split <;> simp [ht, hd, t']

@[simp] theorem advance_canon (base : BitVec 6) (sh : BitVec 128) (s : State) : (advance base sh s).Canon ↔ s.Canon := Iff.rfl

@[simp] theorem State.vmOpen_canon {s : State} (h : s.Canon) (g : BitVec 4) (sh : BitVec 2) (swap : Bool) (types : BitVec 128 → Bool)
    (regs : List (Option Nat)) {k : State → BitVec 128 → List Nat → Out} (hk : ∀ b l, CanonAfter (k s b l)) :
    CanonAfter (s.vmOpen g sh swap types regs k) := by
  unfold State.vmOpen
  dsimp only
  split
  · simp [h]
  · split
    · next o ho => exact State.wakeHold_canon h ho
    · simp [h, hk]

@[simp] theorem vmDone_canon (sh : BitVec 2) (swap mode : Bool) (base : BitVec 6) (shape : BitVec 128) (s : State) :
    (vmDone sh swap mode base shape s).Canon ↔ s.Canon := by
  simp [vmDone]

@[simp] theorem State.vmove_canon {s : State} (h : s.Canon) (o : OpVM) (write : Bool) : CanonAfter (s.vmove o write) := by
  simp [State.vmove, h]

@[simp] theorem execVld_canon {s : State} (h : s.Canon) (o : OpVM) : CanonAfter (execVld o s) := by
  simp [execVld, h]

@[simp] theorem execVst_canon {s : State} (h : s.Canon) (o : OpVM) : CanonAfter (execVst o s) := by
  simp [execVst, h]

@[simp] theorem State.vindexed_canon {s : State} (h : s.Canon) (o : OpVX) (write : Bool) : CanonAfter (s.vindexed o write) := by
  unfold State.vindexed
  refine State.vmOpen_canon h _ _ _ _ _ fun shape lanes => ?_
  dsimp only
  have hdone (t : State) (ht : t.Canon) : (vmDone o.sh o.swap o.mode o.base shape t).Canon := (vmDone_canon _ _ _ _ _ _).mpr ht
  (repeat' split) <;> simp [h]

@[simp] theorem execVgth_canon {s : State} (h : s.Canon) (o : OpVX) : CanonAfter (execVgth o s) := by
  simp [execVgth, h]

@[simp] theorem execVsct_canon {s : State} (h : s.Canon) (o : OpVX) : CanonAfter (execVsct o s) := by
  simp [execVsct, h]

end Sys2Proof.Machine
end

section
/-! SUPPORT. The canonical form of storage is kept by requests, windows and atomics on their way. -/

namespace Sys2Proof.Machine
set_option Elab.async false

/-! ### Forward -/

@[simp] theorem State.setLink_canon (s : State) (l : Link) : (s.setLink l).Canon ↔ s.Canon := Iff.rfl

@[simp] theorem State.chargeFor_canon (s : State) (r : Req) (kind n : Nat) : (s.chargeFor r kind n).Canon ↔ s.Canon := by
  unfold State.chargeFor
  (repeat' split) <;> simp

@[simp] theorem State.updRemote_canon (s : State) (uid : Nat) (f : Remote → Remote) : (s.updRemote uid f).Canon ↔ s.Canon := Iff.rfl

@[simp] theorem State.updPeerOut_canon (s : State) (uid : Nat) (f : PeerAnswer → PeerAnswer) :
    (s.updPeerOut uid f).Canon ↔ s.Canon := Iff.rfl

@[simp] theorem State.sendOut_canon (s : State) (n : BitVec 8) (w : Waiting) : (s.sendOut n w).Canon ↔ s.Canon := by
  unfold State.sendOut
  (repeat' split) <;> simp

@[simp] theorem State.transmit_canon (s : State) (n : BitVec 8) : (s.transmit n).Canon ↔ s.Canon := by
  simp [State.transmit]

@[simp] theorem State.assignOne_canon (s : State) (m : Remote) : (s.assignOne m).Canon ↔ s.Canon := by
  unfold State.assignOne
  (repeat' split) <;> simp

@[simp] theorem State.assignAnswer_canon (s : State) (a : PeerAnswer) : (s.assignAnswer a).Canon ↔ s.Canon := by
  unfold State.assignAnswer
  dsimp only
  (repeat' split) <;> simp

@[simp] theorem State.assign_canon (s : State) : s.assign.Canon ↔ s.Canon := by
  simp [State.assign]

@[simp] theorem State.unlink_canon (s : State) (n : BitVec 8) : (s.unlink n).Canon ↔ s.Canon := by
  simp [State.unlink]

@[simp] theorem State.answerPeer_canon (s : State) (n : BitVec 8) (off : Nat) (site : Option Nat) (data : List Byte)
    (bad : Bool) (t : Tag) : (s.answerPeer n off site data bad t).Canon ↔ s.Canon := by
  simp [State.answerPeer]

@[simp] theorem State.leaves_canon (s : State) (r : Req) : (s.leaves r).Canon ↔ s.Canon := by
  simp [State.leaves]

@[simp] theorem State.forward_canon (s : State) (r : Req) : (s.forward r).Canon ↔ s.Canon := by
  simp [State.forward]

/-! ### Arbiter -/

@[simp] theorem State.merge_canon (s : State) (r : Req) (lines : List Nat) : (s.merge r lines).Canon ↔ s.Canon := by
  simp [State.merge]

/-! ### Requests -/

@[simp] theorem State.l1Room_canon (s : State) (own : BitVec 7) (line : Nat) : (s.l1Room own line).Canon ↔ s.Canon := by
  simp [State.l1Room]

@[simp] theorem State.fillL1_canon (s : State) (id : BitVec 7) (parts : List Part) : (s.fillL1 id parts).Canon ↔ s.Canon := by
  simp [State.fillL1]

@[simp] theorem State.replyLoad_canon (s : State) (r : Req) (dest : LoadDest) (parts : List Part) (bad : Bool) :
    (s.replyLoad r dest parts bad).Canon ↔ s.Canon := by
  unfold State.replyLoad
  (repeat' split) <;> simp

@[simp] theorem State.performLoad_canon (s : State) (r : Req) (dest : LoadDest) : (s.performLoad r dest).Canon ↔ s.Canon := by
  unfold State.performLoad
  (repeat' split) <;> simp

@[simp] theorem State.askLines_canon (s : State) (which : Req → Bool) : (s.askLines which).Canon ↔ s.Canon := by
  simp [State.askLines]

@[simp] theorem execSliceReadRequest_canon {s : State} (h : s.Canon) : CanonAfter (execSliceReadRequest s) := by
  unfold execSliceReadRequest
  (repeat' split) <;> simp [h]

@[simp] theorem State.performStore_canon {s : State} (h : s.Canon) (r : Req) : (s.performStore r).Canon := by
  unfold State.performStore
  (repeat' split) <;> simp +contextual [h]

@[simp] theorem State.chargeTraffic_canon (s : State) (line n : Nat) : (s.chargeTraffic line n).Canon ↔ s.Canon := by
  unfold State.chargeTraffic
  (repeat' split) <;> simp

@[simp] theorem execMissFill_canon {s : State} (h : s.Canon) (line : Nat) : CanonAfter (execMissFill line s) := by
  unfold execMissFill
  (repeat' split) <;> simp [h]

@[simp] theorem execTileDecodeDone_canon {s : State} (h : s.Canon) (region : BitVec 4) (tile : Nat) :
    CanonAfter (execTileDecodeDone region tile s) := by
  unfold execTileDecodeDone
  (repeat' split) <;> simp [h]

@[simp] theorem State.giveLine_canon (s : State) (d : DecLine) (id : Nat) : (s.giveLine d id).Canon ↔ s.Canon := by
  unfold State.giveLine
  (repeat' split) <;> simp

@[simp] theorem State.chargeBack_canon (s : State) (line : Nat) : (s.chargeBack line).Canon ↔ s.Canon := by
  unfold State.chargeBack
  (repeat' split) <;> simp

@[simp] theorem execLineEviction_canon {s : State} (h : s.Canon) (line : Nat) : CanonAfter (execLineEviction line s) := by
  simp [execLineEviction, h]

/-! ### Windows -/

@[simp] theorem State.chargeAtom_canon (s : State) (key : Option Nat) : (s.chargeAtom key).Canon ↔ s.Canon := by
  unfold State.chargeAtom
  (repeat' split) <;> simp

@[simp] theorem State.applyElem_canon {s : State} (h : s.Canon) (key : Option Nat) (e : ElemOp) (loc n v cmp : Nat) :
    (s.applyElem key e loc n v cmp).Canon := by
  simp [State.applyElem, h]

@[simp] theorem State.updWindow_canon (s : State) (launch : Nat) (id : BitVec 3) (f : Window → Window) :
    (s.updWindow launch id f).Canon ↔ s.Canon := Iff.rfl

@[simp] theorem State.clashed_canon {s : State} (h : s.Canon) (all : List HeldUpd) (x : HeldUpd) : (s.clashed all x).Canon := by
  simp [State.clashed, h]

@[simp] theorem State.applyHeld_canon {s : State} (h : s.Canon) (w : Window) (slice : Nat) : (s.applyHeld w slice).Canon := by
  unfold State.applyHeld
  dsimp only
  refine (State.updWindow_canon _ _ _ _).mpr (foldl_canon (fun _ _ ht => State.clashed_canon ht _ _) _ ?_)
  exact foldl_canon (fun _ _ ht => State.applyElem_canon ht _ _ _ _ _ _) _ h

@[simp] theorem State.holdUpdate_canon {s : State} (h : s.Canon) (w : Window) (x : HeldUpd) : (s.holdUpdate w x).Canon := by
  unfold State.holdUpdate
  (repeat' split) <;> simp [h]

@[simp] theorem State.updateElem_canon {s : State} (h : s.Canon) (u : UpdInfo) (lane pa n v : Nat) :
    (s.updateElem u lane pa n v).Canon := by
  unfold State.updateElem
  (repeat' split) <;> simp [h]

@[simp] theorem State.performUpdate_canon {s : State} (h : s.Canon) (r : Req) (u : UpdInfo) : (s.performUpdate r u).Canon := by
  unfold State.performUpdate
  (repeat' split) <;> simp +contextual [h]

@[simp] theorem execHeldUpdateArrival_canon {s : State} (h : s.Canon) : CanonAfter (execHeldUpdateArrival s) := by
  unfold execHeldUpdateArrival
  (repeat' split) <;> simp [h]

@[simp] theorem execRwopen_canon {s : State} (h : s.Canon) (o : OpSQ) : CanonAfter (execRwopen o s) := by
  unfold execRwopen
  dsimp only
  (repeat' split) <;> simp [h]

@[simp] theorem execWindowOpenAtSlice_canon {s : State} (h : s.Canon) (slice : BitVec 6) : CanonAfter (execWindowOpenAtSlice slice s) := by
  unfold execWindowOpenAtSlice
  (repeat' split) <;> simp [h]

@[simp] theorem State.dropWindow_canon (s : State) (launch : Nat) (id : BitVec 3) : (s.dropWindow launch id).Canon ↔ s.Canon := Iff.rfl

@[simp] theorem execRwclose_canon {s : State} (h : s.Canon) (o : OpSQ) : CanonAfter (execRwclose o s) := by
  unfold execRwclose
  dsimp only
  (repeat' split) <;> simp [h]

@[simp] theorem execWindowCloseAtSlice_canon {s : State} (h : s.Canon) (slice : BitVec 6) :
    CanonAfter (execWindowCloseAtSlice slice s) := by
  unfold execWindowCloseAtSlice
  (repeat' split) <;> simp [h]

/-! ### Atomics -/

@[simp] theorem State.atomOne_canon {s : State} (h : s.Canon) (a : Word64) (n : Nat) (far : Bool) (e : ElemOp) (v cmp : Word64)
    (d : BitVec 6) (ty : BitVec 3) : CanonAfter (s.atomOne a n far e v cmp d ty) := by
  unfold State.atomOne
  (repeat' split) <;> simp [h]

@[simp] theorem execAtom64_canon {s : State} (h : s.Canon) (o : OpAtom) : CanonAfter (execAtom64 o s) := by
  simp [execAtom64, h]

@[simp] theorem execAtom32_canon {s : State} (h : s.Canon) (o : OpAtom) : CanonAfter (execAtom32 o s) := by
  simp [execAtom32, h]

@[simp] theorem execAtomn_canon {s : State} (h : s.Canon) (o : OpAtomn) : CanonAfter (execAtomn o s) := by
  simp [execAtomn, h]

@[simp] theorem State.atomLane_canon {s : State} (h : s.Canon) (e : ElemOp) (d : Nat) (ret : Bool) (lane loc v : Nat) :
    (s.atomLane e d ret lane loc v).Canon := by
  simp [State.atomLane, h]

@[simp] theorem State.performAtoms_canon {s : State} (h : s.Canon) (e : ElemOp) (d : Nat) (ret : Bool) (ls : List (Nat × Word64 × Place)) :
    (s.performAtoms e d ret ls).Canon := by
  simp +contextual [State.performAtoms, h]

@[simp] theorem vatomDone_canon (o : OpVatom) (s : State) : (vatomDone o s).Canon ↔ s.Canon := by
  simp [vatomDone]

@[simp] theorem execVatom_canon {s : State} (h : s.Canon) (o : OpVatom) : CanonAfter (execVatom o s) := by
  unfold execVatom
  refine State.vmOpen_canon h _ _ _ _ _ fun shape lanes => ?_
  dsimp only
  (repeat' split) <;> simp [h]

@[simp] theorem State.performAtom_canon {s : State} (h : s.Canon) (r : Req) (e : ElemOp) (cmp : Word64) (dest : LoadDest) :
    (s.performAtom r e cmp dest).Canon := by
  unfold State.performAtom
  (repeat' split) <;> simp +contextual [h]

@[simp] theorem execSliceAtomicRequest_canon {s : State} (h : s.Canon) : CanonAfter (execSliceAtomicRequest s) := by
  unfold execSliceAtomicRequest
  (repeat' split) <;> simp [h]

end Sys2Proof.Machine
end

section
/-! SUPPORT. The canonical form of storage is kept by the dispatcher and the instructions of the engines. -/

namespace Sys2Proof.Machine
set_option Elab.async false

/-! ### Dispatcher -/

@[simp] theorem State.requestTrap_canon (s : State) (t : Trap) : (s.requestTrap t).Canon ↔ s.Canon := Iff.rfl

@[simp] theorem State.firstBundle_canon (s : State) : s.firstBundle.Canon ↔ s.Canon := Iff.rfl

@[simp] theorem State.dispatchBytes_canon (s : State) (bs : List Byte) : (s.dispatchBytes bs).Canon ↔ s.Canon := by
  unfold State.dispatchBytes
  dsimp only
  (repeat' split) <;> simp

/-! ### Engines -/

@[simp] theorem State.pushOp_canon (s : State) (eng : Nat) (i : Instr) (shape : BitVec 128) (addrs regs : List Nat)
    (locks busy : List (Nat × Nat)) (segs : List Seg) (extra : List Nat) : (s.pushOp eng i shape addrs regs locks busy segs extra).Canon ↔ s.Canon := Iff.rfl

@[simp] theorem State.engOpen_canon {s : State} (h : s.Canon) (g : BitVec 4) (sh : BitVec 2) (swap : Bool) (ok : BitVec 128 → Bool)
    {k : State → BitVec 128 → Out} (hk : ∀ b, CanonAfter (k s b)) : CanonAfter (s.engOpen g sh swap ok k) := by
  refine State.whenOn_canon h g ?_
  split
  · next o ho => exact State.wakeHold_canon h ho
  · simp [h, hk]

@[simp] theorem State.engGate_canon {s : State} (h : s.Canon) (g : BitVec 4) {k : Out} (hk : CanonAfter k) :
    CanonAfter (s.engGate g k) := by
  refine State.whenOn_canon h g ?_
  cases ho : s.wakeHold with
  | none => exact hk
  | some o => exact State.wakeHold_canon h ho

@[simp] theorem State.storeTrap_canon {s : State} (h : s.Canon) (write : Bool) (a : Nat) : CanonAfter (s.storeTrap write a) := by
  simp [State.storeTrap, h]

@[simp] theorem State.endOp_canon (s : State) (o : EngineOp) : (s.endOp o).Canon ↔ s.Canon := Iff.rfl

@[simp] theorem State.opConsume_canon {s : State} (h : s.Canon) (o : EngineOp) (slot src : Nat) (addr : Word64) :
    (s.opConsume o slot src addr).Canon := by
  simp [State.opConsume, h]

@[simp] theorem State.lateTrap_canon (s : State) (o : EngineOp) (mask : Word64) (fl : Flags) : (s.lateTrap o mask fl).Canon ↔ s.Canon := by
  simp [State.lateTrap]

@[simp] theorem State.raise_canon (s : State) (o : EngineOp) (fl : List (Nat × Flags)) : (s.raise o fl).Canon ↔ s.Canon := by
  simp [State.raise]

/-! ### Matrix -/

@[simp] theorem execMbld_canon {s : State} (h : s.Canon) (o : OpMbld) : CanonAfter (execMbld o s) := by
  unfold execMbld
  dsimp only
  (repeat' split) <;> simp [h]

@[simp] theorem execMbsw_canon {s : State} (h : s.Canon) (o : OpG) : CanonAfter (execMbsw o s) := by
  refine State.whenOn_canon h _ ?_
  split
  · next r hr => exact State.wakeHold_canon h hr
  · simp [h]

@[simp] theorem State.issueMma_canon {s : State} (h : s.Canon) (i : Instr) (shape : BitVec 128) (r0 : Nat) (accs : List
    (BitVec 3)) (feeds : List (Nat × Nat)) (done : CoreState → CoreState) : CanonAfter (s.issueMma i shape r0 accs feeds done) := by
  unfold State.issueMma
  dsimp only
  (repeat' split) <;> simp [h]

@[simp] theorem execMma_canon {s : State} (h : s.Canon) (o : OpMma) : CanonAfter (execMma o s) := by
  simp [execMma, h]

@[simp] theorem execMmaz_canon {s : State} (h : s.Canon) (o : OpMma) : CanonAfter (execMmaz o s) := by
  simp [execMmaz, h]

@[simp] theorem execMtap_canon {s : State} (h : s.Canon) (o : OpMtap) : CanonAfter (execMtap o s) := by
  simp [execMtap, h]

@[simp] theorem State.issueAcc_canon {s : State} (h : s.Canon) (i : Instr) (addrs regs : List Nat) (shape : BitVec 128)
    (locks busy : List (Nat × Nat)) (extra : List Nat) (done : CoreState → CoreState) : CanonAfter (s.issueAcc i addrs regs shape locks busy extra done) := by
  simp [State.issueAcc, h]

@[simp] theorem execMscl_canon {s : State} (h : s.Canon) (o : OpMscl) : CanonAfter (execMscl o s) := by
  unfold execMscl
  dsimp only
  (repeat' split) <;> simp [h]

@[simp] theorem execMzero_canon {s : State} (h : s.Canon) (o : OpMzero) : CanonAfter (execMzero o s) := by
  refine State.engOpen_canon h _ _ _ _ fun shape => ?_
  split <;> simp [h]

@[simp] theorem execMacc_canon {s : State} (h : s.Canon) (o : OpMacc) : CanonAfter (execMacc o s) := by
  unfold execMacc
  dsimp only
  (repeat' split) <;> simp [h]

@[simp] theorem execMout_canon {s : State} (h : s.Canon) (o : OpMma) : CanonAfter (execMout o s) := by
  unfold execMout
  dsimp only
  (repeat' split) <;> simp [h]

@[simp] theorem State.performMbld_canon {s : State} (h : s.Canon) (o : EngineOp) : (s.performMbld o).Canon := by
  unfold State.performMbld
  dsimp only
  (repeat' split) <;> simp [h]

@[simp] theorem execMOperationDone_canon {s : State} (h : s.Canon) : CanonAfter (execMOperationDone s) := by
  unfold execMOperationDone
  dsimp only
  (repeat' split) <;> simp [h]

/-! ### Ladder -/

theorem State.rowTrap_canon {s : State} (h : s.Canon) {us : List RowUse} {o : Out} (ho : s.rowTrap us = some o) : CanonAfter o := by
  obtain ⟨u, -, rfl⟩ := Option.map_eq_some_iff.mp ho
  simp [h]

@[simp] theorem execLcfgSet_canon {s : State} (h : s.Canon) (o : OpLcfgSet) : CanonAfter (execLcfgSet o s) := by
  simp [execLcfgSet, h]

@[simp] theorem execLcfgClear_canon {s : State} (h : s.Canon) (o : OpLcfgClear) : CanonAfter (execLcfgClear o s) := by
  simp [execLcfgClear, h]

@[simp] theorem State.lcfgMove_canon {s : State} (h : s.Canon) (o : OpLcfgX) (i : Instr) (out : Bool) :
    CanonAfter (s.lcfgMove o i out) := by
  simp [State.lcfgMove, h]

@[simp] theorem execLcfgLoad_canon {s : State} (h : s.Canon) (o : OpLcfgX) : CanonAfter (execLcfgLoad o s) := by
  simp [execLcfgLoad, h]

@[simp] theorem execLcfgSave_canon {s : State} (h : s.Canon) (o : OpLcfgX) : CanonAfter (execLcfgSave o s) := by
  simp [execLcfgSave, h]

@[simp] theorem State.issueRows_canon {s : State} (h : s.Canon) (i : Instr) (shape : BitVec 128) (xa xb : BitVec 4) (sh : BitVec 2) (pi swap : Bool)
    (acc : List (Nat × Nat)) (rows : Word32 → Word32 → List RowUse) : CanonAfter (s.issueRows i shape xa xb sh pi swap acc rows) := by
  unfold State.issueRows
  dsimp only
  split
  · next o ho => exact State.rowTrap_canon h ho
  · simp [h]

@[simp] theorem execLscan_canon {s : State} (h : s.Canon) (o : OpScan) : CanonAfter (execLscan o s) := by
  simp [execLscan, h]

@[simp] theorem execLscanc_canon {s : State} (h : s.Canon) (o : OpScan) : CanonAfter (execLscanc o s) := by
  simp [execLscanc, h]

@[simp] theorem execLgate_canon {s : State} (h : s.Canon) (o : OpLgate) : CanonAfter (execLgate o s) := by
  simp [execLgate, h]

@[simp] theorem execLmat_canon {s : State} (h : s.Canon) (o : OpLmat) : CanonAfter (execLmat o s) := by
  refine State.engOpen_canon h _ _ _ _ fun shape => ?_
  split <;> simp [h]

@[simp] theorem execNOperationDone_canon {s : State} (h : s.Canon) : CanonAfter (execNOperationDone s) := by
  unfold execNOperationDone
  (repeat' split) <;> simp [h]

/-! ### Copy -/

@[simp] theorem State.pushCopy_canon (s : State) (i : Instr) (shape : BitVec 128) (segs : List Seg) (list : List (Nat × Nat))
    (extra : List Nat) : (s.pushCopy i shape segs list extra).Canon ↔ s.Canon := Iff.rfl

@[simp] theorem State.copyGo_canon {s : State} (h : s.Canon) (i : Instr) (shape : BitVec 128) (f : CopyForm)
    (moves : List RowMove) (list : List (Nat × Nat)) (extra : List Nat) (done : CoreState → CoreState) : CanonAfter (s.copyGo i shape f moves list extra done) := by
  unfold State.copyGo
  (repeat' split) <;> simp [h]

@[simp] theorem State.copyOpen_canon {s : State} (h : s.Canon) (g : BitVec 4) (sh : BitVec 2) (swap : Bool) (ok : BitVec 128 → Bool)
    {k : BitVec 128 → Out} (hk : ∀ b, CanonAfter (k b)) : CanonAfter (s.copyOpen g sh swap ok k) := by
  refine State.whenOn_canon h g ?_
  split
  · next o ho => exact State.wakeHold_canon h ho
  · simp [h, hk]

@[simp] theorem execCpy_canon {s : State} (h : s.Canon) (o : OpCpy) : CanonAfter (execCpy o s) := by
  simp [execCpy, h]

@[simp] theorem execCpyh_canon {s : State} (h : s.Canon) (o : OpCpyh) : CanonAfter (execCpyh o s) := by
  simp [execCpyh, h]

@[simp] theorem execCpym_canon {s : State} (h : s.Canon) (o : OpCpym) : CanonAfter (execCpym o s) := by
  simp [execCpym, h]

@[simp] theorem execCpyr_canon {s : State} (h : s.Canon) (o : OpCpyr) : CanonAfter (execCpyr o s) := by
  simp [execCpyr, h]

@[simp] theorem execCpyg_canon {s : State} (h : s.Canon) (o : OpCpy) : CanonAfter (execCpyg o s) := by
  simp [execCpyg, h]

@[simp] theorem execCpyd_canon {s : State} (h : s.Canon) (o : OpCpym) : CanonAfter (execCpyd o s) := by
  simp [execCpyd, h]

@[simp] theorem execWmark_canon {s : State} (h : s.Canon) (o : OpWmark) : CanonAfter (execWmark o s) := by
  refine State.whenOn_canon h _ ?_
  split
  · next r hr => exact State.wakeHold_canon h hr
  · simp [h]

@[simp] theorem State.watermarkWait_canon {s : State} (h : s.Canon) (g : BitVec 4) (ch : BitVec 5) (t : Option Nat) :
    CanonAfter (s.watermarkWait g ch t) := by
  simp [State.watermarkWait, h]

@[simp] theorem execWmwait_canon {s : State} (h : s.Canon) (o : OpWmwait) : CanonAfter (execWmwait o s) := by
  simp [execWmwait, h]

@[simp] theorem execWmwaitAll_canon {s : State} (h : s.Canon) (o : OpWmwaitAll) : CanonAfter (execWmwaitAll o s) := by
  simp [execWmwaitAll, h]

@[simp] theorem State.barrierOp_canon {s : State} (h : s.Canon) (g : BitVec 4) (who : BitVec 3) (i : Instr) (v : Nat) :
    CanonAfter (s.barrierOp g who i v) := by
  refine State.whenOn_canon h _ ?_
  split
  · next r hr => exact State.wakeHold_canon h hr
  · split <;> simp [h]

@[simp] theorem execBinit_canon {s : State} (h : s.Canon) (o : OpBar) : CanonAfter (execBinit o s) := by
  simp [execBinit, h]

@[simp] theorem execArrive_canon {s : State} (h : s.Canon) (o : OpArrive) : CanonAfter (execArrive o s) := by
  simp [execArrive, h]

@[simp] theorem execBadd_canon {s : State} (h : s.Canon) (o : OpBar) : CanonAfter (execBadd o s) := by
  simp [execBadd, h]

@[simp] theorem execBwait_canon {s : State} (h : s.Canon) (o : OpBwait) : CanonAfter (execBwait o s) := by
  unfold execBwait
  (repeat' split) <;> simp [h]

@[simp] theorem State.setSegs_canon (s : State) (o : EngineOp) (segs : List Seg) : (s.setSegs o segs).Canon ↔ s.Canon := Iff.rfl

@[simp] theorem State.countBytes_canon (s : State) (o : EngineOp) (g : Seg) : (s.countBytes o g).Canon ↔ s.Canon := by
  refine foldl_canon_iff (fun t d => ?_) _
  split <;> simp

@[simp] theorem State.patchLater_canon (s : State) (o : EngineOp) (g : Seg) : (s.patchLater o g).Canon ↔ s.Canon := Iff.rfl

@[simp] theorem State.segDone_canon (s : State) (o : EngineOp) (j : Nat) (g : Seg) : (s.segDone o j g).Canon ↔ s.Canon := by
  unfold State.segDone
  dsimp only
  (repeat' split) <;> simp

@[simp] theorem State.landElems_canon {s : State} (h : s.Canon) (o : EngineOp) (i : OpCpyr) (g : Seg) (bs : List Byte) (bad : Nat → Bool) :
    (s.landElems o i g bs bad).Canon := by
  simp +contextual [State.landElems, h]

@[simp] theorem State.landAt_canon {s : State} (h : s.Canon) (o : EngineOp) (bs : List Byte) (bad : Nat → Bool) (dst : Nat) :
    (s.landAt o bs bad dst).Canon := by
  simp +contextual [State.landAt, h]

@[simp] theorem State.landBytes_canon {s : State} (h : s.Canon) (o : EngineOp) (g : Seg) (bs : List Byte) (bad : Nat → Bool) :
    (s.landBytes o g bs bad).Canon := by
  unfold State.landBytes
  (repeat' split) <;> simp +contextual [h]

@[simp] theorem State.segError_canon {s : State} (h : s.Canon) (o : EngineOp) (g : Seg) (bad : Nat → Bool) :
    (s.segError o g bad).Canon := by
  unfold State.segError
  (repeat' split) <;> simp [h]

@[simp] theorem State.readSeg_canon (s : State) (o : EngineOp) (j : Nat) (g : Seg) : (s.readSeg o j g).Canon ↔ s.Canon := Iff.rfl

@[simp] theorem State.writeSeg_canon (s : State) (o : EngineOp) (j : Nat) (g : Seg) (bs : List Byte) (bad : Nat → Bool) :
    (s.writeSeg o j g bs bad).Canon ↔ s.Canon := Iff.rfl

@[simp] theorem State.segOut_canon {s : State} (h : s.Canon) (o : EngineOp) (j : Nat) (g : Seg) (bs : List Byte) (bad : Nat → Bool) :
    (s.segOut o j g bs bad).Canon := by
  simp [State.segOut, h]

@[simp] theorem State.segBytes_canon {s : State} (h : s.Canon) (o : EngineOp) (j : Nat) (g : Seg) (bs : List Byte) (bad : Nat → Bool) :
    (s.segBytes o j g bs bad).Canon := by
  unfold State.segBytes
  extract_lets bads pieces t out
  have ht : t.Canon := (State.setSegs_canon _ _ _).mpr h
  have hout (u : State) (p : Seg) (hu : u.Canon) : (out u p).Canon := by
    simp only [out]
    (repeat' split) <;> simp [hu]
  (repeat' split)
  · simp [h]
  · exact ht
  · exact State.segError_canon (foldl_canon hout _ ht) _ _ _

@[simp] theorem State.moveSeg_canon {s : State} (h : s.Canon) (o : EngineOp) (j : Nat) (g : Seg) : (s.moveSeg o j g).Canon := by
  unfold State.moveSeg
  (repeat' split) <;> simp [h]

@[simp] theorem State.performBar_canon (s : State) (o : EngineOp) : (s.performBar o).Canon ↔ s.Canon := by
  unfold State.performBar
  (repeat' split) <;> simp

@[simp] theorem execCopyCompletion_canon {s : State} (h : s.Canon) (unit : Bool) (index : Nat) :
    CanonAfter (execCopyCompletion unit index s) := by
  unfold execCopyCompletion
  dsimp only
  (repeat' split) <;> simp [h]

@[simp] theorem State.segReply_canon {s : State} (h : s.Canon) (uid : Nat) (read : Bool) (bs : List Byte) (bad : Bool) :
    (s.segReply uid read bs bad).Canon := by
  unfold State.segReply
  dsimp only
  (repeat' split) <;> simp [h]

@[simp] theorem execSliceWriteRequest_canon {s : State} (h : s.Canon) : CanonAfter (execSliceWriteRequest s) := by
  unfold execSliceWriteRequest
  (repeat' split) <;> simp +contextual [h]

end Sys2Proof.Machine
end

section
/-! SUPPORT. The canonical form of storage is kept by control registers, queues, frames, scalar instructions and saved contexts. -/

namespace Sys2Proof.Machine
set_option Elab.async false

/-! ### Controls -/

@[simp] theorem State.dropRegion_canon (s : State) (r : Nat) (old : State) : (s.dropRegion r old).Canon ↔ s.Canon := Iff.rfl

@[simp] theorem State.hostWake_canon (s : State) : s.hostWake.Canon ↔ s.Canon := Iff.rfl

@[simp] theorem State.doorbell_canon (s : State) (v : Word64) : (s.doorbell v).Canon ↔ s.Canon := by
  simp [State.doorbell]

@[simp] theorem State.orphan_canon (s : State) (id : BitVec 7) : (s.orphan id).Canon ↔ s.Canon := Iff.rfl

@[simp] theorem State.updLq_canon (s : State) (die : Bool) (n : BitVec 6) (f : LaunchQueue → LaunchQueue) :
    (s.updLq die n f).Canon ↔ s.Canon := Iff.rfl

@[simp] theorem State.tailToHead_canon (s : State) (key : Nat) : (s.tailToHead key).Canon ↔ s.Canon := by
  unfold State.tailToHead
  (repeat' split) <;> simp

@[simp] theorem State.updGang_canon (s : State) (key k0 : Nat) (f : Gang → Gang) : (s.updGang key k0 f).Canon ↔ s.Canon := Iff.rfl

@[simp] theorem State.flush_canon (s : State) : s.flush.Canon ↔ s.Canon := by
  simp [State.flush]

@[simp] theorem State.endLaunch_canon {s : State} (h : s.Canon) (key : Nat) (cause : BitVec 8) : (s.endLaunch key cause).Canon := by
  unfold State.endLaunch
  extract_lets cores t
  have hend (k : BitVec 7) (u : State) (hu : u.Canon) : (u.withdrawParked k).abandonAll.Canon :=
    State.abandonAll_canon (State.withdrawParked_canon hu k)
  have ht : t.Canon := by
    refine foldl_canon (fun u k hu => ?_) _ ((State.flush_canon s).mpr h)
    exact (State.orphan_canon _ _).mpr (State.asCore_canon hu (fun v hv => (State.upd_canon _).mpr (hend k v hv)) k)
  simp [ht]

@[simp] theorem State.clusterReset_canon {s : State} (h : s.Canon) (cl : BitVec 5) : (s.clusterReset cl).Canon := by
  unfold State.clusterReset
  extract_lets mine cut t held u hit v fresh w
  have hu : u.Canon := by
    refine foldl_canon (fun x c hx => ?_) _ (State.canon_mk.mpr h)
    exact (State.orphan_canon _ _).mpr (State.asCore_canon hx (fun y hy => State.abandonAll_canon hy) _)
  have hv : v.Canon := foldl_canon (fun x l hx => State.endLaunch_canon hx _ _) _ hu
  exact State.canon_mk.mpr ((State.injectReserved_canon _ _).mpr hv)

@[simp] theorem State.hrst_canon {s : State} (h : s.Canon) (v : Word64) : (s.hrst v).Canon := by
  simp [State.hrst, h]

@[simp] theorem State.writeReg_canon {s : State} (h : s.Canon) (n : Nat) (v : Word64) : (s.writeReg n v).Canon := by
  unfold State.writeReg
  iterate 9 refine State.Canon.ite (by simp [h]) ?_
  split <;> simp [h]

@[simp] theorem execMfc_canon {s : State} (h : s.Canon) (o : OpMfc) : CanonAfter (execMfc o s) := by
  simp [execMfc, h]

@[simp] theorem execMtc_canon {s : State} (h : s.Canon) (o : OpMtc) : CanonAfter (execMtc o s) := by
  simp [execMtc, h]

@[simp] theorem State.regEvent_canon {s : State} (h : s.Canon) (mine : Bool) (n : Nat) (v : Word64) : CanonAfter (s.regEvent mine n v) := by
  simp [State.regEvent, h]

@[simp] theorem execHrstWrite_canon {s : State} (h : s.Canon) (value : Word64) : CanonAfter (execHrstWrite value s) := by
  simp [execHrstWrite, h]

@[simp] theorem execFormatRegionWrite_canon {s : State} (h : s.Canon) (number : BitVec 19) (value : Word64) :
    CanonAfter (execFormatRegionWrite number value s) := by
  simp [execFormatRegionWrite, h]

@[simp] theorem execTbinvWrite_canon {s : State} (h : s.Canon) (value : Word64) : CanonAfter (execTbinvWrite value s) := by
  simp [execTbinvWrite, h]

@[simp] theorem execFrameRegisterWrite_canon {s : State} (h : s.Canon) (number : BitVec 19) (value : Word64) :
    CanonAfter (execFrameRegisterWrite number value s) := by
  simp [execFrameRegisterWrite, h]

@[simp] theorem execSliceRegisterWrite_canon {s : State} (h : s.Canon) (number : BitVec 19) (value : Word64) :
    CanonAfter (execSliceRegisterWrite number value s) := by
  simp [execSliceRegisterWrite, h]

@[simp] theorem execControllerRegisterWrite_canon {s : State} (h : s.Canon) (number : BitVec 19) (value : Word64) :
    CanonAfter (execControllerRegisterWrite number value s) := by
  simp [execControllerRegisterWrite, h]

@[simp] theorem execVectorStatusAccess_canon {s : State} (h : s.Canon) (number : BitVec 19) (value : Word64) :
    CanonAfter (execVectorStatusAccess number value s) := by
  simp [execVectorStatusAccess, h]

@[simp] theorem execMatrixStatusAccess_canon {s : State} (h : s.Canon) (number : BitVec 19) (value : Word64) :
    CanonAfter (execMatrixStatusAccess number value s) := by
  simp [execMatrixStatusAccess, h]

@[simp] theorem execLadderStatusAccess_canon {s : State} (h : s.Canon) (number : BitVec 19) (value : Word64) :
    CanonAfter (execLadderStatusAccess number value s) := by
  simp [execLadderStatusAccess, h]

@[simp] theorem execEvpendClear_canon {s : State} (h : s.Canon) (value : Word64) : CanonAfter (execEvpendClear value s) := by
  simp [execEvpendClear, h]

@[simp] theorem execFrlqWrite_canon {s : State} (h : s.Canon) (value : Word64) : CanonAfter (execFrlqWrite value s) := by
  simp [execFrlqWrite, h]

@[simp] theorem execDoorbellWrite_canon {s : State} (h : s.Canon) (value : Word64) : CanonAfter (execDoorbellWrite value s) := by
  simp [execDoorbellWrite, h]

@[simp] theorem State.sendMsix_canon (s : State) (v : BitVec 6) : (s.sendMsix v).Canon ↔ s.Canon := by
  simp [State.sendMsix]

@[simp] theorem State.msixWrite_canon (s : State) (i : Nat) (v : Word64) : (s.msixWrite i v).Canon ↔ s.Canon := by
  simp [State.msixWrite]

@[simp] theorem State.lateWrites_canon {s : State} (h : s.Canon) (ws : List (BitVec 19 × Word64)) : (s.lateWrites ws).Canon := by
  induction ws generalizing s with
  | nil => exact h
  | cons w t ih =>
    rw [State.lateWrites]
    split
    · exact h
    · exact ih (State.writeReg_canon h _ _)

@[simp] theorem execRegisterWrite_canon {s : State} (h : s.Canon) (number : BitVec 19) (value : Word64) :
    CanonAfter (execRegisterWrite number value s) := by
  unfold execRegisterWrite
  dsimp only
  (repeat' split) <;> simp [h]

/-! ### Queues -/

@[simp] theorem State.asEntry_canon {s : State} (h : s.Canon) {f : State → State} (hf : ∀ t, t.Canon → (f t).Canon) (seq : Nat) :
    (s.asEntry seq f).Canon := by
  unfold State.asEntry
  (repeat' split) <;> simp [h, hf]

@[simp] theorem State.answerEntry_canon {s : State} (h : s.Canon) (r : QReq) (seq : Nat) (q : BitVec 6) (k : BitVec 3)
    (buf : List Nat) (a : QAnswer) : (s.answerEntry r seq q k buf a).Canon := by
  unfold State.answerEntry
  (repeat' split) <;> simp [h]

@[simp] theorem State.answerLaunch_canon {s : State} (h : s.Canon) (r : QReq) (seq : Nat) (a : QAnswer) :
    (s.answerLaunch r seq a).Canon := by
  unfold State.answerLaunch
  (repeat' split) <;> simp [h]

@[simp] theorem State.eventLost_canon (s : State) : s.eventLost.Canon ↔ s.Canon := Iff.rfl

@[simp] theorem State.recordSent_canon (s : State) (r : QReq) (event : Bool) : (s.recordSent r event).Canon ↔ s.Canon := by
  unfold State.recordSent
  (repeat' split) <;> simp

@[simp] theorem State.slotReturn_canon (s : State) (r : QReq) (n : BitVec 8) (bs : List Byte) : (s.slotReturn r n bs).Canon ↔ s.Canon := by
  simp [State.slotReturn]

@[simp] theorem State.answerSlot_canon (s : State) (r : QReq) (n : BitVec 8) (a : QAnswer) : (s.answerSlot r n a).Canon ↔ s.Canon := by
  unfold State.answerSlot
  split <;> simp

@[simp] theorem State.answer_canon {s : State} (h : s.Canon) (r : QReq) (a : QAnswer) : (s.answer r a).Canon := by
  unfold State.answer
  (repeat' split) <;> simp +contextual [h]

@[simp] theorem State.noteGroup_canon (s : State) (pa : Nat) (root : Word64) (va : Nat) : (s.noteGroup pa root va).Canon ↔ s.Canon := by
  unfold State.noteGroup
  (repeat' split) <;> simp

@[simp] theorem State.peekAgain_canon (s : State) (pa : Nat) : (s.peekAgain pa).Canon ↔ s.Canon := Iff.rfl

@[simp] theorem State.chargeQueue_canon (s : State) (pa : Nat) : (s.chargeQueue pa).Canon ↔ s.Canon := by
  simp [State.chargeQueue]

@[simp] theorem State.wakeOn_canon (s : State) (pa : Nat) : (s.wakeOn pa).Canon ↔ s.Canon := Iff.rfl

@[simp] theorem State.enqueue_canon {s : State} (h : s.Canon) (r : QReq) : (s.enqueue r).Canon := by
  simp [State.enqueue, h]

@[simp] theorem State.peekTaken_canon {s : State} (h : s.Canon) (pa head : Nat) (who : Agent) : (s.peekTaken pa head who).Canon := by
  unfold State.peekTaken
  extract_lets own hit one t
  have hone (u : State) (c : CoreState) (b : Bool) (hu : u.Canon) : (one u c b).Canon := by
    simp +contextual [one, hu]
  have ht : t.Canon := foldl_canon (fun u c hu => hone _ c true (hone u c false hu)) _ h
  exact ht

@[simp] theorem State.dequeue_canon {s : State} (h : s.Canon) (pa : Nat) (who : Agent) : (s.dequeue pa who).Canon := by
  simp [State.dequeue, h]

@[simp] theorem State.wakeAfter_canon {s : State} (h : s.Canon) (pa : Nat) (enq : Bool) (fuel : Nat) : (s.wakeAfter pa enq fuel).Canon := by
  induction fuel generalizing s enq with
  | zero => exact h
  | succ fuel ih =>
    have hunpark {t : State} (ht : t.Canon) (w : QReq) : (t.unpark w).Canon := State.unpark_canon ht w
    rw [State.wakeAfter]
    split
    · extract_lets u
      have hu : u.Canon := foldl_canon (fun t w ht => State.answer_canon (by simp [ht]) _ _) _ h
      split
      · exact hu
      · exact ih (State.answer_canon (by simp [hu]) _ _) _
    · split
      · exact h
      · exact ih (State.answer_canon (by simp [h]) _ _) _

@[simp] theorem State.release_canon {s : State} (h : s.Canon) (pa : Nat) (which : QReq → Bool) (count : Bool) :
    (s.release pa which count).Canon := by
  simp +contextual [State.release, h]

@[simp] theorem State.runQueue_canon {s : State} (h : s.Canon) (r : QReq) : (s.runQueue r).1.Canon := by
  unfold State.runQueue
  dsimp only
  (repeat' split) <;> simp [h]

@[simp] theorem State.tryQueue_canon {s : State} (h : s.Canon) (r : QReq) : (s.tryQueue r).1.Canon := by
  unfold State.tryQueue
  dsimp only
  (repeat' split) <;> simp [h]

@[simp] theorem State.acceptQueue_canon {s : State} (h : s.Canon) (r : QReq) : (s.acceptQueue r).1.Canon := by
  have ht := State.tryQueue_canon h r
  unfold State.acceptQueue
  split <;> next hp => simpa [hp] using ht

@[simp] theorem State.purge_canon {s : State} (h : s.Canon) (pa : Nat) : (s.purge pa).Canon := by
  simp +contextual [State.purge, h]

@[simp] theorem State.serveQueue_canon {s : State} (h : s.Canon) (r : QReq) : (s.serveQueue r).Canon := by
  unfold State.serveQueue
  split
  · simp [h]
  · next pa _ =>
    extract_lets t r'
    have ht : t.Canon := by simp [t, h]
    have ha := State.acceptQueue_canon (State.purge_canon ht pa) r'
    have hb : (((t.purge pa).acceptQueue r').1.answer r' ((t.purge pa).acceptQueue r').2).Canon := State.answer_canon ha _ _
    dsimp only
    (repeat' split) <;> simp [hb]

@[simp] theorem execQueueRequest_canon {s : State} (h : s.Canon) : CanonAfter (execQueueRequest s) := by
  unfold execQueueRequest
  (repeat' split) <;> simp [h]

@[simp] theorem execWithdrawalNotice_canon {s : State} (h : s.Canon) : CanonAfter (execWithdrawalNotice s) := by
  unfold execWithdrawalNotice
  dsimp only
  (repeat' split) <;> simp [h]

@[simp] theorem execReleasedRequestReturn_canon {s : State} (h : s.Canon) : CanonAfter (execReleasedRequestReturn s) := by
  unfold execReleasedRequestReturn
  (repeat' split) <;> simp [h]

@[simp] theorem State.gather_canon {s : State} (h : s.Canon) (ps : List (Word64 × Place)) (acc : List Byte) {k : State → List Byte → Out}
    (hk : ∀ t bs, t.Canon → CanonAfter (k t bs)) : CanonAfter (s.gather ps acc k) := by
  induction ps generalizing s acc with
  | nil => exact hk s acc h
  | cons p t ih =>
    rw [State.gather]
    exact State.directRead_canon h _ _ _ fun u bs hu => ih hu _

@[simp] theorem unchecked_canon {o : Out} (h : CanonAfter o) : CanonAfter (unchecked o) := by
  unfold unchecked
  split
  · next t =>
    have ht : t.Canon := canonAfter_next.mp h
    split <;> exact State.Canon.next ht
  · exact h

@[simp] theorem State.sendQueue_canon (s : State) (op : QOp) (handle : Word64) (pa : Nat) (elem : List Byte) (dest : QDest) :
    (s.sendQueue op handle pa elem dest).Canon ↔ s.Canon := Iff.rfl

@[simp] theorem State.sendWhenFree_canon {s : State} (h : s.Canon) (op : QOp) (handle : Word64) (pa : Nat) (elem : List Byte)
    (dest : QDest) : CanonAfter (s.sendWhenFree op handle pa elem dest) := by
  simp [State.sendWhenFree, h]

@[simp] theorem State.queueOp_canon {s : State} (h : s.Canon) (op : QOp) (g : BitVec 4) (p q : BitVec 6) (k : BitVec 3) :
    CanonAfter (s.queueOp op g p q k) := by
  refine State.whenOn_canon h _ ?_
  extract_lets handle v code ak bk
  refine CanonAfter.ite (by simp [h]) ?_
  split
  · simp [h]
  · extract_lets t
    have ht : t.Canon := (State.notePage_canon _ _).mpr h
    refine CanonAfter.ite (by simp [ht]) (CanonAfter.ite (by simp [ht]) (CanonAfter.ite ?_ (by simp [ht])))
    split
    · simp [ht]
    · extract_lets u
      have hu : u.Canon := (foldl_canon_iff (fun u p => u.notePage_canon _) _).mpr ht
      refine CanonAfter.ite (unchecked_canon ?_) (CanonAfter.ite (by simp [hu]) (by simp [hu]))
      exact State.gather_canon hu _ _ fun t bs ht => by simp [ht]

@[simp] theorem execQinit_canon {s : State} (h : s.Canon) (o : OpSQ) : CanonAfter (execQinit o s) := by
  simp [execQinit, h]

@[simp] theorem execEnq_canon {s : State} (h : s.Canon) (o : OpSQ) : CanonAfter (execEnq o s) := by
  simp [execEnq, h]

@[simp] theorem execDeq_canon {s : State} (h : s.Canon) (o : OpSQ) : CanonAfter (execDeq o s) := by
  simp [execDeq, h]

@[simp] theorem execEnqn_canon {s : State} (h : s.Canon) (o : OpSQK) : CanonAfter (execEnqn o s) := by
  simp [execEnqn, h]

@[simp] theorem execDeqn_canon {s : State} (h : s.Canon) (o : OpSQK) : CanonAfter (execDeqn o s) := by
  simp [execDeqn, h]

@[simp] theorem execQpeek_canon {s : State} (h : s.Canon) (o : OpSQ) : CanonAfter (execQpeek o s) := by
  simp [execQpeek, h]

@[simp] theorem execQstat_canon {s : State} (h : s.Canon) (o : OpSQ) : CanonAfter (execQstat o s) := by
  simp [execQstat, h]

@[simp] theorem execQclose_canon {s : State} (h : s.Canon) (o : OpS1) : CanonAfter (execQclose o s) := by
  simp [execQclose, h]

/-! ### Frames -/

@[simp] theorem State.podOpen_canon {s : State} (h : s.Canon) : s.podOpen.1.Canon := by
  unfold State.podOpen
  dsimp only
  (repeat' split) <;> simp [h]

@[simp] theorem State.losePages_canon (s : State) (n : Nat) : (s.losePages n).Canon ↔ s.Canon := Iff.rfl

@[simp] theorem State.podTake_canon {s : State} (h : s.Canon) (k : Nat) : (s.podTake k).1.Canon := by
  have hp := State.podOpen_canon h
  unfold State.podTake
  split
  · exact h
  · split
    · next t pa he => simpa [he] using hp
    · next t pa data he =>
      replace hp : t.Canon := by simpa [he] using hp
      have hset (f) : (t.setQcb pa f).Canon := State.setQcb_canon hp pa f
      dsimp only
      (repeat' split) <;> simp [hp, hset]

@[simp] theorem State.podReturn_canon {s : State} (h : s.Canon) (pn : Nat) : (s.podReturn pn).Canon := by
  have hp := State.podOpen_canon h
  unfold State.podReturn
  split
  · next t e he =>
    replace hp : t.Canon := by simpa [he] using hp
    simp [hp]
  · next t pa data he =>
    replace hp : t.Canon := by simpa [he] using hp
    have hset (key a bs f) : ((t.performWrite key a bs).setQcb pa f).Canon := State.setQcb_canon (State.performWrite_canon hp _ _ _) pa f
    dsimp only
    split <;> simp [hp, hset]

@[simp] theorem State.podReady_canon {s : State} (h : s.Canon) (back : List Nat) : (s.podReady back).1.Canon := by
  have ht := State.podOpen_canon h
  unfold State.podReady
  split
  · exact h
  · split <;> next hp => simpa [hp] using ht

@[simp] theorem State.countAct_canon {s : State} (h : s.Canon) (a : Nat) : (s.countAct a).Canon := by
  unfold State.countAct
  (repeat' split) <;> simp [h]

@[simp] theorem State.movePage_canon {s : State} (h : s.Canon) (o : EngineOp) (g : Seg) : (s.movePage o g).Canon := by
  unfold State.movePage
  extract_lets s1 s2 bs s3 s4
  have h3 : s3.Canon := State.copyBytes_canon (by simp [s2, s1, h]) _ _ _
  have h4 : s4.Canon := by
    simp only [s4]
    split
    · exact h3
    · exact ⟨Memory.wf_putN h3.1 _ _, h3.2⟩
  simp [h4]

@[simp] theorem State.loaded_canon (s : State) (o : EngineOp) (b : Bool) : (s.loaded o b).Canon ↔ s.Canon := Iff.rfl

@[simp] theorem State.unbind_canon (s : State) (o : EngineOp) (f : Nat) : (s.unbind o f).Canon ↔ s.Canon := by
  simp [State.unbind]

@[simp] theorem State.frAfter_canon (s : State) (o : EngineOp) : (s.frAfter o).Canon ↔ s.Canon := by
  unfold State.frAfter
  (repeat' split) <;> simp

@[simp] theorem State.performFrame_canon {s : State} (h : s.Canon) (o : EngineOp) : (s.performFrame o).Canon := by
  unfold State.performFrame
  extract_lets t u v
  have ht : t.Canon := foldl_canon (fun x g hx => State.movePage_canon hx _ _) _ h
  have hu : u.Canon := foldl_canon (fun x a hx => State.countAct_canon hx _) _ ht
  have hv : v.Canon := foldl_canon (fun x w hx => by simp [hx]) _ hu
  simp [hv]

@[simp] theorem State.frTrap_canon {s : State} (h : s.Canon) (f f2 : Nat) (e : FrErr) : CanonAfter (s.frTrap f f2 e) := by
  unfold State.frTrap
  (repeat' split) <;> simp [h]

@[simp] theorem State.framesAhead_canon {s : State} (h : s.Canon) : s.framesAhead.Canon := by
  simp +contextual [State.framesAhead, h]

@[simp] theorem State.frOpen_canon {s : State} (h : s.Canon) (g : BitVec 4) (banks : Bool) (f f2 : Nat) {k : State → Out}
    (hk : ∀ t, t.Canon → CanonAfter (k t)) : CanonAfter (s.frOpen g banks f f2 k) := by
  refine State.whenOn_canon h g ?_
  split
  · next o ho => exact State.wakeHold_canon h ho
  · simp [h, hk]

@[simp] theorem State.frAccept_canon {α : Type} {s : State} (h : s.Canon) (f f2 : Nat) (r : Except FrErr α) (names : List Nat)
    (pages : α → List Nat) {k : α → Out} (hk : ∀ a, CanonAfter (k a)) : CanonAfter (s.frAccept f f2 r names pages k) := by
  unfold State.frAccept
  split <;> simp [h, hk]

@[simp] theorem State.frTake_canon {s : State} (h : s.Canon) (f n : Nat) {k : State → List Nat → Out} (hk : ∀ t l, t.Canon → CanonAfter (k t l)) :
    CanonAfter (s.frTake f n k) := by
  have ht := State.podTake_canon h n
  unfold State.frTake
  split
  · next t e he => simp [h, (by simpa [he] using ht : t.Canon)]
  · next t new he => exact hk t new (by simpa [he] using ht)

@[simp] theorem State.pushFr_canon (s : State) (i : Instr) (names acts : List Nat) (segs : List Seg) (writes : List
    (Nat × List Byte)) (busy : List (Nat × Nat)) (extra : List Nat) : (s.pushFr i names acts segs writes busy extra).Canon ↔ s.Canon := Iff.rfl

@[simp] theorem State.beginLoad_canon {s : State} (h : s.Canon) (v : State) (i : Instr) (x : Word32) (comp w : Bool) {done : State → State}
    (hd : ∀ t, t.Canon → (done t).Canon) : CanonAfter (s.beginLoad v i x comp w done) := by
  refine State.frAccept_canon h _ _ _ _ _ fun e => ?_
  have ha : (s.abandonLook w).Canon := State.abandonLook_canon h w
  split <;> simp [h, hd, ha]

@[simp] theorem execFrld_canon {s : State} (h : s.Canon) (o : OpFrld) : CanonAfter (execFrld o s) := by
  simp [execFrld, h]

@[simp] theorem execFrsw_canon {s : State} (h : s.Canon) (o : OpFrsw) : CanonAfter (execFrsw o s) := by
  unfold execFrsw
  extract_lets c x f w addr turn
  have hturn (t : State) (ht : t.Canon) : (turn t).Canon := (State.upd_canon _).mpr ht
  refine State.frOpen_canon h _ _ _ _ fun v hv => ?_
  dsimp only
  split
  · refine State.frAccept_canon h _ _ _ _ _ fun _ => ?_
    simp [h]
  · split
    · refine State.frAccept_canon h _ _ _ _ _ fun _ => State.Canon.next (hturn _ ?_)
      simp [h]
    · exact State.beginLoad_canon h _ _ _ _ _ hturn

@[simp] theorem execFrst_canon {s : State} (h : s.Canon) (o : OpFrst) : CanonAfter (execFrst o s) := by
  unfold execFrst
  extract_lets b
  refine State.frOpen_canon h _ _ _ _ fun v hv => State.frAccept_canon h _ _ _ _ _ fun e => State.frTake_canon h _ _ fun t new ht => ?_
  exact State.Canon.next ((State.pushFr_canon _ _ _ _ _ _ _ _).mpr ((State.upd_canon _).mpr ht))

@[simp] theorem State.forkOp_canon {s : State} (h : s.Canon) (i : Instr) (o : OpFr2) (snap : Bool) : CanonAfter (s.forkOp i o snap) := by
  simp [State.forkOp, h]

@[simp] theorem execSnap_canon {s : State} (h : s.Canon) (o : OpFr2) : CanonAfter (execSnap o s) := by
  simp [execSnap, h]

@[simp] theorem execFork_canon {s : State} (h : s.Canon) (o : OpFr2) : CanonAfter (execFork o s) := by
  simp [execFork, h]

@[simp] theorem State.frReturns_canon {s : State} (h : s.Canon) (f f2 : Nat) (back : List Nat) {k : State → Out} (hk : ∀ t, t.Canon → CanonAfter (k t)) :
    CanonAfter (s.frReturns f f2 back k) := by
  have ht := State.podReady_canon h back
  unfold State.frReturns
  split
  · next t e he => simp [(by simpa [he] using ht : t.Canon)]
  · next t x he => exact hk t (by simpa [he] using ht)

@[simp] theorem execRback_canon {s : State} (h : s.Canon) (o : OpRback) : CanonAfter (execRback o s) := by
  refine State.frOpen_canon h _ _ _ _ fun v hv => State.frAccept_canon h _ _ _ _ _ fun e => ?_
  exact State.frReturns_canon h _ _ _ fun t ht => by simp [ht]

@[simp] theorem execFrel_canon {s : State} (h : s.Canon) (o : OpFrel) : CanonAfter (execFrel o s) := by
  refine State.frOpen_canon h _ _ _ _ fun v hv => State.frAccept_canon h _ _ _ _ _ fun e => ?_
  exact State.frReturns_canon h _ _ _ fun t ht => by simp [ht]

@[simp] theorem State.frSpad_canon {s : State} (h : s.Canon) (x : Word32) (n : Nat) (write : Bool) {k : Nat → Out} (hk : ∀ n, CanonAfter (k n)) :
    CanonAfter (s.frSpad x n write k) := by
  simp [State.frSpad, h, hk]

@[simp] theorem execHpapp_canon {s : State} (h : s.Canon) (o : OpFr2) : CanonAfter (execHpapp o s) := by
  unfold execHpapp
  extract_lets x
  refine State.frOpen_canon h _ _ _ _ fun v hv => State.frSpad_canon h _ _ _ fun row => ?_
  refine State.frAccept_canon h _ _ _ _ _ fun e => State.frTake_canon h _ _ fun t new ht => ?_
  exact State.Canon.next ((State.pushFr_canon _ _ _ _ _ _ _ _).mpr ht)

@[simp] theorem execHpmap_canon {s : State} (h : s.Canon) (o : OpHpmap) : CanonAfter (execHpmap o s) := by
  unfold execHpmap
  extract_lets x n t0
  refine State.frOpen_canon h _ _ _ _ fun v hv => State.frSpad_canon h _ _ _ fun dst => ?_
  refine State.frAccept_canon h _ _ _ _ _ fun e => CanonAfter.ite (State.holdUnchecked_canon h) ?_
  exact State.Canon.next ((State.pushFr_canon _ _ _ _ _ _ _ _).mpr h)

@[simp] theorem execFrstat_canon {s : State} (h : s.Canon) (o : OpFr2) : CanonAfter (execFrstat o s) := by
  refine State.whenOn_canon h _ ?_
  split
  · next r hr => exact State.wakeHold_canon h hr
  · dsimp only
    (repeat' split) <;> simp [h]

@[simp] theorem execFrameOperationDone_canon {s : State} (h : s.Canon) : CanonAfter (execFrameOperationDone s) := by
  unfold execFrameOperationDone
  extract_lets t
  have ht : t.Canon := foldl_canon (fun u pn hu => State.podReturn_canon hu _) _ (State.canon_mk.mpr h)
  (repeat' split) <;> simp [ht]

@[simp] theorem execLookaheadPeek_canon {s : State} (h : s.Canon) : CanonAfter (execLookaheadPeek s) := by
  unfold execLookaheadPeek
  dsimp only
  (repeat' split) <;> simp [h]

@[simp] theorem execLookaheadLoadDone_canon {s : State} (h : s.Canon) : CanonAfter (execLookaheadLoadDone s) := by
  unfold execLookaheadLoadDone
  dsimp only
  (repeat' split) <;> simp +contextual [h]

/-! ### Scalar -/

@[simp] theorem execNop_canon {s : State} (h : s.Canon) : CanonAfter (execNop s) := by
  simp [execNop, h]

@[simp] theorem execAdd_canon {s : State} (h : s.Canon) (o : OpSA) : CanonAfter (execAdd o s) := by
  simp [execAdd, h]

@[simp] theorem execSub_canon {s : State} (h : s.Canon) (o : OpSA) : CanonAfter (execSub o s) := by
  simp [execSub, h]

@[simp] theorem execMul_canon {s : State} (h : s.Canon) (o : OpSA) : CanonAfter (execMul o s) := by
  simp [execMul, h]

@[simp] theorem execMulh_canon {s : State} (h : s.Canon) (o : OpSA) : CanonAfter (execMulh o s) := by
  simp [execMulh, h]

@[simp] theorem execMulhu_canon {s : State} (h : s.Canon) (o : OpSA) : CanonAfter (execMulhu o s) := by
  simp [execMulhu, h]

@[simp] theorem execDiv_canon {s : State} (h : s.Canon) (o : OpSA) : CanonAfter (execDiv o s) := by
  simp [execDiv, h]

@[simp] theorem execDivu_canon {s : State} (h : s.Canon) (o : OpSA) : CanonAfter (execDivu o s) := by
  simp [execDivu, h]

@[simp] theorem execRem_canon {s : State} (h : s.Canon) (o : OpSA) : CanonAfter (execRem o s) := by
  simp [execRem, h]

@[simp] theorem execRemu_canon {s : State} (h : s.Canon) (o : OpSA) : CanonAfter (execRemu o s) := by
  simp [execRemu, h]

@[simp] theorem execAnd_canon {s : State} (h : s.Canon) (o : OpSA) : CanonAfter (execAnd o s) := by
  simp [execAnd, h]

@[simp] theorem execOr_canon {s : State} (h : s.Canon) (o : OpSA) : CanonAfter (execOr o s) := by
  simp [execOr, h]

@[simp] theorem execXor_canon {s : State} (h : s.Canon) (o : OpSA) : CanonAfter (execXor o s) := by
  simp [execXor, h]

@[simp] theorem execShl_canon {s : State} (h : s.Canon) (o : OpSA) : CanonAfter (execShl o s) := by
  simp [execShl, h]

@[simp] theorem execShr_canon {s : State} (h : s.Canon) (o : OpSA) : CanonAfter (execShr o s) := by
  simp [execShr, h]

@[simp] theorem execSar_canon {s : State} (h : s.Canon) (o : OpSA) : CanonAfter (execSar o s) := by
  simp [execSar, h]

@[simp] theorem execRotr_canon {s : State} (h : s.Canon) (o : OpSA) : CanonAfter (execRotr o s) := by
  simp [execRotr, h]

@[simp] theorem execAddS32_canon {s : State} (h : s.Canon) (o : OpSA) : CanonAfter (execAddS32 o s) := by
  simp [execAddS32, h]

@[simp] theorem execSubS32_canon {s : State} (h : s.Canon) (o : OpSA) : CanonAfter (execSubS32 o s) := by
  simp [execSubS32, h]

@[simp] theorem execMulS32_canon {s : State} (h : s.Canon) (o : OpSA) : CanonAfter (execMulS32 o s) := by
  simp [execMulS32, h]

@[simp] theorem execMulhS32_canon {s : State} (h : s.Canon) (o : OpSA) : CanonAfter (execMulhS32 o s) := by
  simp [execMulhS32, h]

@[simp] theorem execMulhuS32_canon {s : State} (h : s.Canon) (o : OpSA) : CanonAfter (execMulhuS32 o s) := by
  simp [execMulhuS32, h]

@[simp] theorem execDivS32_canon {s : State} (h : s.Canon) (o : OpSA) : CanonAfter (execDivS32 o s) := by
  simp [execDivS32, h]

@[simp] theorem execDivuS32_canon {s : State} (h : s.Canon) (o : OpSA) : CanonAfter (execDivuS32 o s) := by
  simp [execDivuS32, h]

@[simp] theorem execRemS32_canon {s : State} (h : s.Canon) (o : OpSA) : CanonAfter (execRemS32 o s) := by
  simp [execRemS32, h]

@[simp] theorem execRemuS32_canon {s : State} (h : s.Canon) (o : OpSA) : CanonAfter (execRemuS32 o s) := by
  simp [execRemuS32, h]

@[simp] theorem execAndS32_canon {s : State} (h : s.Canon) (o : OpSA) : CanonAfter (execAndS32 o s) := by
  simp [execAndS32, h]

@[simp] theorem execOrS32_canon {s : State} (h : s.Canon) (o : OpSA) : CanonAfter (execOrS32 o s) := by
  simp [execOrS32, h]

@[simp] theorem execXorS32_canon {s : State} (h : s.Canon) (o : OpSA) : CanonAfter (execXorS32 o s) := by
  simp [execXorS32, h]

@[simp] theorem execShlS32_canon {s : State} (h : s.Canon) (o : OpSA) : CanonAfter (execShlS32 o s) := by
  simp [execShlS32, h]

@[simp] theorem execShrS32_canon {s : State} (h : s.Canon) (o : OpSA) : CanonAfter (execShrS32 o s) := by
  simp [execShrS32, h]

@[simp] theorem execSarS32_canon {s : State} (h : s.Canon) (o : OpSA) : CanonAfter (execSarS32 o s) := by
  simp [execSarS32, h]

@[simp] theorem execRotrS32_canon {s : State} (h : s.Canon) (o : OpSA) : CanonAfter (execRotrS32 o s) := by
  simp [execRotrS32, h]

@[simp] theorem execMin_canon {s : State} (h : s.Canon) (o : OpSA) : CanonAfter (execMin o s) := by
  simp [execMin, h]

@[simp] theorem execMinu_canon {s : State} (h : s.Canon) (o : OpSA) : CanonAfter (execMinu o s) := by
  simp [execMinu, h]

@[simp] theorem execMax_canon {s : State} (h : s.Canon) (o : OpSA) : CanonAfter (execMax o s) := by
  simp [execMax, h]

@[simp] theorem execMaxu_canon {s : State} (h : s.Canon) (o : OpSA) : CanonAfter (execMaxu o s) := by
  simp [execMaxu, h]

@[simp] theorem execClz_canon {s : State} (h : s.Canon) (o : OpSU) : CanonAfter (execClz o s) := by
  simp [execClz, h]

@[simp] theorem execCtz_canon {s : State} (h : s.Canon) (o : OpSU) : CanonAfter (execCtz o s) := by
  simp [execCtz, h]

@[simp] theorem execPopc_canon {s : State} (h : s.Canon) (o : OpSU) : CanonAfter (execPopc o s) := by
  simp [execPopc, h]

@[simp] theorem execBswap_canon {s : State} (h : s.Canon) (o : OpSU) : CanonAfter (execBswap o s) := by
  simp [execBswap, h]

@[simp] theorem execAndn_canon {s : State} (h : s.Canon) (o : OpSA) : CanonAfter (execAndn o s) := by
  simp [execAndn, h]

@[simp] theorem execOrn_canon {s : State} (h : s.Canon) (o : OpSA) : CanonAfter (execOrn o s) := by
  simp [execOrn, h]

@[simp] theorem execAddi_canon {s : State} (h : s.Canon) (o : OpSI) : CanonAfter (execAddi o s) := by
  simp [execAddi, h]

@[simp] theorem execAndi_canon {s : State} (h : s.Canon) (o : OpSI) : CanonAfter (execAndi o s) := by
  simp [execAndi, h]

@[simp] theorem execOri_canon {s : State} (h : s.Canon) (o : OpSI) : CanonAfter (execOri o s) := by
  simp [execOri, h]

@[simp] theorem execXori_canon {s : State} (h : s.Canon) (o : OpSI) : CanonAfter (execXori o s) := by
  simp [execXori, h]

@[simp] theorem execMuli_canon {s : State} (h : s.Canon) (o : OpSI) : CanonAfter (execMuli o s) := by
  simp [execMuli, h]

@[simp] theorem execShli_canon {s : State} (h : s.Canon) (o : OpShift) : CanonAfter (execShli o s) := by
  simp [execShli, h]

@[simp] theorem execShri_canon {s : State} (h : s.Canon) (o : OpShift) : CanonAfter (execShri o s) := by
  simp [execShri, h]

@[simp] theorem execSari_canon {s : State} (h : s.Canon) (o : OpShift) : CanonAfter (execSari o s) := by
  simp [execSari, h]

@[simp] theorem execMovi_canon {s : State} (h : s.Canon) (o : OpMovi) : CanonAfter (execMovi o s) := by
  simp [execMovi, h]

@[simp] theorem execMovh_canon {s : State} (h : s.Canon) (o : OpSI) : CanonAfter (execMovh o s) := by
  simp [execMovh, h]

@[simp] theorem execCmp_canon {s : State} (h : s.Canon) (o : OpCmp) : CanonAfter (execCmp o s) := by
  simp [execCmp, h]

@[simp] theorem execCmpi_canon {s : State} (h : s.Canon) (o : OpCmpi) : CanonAfter (execCmpi o s) := by
  simp [execCmpi, h]

@[simp] theorem execGand_canon {s : State} (h : s.Canon) (o : OpGuard) : CanonAfter (execGand o s) := by
  simp [execGand, h]

@[simp] theorem execGor_canon {s : State} (h : s.Canon) (o : OpGuard) : CanonAfter (execGor o s) := by
  simp [execGor, h]

@[simp] theorem execGxor_canon {s : State} (h : s.Canon) (o : OpGuard) : CanonAfter (execGxor o s) := by
  simp [execGxor, h]

@[simp] theorem execGandn_canon {s : State} (h : s.Canon) (o : OpGuard) : CanonAfter (execGandn o s) := by
  simp [execGandn, h]

@[simp] theorem execGset_canon {s : State} (h : s.Canon) (o : OpGset) : CanonAfter (execGset o s) := by
  simp [execGset, h]

@[simp] theorem execGget_canon {s : State} (h : s.Canon) (o : OpGget) : CanonAfter (execGget o s) := by
  simp [execGget, h]

@[simp] theorem execSel_canon {s : State} (h : s.Canon) (o : OpSel) : CanonAfter (execSel o s) := by
  simp [execSel, h]

@[simp] theorem execXset_canon {s : State} (h : s.Canon) (o : OpXset) : CanonAfter (execXset o s) := by
  simp [execXset, h]

@[simp] theorem execXadd_canon {s : State} (h : s.Canon) (o : OpXadd) : CanonAfter (execXadd o s) := by
  simp [execXadd, h]

@[simp] theorem execView_canon {s : State} (h : s.Canon) (o : OpView) : CanonAfter (execView o s) := by
  simp [execView, h]

@[simp] theorem execShw_canon {s : State} (h : s.Canon) (o : OpShw) : CanonAfter (execShw o s) := by
  simp [execShw, h]

@[simp] theorem execSlk_canon {s : State} (h : s.Canon) (o : OpSlk) : CanonAfter (execSlk o s) := by
  simp [execSlk, h]

/-! ### Context -/

@[simp] theorem State.putGranule_canon {s : State} (h : s.Canon) (g : Nat) (bs : List Byte) : (s.putGranule g bs).Canon := by
  simp [State.putGranule, h]

@[simp] theorem State.headSlots_canon (s : State) : s.headSlots.Canon ↔ s.Canon := Iff.rfl

@[simp] theorem State.putArea_canon {s : State} (h : s.Canon) (ps : List Nat) (o : Nat) (bs : List Byte) : (s.putArea ps o bs).Canon := by
  simp [State.putArea, h]

@[simp] theorem execCtxsv_canon {s : State} (h : s.Canon) (o : OpS1) : CanonAfter (execCtxsv o s) := by
  refine State.whenOn_canon h _ ?_
  extract_lets a
  split
  · simp [h]
  · extract_lets t ps c gs u v w
    have ht : t.Canon := (foldl_canon_iff (fun u p => u.notePage_canon p) _).mpr h
    have hv : v.Canon := foldl_canon (fun x p hx => State.putArea_canon hx _ _ _) _ (State.putArea_canon ht _ _ _)
    have hw : w.Canon := foldl_canon (fun x g hx => State.putArea_canon hx _ _ _) _ hv
    split
    · simp [ht]
    · split
      · simp [ht]
      · simp [hw]

@[simp] theorem State.reissue_canon (s : State) (r : Remainder) : (s.reissue r).1.Canon ↔ s.Canon := by
  generalize hp : s.reissue r = p
  unfold State.reissue at hp
  extract_lets -underBinder eng shape i at' t at hp
  have ht : t.Canon ↔ s.Canon := State.upd_canon _
  clear_value t shape
  (repeat' split at hp) <;> subst hp
  · rfl
  · rfl
  · exact (t.pushCopy_canon _ _ _ _ _).trans ht

@[simp] theorem State.reissueAll_canon (s : State) (rs : List Remainder) : (s.reissueAll rs).Canon ↔ s.Canon := by
  refine foldl_canon_iff (fun t r => ?_) _
  have ht := t.reissue_canon r
  split <;> next hr => simpa [hr] using ht

@[simp] theorem State.areaLoaded_canon {s : State} (h : s.Canon) (rs : List Remainder) (key kind n : Nat) :
    (((s.l1Clear.headSlots.reissueAll rs).ticked).charge key kind n).Canon := by
  simp [h]

@[simp] theorem execCtxld_canon {s : State} (h : s.Canon) (o : OpS1) : CanonAfter (execCtxld o s) := by
  refine State.whenOn_canon h _ ?_
  extract_lets -underBinder a
  split
  · simp [h]
  · extract_lets -underBinder t ps
    have ht : t.Canon := (foldl_canon_iff (fun u p => u.notePage_canon p) _).mpr h
    refine CanonAfter.ite (State.holdUnchecked_canon ht) ?_
    split
    · exact unchecked_canon (State.farRead_canon ht _ _ _ fun u bs hu => hu.next)
    · exact (State.holdUnchecked_canon ((foldl_canon_iff (fun u l => u.missed_canon l) _).mpr ht))
    · refine CanonAfter.ite (State.accTrap_canon ht _ _ _ _ _) ?_
      extract_lets -underBinder get vs gs
      split
      · exact State.consumeHere_canon ht _ _
      · extract_lets -underBinder u v
        have hu : u.Canon := foldl_canon (fun w g hw => State.putGranule_canon hw _ _) _ ht
        exact (State.areaLoaded_canon (s := v) ((State.upd_canon _).mpr hu) _ _ _ _).next

end Sys2Proof.Machine
end

section
/-! SUPPORT. The canonical form of storage is kept by replies, the instructions together, records, preemption and placement. -/

namespace Sys2Proof.Machine
set_option Elab.async false

/-! ### Replies -/

@[simp] theorem State.takeOutside_canon {s : State} (h : s.Canon) (uid : Nat) (bs : List Byte) (bad : Bool) :
    (s.takeOutside uid bs bad).Canon := by
  simp [State.takeOutside, h]

@[simp] theorem State.takeReply_canon {s : State} (h : s.Canon) (r : Reply) : (s.takeReply r).Canon := by
  unfold State.takeReply
  (repeat' split) <;> simp [h]

@[simp] theorem execLoadReplyArrival_canon {s : State} (h : s.Canon) : CanonAfter (execLoadReplyArrival s) := by
  unfold execLoadReplyArrival
  (repeat' split) <;> simp +contextual [h]

/-! ### Issue -/

@[simp] theorem State.countMargin_canon (s : State) : s.countMargin.Canon ↔ s.Canon := by
  simp [State.countMargin]

@[simp] theorem State.chargeMargin_canon (s : State) : s.chargeMargin.Canon ↔ s.Canon := by
  simp [State.chargeMargin]

@[simp] theorem State.endCycle_canon (s : State) : s.endCycle.Canon ↔ s.Canon := by
  simp [State.endCycle]

@[simp] theorem State.fetched_canon (s : State) (line : Nat) (bs : List Byte) : (s.fetched line bs).Canon ↔ s.Canon := by
  unfold State.fetched
  (repeat' split) <;> simp

@[simp] theorem State.fetchBad_canon {s : State} (h : s.Canon) (line : Nat) : (s.fetchBad line).Canon := by
  simp [State.fetchBad, h]

@[simp] theorem State.fetchFar_canon {s : State} (h : s.Canon) (line : Nat) : (s.fetchFar line).Canon := by
  unfold State.fetchFar
  dsimp only
  (repeat' split) <;> simp [h]

@[simp] theorem execFetchMissFill_canon {s : State} (h : s.Canon) : CanonAfter (execFetchMissFill s) := by
  unfold execFetchMissFill
  (repeat' split) <;> simp [h]

@[simp] theorem execBundleDispatch_canon {s : State} (h : s.Canon) : CanonAfter (execBundleDispatch s) := by
  unfold execBundleDispatch
  (repeat' split) <;> simp [h]

@[simp] theorem execWholeCoreStall_canon {s : State} (h : s.Canon) : CanonAfter (execWholeCoreStall s) := by
  simp [execWholeCoreStall, h]

/-! ### Records -/

@[simp] theorem State.sendLines_canon {s : State} (h : s.Canon) (die : Bool) (sl fuel pa : Nat) (bs : List Byte) :
    (s.sendLines die sl fuel pa bs).Canon := by
  induction fuel generalizing s pa bs with
  | zero => exact h
  | succ fuel ih =>
    rw [State.sendLines]
    dsimp only
    split
    · exact h
    · exact ih (s := { s.fresh.2 with reqs := _ }) h _ _

@[simp] theorem State.deviceWrite_canon {s : State} (h : s.Canon) (die : Bool) (sl pa : Nat) (bs : List Byte) :
    (s.deviceWrite die sl pa bs).Canon := by
  simp [State.deviceWrite, h]

/-! ### Preempt -/

@[simp] theorem State.noteTaint_canon (s : State) (l : Launch) (g : Gang) : (s.noteTaint l g).Canon ↔ s.Canon := by
  simp [State.noteTaint]

@[simp] theorem State.askPreempt_canon (s : State) (l : Launch) (g : Gang) : (s.askPreempt l g).Canon ↔ s.Canon := by
  simp [State.askPreempt]

@[simp] theorem State.moveBytes_canon {s : State} (h : s.Canon) (src dst n : Nat) : (s.moveBytes src dst n).Canon := by
  have ht := State.performWrite_canon h none dst (s.bytes src n)
  exact ⟨ht.1, Cells.wf_copy ht.2 _ _ _⟩

@[simp] theorem State.slotSave_canon {s : State} (h : s.Canon) (die : Bool) (sl src pa n : Nat) : (s.slotSave die sl src pa n).Canon := by
  simp [State.slotSave, h]

@[simp] theorem State.slotLoad_canon {s : State} (h : s.Canon) (pa dst n : Nat) : (s.slotLoad pa dst n).Canon := by
  simp [State.slotLoad, h]

@[simp] theorem State.granuleSave_canon {s : State} (h : s.Canon) (die : Bool) (sl base g : Nat) : (s.granuleSave die sl base g).Canon := by
  simp [State.granuleSave, h]

@[simp] theorem State.granuleLoad_canon {s : State} (h : s.Canon) (base g : Nat) : (s.granuleLoad base g).Canon := by
  simp [State.granuleLoad, h]

/-- R427, R428: a save writes the pieces of the core's part of the slot and the granules of its views. -/
@[simp] theorem State.putPieces_canon {s : State} (h : s.Canon) (die : Bool) (sl base : Nat) (ps : List (Nat × List Byte)) :
    (s.putPieces die sl base ps).Canon := foldl_canon (fun _ _ ht => State.deviceWrite_canon ht _ _ _ _) _ h

@[simp] theorem State.saveGranules_canon {s : State} (h : s.Canon) (die : Bool) (sl base : Nat) (gs : List Nat) :
    (s.saveGranules die sl base gs).Canon := foldl_canon (fun _ _ ht => State.granuleSave_canon ht _ _ _ _) _ h

@[simp] theorem State.readied_canon {s : State} (h : s.Canon) : s.readied.Canon :=
  (State.upd_canon _).mpr (State.abandonLook_canon (State.abandonLook_canon h _) _)

@[simp] theorem State.unqueued_canon {s : State} (h : s.Canon) : s.unqueued.Canon :=
  State.canon_mk.mpr (State.withdrawParked_canon h _)

@[simp] theorem State.saveCore_canon {s : State} (h : s.Canon) (die : Bool) (base : Nat) : (s.saveCore die base).Canon := by
  rw [State.saveCore_eq]
  refine (State.upd_canon _).mpr ((State.charge_canon _ _ _ _).mpr (State.saveGranules_canon (State.putPieces_canon ?_ _ _ _ _) _ _ _ _))
  exact State.unqueued_canon (State.readied_canon h)

@[simp] theorem State.saveGang_canon {s : State} (h : s.Canon) (l : Launch) (g : Gang) (slot : Nat) : (s.saveGang l g slot).Canon := by
  unfold State.saveGang
  extract_lets used t parked done kept u v w x y
  have ht : t.Canon := by simp [t, h]
  have hv : v.Canon := by simp [v, u, ht]
  have hw : w.Canon := foldl_canon (fun z k hz => State.asCore_canon hz (fun _ hr => State.saveCore_canon hr _ _) _) _ hv
  have hy : y.Canon := by simp [y, x, hw]
  split <;> simp [hy]

@[simp] theorem execPreemption_canon {s : State} (h : s.Canon) (core : BitVec 7) : CanonAfter (execPreemption core s) := by
  unfold execPreemption
  dsimp only
  (repeat' split) <;> simp [h]

@[simp] theorem State.refill_canon {s : State} (h : s.Canon) (b : Nat) : (s.refill b).Canon := by
  simp [State.refill, h]

@[simp] theorem State.restoreCore_canon {s : State} (h : s.Canon) (l : Launch) (g : Gang) (k base : Nat) :
    (s.restoreCore l g k base).Canon := by
  unfold State.restoreCore
  extract_lets -underBinder get kept lpre ended vs t u v
  have ht : t.Canon := foldl_canon (fun x g hx => State.granuleLoad_canon hx _ _) _ (State.zeroBytes_canon h _ _)
  have hu : u.Canon := (State.upd_canon _).mpr ht
  simp [v, hu]

@[simp] theorem State.resumeGang_canon {s : State} (h : s.Canon) (l : Launch) (g : Gang) (slot : Nat) (cs : List (BitVec 7)) :
    (s.resumeGang l g slot cs).Canon := by
  unfold State.resumeGang
  extract_lets halted g' t u v
  have hv : v.Canon := by simp [v, u, t, h]
  exact foldl_canon (fun x k hx => State.asCore_canon hx (fun _ hy => State.restoreCore_canon hy _ _ _ _) _) _ hv

/-! ### Placement -/

@[simp] theorem State.seeHead_canon (s : State) (die : Bool) (n : BitVec 6) : (s.seeHead die n).Canon ↔ s.Canon := by
  unfold State.seeHead
  (repeat' split) <;> simp

@[simp] theorem execBackgroundHeadRead_canon {s : State} (h : s.Canon) (die : Bool) (queue : BitVec 6) :
    CanonAfter (execBackgroundHeadRead die queue s) := by
  simp [execBackgroundHeadRead, h]

@[simp] theorem State.takeLid_canon (s : State) (die : Bool) : (s.takeLid die).2.Canon ↔ s.Canon := by
  simp [State.takeLid]

@[simp] theorem State.putStatus_canon {s : State} (h : s.Canon) (r : List Byte) (v : Nat) : (s.putStatus r v).Canon := by
  unfold State.putStatus
  dsimp only
  (repeat' split) <;> simp [h]

@[simp] theorem State.holdRecord_canon {s : State} (h : s.Canon) (die : Bool) (n : BitVec 6) : (s.holdRecord die n).Canon := by
  unfold State.holdRecord
  dsimp only
  (repeat' split) <;> simp [h]

@[simp] theorem State.chooseRecord_canon (s : State) (c : Candidate) (r : QueuedRecord) (l : Launch) :
    (s.chooseRecord c r l).Canon ↔ s.Canon := by
  unfold State.chooseRecord
  dsimp only
  (repeat' split) <;> simp

@[simp] theorem State.consider_canon {s : State} (h : s.Canon) (c : Candidate) : (s.consider c).Canon := by
  unfold State.consider
  dsimp only
  (repeat' split) <;> simp [h]

@[simp] theorem State.considerAt_canon {s : State} (h : s.Canon) (die : Bool) (cs : List Candidate) (i : Nat) :
    (State.considerAt die cs s i).Canon := by
  simp +contextual [State.considerAt, h]

@[simp] theorem execPlacementDecision_canon {s : State} (h : s.Canon) (die : Bool) : CanonAfter (execPlacementDecision die s) := by
  unfold execPlacementDecision
  extract_lets t cs u
  have ht : t.Canon := foldl_canon (fun v n hv => State.holdRecord_canon ((State.seeHead_canon _ _ _).mpr hv) _ _) _ h
  have hu : u.Canon := (State.updCtl_canon _ _ _).mpr ht
  split
  · exact h.next
  · exact State.Canon.next (foldl_canon (fun v n hv => State.considerAt_canon hv _ _ _) _ hu)

@[simp] theorem State.dequeueRecord_canon {s : State} (h : s.Canon) (die : Bool) (n : BitVec 6) : (s.dequeueRecord die n).1.Canon := by
  have ht (pa r) : ((s.purge pa).acceptQueue r).1.Canon := State.acceptQueue_canon (State.purge_canon h pa) r
  unfold State.dequeueRecord
  extract_lets pa r
  split
  · next t bs bad hp => exact State.wakeAfter_canon (by simpa [hp] using ht pa r) _ _ _
  · next t a hp => simpa [hp] using ht pa r

@[simp] theorem execLaunchRecordDequeued_canon {s : State} (h : s.Canon) (die : Bool) : CanonAfter (execLaunchRecordDequeued die s) := by
  have hd (n f) : ((s.updLq die n f).dequeueRecord die n).1.Canon := State.dequeueRecord_canon ((State.updLq_canon _ _ _ _).mpr h) _ _
  unfold execLaunchRecordDequeued
  split
  · exact h.next
  · next n l _ =>
    extract_lets lid u
    have hu : (u.dequeueRecord die n).1.Canon := hd n _
    clear_value u
    refine CanonAfter.ite h.next ?_
    split
    · next t hp => exact State.Canon.next (by simpa [hp] using hu)
    · next t r hp =>
      have ht : t.Canon := by simpa [hp] using hu
      have hlid : (t.takeLid die).2.Canon := (State.takeLid_canon _ _).mpr ht
      refine CanonAfter.ite ?_ (by simp [hlid])
      cases lid with
      | none => simpa using hlid
      | some k => simpa using ht

@[simp] theorem State.startLaunch_canon {s : State} (h : s.Canon) (l : Launch) : (s.startLaunch l).Canon := by
  unfold State.startLaunch
  extract_lets cores keep s1 s2 s3
  have h2 : s2.Canon := by
    refine foldl_canon (fun t g ht => foldl_canon (fun u k hu => ?_) _ ?_) _ h
    · simp [hu]
    · simp [ht]
  simp [s3, h2]

@[simp] theorem execLaunchStart_canon {s : State} (h : s.Canon) : CanonAfter (execLaunchStart s) := by
  unfold execLaunchStart
  (repeat' split) <;> simp [h]

end Sys2Proof.Machine
end

section
/-! SUPPORT. The canonical form of storage is kept by packets, the fabric, links, the host and the firmware. -/

namespace Sys2Proof.Machine
set_option Elab.async false

/-! ### Stream -/

@[simp] theorem State.collectDigest_canon {s : State} (h : s.Canon) (key : Nat) : (s.collectDigest key).1.Canon := by
  refine foldl_fst_canon (fun t a ht => ?_) _ h
  dsimp only
  split
  · simp [ht]
  · exact ht

@[simp] theorem State.digestRead_canon {s : State} (h : s.Canon) (ps : List (Word64 × Place)) (acc : Nat) {k : State → Nat → Out}
    (hk : ∀ t n, t.Canon → CanonAfter (k t n)) : CanonAfter (s.digestRead ps acc k) := by
  induction ps generalizing s acc with
  | nil => exact hk s acc h
  | cons p t ih =>
    rw [State.digestRead]
    exact State.directRead_canon h _ _ _ fun u bs hu => ih hu _

@[simp] theorem execDigest_canon {s : State} (h : s.Canon) (o : OpSQ) : CanonAfter (execDigest o s) := by
  refine State.whenOn_canon h _ (CanonAfter.ite (by simp [h]) ?_)
  split
  · simp [h]
  · refine State.digestRead_canon ?_ _ _ fun t v ht => by simp [ht]
    exact (foldl_canon_iff (fun u p => u.notePage_canon _) _).mpr h

@[simp] theorem State.launchWith_canon {s : State} (h : s.Canon) (handle : Word64) (r : List Byte) :
    CanonAfter (s.launchWith handle r) := by
  simp only [State.launchWith]
  (repeat' split) <;> simp [h]

@[simp] theorem execLaunch_canon {s : State} (h : s.Canon) (o : OpSQ) : CanonAfter (execLaunch o s) := by
  refine State.whenOn_canon h _ (CanonAfter.ite (by simp [h]) ?_)
  split
  · simp [h]
  · refine unchecked_canon (State.gather_canon ?_ _ _ fun t r ht => State.launchWith_canon ht _ _)
    exact (foldl_canon_iff (fun u p => u.notePage_canon _) _).mpr h

@[simp] theorem execChwait_canon {s : State} (h : s.Canon) (o : OpS1) : CanonAfter (execChwait o s) := by
  unfold execChwait
  (repeat' split) <;> simp [h]

@[simp] theorem State.retireLaunch_canon (s : State) (l : Launch) : (s.retireLaunch l).Canon ↔ s.Canon := by
  simp [State.retireLaunch]

@[simp] theorem State.countChild_canon (s : State) (l : Launch) : (s.countChild l).Canon ↔ s.Canon := by
  unfold State.countChild
  (repeat' split) <;> simp

@[simp] theorem State.sendCompletion_canon (s : State) (l : Launch) : (s.sendCompletion l).Canon ↔ s.Canon := by
  simp [State.sendCompletion]

@[simp] theorem State.complete_canon {s : State} (h : s.Canon) (l : Launch) : (s.complete l).Canon := by
  unfold State.complete
  dsimp only
  (repeat' split) <;> simp [h]

@[simp] theorem execLaunchComplete_canon {s : State} (h : s.Canon) (die : Bool) (lid : BitVec 16) :
    CanonAfter (execLaunchComplete die lid s) := by
  unfold execLaunchComplete
  dsimp only
  (repeat' split) <;> simp [h]

@[simp] theorem execMeterUpdate_canon {s : State} (h : s.Canon) : CanonAfter (execMeterUpdate s) := by
  simp [execMeterUpdate, h]

@[simp] theorem State.meterRead_canon (s : State) (v : Nat) : (s.meterRead v).Canon ↔ s.Canon := by
  simp [State.meterRead]

@[simp] theorem execEmrd_canon {s : State} (h : s.Canon) (o : OpSQ) : CanonAfter (execEmrd o s) := by
  simp [execEmrd, h]

@[simp] theorem State.cancelRecord_canon {s : State} (h : s.Canon) (q : LaunchQueue) (r : QueuedRecord) : (s.cancelRecord q r).1.Canon := by
  have hd (f) : ((s.updLq q.die q.n f).dequeueRecord q.die q.n).1.Canon := State.dequeueRecord_canon ((State.updLq_canon _ _ _ _).mpr h) _ _
  unfold State.cancelRecord
  extract_lets lid l add
  split
  · exact h
  · split
    · next t hp => simpa [hp] using hd fun q => { q with head := none }
    · next t b hp =>
      have ht : t.Canon := by simpa [hp] using hd fun q => { q with head := none }
      split
      · exact ht
      · simp [ht]

@[simp] theorem State.result_canon {s : State} (h : s.Canon) (q : BitVec 6) (v : Nat) : CanonAfter (s.result q v) := by
  simp [State.result, h]

@[simp] theorem State.begun_canon (s : State) : s.begun.Canon ↔ s.Canon := Iff.rfl

/-- The outcome of choosing a launch leaves the storage in its one form. -/
def CanonSelected : Selected → Prop
  | .begun t | .done t _ => t.Canon
  | _ => True

@[simp] theorem State.preempt_canon {s : State} (h : s.Canon) (begun : Bool) (v : Nat) : CanonSelected (s.preempt begun v) := by
  unfold State.preempt
  (repeat' split) <;> simp [CanonSelected, h]

@[simp] theorem State.resume_canon {s : State} (h : s.Canon) (v : Nat) : CanonSelected (s.resume v) := by
  unfold State.resume
  (repeat' split) <;> simp [CanonSelected, h]

@[simp] theorem State.selected_canon {s : State} (h : s.Canon) (q : BitVec 6) {r : Selected} (hr : CanonSelected r) :
    CanonAfter (s.selected q r) := by
  cases r with
  | bad => simp [State.selected, h]
  | wait => simp [State.selected, h]
  | begun t => exact State.hold_canon ((State.begun_canon _).mpr hr)
  | done t v => exact State.result_canon (s := t) hr _ _

@[simp] theorem execPreempt_canon {s : State} (h : s.Canon) (o : OpSQ) : CanonAfter (execPreempt o s) :=
  State.whenOn_canon h _ (State.selected_canon h _ (State.preempt_canon h _ _))

@[simp] theorem execResume_canon {s : State} (h : s.Canon) (o : OpSQ) : CanonAfter (execResume o s) :=
  State.whenOn_canon h _ (State.selected_canon h _ (State.resume_canon h _))

theorem State.askSleep_canon {s t : State} (h : s.Canon) {die : Bool} {v : Nat} (ht : s.askSleep die v = some t) : t.Canon := by
  unfold State.askSleep at ht
  split at ht
  · cases ht
  · cases ht
    simpa using h

@[simp] theorem State.powerDown_canon {s : State} (h : s.Canon) (die : Bool) : (s.powerDown die).Canon := by
  unfold State.powerDown
  extract_lets half mine t u v
  have ht : t.Canon := (foldl_canon_iff (fun t l => t.chargeBack_canon _) _).mpr h
  have hu : u.Canon := by simp [u, ht]
  exact foldl_canon (fun w l hw => by simp [hw]) _ (State.canon_mk.mpr hu)

@[simp] theorem execSleepStateEntry_canon {s : State} (h : s.Canon) (die : Bool) : CanonAfter (execSleepStateEntry die s) := by
  unfold execSleepStateEntry
  dsimp only
  (repeat' split) <;> simp [h]

@[simp] theorem execWake_canon {s : State} (h : s.Canon) (die : Bool) : CanonAfter (execWake die s) := by
  simp [execWake, h]

/-! ### Fabric -/

@[simp] theorem State.grantPacket_canon (s : State) (p : Packet) : (s.grantPacket p).Canon ↔ s.Canon := by
  unfold State.grantPacket
  (repeat' split) <;> simp

@[simp] theorem State.grantReply_canon (s : State) (r : Reply) : (s.grantReply r).Canon ↔ s.Canon := by
  simp [State.grantReply]

@[simp] theorem State.grantTransit_canon (s : State) (x : Transit) : (s.grantTransit x).Canon ↔ s.Canon := by
  simp [State.grantTransit]

@[simp] theorem State.grant_canon (s : State) (b : Bid) : (s.grant b).Canon ↔ s.Canon := by
  unfold State.grant
  (repeat' split) <;> simp

@[simp] theorem State.grantReserved_canon (s : State) (ch : Nat) (p : ReservedPacket) : (s.grantReserved ch p).Canon ↔ s.Canon := Iff.rfl

@[simp] theorem execPipRevolution_canon {s : State} (h : s.Canon) (channel : Nat) : CanonAfter (execPipRevolution channel s) := by
  unfold execPipRevolution
  dsimp only
  (repeat' split) <;> simp [h]

@[simp] theorem State.reservedArrival_canon (s : State) (id : Nat) : (s.reservedArrival id).Canon ↔ s.Canon := by
  unfold State.reservedArrival
  (repeat' split) <;> simp

@[simp] theorem State.remoteDone_canon {s : State} (h : s.Canon) (r : Req) (data : List Byte) (bad : Bool) :
    (s.remoteDone r data bad).Canon := by
  unfold State.remoteDone
  dsimp only
  (repeat' split) <;> simp +contextual [h]

@[simp] theorem State.finishRemote_canon {s : State} (h : s.Canon) (m : Remote) (data : List Byte) (bad : Bool) :
    (s.finishRemote m data bad).Canon := by
  simp [State.finishRemote, h]

@[simp] theorem State.hostLeave_canon (s : State) : s.hostLeave.Canon ↔ s.Canon := by
  simp [State.hostLeave]

@[simp] theorem State.atPort_canon (s : State) (u : Nat) (t : Tag) : (s.atPort u t).Canon ↔ s.Canon := by
  unfold State.atPort
  (repeat' split) <;> simp

@[simp] theorem State.transitArrival_canon {s : State} (h : s.Canon) (id : Nat) : (s.transitArrival id).Canon := by
  unfold State.transitArrival
  dsimp only
  (repeat' split) <;> simp [h]

@[simp] theorem execPacketArrival_canon {s : State} (h : s.Canon) (id : Nat) : CanonAfter (execPacketArrival id s) := by
  unfold execPacketArrival
  (repeat' split) <;> simp [h]

@[simp] theorem execEndToEndAck_canon {s : State} (h : s.Canon) (id : Nat) : CanonAfter (execEndToEndAck id s) := by
  simp [execEndToEndAck, h]

@[simp] theorem State.overdueOther_canon (s : State) (id : Nat) : (s.overdueOther id).Canon ↔ s.Canon := by
  unfold State.overdueOther
  dsimp only
  (repeat' split) <;> simp

@[simp] theorem execPacketOverdue_canon {s : State} (h : s.Canon) (id : Nat) : CanonAfter (execPacketOverdue id s) := by
  unfold execPacketOverdue
  dsimp only
  (repeat' split) <;> simp [h]

@[simp] theorem State.linkRecord_canon (s : State) (site : Nat) (kind time : Word64) (flits : Nat) :
    (s.linkRecord site kind time flits).Canon ↔ s.Canon := by
  simp [State.linkRecord]

@[simp] theorem State.lostPacket_canon (s : State) (site : Nat) : (s.lostPacket site).Canon ↔ s.Canon := by
  simp [State.lostPacket]

@[simp] theorem State.lostWrite_canon (s : State) (a : Agent) : (s.lostWrite a).Canon ↔ s.Canon := by
  unfold State.lostWrite
  (repeat' split) <;> simp

@[simp] theorem State.lostReply_canon (s : State) (r : Req) (k : BitVec 7) (dest : LoadDest) :
    (s.lostReply r k dest).Canon ↔ s.Canon := Iff.rfl

@[simp] theorem State.lostReq_canon {s : State} (h : s.Canon) (r : Req) : (s.lostReq r).Canon := by
  unfold State.lostReq
  dsimp only
  (repeat' split) <;> simp +contextual [h]

@[simp] theorem State.lostAccepted_canon {s : State} (h : s.Canon) (p : Packet) : (s.lostAccepted p).Canon := by
  unfold State.lostAccepted
  (repeat' split) <;> simp [h]

@[simp] theorem State.correctFor_canon (s : State) (a : Agent) : (s.correctFor a).Canon ↔ s.Canon := by
  unfold State.correctFor
  (repeat' split) <;> simp

@[simp] theorem State.lostTransit_canon {s : State} (h : s.Canon) (x : Transit) : (s.lostTransit x).Canon := by
  unfold State.lostTransit
  dsimp only
  (repeat' split) <;> simp [h]

@[simp] theorem State.resendOther_canon {s : State} (h : s.Canon) (id : Nat) : (s.resendOther id).Canon := by
  unfold State.resendOther
  (repeat' split) <;> simp [h]

@[simp] theorem execResendTimeout_canon {s : State} (h : s.Canon) (id : Nat) : CanonAfter (execResendTimeout id s) := by
  unfold execResendTimeout
  (repeat' split) <;> simp [h]

@[simp] theorem execResetNoticeArrival_canon {s : State} (h : s.Canon) (cluster site : BitVec 5) :
    CanonAfter (execResetNoticeArrival cluster site s) := by
  simp +contextual [execResetNoticeArrival, h]

/-! ### Links -/

@[simp] theorem State.linkEvent_canon (s : State) (l : Link) (kind : Nat) (time : Word64) (flits : Nat) :
    (s.linkEvent l kind time flits).Canon ↔ s.Canon := by
  simp [State.linkEvent]

@[simp] theorem State.replacement_canon (s : State) (b : Nat) : (s.replacement b).Canon ↔ s.Canon := by
  simp [State.replacement]

@[simp] theorem State.replayFlits_canon (s : State) (inward : Bool) (n : BitVec 8) : (s.replayFlits inward n).Canon ↔ s.Canon := by
  simp [State.replayFlits]

@[simp] theorem State.lossRecords_canon (s : State) (l : Link) (flits : Nat) : (s.lossRecords l flits).Canon ↔ s.Canon := by
  simp [State.lossRecords]

@[simp] theorem State.failLink_canon (s : State) (l : Link) : (s.failLink l).Canon ↔ s.Canon := by
  simp [State.failLink]

@[simp] theorem execLightLost_canon {s : State} (h : s.Canon) (inward : Bool) (link : BitVec 8) (waves : BitVec 16) :
    CanonAfter (execLightLost inward link waves s) := by
  simp [execLightLost, h]

@[simp] theorem execRestripeDone_canon {s : State} (h : s.Canon) (inward : Bool) (link : BitVec 8) :
    CanonAfter (execRestripeDone inward link s) := by
  simp [execRestripeDone, h]

@[simp] theorem execLightRestored_canon {s : State} (h : s.Canon) (inward : Bool) (link : BitVec 8) (waves : BitVec 16) :
    CanonAfter (execLightRestored inward link waves s) := by
  simp [execLightRestored, h]

@[simp] theorem execLinkTrained_canon {s : State} (h : s.Canon) (inward : Bool) (link : BitVec 8) :
    CanonAfter (execLinkTrained inward link s) := by
  simp [execLinkTrained, h]

@[simp] theorem execQuadDarkTimeout_canon {s : State} (h : s.Canon) (inward : Bool) (link : BitVec 8) (quad : BitVec 2) :
    CanonAfter (execQuadDarkTimeout inward link quad s) := by
  simp [execQuadDarkTimeout, h]

@[simp] theorem execFlitReceived_canon {s : State} (h : s.Canon) (link : BitVec 8) (seq : Nat) (crcOk : Bool) :
    CanonAfter (execFlitReceived link seq crcOk s) := by
  simp [execFlitReceived, h]

@[simp] theorem execLinkReplay_canon {s : State} (h : s.Canon) (link : BitVec 8) : CanonAfter (execLinkReplay link s) := by
  simp [execLinkReplay, h]

@[simp] theorem execLinkAckReceived_canon {s : State} (h : s.Canon) (link : BitVec 8) (seq : Nat) :
    CanonAfter (execLinkAckReceived link seq s) := by
  simp [execLinkAckReceived, h]

@[simp] theorem State.answerBack_canon (s : State) (m : Remote) (site : Nat) (t : Tag) (data : List Byte) (bad : Bool) :
    (s.answerBack m site t data bad).Canon ↔ s.Canon := Iff.rfl

@[simp] theorem execRemoteAckReturn_canon {s : State} (h : s.Canon) (id : Nat) (data : List Byte) (poisoned : Bool) :
    CanonAfter (execRemoteAckReturn id data poisoned s) := by
  unfold execRemoteAckReturn
  (repeat' split) <;> simp [h]

@[simp] theorem execRemoteWaitTimeout_canon {s : State} (h : s.Canon) (id : Nat) : CanonAfter (execRemoteWaitTimeout id s) := by
  unfold execRemoteWaitTimeout
  (repeat' split) <;> simp [h]

@[simp] theorem execHostWindowCompletion_canon {s : State} (h : s.Canon) (id : Nat) (data : List Byte) (failed : Bool) :
    CanonAfter (execHostWindowCompletion id data failed s) := by
  unfold execHostWindowCompletion
  (repeat' split) <;> simp [h]

@[simp] theorem execRemoteAccessArrival_canon {s : State} (h : s.Canon) (link : BitVec 8) (kind : RemoteKind)
    (slack : BitVec 10) (offset : Nat) (data : List Byte) : CanonAfter (execRemoteAccessArrival link kind slack offset data s) := by
  simp [execRemoteAccessArrival, h]

@[simp] theorem execLinkst_canon {s : State} (h : s.Canon) (o : OpSQ) : CanonAfter (execLinkst o s) := by
  simp [execLinkst, h]

@[simp] theorem State.writeCtl_canon (s : State) (l : Link) (v : Word64) : (s.writeCtl l v).Canon ↔ s.Canon := by
  simp [State.writeCtl]

@[simp] theorem execLnkcfg_canon {s : State} (h : s.Canon) (o : OpSQ) : CanonAfter (execLnkcfg o s) := by
  simp [execLnkcfg, h]

@[simp] theorem execTalign_canon {s : State} (h : s.Canon) (o : OpSQ) : CanonAfter (execTalign o s) := by
  simp [execTalign, h]

@[simp] theorem State.alignTime_canon (s : State) (x : ℤ) : (s.alignTime x).Canon ↔ s.Canon := by
  simp [State.alignTime]

@[simp] theorem execTimestampExchange_canon {s : State} (h : s.Canon) (link : BitVec 8) (t1 t2 t3 t4 : Nat) :
    CanonAfter (execTimestampExchange link t1 t2 t3 t4 s) := by
  unfold execTimestampExchange
  (repeat' split) <;> simp [h]

/-! ### Host -/

@[simp] theorem State.toHost_canon (s : State) (bar off : Nat) (bs : List Byte) : (s.toHost bar off bs).Canon ↔ s.Canon := Iff.rfl

@[simp] theorem State.putStatusOf_canon (s : State) (n : BitVec 8) (v : Nat) : (s.putStatusOf n v).Canon ↔ s.Canon := Iff.rfl

@[simp] theorem execQueueWindowStagingWrite_canon {s : State} (h : s.Canon) (slot : BitVec 8) (offset : Nat) (data : List Byte) :
    CanonAfter (execQueueWindowStagingWrite slot offset data s) := by
  simp [execQueueWindowStagingWrite, h]

@[simp] theorem State.slotOp_canon {s : State} (h : s.Canon) (slot : BitVec 8) (cfg : Word64) (op : QOp) (elem : List Byte) :
    (s.slotOp slot cfg op elem).Canon := by
  unfold State.slotOp
  dsimp only
  (repeat' split) <;> simp [h]

@[simp] theorem State.startOp_canon {s : State} (h : s.Canon) (o : HostOp) : (s.startOp o).Canon := by
  simp [State.startOp, h]

@[simp] theorem State.startOps_canon {s : State} (h : s.Canon) : s.startOps.Canon := by
  simp +contextual [State.startOps, h]

@[simp] theorem State.hostTurn_canon {s : State} (h : s.Canon) : s.hostTurn.Canon := by
  simp [State.hostTurn, h]

@[simp] theorem State.hostOp_canon {s : State} (h : s.Canon) (slot : BitVec 8) (op : QOp) (elem : List Byte) :
    (s.hostOp slot op elem).Canon := by
  simp [State.hostOp, h]

@[simp] theorem execQueueWindowCommit_canon {s : State} (h : s.Canon) (slot : BitVec 8) : CanonAfter (execQueueWindowCommit slot s) := by
  simp [execQueueWindowCommit, h]

@[simp] theorem execQueueWindowDeqn_canon {s : State} (h : s.Canon) (slot : BitVec 8) : CanonAfter (execQueueWindowDeqn slot s) := by
  simp [execQueueWindowDeqn, h]

@[simp] theorem State.hostLines_canon {s : State} (h : s.Canon) (write : Bool) (fuel pa off : Nat) (data : List Byte) :
    (s.hostLines write fuel pa off data).Canon := by
  induction fuel generalizing s pa off data with
  | zero => exact h
  | succ fuel ih =>
    rw [State.hostLines]
    dsimp only
    split
    · simpa using h
    · exact ih (by simpa using h) _ _ _

@[simp] theorem State.bar4_canon {s : State} (h : s.Canon) (write : Bool) (off : Nat) (data : List Byte) :
    (s.bar4 write off data).Canon := by
  simp [State.bar4, h]

@[simp] theorem execHostMemoryAccess_canon {s : State} (h : s.Canon) (bar : BitVec 3) (write : Bool) (offset : Nat) (data : List Byte) :
    CanonAfter (execHostMemoryAccess bar write offset data s) := by
  unfold execHostMemoryAccess
  (repeat' split) <;> simp [h]

@[simp] theorem State.startFirmware_canon (s : State) (pa : Nat) : (s.startFirmware pa).Canon ↔ s.Canon := Iff.rfl

@[simp] theorem State.boot_canon {s : State} (h : s.Canon) (i : BootImage) : (s.boot i).Canon := by
  simp [State.boot, h]

@[simp] theorem execBootImageLoad_canon {s : State} (h : s.Canon) (image : BootImage) : CanonAfter (execBootImageLoad image s) := by
  simp [execBootImageLoad, h]

@[simp] theorem execBootFlashTimeout_canon {s : State} (h : s.Canon) (image : BootImage) : CanonAfter (execBootFlashTimeout image s) := by
  simp [execBootFlashTimeout, h]

@[simp] theorem execAttestationCommand_canon {s : State} (h : s.Canon) (nonce : List Byte) :
    CanonAfter (execAttestationCommand nonce s) := by
  simp [execAttestationCommand, h]

@[simp] theorem execCorrectedError_canon {s : State} (h : s.Canon) (reader : Option (BitVec 7)) :
    CanonAfter (execCorrectedError reader s) := by
  unfold execCorrectedError
  (repeat' split) <;> simp [h]

@[simp] theorem State.dumped_canon {s : State} (h : s.Canon) (cause : BitVec 8) : (s.dumped cause).Canon :=
  foldl_canon (fun _ _ ht => State.deviceWrite_canon ht _ _ _ _) _ (State.canon_mk.mpr h)

@[simp] theorem State.fatal_canon {s : State} (h : s.Canon) (cause : BitVec 8) : (s.fatal cause).Canon := by
  obtain ⟨v, hf⟩ := s.fatal_eq cause
  rw [hf]
  simp [h]

@[simp] theorem execFatalError_canon {s : State} (h : s.Canon) (cause : BitVec 8) : CanonAfter (execFatalError cause s) := by
  simp [execFatalError, h]

@[simp] theorem execCoreOrSliceRetired_canon {s : State} (h : s.Canon) (slice : Bool) (number : BitVec 7) :
    CanonAfter (execCoreOrSliceRetired slice number s) := by
  simp [execCoreOrSliceRetired, h]

@[simp] theorem State.afterReset_canon (s : State) : s.afterReset.Canon := ⟨rfl, rfl⟩

@[simp] theorem execDeviceReset_canon {s : State} (h : s.Canon) : CanonAfter (execDeviceReset s) := by
  simp [execDeviceReset, h]

@[simp] theorem execFunctionLevelReset_canon {s : State} (_ : s.Canon) : CanonAfter (execFunctionLevelReset s) := by
  simp [execFunctionLevelReset]

/-! ### Firmware -/

@[simp] theorem State.setCpu_canon (s : State) (die : Bool) (c : CoreState) (begun : Bool) : (s.setCpu die c begun).Canon ↔ s.Canon := by
  simp [State.setCpu]

@[simp] theorem State.cpuTrap_canon {s : State} (h : s.Canon) (die : Bool) (c : CoreState) (t : DTrap) : (s.cpuTrap die c t).Canon := by
  simp [State.cpuTrap, h]

@[simp] theorem execSleep_canon {s : State} (h : s.Canon) (o : OpS1) : CanonAfter (execSleep o s) := by
  unfold execSleep
  dsimp only
  split
  · exact h.next
  · split
    · next t ht => exact (State.askSleep_canon h ht).next
    · simp [h]

@[simp] theorem State.cpuAt_canon {s : State} (h : s.Canon) (r : Except AccFault Place) (a : Word64) (k : AccKind) {go : Nat → Out}
    (hgo : ∀ n, CanonAfter (go n)) : CanonAfter (s.cpuAt r a k go) := by
  unfold State.cpuAt
  split <;> simp [h, hgo]

@[simp] theorem State.cpuWrite_canon {s : State} (h : s.Canon) (die : Bool) (a : Word64) (loc : Nat) (bs : List Byte) :
    (s.cpuWrite die a loc bs).Canon := by
  simp [State.cpuWrite, h]

@[simp] theorem State.cpuAtom_canon {s : State} (h : s.Canon) (a : Word64) (n : Nat) (far : Bool) (e : ElemOp) (v cmp : Word64) (d : BitVec 6) (ty : BitVec 3) :
    CanonAfter (s.cpuAtom a n far e v cmp d ty) := by
  refine State.cpuAt_canon h _ _ _ fun loc => CanonAfter.ite ?_ ?_
  · exact State.farWait_canon h _ _ _ _ _ fun t bs ht => by simp [ht]
  · exact State.directRead_canon h _ _ _ fun t bs ht => by simp [ht]

theorem State.cpuMemory_canon {s : State} (h : s.Canon) {die : Bool} {i : Instr} {o : Out} (ho : s.cpuMemory die i = some o) :
    CanonAfter o := by
  unfold State.cpuMemory at ho
  split at ho <;> cases ho
  · exact State.whenOn_canon h _ (State.cpuAt_canon h _ _ _ fun _ => State.directRead_canon h _ _ _ fun t bs ht => by simp [ht])
  · exact State.whenOn_canon h _ (State.cpuAt_canon h _ _ _ fun _ => State.directRead_canon h _ _ _ fun t bs ht => by simp [ht])
  · exact State.whenOn_canon h _ (State.cpuAt_canon h _ _ _ fun _ => (State.cpuWrite_canon h _ _ _ _).next)
  · exact State.whenOn_canon h _ (State.cpuAt_canon h _ _ _ fun _ => (State.cpuWrite_canon h _ _ _ _).next)
  · exact State.whenOn_canon h _ (State.cpuAtom_canon h _ _ _ _ _ _ _ _)
  · exact State.whenOn_canon h _ (State.cpuAtom_canon h _ _ _ _ _ _ _ _)
  · exact State.whenOn_canon h _ (State.cpuAtom_canon h _ _ _ _ _ _ _ _)
  · exact h.next
  · exact h.next
  · exact h.next

/-- What a controller's instruction comes to leaves the storage in its one form. -/
def CanonEnd : CpuEnd → Prop
  | .wait t | .done t _ => t.Canon

@[simp] theorem canonEnd_wait {t : State} : CanonEnd (.wait t) ↔ t.Canon := Iff.rfl

@[simp] theorem canonEnd_done {t : State} {c : CoreState} : CanonEnd (.done t c) ↔ t.Canon := Iff.rfl

@[simp] theorem canonEnd_ite {p : Prop} [Decidable p] {a b : CpuEnd} :
    CanonEnd (if p then a else b) ↔ if p then CanonEnd a else CanonEnd b := by
  split <;> rfl

@[simp] theorem cpuOnly_canon {s : State} (h : s.Canon) (o : Out) : CanonEnd (cpuOnly s o) := by
  unfold cpuOnly
  (repeat' split) <;> exact h

@[simp] theorem cpuWait_canon {t : State} (h : t.Canon) (s : State) (die : Bool) : CanonEnd (cpuWait s t die) :=
  (State.updCtl_canon _ _ _).mpr (State.canon_mk.mpr h)

@[simp] theorem cpuAll_canon {s : State} (h : s.Canon) (die : Bool) {o : Out} (ho : CanonAfter o) : CanonEnd (cpuAll s die o) := by
  unfold cpuAll
  split
  · next t =>
    have ht : t.Canon := canonAfter_next.mp ho
    split
    · exact cpuWait_canon ht _ _
    · exact State.canon_mk.mpr ht
  · exact h

theorem State.cpuAnswered_canon {s : State} (h : s.Canon) (die : Bool) (ps : List (Word64 × Place)) (bs : List Byte) :
    (ps.zipIdx.foldl (fun w x => w.cpuWrite die x.1.1 x.1.2.loc ((bs.drop (8 * x.2)).take 8)) s).Canon :=
  foldl_canon (fun _ _ hw => State.cpuWrite_canon hw _ _ _ _) _ h

theorem State.cpuQueue_canon {s : State} (h : s.Canon) {t : State} (ht : t.Canon) (die : Bool) (op : QOp) (p q : BitVec 6) (k : BitVec 3) :
    CanonEnd (s.cpuQueue t die op p q k) := by
  unfold State.cpuQueue
  extract_lets -underBinder handle v code hk bk trap
  have htrap (f k a) : CanonEnd (trap f k a) := cpuOnly_canon h _
  clear_value trap
  split
  · exact htrap _ _ _
  · next b _ =>
    split
    · exact htrap _ _ _
    · split
      · exact htrap _ _ _
      · next ps _ =>
        split
        · exact htrap _ _ _
        · extract_lets -underBinder ask
          have hask (u : State) (hu : u.Canon) (elem : List Byte) : CanonEnd (ask u elem) := by
            have hu' : ({ u with core := s.core } : State).Canon := hu
            unfold ask
            generalize ({ u with core := s.core } : State) = u' at hu' ⊢
            split
            next n w hf =>
            have hw : w.Canon := by simpa [hf] using (State.fresh_canon u').mpr hu'
            extract_lets -underBinder r
            have hv := State.acceptQueue_canon (State.purge_canon hw b.loc) r
            split
            next v a hp =>
            rw [hp] at hv
            replace hv : v.Canon := hv
            split
            · exact h
            · exact cpuOnly_canon hv _
            · exact hv
            · exact hv
            · extract_lets w'
              have hw' : w'.Canon := by
                unfold w'
                split
                iterate 4 exact State.wakeAfter_canon hv _ _ _
                exact hv
              clear_value w'
              split
              · exact cpuOnly_canon hw' _
              · split
                · exact hw'
                · split
                  · exact hw'
                  · exact State.cpuAnswered_canon hw' _ _ _
          clear_value ask
          split
          · exact hask t ht _
          · split
            · exact hask t ht _
            · have hg := State.gather_canon ht ps [] (k := fun u bs => .next (u.upd fun c => { c with cur := { c.cur with oldMem := [(0, bs)] } }))
                (fun u bs hu => State.Canon.next ((State.upd_canon _).mpr hu))
              split
              · next u hgu =>
                rw [hgu, canonAfter_next] at hg
                split
                · exact cpuWait_canon hg _ _
                · split
                  · exact hask u hg _
                  · exact cpuOnly_canon h _
              · exact h

@[simp] theorem cpuCopy_canon {s : State} (h : s.Canon) (t : State) {o : Out} (ho : CanonAfter o) : CanonEnd (cpuCopy s t o) := by
  unfold cpuCopy
  split
  · next u =>
    split
    · exact cpuOnly_canon h _
    · next p _ =>
      dsimp only
      split
      · exact cpuOnly_canon h _
      · have hp : (u.copied p).Canon := State.copied_canon (canonAfter_next.mp ho) p
        split
        · exact h
        · exact h
        · exact h
        · exact State.canon_mk.mpr hp
  · exact h

@[simp] theorem cpuSelected_canon {s : State} (h : s.Canon) (t : State) (q : BitVec 6) (die : Bool) {r : Selected} (hr : CanonSelected r) :
    CanonEnd (cpuSelected s t q die r) := by
  cases r with
  | bad | wait => simp [cpuSelected, h]
  | begun u | done u v => simpa [cpuSelected, CanonSelected] using hr

theorem State.cpuExec_canon {run : Instr → State → Out} (hrun : ∀ i t, t.Canon → CanonAfter (run i t)) {s : State} (h : s.Canon) (die : Bool)
    (c : CoreState) (b : Bundle) (e : Entry) : CanonEnd (s.cpuExec run die c b e) := by
  unfold State.cpuExec
  extract_lets t none'
  have ht : t.Canon := State.canon_mk.mpr h
  have hnone : CanonEnd none' := h
  clear_value t none'
  split
  · split
    · exact cpuSelected_canon h _ _ _ (State.preempt_canon h _ _)
    · exact hnone
  · split
    · exact cpuSelected_canon h _ _ _ (State.resume_canon h _)
    · exact hnone
  · split
    · split
      · exact cpuOnly_canon h _
      · next u hu => exact State.askSleep_canon h hu
    · exact hnone
  · (repeat' split) <;> simp [h, hnone]
  · simp [h]
  · split
    · exact h
    · exact hnone
  · exact cpuAll_canon h _ (hrun _ _ ht)
  · exact cpuAll_canon h _ (hrun _ _ ht)
  · exact cpuAll_canon h _ (hrun _ _ ht)
  · split
    · exact hnone
    · split
      · next o ho => exact cpuAll_canon h _ (State.cpuMemory_canon ht ho)
      · split
        · split
          · exact State.cpuQueue_canon h ht _ _ _ _ _
          · exact hnone
        · split
          · exact cpuCopy_canon h _ (hrun _ _ ht)
          · exact cpuOnly_canon h _

theorem State.cpuEntries_canon {run : Instr → State → Out} (hrun : ∀ i t, t.Canon → CanonAfter (run i t)) {s0 s : State} (h0 : s0.Canon)
    (h : s.Canon) (die : Bool) (c : CoreState) (ks : List Nat) : (State.cpuEntries run s0 s die c ks).Canon := by
  induction ks generalizing s0 s c with
  | nil => exact (State.setCpu_canon _ _ _ _).mpr h
  | cons k ks ih =>
    rw [State.cpuEntries]
    split
    · exact (State.setCpu_canon _ _ _ _).mpr h
    · next b _ =>
      split
      · exact ih h h0 _
      · next e _ =>
        have he := State.cpuExec_canon hrun h die c b e
        split
        · next u hu =>
          have hu : u.Canon := by simpa [hu] using he
          exact State.Canon.ite hu h0
        · next u d hu =>
          have hu : u.Canon := by simpa [hu] using he
          exact State.Canon.ite (State.fatal_canon hu _) (ih hu h0 _)

theorem State.cpuStep_canon {run : Instr → State → Out} (hrun : ∀ i t, t.Canon → CanonAfter (run i t)) {s : State} (h : s.Canon) (die : Bool) :
    (s.cpuStep run die).Canon := by
  unfold State.cpuStep
  dsimp only
  split
  · exact h
  · split
    · exact State.cpuTrap_canon h _ _ _
    · exact State.cpuEntries_canon hrun h h _ _ _

theorem State.firmware_canon {run : Instr → State → Out} (hrun : ∀ i t, t.Canon → CanonAfter (run i t)) {s : State} (h : s.Canon) :
    (s.firmware run).Canon :=
  State.cpuStep_canon hrun (State.cpuStep_canon hrun h _) _

end Sys2Proof.Machine
end

section
/-! SUPPORT. The canonical form of storage is kept by dispatch, the schedule and the step. -/

namespace Sys2Proof.Machine
set_option Elab.async false

/-! ### Dispatch -/

@[simp] theorem exec_canon {s : State} (h : s.Canon) (i : Instr) : CanonAfter (exec i s) := by
  cases i with
  | nop => exact execNop_canon h
  | add o => exact execAdd_canon h _
  | sub o => exact execSub_canon h _
  | mul o => exact execMul_canon h _
  | mulh o => exact execMulh_canon h _
  | mulhu o => exact execMulhu_canon h _
  | div o => exact execDiv_canon h _
  | divu o => exact execDivu_canon h _
  | rem o => exact execRem_canon h _
  | remu o => exact execRemu_canon h _
  | and o => exact execAnd_canon h _
  | or o => exact execOr_canon h _
  | xor o => exact execXor_canon h _
  | shl o => exact execShl_canon h _
  | shr o => exact execShr_canon h _
  | sar o => exact execSar_canon h _
  | rotr o => exact execRotr_canon h _
  | addS32 o => exact execAddS32_canon h _
  | subS32 o => exact execSubS32_canon h _
  | mulS32 o => exact execMulS32_canon h _
  | mulhS32 o => exact execMulhS32_canon h _
  | mulhuS32 o => exact execMulhuS32_canon h _
  | divS32 o => exact execDivS32_canon h _
  | divuS32 o => exact execDivuS32_canon h _
  | remS32 o => exact execRemS32_canon h _
  | remuS32 o => exact execRemuS32_canon h _
  | andS32 o => exact execAndS32_canon h _
  | orS32 o => exact execOrS32_canon h _
  | xorS32 o => exact execXorS32_canon h _
  | shlS32 o => exact execShlS32_canon h _
  | shrS32 o => exact execShrS32_canon h _
  | sarS32 o => exact execSarS32_canon h _
  | rotrS32 o => exact execRotrS32_canon h _
  | min o => exact execMin_canon h _
  | minu o => exact execMinu_canon h _
  | max o => exact execMax_canon h _
  | maxu o => exact execMaxu_canon h _
  | clz o => exact execClz_canon h _
  | ctz o => exact execCtz_canon h _
  | popc o => exact execPopc_canon h _
  | bswap o => exact execBswap_canon h _
  | andn o => exact execAndn_canon h _
  | orn o => exact execOrn_canon h _
  | cmp o => exact execCmp_canon h _
  | cmpi o => exact execCmpi_canon h _
  | gand o => exact execGand_canon h _
  | gor o => exact execGor_canon h _
  | gxor o => exact execGxor_canon h _
  | gandn o => exact execGandn_canon h _
  | gset o => exact execGset_canon h _
  | gget o => exact execGget_canon h _
  | sel o => exact execSel_canon h _
  | addi o => exact execAddi_canon h _
  | andi o => exact execAndi_canon h _
  | ori o => exact execOri_canon h _
  | xori o => exact execXori_canon h _
  | shli o => exact execShli_canon h _
  | shri o => exact execShri_canon h _
  | sari o => exact execSari_canon h _
  | muli o => exact execMuli_canon h _
  | movi o => exact execMovi_canon h _
  | movh o => exact execMovh_canon h _
  | ld o => exact execLd_canon h _
  | st o => exact execSt_canon h _
  | ldacq o => exact execLdacq_canon h _
  | strel o => exact execStrel_canon h _
  | atom64 o => exact execAtom64_canon h _
  | atom32 o => exact execAtom32_canon h _
  | atomn o => exact execAtomn_canon h _
  | qinit o => exact execQinit_canon h _
  | enq o => exact execEnq_canon h _
  | deq o => exact execDeq_canon h _
  | enqn o => exact execEnqn_canon h _
  | deqn o => exact execDeqn_canon h _
  | qpeek o => exact execQpeek_canon h _
  | qstat o => exact execQstat_canon h _
  | qclose o => exact execQclose_canon h _
  | rwopen o => exact execRwopen_canon h _
  | rwclose o => exact execRwclose_canon h _
  | fence o => exact execFence_canon h _
  | fwait o => exact execFwait_canon h _
  | drain o => exact execDrain_canon h _
  | join o => exact execJoin_canon h _
  | xset o => exact execXset_canon h _
  | xadd o => exact execXadd_canon h _
  | view o => exact execView_canon h _
  | shw o => exact execShw_canon h _
  | slk o => exact execSlk_canon h _
  | mfc o => exact execMfc_canon h _
  | mtc o => exact execMtc_canon h _
  | br o => exact execBr_canon h _
  | jmp o => exact execJmp_canon h _
  | jmpi o => exact execJmpi_canon h _
  | call o => exact execCall_canon h _
  | ret o => exact execRet_canon h _
  | loop o => exact execLoop_canon h _
  | lnsetBound o => exact execLnsetBound_canon h _
  | lnsetBind o => exact execLnsetBind_canon h _
  | lnsetClear o => exact execLnsetClear_canon h _
  | loopn o => exact execLoopn_canon h _
  | rpt o => exact execRpt_canon h _
  | margin o => exact execMargin_canon h _
  | segOpen o => exact execSegOpen_canon h _
  | segClose o => exact execSegClose_canon h _
  | cont o => exact execCont_canon h _
  | endcont o => exact execEndcont_canon h _
  | trap o => exact execTrap_canon h _
  | tret o => exact execTret_canon h _
  | halt o => exact execHalt_canon h _
  | yield o => exact execYield_canon h _
  | waitev o => exact execWaitev_canon h _
  | gate o => exact execGate_canon h _
  | ctxsv o => exact execCtxsv_canon h _
  | ctxld o => exact execCtxld_canon h _
  | bwait o => exact execBwait_canon h _
  | wmwait o => exact execWmwait_canon h _
  | wmwaitAll o => exact execWmwaitAll_canon h _
  | launch o => exact execLaunch_canon h _
  | chwait o => exact execChwait_canon h _
  | preempt o => exact execPreempt_canon h _
  | resume o => exact execResume_canon h _
  | emrd o => exact execEmrd_canon h _
  | digest o => exact execDigest_canon h _
  | sleep o => exact execSleep_canon h _
  | linkst o => exact execLinkst_canon h _
  | lnkcfg o => exact execLnkcfg_canon h _
  | talign o => exact execTalign_canon h _
  | vadd o => exact execVadd_canon h _
  | vsub o => exact execVsub_canon h _
  | vmul o => exact execVmul_canon h _
  | vfma o => exact execVfma_canon h _
  | vmin o => exact execVmin_canon h _
  | vmax o => exact execVmax_canon h _
  | vabs o => exact execVabs_canon h _
  | vneg o => exact execVneg_canon h _
  | vdiv o => exact execVdiv_canon h _
  | vsqrt o => exact execVsqrt_canon h _
  | vrcp o => exact execVrcp_canon h _
  | vrsq o => exact execVrsq_canon h _
  | vexp2 o => exact execVexp2_canon h _
  | vlog2 o => exact execVlog2_canon h _
  | vcmp o => exact execVcmp_canon h _
  | vsel o => exact execVsel_canon h _
  | vand o => exact execVand_canon h _
  | vor o => exact execVor_canon h _
  | vxor o => exact execVxor_canon h _
  | vnot o => exact execVnot_canon h _
  | vshl o => exact execVshl_canon h _
  | vshr o => exact execVshr_canon h _
  | vsar o => exact execVsar_canon h _
  | vcvt o => exact execVcvt_canon h _
  | vpack o => exact execVpack_canon h _
  | vunpk o => exact execVunpk_canon h _
  | vperm o => exact execVperm_canon h _
  | vbcstLane o => exact execVbcstLane_canon h _
  | vbcstScalar o => exact execVbcstScalar_canon h _
  | vred o => exact execVred_canon h _
  | vcadd o => exact execVcadd_canon h _
  | vcacc o => exact execVcacc_canon h _
  | vfade o => exact execVfade_canon h _
  | vqdeq o => exact execVqdeq_canon h _
  | xmov o => exact execXmov_canon h _
  | vmov o => exact execVmov_canon h _
  | cupseed o => exact execCupseed_canon h _
  | cupstat o => exact execCupstat_canon h _
  | vld o => exact execVld_canon h _
  | vst o => exact execVst_canon h _
  | vgth o => exact execVgth_canon h _
  | vsct o => exact execVsct_canon h _
  | vatom o => exact execVatom_canon h _
  | mbld o => exact execMbld_canon h _
  | mbsw o => exact execMbsw_canon h _
  | mma o => exact execMma_canon h _
  | mmaz o => exact execMmaz_canon h _
  | mscl o => exact execMscl_canon h _
  | macc o => exact execMacc_canon h _
  | mzero o => exact execMzero_canon h _
  | mout o => exact execMout_canon h _
  | mtap o => exact execMtap_canon h _
  | lcfgSet o => exact execLcfgSet_canon h _
  | lcfgLoad o => exact execLcfgLoad_canon h _
  | lcfgSave o => exact execLcfgSave_canon h _
  | lcfgClear o => exact execLcfgClear_canon h _
  | lscan o => exact execLscan_canon h _
  | lscanc o => exact execLscanc_canon h _
  | lgate o => exact execLgate_canon h _
  | lmat o => exact execLmat_canon h _
  | cpy o => exact execCpy_canon h _
  | cpyh o => exact execCpyh_canon h _
  | cpym o => exact execCpym_canon h _
  | cpyr o => exact execCpyr_canon h _
  | cpyg o => exact execCpyg_canon h _
  | cpyd o => exact execCpyd_canon h _
  | wmark o => exact execWmark_canon h _
  | binit o => exact execBinit_canon h _
  | arrive o => exact execArrive_canon h _
  | badd o => exact execBadd_canon h _
  | frld o => exact execFrld_canon h _
  | frst o => exact execFrst_canon h _
  | frsw o => exact execFrsw_canon h _
  | snap o => exact execSnap_canon h _
  | fork o => exact execFork_canon h _
  | rback o => exact execRback_canon h _
  | frel o => exact execFrel_canon h _
  | hpapp o => exact execHpapp_canon h _
  | hpmap o => exact execHpmap_canon h _
  | frstat o => exact execFrstat_canon h _
  | bundleDispatch => exact execBundleDispatch_canon h
  | fetchMissFill => exact execFetchMissFill_canon h
  | trapEntry => exact execTrapEntry_canon h
  | wholeCoreStall => exact execWholeCoreStall_canon h
  | watchdogExpiry => exact execWatchdogExpiry_canon h
  | timerEvent => exact execTimerEvent_canon h
  | loadReplyArrival => exact execLoadReplyArrival_canon h
  | cupGenerate => exact execCupGenerate_canon h
  | engineWakeDone engine => exact execEngineWakeDone_canon h _
  | copyCompletion unit index => exact execCopyCompletion_canon h _ _
  | mOperationDone => exact execMOperationDone_canon h
  | nOperationDone => exact execNOperationDone_canon h
  | frameOperationDone => exact execFrameOperationDone_canon h
  | lookaheadPeek => exact execLookaheadPeek_canon h
  | lookaheadLoadDone => exact execLookaheadLoadDone_canon h
  | queueRequest => exact execQueueRequest_canon h
  | withdrawalNotice => exact execWithdrawalNotice_canon h
  | backgroundHeadRead die queue => exact execBackgroundHeadRead_canon h _ _
  | sliceReadRequest => exact execSliceReadRequest_canon h
  | sliceWriteRequest => exact execSliceWriteRequest_canon h
  | sliceAtomicRequest => exact execSliceAtomicRequest_canon h
  | missFill line => exact execMissFill_canon h _
  | tileDecodeDone region tile => exact execTileDecodeDone_canon h _ _
  | lineEviction line => exact execLineEviction_canon h _
  | heldUpdateArrival => exact execHeldUpdateArrival_canon h
  | windowOpenAtSlice slice => exact execWindowOpenAtSlice_canon h _
  | windowCloseAtSlice slice => exact execWindowCloseAtSlice_canon h _
  | packetOverdue id => exact execPacketOverdue_canon h _
  | pipRevolution channel => exact execPipRevolution_canon h _
  | packetArrival id => exact execPacketArrival_canon h _
  | endToEndAck id => exact execEndToEndAck_canon h _
  | resendTimeout id => exact execResendTimeout_canon h _
  | resetNoticeArrival cluster site => exact execResetNoticeArrival_canon h _ _
  | flitReceived link seq crcOk => exact execFlitReceived_canon h _ _ _
  | linkReplay link => exact execLinkReplay_canon h _
  | lightLost inward link waves => exact execLightLost_canon h _ _ _
  | restripeDone inward link => exact execRestripeDone_canon h _ _
  | lightRestored inward link waves => exact execLightRestored_canon h _ _ _
  | linkTrained inward link => exact execLinkTrained_canon h _ _
  | remoteAccessArrival link kind slack offset data => exact execRemoteAccessArrival_canon h _ _ _ _ _
  | remoteAckReturn id data poisoned => exact execRemoteAckReturn_canon h _ _ _
  | remoteWaitTimeout id => exact execRemoteWaitTimeout_canon h _
  | quadDarkTimeout inward link quad => exact execQuadDarkTimeout_canon h _ _ _
  | placementDecision die => exact execPlacementDecision_canon h _
  | launchRecordDequeued die => exact execLaunchRecordDequeued_canon h _
  | launchStart => exact execLaunchStart_canon h
  | preemption core => exact execPreemption_canon h _
  | launchComplete die lid => exact execLaunchComplete_canon h _ _
  | meterUpdate => exact execMeterUpdate_canon h
  | sleepStateEntry die => exact execSleepStateEntry_canon h _
  | wake die => exact execWake_canon h _
  | hostMemoryAccess bar write offset data => exact execHostMemoryAccess_canon h _ _ _ _
  | hostWindowCompletion id data failed => exact execHostWindowCompletion_canon h _ _ _
  | queueWindowStagingWrite slot offset data => exact execQueueWindowStagingWrite_canon h _ _ _
  | queueWindowCommit slot => exact execQueueWindowCommit_canon h _
  | queueWindowDeqn slot => exact execQueueWindowDeqn_canon h _
  | doorbellWrite value => exact execDoorbellWrite_canon h _
  | hrstWrite value => exact execHrstWrite_canon h _
  | formatRegionWrite number value => exact execFormatRegionWrite_canon h _ _
  | tbinvWrite value => exact execTbinvWrite_canon h _
  | frameRegisterWrite number value => exact execFrameRegisterWrite_canon h _ _
  | sliceRegisterWrite number value => exact execSliceRegisterWrite_canon h _ _
  | controllerRegisterWrite number value => exact execControllerRegisterWrite_canon h _ _
  | vectorStatusAccess number value => exact execVectorStatusAccess_canon h _ _
  | matrixStatusAccess number value => exact execMatrixStatusAccess_canon h _ _
  | ladderStatusAccess number value => exact execLadderStatusAccess_canon h _ _
  | evpendClear value => exact execEvpendClear_canon h _
  | frlqWrite value => exact execFrlqWrite_canon h _
  | registerWrite number value => exact execRegisterWrite_canon h _ _
  | correctedError reader => exact execCorrectedError_canon h _
  | fatalError cause => exact execFatalError_canon h _
  | deviceReset => exact execDeviceReset_canon h
  | functionLevelReset => exact execFunctionLevelReset_canon h
  | bootImageLoad image => exact execBootImageLoad_canon h _
  | bootFlashTimeout image => exact execBootFlashTimeout_canon h _
  | attestationCommand nonce => exact execAttestationCommand_canon h _
  | linkAckReceived link seq => exact execLinkAckReceived_canon h _ _
  | timestampExchange link t1 t2 t3 t4 => exact execTimestampExchange_canon h _ _ _ _ _
  | coreOrSliceRetired slice number => exact execCoreOrSliceRetired_canon h _ _
  | releasedRequestReturn => exact execReleasedRequestReturn_canon h

/-! ### Schedule -/

@[simp] theorem State.retryAll_canon (s : State) : s.retryAll.Canon ↔ s.Canon := Iff.rfl

@[simp] theorem State.rotate_canon (s : State) : s.rotate.Canon ↔ s.Canon := by
  unfold State.rotate
  (repeat' split) <;> simp

@[simp] theorem State.passTime_canon (s : State) : s.passTime.Canon ↔ s.Canon := by
  unfold State.passTime
  (repeat' split) <;> simp

/-! ### Step -/

@[simp] theorem issueEntry_canon {s : State} (h : s.Canon) (b : Bundle) (e : Entry) : CanonAfter (issueEntry s b e) := by
  have he := exec_canon (s := s.upd fun c => c.begin b e) h e.instr
  unfold issueEntry
  split
  · next t ht =>
    rw [ht, canonAfter_next] at he
    exact State.Canon.next ((State.upd_canon _).mpr he)
  · exact he

@[simp] theorem dispatchStep_canon {s : State} (h : s.Canon) : CanonAfter (dispatchStep s) := by
  have hd := exec_canon h .bundleDispatch
  unfold dispatchStep
  split
  · next t ht =>
    rw [ht] at hd
    refine CanonAfter.ite hd ?_
    split
    · exact issueEntry_canon (canonAfter_next.mp hd) _ _
    · exact hd
  · exact hd

theorem syncHeld_canon {s : State} (h : s.Canon) {b : Bundle} {es : List Entry} {o : Out} (ho : syncHeld s b es = some o) :
    CanonAfter o := by
  induction es with
  | nil => cases ho
  | cons e t ih =>
    have he := issueEntry_canon h b e
    rw [syncHeld] at ho
    split at ho
    · next u hu =>
      split at ho
      · cases ho
        simpa [hu] using he
      · exact ih ho
    · cases ho
      exact he

@[simp] theorem issueAll_canon {s : State} (h : s.Canon) (seq n : Nat) : CanonAfter (issueAll s seq n) := by
  induction n generalizing s with
  | zero => exact State.Canon.next h
  | succ n ih =>
    rw [issueAll]
    split
    · exact h.next
    · next b _ =>
      split
      · exact State.Canon.next h
      · next e _ =>
        have he := issueEntry_canon h b e
        split
        · next t ht =>
          rw [ht, canonAfter_next] at he
          exact ih he
        · exact he

theorem issueStep_canon {s : State} (h : s.Canon) {o : Out} (ho : issueStep s = some o) : CanonAfter o := by
  obtain ⟨p, -, rfl⟩ := Option.map_eq_some_iff.mp ho
  split
  · split
    · next u hu => exact syncHeld_canon h hu
    · exact issueAll_canon h _ _
  · exact issueEntry_canon h _ _

@[simp] theorem probe_canon {s : State} (h : s.Canon) : (probe s).Canon := by
  refine foldl_canon (fun t b ht => foldl_canon (fun u e hu => ?_) _ ht) _ h
  have he := issueEntry_canon hu b e
  split
  · exact hu
  · split
    · next v hv =>
      split
      · simpa [hv] using he
      · exact hu
    · exact hu

@[simp] theorem startCycle_canon {s : State} (h : s.Canon) : (startCycle s).Canon := State.Canon.ite (probe_canon h) h

theorem checkEntry_canon {s : State} (h : s.Canon) {b : Bundle} {e : Entry} {o : Out} (ho : checkEntry s b e = some o) : CanonAfter o := by
  have hissue : CanonAfter (issueEntry (s.upd (·.ungated)) b e) := issueEntry_canon (s := s.upd (·.ungated)) h b e
  unfold checkEntry at ho
  extract_lets mark begun at ho
  have hmark {f : Entry → Entry} {o : Out} (ho : mark f = some o) : CanonAfter o := by
    cases ho
    exact State.Canon.next h
  have he := exec_canon (s := begun) h e.instr
  split at ho
  · split at ho
    · split at ho
      · split at ho
        · cases ho
        · exact hmark ho
      · exact hmark ho
    · split at ho
      · exact hmark ho
      · split at ho
        · split at ho
          · cases ho
            exact issueEntry_canon h b e
          · cases ho
        · cases ho
          split
          · next t ht =>
            rw [ht, canonAfter_next] at hissue
            exact State.Canon.next ((State.upd_canon _).mpr hissue)
          · exact hissue
  · cases ho
    exact he

theorem checkStep_canon {s : State} (h : s.Canon) {o : Out} (ho : checkStep s = some o) : CanonAfter o := by
  obtain ⟨p, -, hp⟩ := List.exists_of_findSome?_eq_some ho
  exact checkEntry_canon h hp

@[simp] theorem settle_canon {s : State} (h : s.Canon) (n : Nat) : (settle s n).Canon := by
  induction n generalizing s with
  | zero => exact h
  | succ n ih =>
    rw [settle]
    split
    · next t ht => exact ih (canonAfter_next.mp (issueStep_canon h ht))
    · exact h
    · split
      · have ht : (startCycle s.endCycle).Canon := startCycle_canon ((State.endCycle_canon s).mpr h)
        exact State.Canon.ite ht (ih ht)
      · split
        · next t ht => exact ih (canonAfter_next.mp (checkStep_canon h ht))
        · exact h

@[simp] theorem settleGang_canon {s : State} (h : s.Canon) (k : BitVec 7) : (settleGang k s).Canon := by
  unfold settleGang
  refine (State.focus_canon _ _).mpr (foldl_canon (fun t k ht => ?_) _ h)
  simp [ht]

/-- What an event outside the slots leaves, before held entries may be tried again and the host takes its turn. -/
theorem eventRun_canon {s : State} (h : s.Canon) (i : Instr) :
    CanonAfter (match exec i s with | .next t => .next t.retryAll.hostTurn | o => o) := by
  have hi := exec_canon h i
  split
  · next t ht =>
    rw [ht, canonAfter_next] at hi
    simp [hi]
  · exact hi

@[simp] theorem eventStep_canon {s : State} (h : s.Canon) (i : Instr) : CanonAfter (eventStep i s) := by
  unfold eventStep
  dsimp only
  split
  · exact dispatchStep_canon (by simp [h])
  · exact eventRun_canon (settleGang_canon h _) _
  · exact eventRun_canon h _

@[simp] theorem backgroundStep_canon {s : State} (h : s.Canon) : CanonAfter (backgroundStep s) := by
  have hf := State.firmware_canon (fun i _ ht => exec_canon ht i) h
  unfold backgroundStep
  dsimp only
  split
  · simp [hf]
  · next i _ =>
    have hi := eventStep_canon (s := { s.firmware exec with picks := (s.firmware exec).picks + 1 }) hf i
    split
    · next t ht =>
      rw [ht, canonAfter_next] at hi
      simp [hi]
    · exact hi

@[simp] theorem dispatchAndIssue_canon {s : State} (h : s.Canon) : CanonAfter (dispatchAndIssue s) := by
  have hd := dispatchStep_canon h
  unfold dispatchAndIssue
  split
  · next t ht =>
    rw [ht] at hd
    refine CanonAfter.ite hd ?_
    cases hi : issueStep t with
    | none => exact hd
    | some o => exact issueStep_canon (canonAfter_next.mp hd) hi
  · exact hd

@[simp] theorem cycleStep_canon {s : State} (h : s.Canon) : CanonAfter (cycleStep s) := by
  have hidle {t : State} (ht : t.Canon) : CanonAfter ((issueStep t).getD (backgroundStep t.endCycle)) := by
    have hb : CanonAfter (backgroundStep t.endCycle) := backgroundStep_canon ((State.endCycle_canon _).mpr ht)
    cases hi : issueStep t with
    | none =>
      rw [Option.getD_none]
      exact hb
    | some o =>
      rw [Option.getD_some]
      exact issueStep_canon ht hi
  unfold cycleStep
  split
  · next o ho => exact checkStep_canon h ho
  · extract_lets t idle
    have ht : t.Canon := startCycle_canon h
    have hstall := exec_canon ht .wholeCoreStall
    have hdispatch := dispatchAndIssue_canon ht
    split
    · split
      · next u hu =>
        rw [hu, canonAfter_next] at hstall
        exact backgroundStep_canon hstall
      · exact hstall
    · split
      · split
        · exact hidle ht
        · split
          · next u hu =>
            rw [hu] at hdispatch
            exact CanonAfter.ite (hidle ht) hdispatch
          · exact hdispatch
      · exact hidle ht

@[simp] theorem coreStep_canon {s : State} (h : s.Canon) : CanonAfter (coreStep s) := by
  unfold coreStep
  (repeat' split)
  · exact exec_canon h _
  · exact backgroundStep_canon h
  · exact exec_canon h _
  · exact cycleStep_canon h
  · cases hi : issueStep s with
    | none => exact cycleStep_canon ((State.endCycle_canon _).mpr h)
    | some o => exact issueStep_canon h hi

theorem step_canon {s : State} (h : s.Canon) : CanonAfter (step s) := by
  unfold step
  split
  · next i rest _ =>
    refine CanonAfter.ite (eventStep_canon (s := { s with agenda := rest, tick := s.tick + 1 }) h i) ?_
    exact State.Canon.next h
  · extract_lets t
    have ht : t.Canon := (State.passTime_canon _).mpr h
    exact CanonAfter.ite (backgroundStep_canon ht) (coreStep_canon ht)

end Sys2Proof.Machine
end

section
/-! The statements on the invariant. -/

open Sys2Proof Sys2Proof.Machine

/-- Settles O59: the memory and the poison marks of reset are empty tables. -/
theorem resetMeetsInvariant : Obligations.ResetMeetsInvariant := by
  unfold Obligations.ResetMeetsInvariant
  exact ⟨reset_mem_wf, rfl⟩

/-- Settles O60: whatever a step runs ends in the writes of storage, and these keep its one form. -/
theorem invariantKept : Obligations.InvariantKept := by
  unfold Obligations.InvariantKept
  intro s t h ht
  exact State.canon_iff_inv.mp (step_canon (State.canon_iff_inv.mpr h) t ht)
end

section
/-! SUPPORT. What the service of a request leaves undisturbed: the scalar registers and the pc of every core, and storage. -/

namespace Sys2Proof.Machine

set_option Elab.async false

/-- The scalar registers of a core and its pc. -/
def CoreState.scalarView (c : CoreState) : Cells 64 × BitVec 48 := (c.s, c.pc)

/-- The same of the core that is found by its number among those whose turn it is not. -/
def State.parkedView (s : State) (k : BitVec 7) : Option (Cells 64 × BitVec 48) := (s.parked.find? (·.id == k)).map (·.scalarView)

/-- Every core stands with its scalar registers and its pc, and storage with its bytes. -/
structure Undisturbed (s t : State) : Prop where
  mem : t.mem = s.mem
  id : t.core.id = s.core.id
  scalars : t.core.scalarView = s.core.scalarView
  parked : ∀ k, t.parkedView k = s.parkedView k

/-- Poison, launches and replies stand too. -/
structure Unmoved (s t : State) : Prop extends Undisturbed s t where
  poison : t.poison = s.poison
  launches : t.launches = s.launches
  replies : t.replies = s.replies

section
variable {s t u : State}

theorem Undisturbed.refl (s : State) : Undisturbed s s := ⟨rfl, rfl, rfl, fun _ => rfl⟩

theorem Undisturbed.trans (h : Undisturbed s t) (h' : Undisturbed t u) : Undisturbed s u :=
  ⟨h'.mem.trans h.mem, h'.id.trans h.id, h'.scalars.trans h.scalars, fun k => (h'.parked k).trans (h.parked k)⟩

theorem Unmoved.refl (s : State) : Unmoved s s := ⟨.refl s, rfl, rfl, rfl⟩

theorem Unmoved.trans (h : Unmoved s t) (h' : Unmoved t u) : Unmoved s u :=
  ⟨h.toUndisturbed.trans h'.toUndisturbed, h'.poison.trans h.poison, h'.launches.trans h.launches, h'.replies.trans h.replies⟩

theorem Undisturbed.of_eq (hm : t.mem = s.mem) (hc : t.core = s.core) (hp : t.parked = s.parked) : Undisturbed s t :=
  ⟨hm, by rw [hc], by rw [hc], fun k => by rw [State.parkedView, hp, State.parkedView]⟩

theorem Accounts.undisturbed {R : Launch → Launch → Prop} (h : Accounts R s t) : Undisturbed s t := by
  obtain ⟨_, _, _, _, _, rfl⟩ := h
  exact .of_eq rfl rfl rfl

/-- A change of the core's own that keeps its number, its scalar registers and its pc. -/
theorem State.upd_unmoved (s : State) {f : CoreState → CoreState} (hid : (f s.core).id = s.core.id)
    (hs : (f s.core).scalarView = s.core.scalarView) : Unmoved s (s.upd f) :=
  ⟨⟨rfl, hid, hs, fun _ => rfl⟩, rfl, rfl, rfl⟩

theorem State.updCore_unmoved (s : State) (id : BitVec 7) {f : CoreState → CoreState} (hid : ∀ c, (f c).id = c.id)
    (hs : ∀ c, (f c).scalarView = c.scalarView) : Unmoved s (s.updCore id f) := by
  unfold State.updCore
  split
  · exact s.upd_unmoved (hid _) (hs _)
  · refine ⟨⟨rfl, rfl, rfl, fun k => ?_⟩, rfl, rfl, rfl⟩
    have hpred : ((fun c : CoreState => c.id == k) ∘ fun c => if (c.id == id) = true then f c else c) = fun c => c.id == k := by
      funext c
      by_cases hc : c.id = id <;> simp [hc, hid]
    simp only [State.parkedView, List.find?_map, hpred, Option.map_map]
    congr 1
    funext c
    by_cases hc : c.id = id <;> simp [hc, hs]

variable (s)

theorem State.crPut_unmoved (id : BitVec 7) (n : Nat) (f : CoreState → Word64) : Unmoved s (s.updCore id fun c => c.crPut n (f c)) :=
  s.updCore_unmoved id (fun _ => rfl) fun _ => rfl

theorem State.note_unmoved (id : BitVec 7) (seq loc n : Nat) : Unmoved s (s.note id seq loc n) :=
  s.updCore_unmoved id (fun _ => rfl) fun _ => rfl

theorem State.l1Drop_unmoved (id : BitVec 7) (pa : Nat) : Unmoved s (s.l1Drop id pa) :=
  ⟨.of_eq rfl rfl rfl, rfl, rfl, rfl⟩

theorem State.sendCoreEvent_unmoved (c : CoreState) (bits : Nat) : Unmoved s (s.sendCoreEvent c bits) := by
  unfold State.sendCoreEvent State.sendLaunch
  split
  · exact .refl s
  · obtain ⟨_, _, _, h, -⟩ := s.sendRecord_eq (c.crGet 0x0C2) (s.rootOf c) (s.coreSlack c) 1 (bitsOf (c.crGet 0x0C0) 0 16) c.id.toNat
      (dieOf c.id) (leBytes 8 bits ++ word (c.crGet 0x009) ++ word (c.crGet 0x00A))
    rw [h]
    exact ⟨.of_eq rfl rfl rfl, rfl, rfl, rfl⟩

theorem State.setEvent_unmoved (id : BitVec 7) (bit : Nat) : Unmoved s (s.setEvent id bit) := by
  have hset := s.crPut_unmoved id 0x042 fun c => c.crGet 0x042 ||| BitVec.ofNat 64 (2 ^ bit)
  unfold State.setEvent
  dsimp only
  split
  · exact hset.trans (State.sendCoreEvent_unmoved ..)
  · exact hset

theorem State.countOverdue_unmoved (a : Agent) (old new : Tag) : Unmoved s (s.countOverdue a old new) := by
  unfold State.countOverdue
  split
  · split
    · exact (s.crPut_unmoved _ 0x00A _).trans (State.setEvent_unmoved _ _ 1)
    · exact .refl s
  · exact .refl s

theorem State.leaves_unmoved (r : Req) : Unmoved s (s.leaves r) := by
  have hgone : Unmoved s { s with reqs := s.reqs.filter fun q => q.uid != r.uid, missing := s.missing.filter (· != r.uid) } :=
    ⟨.of_eq rfl rfl rfl, rfl, rfl, rfl⟩
  exact hgone.trans (State.countOverdue_unmoved ..)

theorem State.dispatch_undisturbed (src ch pass : Nat) (t : Tag) (what : Moved) : Undisturbed s (s.dispatch src ch pass t what) :=
  .of_eq rfl rfl rfl

theorem State.chargeFor_undisturbed (r : Req) (kind n : Nat) : Undisturbed s (s.chargeFor r kind n) := by
  unfold State.chargeFor
  split
  · exact (s.charge_accounts _ kind n).undisturbed
  · exact .refl s

theorem State.sendOut_undisturbed (n : BitVec 8) (w : Waiting) : Undisturbed s (s.sendOut n w) := by
  have hsent (k : Nat) : Undisturbed s (s.setLink { s.link false n with sent := k }) := .of_eq rfl rfl rfl
  unfold State.sendOut
  dsimp only
  split
  · split
    · exact .refl s
    · exact .of_eq rfl rfl rfl
  · split
    · exact .refl s
    · refine Undisturbed.trans (t := State.countOverdue _ _ _ _) ?_ (.of_eq rfl rfl rfl)
      exact ((hsent _).trans (State.chargeFor_undisturbed ..)).trans (State.countOverdue_unmoved ..).toUndisturbed

theorem State.transmit_undisturbed (n : BitVec 8) : Undisturbed s (s.transmit n) := by
  unfold State.transmit
  dsimp only
  split
  · exact List.foldlRecOn (s.transmitQueue n) _ (.refl s) fun t ht w _ => ht.trans (t.sendOut_undisturbed n w)
  · exact .refl s

theorem State.assignAnswer_undisturbed (a : PeerAnswer) : Undisturbed s (s.assignAnswer a) := by
  have hout (f : PeerAnswer → PeerAnswer) : Undisturbed s (s.updPeerOut a.uid f) := .of_eq rfl rfl rfl
  unfold State.assignAnswer
  dsimp only
  split
  · exact .refl s
  · split
    · split
      · exact (hout _).trans (State.transmit_undisturbed ..)
      · exact (hout _).trans (State.dispatch_undisturbed ..)
    · exact (hout _).trans (State.dispatch_undisturbed ..)

theorem State.answerPeer_undisturbed (n : BitVec 8) (off : Nat) (site : Option Nat) (data : List Byte) (bad : Bool) (t : Tag) :
    Undisturbed s (s.answerPeer n off site data bad t) := by
  have hout (ps : List PeerAnswer) : Undisturbed s { s.fresh.2 with peerOut := ps } := .of_eq rfl rfl rfl
  exact (hout _).trans (State.assignAnswer_undisturbed ..)

/-! ### A segment of a copy that has landed -/

/-- Marking units changes the watermark and its marks alone. -/
theorem CoreState.markUnits_eq (c : CoreState) (ch dsp : Nat) (rest : List Seg) (g : Seg) :
    ∃ cr marks, c.markUnits ch dsp rest g = { c with cr := cr, marks := marks } := by
  generalize hd : c.markUnits ch dsp rest g = d
  unfold CoreState.markUnits at hd
  extract_lets at hd
  split at hd
  extract_lets at hd
  split at hd
  · exact ⟨_, _, hd.symm⟩
  · exact ⟨_, _, hd.symm⟩

theorem State.markUnits_unmoved (ch dsp : Nat) (rest : List Seg) (g : Seg) : Unmoved s (s.upd (·.markUnits ch dsp rest g)) := by
  obtain ⟨_, _, h⟩ := s.core.markUnits_eq ch dsp rest g
  exact s.upd_unmoved (by rw [h]) (by rw [h]; rfl)

theorem State.countBytes_undisturbed (o : EngineOp) (g : Seg) : Undisturbed s (s.countBytes o g) := by
  unfold State.countBytes
  refine List.foldlRecOn g.dsts _ (.refl s) fun t ht d _ => ?_
  split
  · exact ht.trans (t.updCore_unmoved _ (f := (·.addBar _ _)) (fun _ => rfl) fun _ => rfl).toUndisturbed
  · exact ht

theorem State.setSegs_undisturbed (o : EngineOp) (segs : List Seg) : Undisturbed s (s.setSegs o segs) := ⟨rfl, rfl, rfl, fun _ => rfl⟩

theorem State.segDone_undisturbed (o : EngineOp) (j : Nat) (g : Seg) : Undisturbed s (s.segDone o j g) := by
  unfold State.segDone
  extract_lets rest s' t
  have hmark : Undisturbed s s' := by
    unfold s'
    split
    · exact (s.markUnits_unmoved ..).toUndisturbed
    · exact .refl s
  have ht : Undisturbed s t := ((hmark.trans (s'.charge_accounts _ _ _).undisturbed).trans (State.countBytes_undisturbed ..)).trans
    (State.upd_unmoved _ rfl rfl).toUndisturbed
  clear_value t rest
  split
  · exact (ht.trans (State.upd_unmoved _ rfl rfl).toUndisturbed).trans (State.charge_accounts ..).undisturbed
  · exact ht.trans (State.setSegs_undisturbed ..)

theorem State.segReply_undisturbed (uid : Nat) (bs : List Byte) (bad : Bool) : Undisturbed s (s.segReply uid false bs bad) := by
  unfold State.segReply
  dsimp only
  split
  · exact .refl s
  · split
    · exact .refl s
    · exact s.segDone_undisturbed _ _ _

/-- What the turn of another core leaves undisturbed, it leaves so in the end. -/
theorem State.asCore_keeps {f : State → State} (hf : ∀ u, Undisturbed u (f u)) (k : BitVec 7) :
    (s.asCore k f).mem = s.mem ∧ (s.asCore k f).core.scalarView = s.core.scalarView := by
  have hself (hfocus : s.focus k = s) : (s.asCore k f).mem = s.mem ∧ (s.asCore k f).core.scalarView = s.core.scalarView := by
    have hback : (f s).focus s.core.id = f s := if_pos (hf s).id
    rw [State.asCore, hfocus, hback]
    exact ⟨(hf s).mem, (hf s).scalars⟩
  by_cases hk : s.core.id = k
  · exact hself (if_pos hk)
  cases hc : s.parked.find? (·.id == k) with
  | none => exact hself (by simp [State.focus, hk, hc])
  | some c =>
    have hck : c.id = k := by simpa using List.find?_some hc
    have hfocus : s.focus k = { s with core := c, parked := s.core :: s.parked.filter (·.id != k) } := by simp [State.focus, hk, hc]
    obtain ⟨hmem, hid, -, hparked⟩ := hf (s.focus k)
    specialize hparked s.core.id
    rw [hfocus] at hmem hid hparked
    have hfirst : State.parkedView { s with core := c, parked := s.core :: s.parked.filter (·.id != k) } s.core.id
        = some s.core.scalarView := by simp [State.parkedView]
    obtain ⟨d, hd, hview⟩ := Option.map_eq_some_iff.mp (hparked.trans hfirst)
    have hne : ¬(f { s with core := c, parked := s.core :: s.parked.filter (·.id != k) }).core.id = s.core.id := by
      rw [hid]
      exact fun h => hk (h.symm.trans hck)
    rw [State.asCore, hfocus, State.focus, if_neg hne, hd]
    exact ⟨hmem, hview⟩

end
end Sys2Proof.Machine
end

section
/-! SUPPORT. What the slices do with what they grant (R119, R136, R142, R362, R363). -/

namespace Sys2Proof.Machine

set_option Elab.async false

variable {s : State}

/-! ### The grant -/

theorem mem_of_mem_heirs {α : Type} {key : α → List Nat} {bound : α → α → Bool} {l : List α} {x : List Nat × α}
    (h : x ∈ heirs key bound l) : x.2 ∈ l := by
  induction l with
  | nil => cases h
  | cons a l ih =>
    cases h with
    | head => exact List.mem_cons_self
    | tail _ h => exact List.mem_cons_of_mem a (ih h)

/-- R391, R392: what contends is here, could go, and passes what it passes. -/
theorem State.mem_contenders {x : List Nat × Req} (h : x ∈ s.contenders) : x.2 ∈ s.reqs ∧ s.mayGo x.2 = true ∧ s.mayPass x.2 = true := by
  obtain ⟨hmem, hgo⟩ := List.mem_filter.mp h
  exact ⟨mem_of_mem_heirs hmem, Bool.and_eq_true_iff.mp hgo⟩

theorem State.grants_bids {which : Req → Bool} {r : Req} (h : s.grants which = some r) :
    ∃ k, (k, r) ∈ s.contenders ∧ which r = true ∧ (s.missing.contains r.uid = false → ∀ y ∈ s.contenders, s.point y.2 = s.point r →
      s.missing.contains y.2.uid = false → keyLess y.1 k = false) := by
  obtain ⟨⟨k, _⟩, hfind, rfl⟩ := Option.map_eq_some_iff.mp h
  have hp := List.find?_some hfind
  obtain ⟨hwhich, hleast⟩ := Bool.and_eq_true_iff.mp hp
  refine ⟨k, List.mem_of_find?_eq_some hfind, hwhich, fun hmiss y hy hpoint hymiss => ?_⟩
  rw [hmiss, Bool.false_or, List.all_eq_true] at hleast
  simpa only [hymiss, hpoint, bne_self_eq_false, Bool.or_false, Bool.not_eq_true'] using hleast y hy

theorem State.grants_spec {which : Req → Bool} {r : Req} (h : s.grants which = some r) :
    r ∈ s.reqs ∧ which r = true ∧ s.mayGo r = true ∧ s.mayPass r = true
      ∧ (s.missing.contains r.uid = false → ∃ k, (k, r) ∈ s.contenders ∧ ∀ y ∈ s.contenders, s.point y.2 = s.point r →
        s.missing.contains y.2.uid = false → keyLess y.1 k = false) := by
  obtain ⟨k, hmem, hwhich, hleast⟩ := State.grants_bids h
  obtain ⟨hr, hgo, hpass⟩ := State.mem_contenders hmem
  exact ⟨hr, hwhich, hgo, hpass, fun hmiss => ⟨k, hmem, hleast hmiss⟩⟩

/-! ### Reads -/

theorem State.l1Room_eq (own : BitVec 7) (line : Nat) : ∃ l1 tick, s.l1Room own line = { s with l1 := l1, tick := tick } := by
  unfold State.l1Room
  dsimp only
  split
  · exact ⟨s.l1, s.tick, rfl⟩
  · exact ⟨_, _, rfl⟩

/-- R134: a fill of L1 changes no byte and no reply. -/
theorem State.fillL1_stands (id : BitVec 7) (parts : List Part) : (s.fillL1 id parts).mem = s.mem ∧ (s.fillL1 id parts).replies = s.replies := by
  unfold State.fillL1
  refine List.foldlRecOn parts _ (motive := fun t : State => t.mem = s.mem ∧ t.replies = s.replies) ⟨rfl, rfl⟩ fun t ht p _ => ?_
  dsimp only
  split
  · obtain ⟨_, _, h⟩ := t.l1Room_eq ((s.coreAt id).l1Owner p.loc) (p.loc / 64 / 4)
    rw [h]
    exact ht
  · exact ht

/-- R142: a reply joins those on their way. -/
theorem State.replyTo_replies (r : Req) (k : BitVec 7) (d : LoadDest) (parts : List Part) (bad : Bool) (src site : Nat) :
    ∃ x, (s.replyTo r k d parts bad src site).replies = s.replies ++ [x] ∧ x.core = k ∧ x.dest = d ∧ x.poisoned = bad ∧ x.uid = r.uid
      ∧ x.parts = parts := ⟨_, rfl, rfl, rfl, rfl, rfl, rfl⟩

/-- R142: a load of a core whose bytes are there and good performs: it answers with them. -/
theorem State.performLoad_good {r : Req} {k : BitVec 7} (d : LoadDest) (hk : r.agent = .core k) (hgood : r.parts.any s.loadBad = false) :
    (s.performLoad r d).mem = s.mem ∧ ∃ x, (s.performLoad r d).replies = s.replies ++ [x] ∧ x.core = k ∧ x.dest = d ∧ x.poisoned = false
      ∧ x.uid = r.uid ∧ x.parts = r.parts.map s.loadPart := by
  have hleft := s.leaves_unmoved r
  have hreply : ((s.replyLoad r d (r.parts.map s.loadPart) false).mem = s.mem
      ∧ ∃ x, (s.replyLoad r d (r.parts.map s.loadPart) false).replies = s.replies ++ [x] ∧ x.core = k ∧ x.dest = d ∧ x.poisoned = false
        ∧ x.uid = r.uid ∧ x.parts = r.parts.map s.loadPart) := by
    simp only [State.replyLoad, hk]
    rw [← hleft.replies]
    exact ⟨hleft.mem, State.replyTo_replies ..⟩
  generalize ht : s.replyLoad r d (r.parts.map s.loadPart) false = t at hreply
  have hfill (ps : List Part) : (t.fillL1 k ps).mem = t.mem ∧ (t.fillL1 k ps).replies = t.replies := t.fillL1_stands k ps
  have hperform : s.performLoad r d = t ∨ ∃ ps, s.performLoad r d = t.fillL1 k ps := by
    unfold State.performLoad
    simp only [hgood, hk, ht, Bool.false_eq_true, if_false]
    cases d with
    | acq => exact .inl rfl
    | _ => exact .inr ⟨_, rfl⟩
  rcases hperform with h | ⟨ps, h⟩
  · rw [h]
    exact hreply
  · rw [h, (hfill ps).1, (hfill ps).2]
    exact hreply

/-! ### Writes -/

theorem State.guardDigest_of_undigested (hdg : ∀ l ∈ s.launches, l.dg = false) (t : State) (loc n : Nat) : s.guardDigest t loc n = t := by
  have hdigest : s.digesting = false := by simpa [State.digesting] using hdg
  simp [State.guardDigest, hdigest]

theorem State.digestNote_of_undigested (hdg : ∀ l ∈ s.launches, l.dg = false) (key pa n : Nat) : s.digestNote key pa n = s := by
  refine if_neg ?_
  simp only [Bool.and_eq_true, List.any_eq_true, not_and]
  rintro ⟨l, hl, -, hlg⟩
  rw [hdg l hl] at hlg
  cases hlg

/-- R136, R437: a write to raw memory while no digest is kept: its bytes. -/
theorem State.performWrite_undigested (hdg : ∀ l ∈ s.launches, l.dg = false) (key : Option Nat) {loc : Nat} (h : isRaw loc = true)
    (bs : List Byte) : ∃ ls, s.performWrite key loc bs = { (s.dropDecoded loc bs.length).write loc bs with lines := ls } := by
  obtain ⟨hphys, hdec⟩ := isPhys_of_isRaw h
  obtain ⟨ls, hm⟩ := ((s.dropDecoded loc bs.length).write loc bs).markBytes_eq key loc bs.length
  refine ⟨ls, hm ▸ ?_⟩
  simp only [State.performWrite, hphys, hdec, Bool.and_false, Bool.false_eq_true, if_false, if_true]
  cases key with
  | none => rfl
  | some k =>
    have hlaunches : (((s.dropDecoded loc bs.length).write loc bs).markBytes (some k) loc bs.length).launches = s.launches := by
      rw [hm]
      rfl
    dsimp only
    rw [s.guardDigest_of_undigested hdg, State.digestNote_of_undigested (hlaunches ▸ hdg)]

end Sys2Proof.Machine
end

section
/-! SUPPORT. Stores and atomics of one part that perform at a slice (R119, R136, R363). -/

namespace Sys2Proof.Machine

set_option Elab.async false

variable {s : State}

theorem isRaw_of_add {loc n : Nat} (h : isRaw (loc + n) = true) : isRaw loc = true := by
  simp only [isRaw, decide_eq_true_eq] at h ⊢
  omega

theorem getElem?_leBytes (n v k : Nat) (h : k < n) : (leBytes n v)[k]? = some (BitVec.ofNat 8 (v / 256 ^ k)) := by
  induction n generalizing v k with
  | zero => omega
  | succ n ih =>
    cases k with
    | zero => simp [leBytes]
    | succ k => rw [leBytes, List.getElem?_cons_succ, ih _ _ (by omega), Nat.div_div_eq_div_mul, pow_succ']

/-- The bytes of a number that is written. -/
theorem State.storesOnly_write (s : State) {t : State} {loc n v : Nat} (h : t.mem = (s.write loc (leBytes n v)).mem) : StoresOnly s t loc n v := by
  refine ⟨fun k hk => ?_, fun l hl => ?_⟩
  · rw [State.byte_of_mem h, State.byte_write, if_pos (by omega), Nat.add_sub_cancel_left, List.getD_eq_getElem?_getD,
      getElem?_leBytes n v k hk, Option.getD_some]
  · rw [State.byte_of_mem h, s.byte_write_outside loc (leBytes n v) (by simpa using hl)]

/-! ### Stores -/

/-- What the part of a store finds at its slice: the old bytes noted for its core, whose L1 a release leaves. -/
def State.storeMet (s : State) (r : Req) (p : Part) : State :=
  match r.agent with
  | .core k => let t := s.note k r.seq p.loc p.n; if r.release then t.l1Drop k p.loc else t
  | _ => s

theorem State.storeMet_unmoved (s : State) (r : Req) (p : Part) : Unmoved s (s.storeMet r p) := by
  unfold State.storeMet
  split
  · dsimp only
    split
    · exact (s.note_unmoved ..).trans (State.l1Drop_unmoved ..)
    · exact s.note_unmoved ..
  · exact .refl s

/-- A store of one part, before its sender is answered. -/
def State.storePart (s : State) (r : Req) (p : Part) : State :=
  let t := (s.leaves r).storeMet r p
  if p.data.isEmpty then t.setPoison p.loc p.n else t.performWrite (s.launchFor r) p.loc p.data

theorem State.performStore_eq {r : Req} {p : Part} (hp : r.parts = [p]) : s.performStore r
    = match r.agent with | .peer n => (s.storePart r p).answerPeer n r.va (some (siteOf r.loc)) [] false r.tag | _ => s.storePart r p := by
  unfold State.performStore
  rw [hp]
  rfl

/-- R119, R136: the bytes of a store's part are in place, and no core is disturbed. -/
theorem State.storePart_spec {r : Req} {p : Part} (hraw : isRaw (p.loc + p.data.length) = true) (hdg : ∀ l ∈ s.launches, l.dg = false) :
    (s.storePart r p).mem = (s.write p.loc p.data).mem ∧ (s.storePart r p).core.scalarView = s.core.scalarView := by
  have hmet : Unmoved s ((s.leaves r).storeMet r p) := (s.leaves_unmoved r).trans (State.storeMet_unmoved ..)
  unfold State.storePart
  generalize (s.leaves r).storeMet r p = t at hmet
  have hmem (bs : List Byte) : (t.write p.loc bs).mem = (s.write p.loc bs).mem := congrArg (Cells.putN 0#8 · p.loc bs) hmet.mem
  dsimp only
  split
  · next hempty =>
    rw [List.isEmpty_iff.mp hempty]
    exact ⟨hmem [], hmet.scalars⟩
  · obtain ⟨ls, hwrite⟩ := State.performWrite_undigested (hmet.launches ▸ hdg) (s.launchFor r) (isRaw_of_add hraw) p.data
    rw [hwrite]
    exact ⟨hmem p.data, hmet.scalars⟩

theorem State.performStore_spec {r : Req} {p : Part} (hp : r.parts = [p]) (hraw : isRaw (p.loc + p.data.length) = true)
    (hdg : ∀ l ∈ s.launches, l.dg = false) :
    (s.performStore r).mem = (s.write p.loc p.data).mem ∧ (s.performStore r).core.scalarView = s.core.scalarView := by
  obtain ⟨hmem, hview⟩ := State.storePart_spec (r := r) hraw hdg
  rw [State.performStore_eq hp]
  split
  · have hpeer := (s.storePart r p).answerPeer_undisturbed ‹_› r.va (some (siteOf r.loc)) [] false r.tag
    exact ⟨hpeer.mem.trans hmem, hpeer.scalars.trans hview⟩
  · exact ⟨hmem, hview⟩

/-- SLICE_WRITE_REQUEST, of a store that is granted and performs here. -/
theorem execSliceWriteRequest_local {r : Req} (hg : s.grants (·.kind == .store) = some r) (hr : r.remote = false) :
    exec .sliceWriteRequest s
      = .next (match r.agent with | .core k => (s.performStore r).asCore k (·.segReply r.uid false [] false) | _ => s.performStore r) := by
  show execSliceWriteRequest s = _
  rw [execSliceWriteRequest, hg]
  exact if_neg (ne_true_of_eq_false hr)

theorem execSliceWriteRequest_writes {r : Req} {p : Part} (hg : s.grants (·.kind == .store) = some r) (hr : r.remote = false)
    (hp : r.parts = [p]) (hraw : isRaw (p.loc + p.data.length) = true) (hdg : ∀ l ∈ s.launches, l.dg = false) :
    ∃ t, exec .sliceWriteRequest s = .next t ∧ t.mem = (s.write p.loc p.data).mem ∧ t.core.scalarView = s.core.scalarView := by
  obtain ⟨hmem, hview⟩ := State.performStore_spec hp hraw hdg
  rw [execSliceWriteRequest_local hg hr]
  refine ⟨_, rfl, ?_⟩
  split
  · next k _ =>
    obtain ⟨hmem', hview'⟩ := (s.performStore r).asCore_keeps (f := (·.segReply r.uid false [] false)) (fun u => u.segReply_undisturbed _ _ _) k
    exact ⟨hmem'.trans hmem, hview'.trans hview⟩
  · exact ⟨hmem, hview⟩

/-! ### Atomics -/

/-- R363: bytes without an error, at a slice. -/
theorem State.partBad_raw {p : Part} (hraw : isRaw p.loc = true) : s.partBad p = s.poisoned p.loc p.n := by
  simp [State.partBad, (isPhys_of_isRaw hraw).2]

theorem State.readPart_raw {p : Part} (hraw : isRaw p.loc = true) : s.readPart p = { p with data := s.bytes p.loc p.n } := by
  obtain ⟨hphys, hdec⟩ := isPhys_of_isRaw hraw
  simp [State.readPart, State.sliceBytes, hphys, hdec]

theorem State.chargeAtom_undisturbed (s : State) (key : Option Nat) : Undisturbed s (s.chargeAtom key) ∧ (s.chargeAtom key).replies = s.replies := by
  unfold State.chargeAtom
  split
  · exact ⟨(s.charge_accounts _ 9 1).undisturbed, (s.charge_accounts _ 9 1).replies⟩
  · exact ⟨.refl s, rfl⟩

/-- An atomic on bytes without an error, while no digest is kept: the number that its operation gives. -/
theorem State.applyElem_raw (hdg : ∀ l ∈ s.launches, l.dg = false) (key : Option Nat) (e : ElemOp) {loc n : Nat} (hraw : isRaw loc = true)
    (hgood : s.poisoned loc n = false) (v cmp : Nat) :
    (s.applyElem key e loc n v cmp).mem = (s.write loc (leBytes n (e.result n (s.num loc n) v cmp))).mem
      ∧ (s.applyElem key e loc n v cmp).replies = s.replies := by
  unfold State.applyElem
  rw [hgood]
  obtain ⟨ls, hwrite⟩ := State.performWrite_undigested hdg key hraw (leBytes n (e.result n (s.num loc n) v cmp))
  obtain ⟨hcharge, hreplies⟩ := State.chargeAtom_undisturbed (s.performWrite key loc (leBytes n (e.result n (s.num loc n) v cmp))) key
  rw [if_neg Bool.false_ne_true, hcharge.mem, hreplies, hwrite]
  exact ⟨rfl, rfl⟩

/-- R376: an atomic of a core on one part of raw memory: its result there, and the old bytes in its answer. -/
theorem State.performAtom_spec {r : Req} {p : Part} {k : BitVec 7} (e : ElemOp) (c : Word64) (d : LoadDest) (hk : r.agent = .core k)
    (hp : r.parts = [p]) (hraw : isRaw (p.loc + p.n) = true) (hgood : s.poisoned p.loc p.n = false) (hdg : ∀ l ∈ s.launches, l.dg = false) :
    StoresOnly s (s.performAtom r e c d) p.loc p.n (e.result p.n (s.num p.loc p.n) (leNat p.data) c.toNat)
      ∧ ∃ x, (s.performAtom r e c d).replies = s.replies ++ [x] ∧ x.core = k ∧ x.dest = d ∧ x.poisoned = false
        ∧ x.parts = [{ p with data := s.bytes p.loc p.n }] := by
  have hmet : Unmoved s (((s.leaves r).note k r.seq p.loc p.n).l1Drop k p.loc) :=
    ((s.leaves_unmoved r).trans (State.note_unmoved ..)).trans (State.l1Drop_unmoved ..)
  have hbad : s.partBad p = false := (State.partBad_raw (isRaw_of_add hraw)).trans hgood
  have hperform : s.performAtom r e c d = ((((s.leaves r).note k r.seq p.loc p.n).l1Drop k p.loc).applyElem (s.launchFor r) e p.loc p.n
      (leNat p.data) c.toNat).replyTo r k d [(((s.leaves r).note k r.seq p.loc p.n).l1Drop k p.loc).readPart p] false r.source (siteOf r.loc) := by
    unfold State.performAtom
    simp [hk, hp, hbad, Part.value]
  generalize ((s.leaves r).note k r.seq p.loc p.n).l1Drop k p.loc = t at hmet hperform
  have hnum : t.num p.loc p.n = s.num p.loc p.n := State.num_of_mem hmet.mem ..
  have hbytes : t.bytes p.loc p.n = s.bytes p.loc p.n := State.bytes_congr fun _ _ => State.byte_of_mem hmet.mem _
  have hstill : t.poisoned p.loc p.n = false := by
    rw [← hgood, State.poisoned, hmet.poison, State.poisoned]
  obtain ⟨hmem, hreplies⟩ := State.applyElem_raw (hmet.launches ▸ hdg) (s.launchFor r) e (isRaw_of_add hraw) hstill (leNat p.data) c.toNat
  rw [hperform, State.readPart_raw (isRaw_of_add hraw), hbytes]
  refine ⟨s.storesOnly_write ?_, ?_⟩
  · show (t.applyElem _ _ _ _ _ _).mem = _
    rw [hmem, hnum, State.write, State.write, hmet.mem]
  · rw [← hmet.replies, ← hreplies]
    obtain ⟨x, hx, hcore, hdest, hpoisoned, -, hparts⟩ := State.replyTo_replies (s := t.applyElem (s.launchFor r) e p.loc p.n (leNat p.data) c.toNat)
      r k d [{ p with data := s.bytes p.loc p.n }] false r.source (siteOf r.loc)
    exact ⟨x, hx, hcore, hdest, hpoisoned, hparts⟩

theorem execSliceAtomicRequest_local {r : Req} {e : ElemOp} {c : Word64} {d : LoadDest} (hg : s.grants s.isAtom = some r)
    (hr : r.remote = false) (hkind : r.kind = .atom e c d) : exec .sliceAtomicRequest s = .next (s.performAtom r e c d) := by
  show execSliceAtomicRequest s = _
  simp [execSliceAtomicRequest, hg, hr, hkind]

theorem execSliceReadRequest_local {r : Req} {d : LoadDest} (hg : s.grants (·.reads) = some r) (hr : r.remote = false)
    (hkind : r.kind = .load d) : exec .sliceReadRequest s = .next (s.performLoad r d) := by
  show execSliceReadRequest s = _
  simp [execSliceReadRequest, hg, hr, hkind]

end Sys2Proof.Machine
end

section
/-! SUPPORT. Fills, decodes and evictions (R119, R136, R362, R363). -/

namespace Sys2Proof.Machine

set_option Elab.async false

variable {s : State}

/-! ### Fills -/

theorem execMissFill_none {line : Nat} (h : line ∉ s.misses ∨ s.filling line = true) : exec (.missFill line) s = .next s := by
  show execMissFill line s = _
  refine if_pos ?_
  simpa using h

theorem State.chargeTraffic_accounts (s : State) (line n : Nat) : Accounts Launch.Billed s (s.chargeTraffic line n) := by
  unfold State.chargeTraffic
  split
  · split
    · exact s.charge_accounts _ 10 n
    · exact .refl .refl s
  · exact .refl .refl s

/-- R136, R362: a miss on a raw line fills it and gives its entry back. -/
theorem execMissFill_raw {line : Nat} (hmiss : line ∈ s.misses) (hfill : s.filling line = false) (hraw : isDecoded (line * 256) = false) :
    ∃ t, exec (.missFill line) s = .next t ∧ (∃ l ∈ t.lines, l.line = line ∧ l.fill = 0xF#4) ∧ line ∉ t.misses ∧ t.mem = s.mem
      ∧ t.core = s.core := by
  show ∃ t, execMissFill line s = .next t ∧ _
  obtain ⟨_, _, _, _, -, hcharge⟩ := State.chargeTraffic_accounts { s with misses := s.misses.filter (· != line) } line 4
  have hhere : s.misses.contains line = true := by simpa using hmiss
  simp only [execMissFill, hhere, hfill, hraw, hcharge, Bool.not_true, Bool.or_false, Bool.false_eq_true, if_false]
  split
  · next hline =>
    obtain ⟨l, hl, hll⟩ := List.any_eq_true.mp hline
    refine ⟨_, rfl, ⟨{ l with fill := 0xF#4 }, List.mem_map.mpr ⟨l, hl, if_pos (beq_iff_eq.mp hll)⟩, beq_iff_eq.mp hll, rfl⟩, ?_, rfl, rfl⟩
    simp
  · refine ⟨_, rfl, ⟨_, List.mem_cons_self, rfl, rfl⟩, ?_, rfl, rfl⟩
    simp

/-! ### Packets of the reserved class -/

/-- R362, R403: the packets of a list join those on their way, ungranted, each with its channel and its load. -/
theorem State.injectReserved_eq (s : State) (ls : List (Nat × Nat × Reserved)) : ∃ ps uid esns,
    s.injectReserved ls = { s with reserved := s.reserved ++ ps, uid := uid, esns := esns }
      ∧ ps.map (fun p => (p.chan, p.load, p.granted)) = ls.map fun x => (x.2.1, x.2.2, false) := by
  induction ls generalizing s with
  | nil => exact ⟨[], s.uid, s.esns, by rw [List.append_nil]; rfl, rfl⟩
  | cons x ls ih =>
    obtain ⟨ps, uid, esns, h, hp⟩ := ih { s with
      reserved := s.reserved ++ [⟨s.uid, x.1, x.2.1, s.cycle, (s.nextEsn x.1 x.2.1 1).1, 0, false, x.2.2⟩], uid := s.uid + 1
      esns := (s.nextEsn x.1 x.2.1 1).2.esns }
    refine ⟨⟨s.uid, x.1, x.2.1, s.cycle, (s.nextEsn x.1 x.2.1 1).1, 0, false, x.2.2⟩ :: ps, uid, esns, ?_, ?_⟩
    · rw [List.append_cons]
      exact h
    · rw [List.map_cons, List.map_cons, hp]

theorem mem_packets {ps : List ReservedPacket} {ls : List (Nat × Nat × Reserved)}
    (h : ps.map (fun p => (p.chan, p.load, p.granted)) = ls.map fun x => (x.2.1, x.2.2, false)) :
    (∀ x ∈ ls, ∃ p ∈ ps, p.load = x.2.2 ∧ p.chan = x.2.1) ∧ ∀ p ∈ ps, ∃ x ∈ ls, p.load = x.2.2 := by
  refine ⟨fun x hx => ?_, fun p hp => ?_⟩
  · have hmem : (x.2.1, x.2.2, false) ∈ ps.map fun p => (p.chan, p.load, p.granted) := h ▸ List.mem_map_of_mem hx
    obtain ⟨p, hp, he⟩ := List.mem_map.mp hmem
    simp only [Prod.mk.injEq] at he
    exact ⟨p, hp, he.2.1, he.1⟩
  · have hmem : (p.chan, p.load, p.granted) ∈ ls.map fun x => (x.2.1, x.2.2, false) := h ▸ List.mem_map_of_mem hp
    obtain ⟨x, hx, he⟩ := List.mem_map.mp hmem
    simp only [Prod.mk.injEq] at he
    exact ⟨x, hx, he.2.1.symm⟩

/-! ### Decodes -/

/-- R363: the decode of a tile is done: it is no decode any more, and its lines, or what a write has left of them, set out. -/
def State.decodeSends (s : State) (d : Decode) : List (Nat × Nat × Reserved) :=
  let site := controllerSite ((s.fmtBase d.region + d.tile * tileBytes (s.fmtKind d.region)) / 256)
  if d.stale then d.owed.map fun p => (site, s.sliceAt (256 * p.1.line), .answer p.1 p.2)
  else if s.fmtOn d.region then (s.decodeTile d.region d.tile).map fun l => (site, s.sliceAt (256 * l.line), .delivery l)
  else []

theorem execTileDecodeDone_eq {reg : BitVec 4} {tile : Nat} {d : Decode}
    (hd : s.decodes.find? (fun d => d.region == reg.toNat && d.tile == tile) = some d) :
    exec (.tileDecodeDone reg tile) s = .next (State.injectReserved
      { s with decodes := s.decodes.filter fun e => !(e.region == d.region && e.tile == d.tile) } (s.decodeSends d)) := by
  show execTileDecodeDone reg tile s = _
  simp only [execTileDecodeDone, hd, State.decodeSends]
  cases d.stale
  · cases s.fmtOn d.region <;> rfl
  · rfl

/-- What sets out of a decode joins the packets on their way, and its tile is being decoded no more. -/
theorem execTileDecodeDone_sends {reg : BitVec 4} {tile : Nat} {d : Decode}
    (hd : s.decodes.find? (fun d => d.region == reg.toNat && d.tile == tile) = some d) :
    ∃ t ps, exec (.tileDecodeDone reg tile) s = .next t
      ∧ t = { s with reserved := t.reserved, decodes := t.decodes, uid := t.uid, esns := t.esns } ∧ t.reserved = s.reserved ++ ps
      ∧ ps.map (fun p => (p.chan, p.load, p.granted)) = (s.decodeSends d).map (fun x => (x.2.1, x.2.2, false))
      ∧ t.decodes = s.decodes.filter fun e => !(e.region == d.region && e.tile == d.tile) := by
  obtain ⟨ps, _, _, h, hp⟩ := State.injectReserved_eq
    { s with decodes := s.decodes.filter fun e => !(e.region == d.region && e.tile == d.tile) } (s.decodeSends d)
  exact ⟨_, ps, (execTileDecodeDone_eq hd).trans (congrArg _ h), rfl, rfl, hp, rfl⟩

/-! ### Evictions -/

theorem State.chargeBack_frame (s : State) (line : Nat) :
    ∃ ls ch, s.chargeBack line = { s with launches := ls, charged := ch } := by
  unfold State.chargeBack
  split
  · split
    · exact ⟨_, _, s.charge_frame _ 10 _⟩
    · exact ⟨s.launches, s.charged, rfl⟩
  · exact ⟨s.launches, s.charged, rfl⟩

/-- R136, R362: the line leaves its slice; of one with written bytes a packet sets out to memory. -/
theorem execLineEviction_eq (line : Nat) : ∃ ps uid esns ls ch, exec (.lineEviction line) s = .next { s with
    lines := s.lines.filter (·.line != line), decoded := s.decoded.filter (·.line != line), reserved := s.reserved ++ ps
    uid := uid, esns := esns, launches := ls, charged := ch }
      ∧ if s.lines.any fun l => l.line == line && !l.mask.isEmpty then ∃ p, ps = [p] ∧ p.load = .writeBack line ∧ p.granted = false
        else ps = [] := by
  show ∃ ps uid esns ls ch, execLineEviction line s = _ ∧ _
  unfold execLineEviction
  dsimp only
  split
  · obtain ⟨ls, ch, hback⟩ := s.chargeBack_frame line
    obtain ⟨ps, uid, esns, h, hp⟩ := (s.chargeBack line).injectReserved_eq [(homeSlice (256 * line) / 2, 64 + controllerSite line, .writeBack line)]
    refine ⟨ps, uid, esns, ls, ch, ?_, ?_⟩
    · rw [h, hback]
    · obtain ⟨p, rfl⟩ := List.length_eq_one_iff.mp (by simpa using congrArg List.length hp)
      simp only [List.map_cons, List.map_nil, List.cons.injEq, Prod.mk.injEq, and_true] at hp
      exact ⟨p, rfl, hp.2.1, hp.2.2⟩
  · exact ⟨[], s.uid, s.esns, s.launches, s.charged, by rw [List.append_nil], rfl⟩

end Sys2Proof.Machine
end

section
/-! The statement on the requests at the slices. -/

open Sys2Proof Sys2Proof.Machine

/-- Settles O27: a grant is the least bid, and each event of a slice changes what its instruction says. -/
theorem slicesPerformRequests : Obligations.SlicesPerformRequests := by
  unfold Obligations.SlicesPerformRequests
  refine ⟨⟨fun s which r h => State.grants_spec h, fun s r d k hg hr hkind hk hgood => ?read⟩,
    fun s r p hg hr hp hraw hdg => ?write, fun s r e c d p k hg hr hkind hk hp hraw hgood hdg => ?atomic, fun line s h => execMissFill_none h,
    fun line s hmiss hfill hraw => execMissFill_raw hmiss hfill hraw, fun reg tile s d hd hfresh hon => ?decode,
    fun reg tile s d hd hstale => ?stale, fun line s => ?evict⟩
  case read =>
    obtain ⟨hmem, x, hx⟩ := State.performLoad_good d hk hgood
    exact ⟨_, execSliceReadRequest_local hg hr hkind, hmem, x, hx⟩
  case write =>
    obtain ⟨t, ht, hmem, hview⟩ := execSliceWriteRequest_writes hg hr hp hraw hdg
    have hbyte (l : Nat) : t.byte l = (s.write p.loc p.data).byte l := State.byte_of_mem hmem l
    refine ⟨t, ht, ?_, fun l hl => (hbyte l).trans (s.byte_write_outside p.loc p.data hl), congrArg Prod.fst hview, congrArg Prod.snd hview⟩
    calc t.bytes p.loc p.data.length = (s.write p.loc p.data).bytes (p.loc + 0) p.data.length := State.bytes_congr fun i _ => hbyte _
      _ = p.data := by rw [s.bytes_write_part p.loc p.data (by simp), List.drop_zero, List.take_length]
  case atomic => exact ⟨_, execSliceAtomicRequest_local hg hr hkind, State.performAtom_spec e c d hk hp hraw hgood hdg⟩
  case decode =>
    obtain ⟨t, ps, ht, hframe, hreserved, hps, hdecodes⟩ := execTileDecodeDone_sends hd
    have hsends : ∀ x ∈ s.decodeTile d.region d.tile, ∃ y ∈ s.decodeSends d, y.2.2 = .delivery x ∧ y.2.1 = s.sliceAt (256 * x.line) := by
      simp only [State.decodeSends, hfresh, hon, Bool.false_eq_true, if_false, if_true]
      exact fun x hx => ⟨_, List.mem_map_of_mem hx, rfl, rfl⟩
    refine ⟨t, ht, fun x hx => ?_, fun p hp => hreserved ▸ List.mem_append_left ps hp, hframe, fun x hx => ?_⟩
    · obtain ⟨y, hy, hload, hchan⟩ := hsends x hx
      obtain ⟨p, hp, hpl, hpc⟩ := (mem_packets hps).1 y hy
      exact ⟨p, hreserved ▸ List.mem_append_right _ hp, hpl.trans hload, hpc.trans hchan⟩
    · have hother := (List.mem_filter.mp (hdecodes ▸ hx)).2
      simpa only [Bool.not_eq_true', ← Bool.not_eq_true, Bool.and_eq_true, beq_iff_eq] using hother
  case stale =>
    obtain ⟨t, ps, ht, hframe, hreserved, hps, -⟩ := execTileDecodeDone_sends hd
    have hsends : s.decodeSends d = d.owed.map fun p =>
        (controllerSite ((s.fmtBase d.region + d.tile * tileBytes (s.fmtKind d.region)) / 256), s.sliceAt (256 * p.1.line), .answer p.1 p.2) :=
      if_pos hstale
    obtain ⟨hto, hfrom⟩ := mem_packets (hsends ▸ hps)
    refine ⟨t, ht, hframe, fun x hx => ?_, fun p hp => ?_⟩
    · obtain ⟨p, hp, hpl, hpc⟩ := hto _ (List.mem_map_of_mem hx)
      exact ⟨p, hreserved ▸ List.mem_append_right _ hp, hpl, hpc⟩
    · refine (List.mem_append.mp (hreserved ▸ hp)).imp_right fun hp => ?_
      obtain ⟨y, hy, hload⟩ := hfrom p hp
      obtain ⟨x, hx, rfl⟩ := List.mem_map.mp hy
      exact ⟨x, hx, hload⟩
  case evict =>
    obtain ⟨ps, _, _, _, _, ht, hps⟩ := execLineEviction_eq (s := s) line
    refine ⟨_, ht, rfl, fun hclean => ?_, fun ⟨l, hl, hline, hmask⟩ => ?_, fun l => ?_, fun d => ?_⟩
    · rw [if_neg] at hps
      · rw [hps]
        exact List.append_nil _
      · simp only [List.any_eq_true, Bool.and_eq_true, beq_iff_eq, Bool.not_eq_true', not_exists, not_and, Bool.not_eq_false]
        exact fun l hl hline => List.isEmpty_iff.mpr (hclean l hl hline)
    · rw [if_pos] at hps
      · obtain ⟨p, rfl, hload, hungranted⟩ := hps
        exact ⟨p, rfl, hload, hungranted⟩
      · exact List.any_eq_true.mpr ⟨l, hl, by simp [hline, hmask]⟩
    · simp
    · simp
end

section
/-! SUPPORT. What the lane functions give (R92 to R94, R229 to R231). -/

namespace Sys2Proof.Machine

set_option Elab.async false

variable {sh : BitVec 128}

/-! ### Whole numbers -/

/-- R94: the value of a lane of an integer type. -/
theorem laneVal_eq {v : Nat} (hv : v < 2 ^ 32) :
    laneVal sh v = if shType sh = 9 ∧ 2 ^ 31 ≤ v then (v : Int) - 4294967296 else (v : Int) := by
  by_cases h9 : shType sh = 9
  · simp only [laneVal, intOf, isSigned, h9, beq_self_eq_true, if_true, sext, Nat.mod_eq_of_lt hv, true_and]
    split <;> split <;> omega
  · have hsigned : isSigned sh = false := by simpa [isSigned] using h9
    simp only [laneVal, intOf, hsigned, h9, Bool.false_eq_true, if_false, false_and, zext, Nat.mod_eq_of_lt hv]

/-- R94, R230: a result is wrapped, or under SAT put into the range of its type first. -/
theorem laneInt_eq (t : Int) {lo hi : Int} (hlo : lo = if shType sh = 9 then -2147483648 else 0)
    (hhi : hi = if shType sh = 9 then 2147483647 else 4294967295) : laneInt sh t
      = ⟨((if shSat sh = true then (if t < lo then lo else if hi < t then hi else t) else t) % 4294967296).toNat, 0#7⟩ := by
  have hrange : satInt t (intLo (isSigned sh) 32) (intHi (isSigned sh) 32) = if t < lo then lo else if hi < t then hi else t := by
    by_cases h9 : shType sh = 9
    · have hsigned : isSigned sh = true := by simpa [isSigned] using h9
      simp only [hsigned, satInt, imin, imax, intLo, intHi, hlo, hhi, h9, if_true]
      (repeat' split) <;> omega
    · have hsigned : isSigned sh = false := by simpa [isSigned] using h9
      simp only [hsigned, satInt, imin, imax, intLo, intHi, hlo, hhi, h9, if_false, Bool.false_eq_true]
      (repeat' split) <;> omega
  rw [laneInt, intResult, hrange]
  rfl

theorem imin_eq_min (a b : Int) : imin a b = min a b := by
  unfold imin
  split <;> omega

theorem imax_eq_max (a b : Int) : imax a b = max a b := by
  unfold imax
  split <;> omega

theorem isF32_of_integer (h : shType sh = 9 ∨ shType sh = 10) : isF32 sh = false := by
  rcases h with h | h <;> simp [isF32, h]

/-! ### Special values -/

/-- R92: a pattern that is a NaN. -/
theorem decode_nan {x : Nat} (he : x / 2 ^ 23 % 256 = 255) (hf : x % 2 ^ 23 ≠ 0) : fp32.decode x = .nan := by
  have he' : x / 8388608 % 256 = 255 := he
  have hf' : x % 8388608 ≠ 0 := hf
  simp [Fmt.decode, fp32, he', hf']

theorem fadd_nan (mode : Nat) {a b : FVal} (h : a = .nan ∨ b = .nan) : (fadd mode a b).1 = .nan := by
  rcases h with rfl | rfl
  · rfl
  · cases a <;> rfl

theorem fmul_nan {a b : FVal} (h : a = .nan ∨ b = .nan) : (fmul a b).1 = .nan := by
  rcases h with rfl | rfl
  · rfl
  · cases a <;> rfl

/-- R231: the sign of a pattern turned. -/
theorem negPat_eq {a : Nat} (ha : a < 2 ^ 32) : negPat a = if a < 2 ^ 31 then a + 2 ^ 31 else a - 2 ^ 31 := by
  unfold negPat
  split <;> omega

/-- R93: a result that is a NaN is the canonical one. -/
theorem fpResult_nan {r : FVal × Flags} (h : r.1 = .nan) (w i : Nat) (ins : List Nat) : (fpResult sh w i r ins).bits = 0x7FC00000 := by
  unfold fpResult laneRound
  rw [h]
  rfl

theorem fpResult_invalid {ins : List Nat} (h : fp32.snan ins = 0#7) (w i : Nat) :
    fpResult sh w i (.nan, .invalid) ins = ⟨0x7FC00000, .invalid⟩ := by
  rw [fpResult, h]
  exact (by decide : ((FRes.mk fp32.nan 0#7).also .invalid).also 0#7 = ⟨0x7FC00000, .invalid⟩)

theorem fpResult_divZero {ins : List Nat} (h : fp32.snan ins = 0#7) (w i : Nat) :
    fpResult sh w i (.inf false, .divZero) ins = ⟨0x7F800000, .divZero⟩ := by
  rw [fpResult, h]
  exact (by decide : ((FRes.mk (fp32.inf + fp32.sign false) 0#7).also .divZero).also 0#7 = ⟨0x7F800000, .divZero⟩)

end Sys2Proof.Machine
end

section
/-! The statement on the lane functions. -/

open Sys2Proof Sys2Proof.Machine

/-- Settles O32: the integer functions through the value of a lane and what a result is put into; the floating ones by what is made of
a NaN, and at the given patterns by evaluation. -/
theorem laneFunctions : Obligations.LaneFunctions := by
  unfold Obligations.LaneFunctions
  refine ⟨fun sh w i a b d ha hb hd hty => ?integers, fun sh w i a b ha hb hty => ?floats⟩
  case integers =>
    extract_lets sgn val lo hi lane
    have hval {x : Nat} (hx : x < 2 ^ 32) : laneVal sh x = val x := laneVal_eq hx
    have hlane (t : Int) : laneInt sh t = lane t := laneInt_eq t rfl rfl
    simp only [laneAdd, laneSub, laneMul, laneFma, laneMinMax, laneAbs, laneNeg, isF32_of_integer hty, Bool.false_eq_true, if_false, if_true,
      hval ha, hval hb, hval hd, hlane, imin_eq_min, imax_eq_max, and_self]
  case floats =>
    intro nan
    have hf32 : isF32 sh = true := by simp [isF32, hty]
    have hdecode {x : Nat} (hx : nan x) : fp32.decode x = .nan := decode_nan hx.1 hx.2
    simp only [laneAdd, laneSub, laneMul, laneAbs, laneNeg, hf32, if_true]
    have hzero : fdiv (fp32.decode 0) (fp32.decode 0) = (.nan, .invalid) := by decide
    have hone : fdiv (fp32.decode 0x3F800000) (fp32.decode 0) = (.inf false, .divZero) := by decide
    have hproduct : fmul (fp32.decode 0x7F800000) (fp32.decode 0) = (.nan, .invalid) := by decide
    have hsum : fadd (shRound sh) (fp32.decode 0x7F800000) (fp32.decode 0xFF800000) = (.nan, .invalid) := by
      rw [show fp32.decode 0x7F800000 = .inf false by decide, show fp32.decode 0xFF800000 = .inf true by decide]
      rfl
    rw [hsum, hproduct, hzero, hone]
    refine ⟨fun h => ?_, fpResult_invalid (by decide) .., fpResult_invalid (by decide) .., fpResult_invalid (by decide) ..,
      fpResult_divZero (by decide) .., trivial, fun _ => ?_⟩
    · have hnan : fp32.decode a = .nan ∨ fp32.decode b = .nan := h.imp hdecode hdecode
      have hneg : fp32.decode a = .nan ∨ (fp32.decode b).neg = .nan := hnan.imp_right fun h => by rw [h]; rfl
      exact ⟨fpResult_nan (fadd_nan _ hnan) .., fpResult_nan (fadd_nan _ hneg) .., fpResult_nan (fmul_nan hnan) ..⟩
    · rw [negPat_eq ha]
end

section
/-! SUPPORT. The issue of a V instruction that is ready, the lanes it writes, and its end (R49, R58, R82, R103, R113, R114). -/

namespace Sys2Proof.Machine

set_option Elab.async false

variable {s t : State}

/-! ### What the issue leaves -/

/-- What a V instruction that has issued finds as it stood: storage, the registers it reads and writes, the values from before the
bundle, and which floating-point traps are enabled. -/
structure Issued (s t : State) : Prop where
  mem : t.mem = s.mem
  id : t.core.id = s.core.id
  scalars : t.core.s = s.core.s
  addresses : t.core.x = s.core.x
  guards : t.core.g = s.core.g
  oldMem : t.core.cur.oldMem = s.core.cur.oldMem
  fpen : t.core.crGet 0x00D = s.core.crGet 0x00D

theorem Issued.trans {u : State} (h : Issued s t) (h' : Issued t u) : Issued s u :=
  ⟨h'.mem.trans h.mem, h'.id.trans h.id, h'.scalars.trans h.scalars, h'.addresses.trans h.addresses, h'.guards.trans h.guards,
    h'.oldMem.trans h.oldMem, h'.fpen.trans h.fpen⟩

theorem State.upd_issued {f : CoreState → CoreState} (hid : (f s.core).id = s.core.id) (hs : (f s.core).s = s.core.s)
    (hx : (f s.core).x = s.core.x) (hg : (f s.core).g = s.core.g) (hold : (f s.core).cur.oldMem = s.core.cur.oldMem)
    (hfpen : (f s.core).crGet 0x00D = s.core.crGet 0x00D) : Issued s (s.upd f) :=
  ⟨rfl, hid, hs, hx, hg, hold, hfpen⟩

theorem State.chargeV_eq (s : State) : ∃ ls ch, s.chargeV = { s with launches := ls, charged := ch } :=
  ⟨_, _, s.charge_frame s.core.launchKey 1 1⟩

theorem State.chargeV_issued (s : State) : Issued s s.chargeV := by
  obtain ⟨_, _, h⟩ := s.chargeV_eq
  rw [h]
  exact ⟨rfl, rfl, rfl, rfl, rfl, rfl, rfl⟩

theorem State.swapped_issued (s : State) (sh : BitVec 2) (swap : Bool) : Issued s (s.upd (·.swapped sh swap)) := by
  cases swap <;> exact ⟨rfl, rfl, rfl, rfl, rfl, rfl, rfl⟩

theorem State.popCup_issued (s : State) : Issued s (s.upd (·.popCup)) :=
  ⟨rfl, rfl, rfl, rfl, rfl, rfl, CoreState.crGet_crPut _ _ _ _ |>.trans (if_neg (by decide))⟩

theorem Issued.laneSync (h : Issued s t) (a i : Nat) : t.laneSync a i = s.laneSync a i := by
  simp only [State.laneSync, State.readSync, State.st, h.id, h.oldMem, State.bytesOver, State.bytes, State.byte, h.mem]

theorem Issued.st (h : Issued s t) (a : Nat) : t.st a = s.st a := by rw [State.st, h.id, State.st]

/-! ### The Cup's turn, and waking -/

/-- V0's turn at the Cup noted. -/
def State.cupNoted (s : State) (uses : Bool) : State :=
  s.upd fun c => { c with cur := { c.cur with cup0 := c.cur.cup0 || (uses && c.cur.slot == 2) } }

theorem State.cupTurn_passes {uses : Bool} (k : State → Out) (h : uses = true → ¬(s.core.cur.slot = 3 ∧ s.core.cur.cup0 = true)) :
    s.cupTurn uses k = k (s.cupNoted uses) := by
  refine if_neg ?_
  simp only [Bool.and_eq_true, beq_iff_eq, and_assoc]
  exact fun ⟨huses, hturn⟩ => h huses hturn

theorem State.cupNoted_issued (uses : Bool) : Issued s (s.cupNoted uses) := ⟨rfl, rfl, rfl, rfl, rfl, rfl, rfl⟩

theorem State.wakeHold_awake (h : (s.core.crGet 0x049).getLsbD (s.core.cur.slot - 2) = false) : s.wakeHold = none := by
  simp [State.wakeHold, h]

/-! ### The issue -/

variable {g : BitVec 4} {sh : BitVec 2} {swap always draws : Bool} {types : BitVec 128 → Bool} {reads : List (Option Nat × Bool)}
  {writes : List (Option Nat)}

/-- The lanes a V instruction works on. -/
def CoreState.vecLanes (c : CoreState) (g : BitVec 4) (shape : BitVec 128) (always : Bool) : List Nat :=
  if always then (List.range 32).filter fun i => decide (i < shLanes shape) else c.lanesOn g shape

/-- A V instruction that is ready issues: it goes on with its shape, its lanes and the word drawn. -/
theorem VecReady.issues (h : VecReady s g sh swap always draws types reads writes) : ∃ t, Issued s t ∧ ∀ k,
    s.vecOpen ⟨g, sh, swap, types, reads, writes, draws, always⟩ k = k t (s.core.activeShape sh swap)
      (s.core.vecLanes g (s.core.activeShape sh swap) always) (drawnWord s (s.core.activeShape sh swap) draws) := by
  let drawing := draws && shRound (s.core.activeShape sh swap) == 4
  have hdrawing : drawing = true ↔ draws = true ∧ shRound (s.core.activeShape sh swap) = 4 := by simp [drawing]
  let u := (s.cupNoted drawing).chargeV.upd (·.swapped sh swap)
  have hu : Issued s u := (State.cupNoted_issued _).trans ((State.chargeV_issued _).trans (State.swapped_issued _ _ _))
  refine ⟨if drawing then u.upd (·.popCup) else u, ?_, fun k => ?_⟩
  · split
    · exact hu.trans u.popCup_issued
    · exact hu
  have hturn : drawing = true → ¬(s.core.cur.slot = 3 ∧ s.core.cur.cup0 = true) := fun hd =>
    (h.drawn (hdrawing.mp hd).1 (hdrawing.mp hd).2).2.1
  have hon : ¬(s.core.guard g = 0#32 ∧ always = false) := fun ⟨hoff, ha⟩ => h.on.elim (fun h => by simp [ha] at h) fun h => h hoff
  have hsources : reads.any (·.1.isNone) = false := by
    simpa [List.any_eq_false, Option.isSome_iff_ne_none] using fun r b hr => h.sources (r, b) hr
  have htargets : writes.any (·.isNone) = false := by
    simpa [List.any_eq_false, Option.isSome_iff_ne_none] using h.targets
  have hqueue : (drawing && s.core.cupQ.isEmpty) = false := by
    cases hd : drawing with
    | false => rfl
    | true => simpa using (h.drawn (hdrawing.mp hd).1 (hdrawing.mp hd).2).1
  have hfree : (s.cupNoted drawing).storeWait none ((reads.filterMap fun r => r.1.map fun a => (a, r.2)).map fun r => (r.1, 128))
      ((writes.filterMap id).map fun a => (a, 128)) = false := by
    rw [List.map_filterMap, List.map_filterMap, ← h.free]
    simp only [Option.map_map, id_eq]
    rfl
  have hword : (if drawing then (s.core.cupQ.headD 0#32).toNat else 0) = drawnWord s (s.core.activeShape sh swap) draws :=
    if_congr hdrawing rfl rfl
  unfold State.vecOpen
  dsimp only
  rw [State.cupTurn_passes _ hturn]
  refine (if_neg hon).trans ?_
  have hawake : (s.cupNoted drawing).wakeHold = none := State.wakeHold_awake h.awake
  have hgood : (s.cupNoted drawing).badRead (reads.filterMap fun r => r.1.map fun a => (a, r.2))
      (if always = true then (List.range 32).filter fun i => decide (i < shLanes (s.core.activeShape sh swap))
        else (s.cupNoted drawing).core.lanesOn g (s.core.activeShape sh swap)) = none := h.good
  simp only [hawake, h.clean, h.typed, hsources, htargets, hfree, hgood, Bool.and_self, Bool.not_true, Bool.or_self, Bool.false_eq_true, if_false]
  refine (if_neg (ne_true_of_eq_false hqueue)).trans ?_
  exact congrArg (k (if drawing then u.upd (·.popCup) else u) _ _) hword

/-! ### Lanes written -/

/-- The core whose turn it is notes old bytes in its bundles and its operations. -/
theorem State.note_self (s : State) (seq loc n : Nat) : ∃ bundles ops,
    s.note s.core.id seq loc n = { s with core := { s.core with bundles := bundles, ops := ops } } := ⟨_, _, if_pos rfl⟩

/-- A write of the core to its own register store: the bytes, and notes of what they were. -/
theorem State.writeSync_store (s : State) (a : Nat) (bs : List Byte) : ∃ bundles ops,
    s.writeSync (s.st a) bs = { s.write (s.st a) bs with core := { s.core with bundles := bundles, ops := ops } } := by
  obtain ⟨bundles, ops, hnote⟩ := s.note_self s.core.cur.seq (s.st a) bs.length
  have hout : s.st a < 2 ^ 46 ∨ 2 ^ 47 ≤ s.st a := .inr (by simp only [State.st, Loc.store]; omega)
  refine ⟨bundles, ops, ?_⟩
  rw [State.writeSync, hnote, State.writeLocal, State.noteSpad, if_pos hout]
  rfl

/-- Writes to the register store of the core: bytes at store addresses, one after another, and no register or control register. -/
def StoreWrites (s t : State) (ws : List (Nat × List Byte)) : Prop :=
  t.mem = (s.writeAll (ws.map fun w => (s.st w.1, w.2))).mem
    ∧ ∃ bundles ops, t.core = { s.core with bundles := bundles, ops := ops }

theorem State.writeSync_storeWrites (s : State) (a : Nat) (bs : List Byte) : StoreWrites s (s.writeSync (s.st a) bs) [(a, bs)] := by
  obtain ⟨_, _, h⟩ := s.writeSync_store a bs
  rw [h]
  exact ⟨rfl, _, _, rfl⟩

theorem StoreWrites.trans {u : State} {vs ws : List (Nat × List Byte)} (h : StoreWrites s t vs) (h' : StoreWrites t u ws) :
    StoreWrites s u (vs ++ ws) := by
  obtain ⟨hmem, b, o, hcore⟩ := h
  obtain ⟨hmem', b', o', hcore'⟩ := h'
  refine ⟨?_, b', o', by rw [hcore', hcore]⟩
  have hst (a : Nat) : t.st a = s.st a := by rw [State.st, hcore, State.st]
  rw [hmem', List.map_append, State.writeAll, State.writeAll, List.foldl_append]
  simp only [hst]
  exact State.writeAll_mem_congr hmem _

/-- The pieces that `putLanes` writes. -/
def lanePieces (a : Nat) (vs : List (Nat × Nat)) : List (Nat × List Byte) := vs.map fun p => (a + 4 * p.1, leBytes 4 p.2)

theorem State.putLanes_storeWrites (s : State) (a : Nat) (vs : List (Nat × Nat)) : StoreWrites s (s.putLanes a vs) (lanePieces a vs) := by
  induction vs generalizing s with
  | nil => exact ⟨rfl, _, _, rfl⟩
  | cons v vs ih => exact (s.writeSync_storeWrites (a + 4 * v.1) (leBytes 4 v.2)).trans (ih _)

/-! ### The end -/

theorem raised_disabled (fl : List (Nat × Flags)) : (raised 0#64 fl).2 = 0#7 := by
  unfold raised
  refine List.foldlRecOn (motive := fun a : Word64 × Flags => a.2 = 0#7) fl _ rfl fun a ha p _ => ?_
  simp [Flags.enabled, ha]

/-- R114: without an enabled trap a V instruction just ends. -/
theorem State.fpTrap_disabled (h : s.core.crGet 0x00D = 0#64) (fl : List (Nat × Flags)) : s.fpTrap fl = .next s := by
  unfold State.fpTrap
  rw [h]
  exact if_pos (raised_disabled fl)

/-- R226: flags are gathered in control registers from 0x022 on. -/
theorem CoreState.addFlags_eq (c : CoreState) (u : Nat) (fl : List (Nat × Flags)) :
    ∃ cr, c.addFlags u fl = { c with cr := cr } ∧ (c.addFlags u fl).crGet 0x00D = c.crGet 0x00D := by
  unfold CoreState.addFlags
  refine List.foldlRecOn (motive := fun d : CoreState => ∃ cr, d = { c with cr := cr } ∧ d.crGet 0x00D = c.crGet 0x00D) (List.range 7) _
    ⟨c.cr, rfl, rfl⟩ fun d ⟨cr, hd, hfpen⟩ f _ => ?_
  dsimp only
  split
  · exact ⟨cr, hd, hfpen⟩
  · refine ⟨(d.crPut _ _).cr, by rw [hd]; rfl, ?_⟩
    rw [CoreState.crGet_crPut, if_neg (by omega), hfpen]

/-- What a V instruction has done to its results and the registers it leaves. -/
structure LaneResults (s t : State) (ws : List (Nat × List Byte)) : Prop where
  mem : t.mem = (s.writeAll (ws.map fun w => (s.st w.1, w.2))).mem
  scalars : t.core.s = s.core.s
  addresses : t.core.x = s.core.x
  guards : t.core.g = s.core.g

/-- R113, R114: results in the store, flags gathered, and no trap that is enabled. -/
theorem Issued.ends {u : State} {ws : List (Nat × List Byte)} (h : Issued s t) (hfpen : s.core.crGet 0x00D = 0#64)
    (hw : StoreWrites t u ws) (k : CoreState → Nat) (fl fl' : List (Nat × Flags)) :
    ∃ v, (u.upd fun c => c.addFlags (k c) fl).fpTrap fl' = .next v ∧ LaneResults s v ws := by
  obtain ⟨hmem, b, o, hcore⟩ := hw
  obtain ⟨cr, hflags, hget⟩ := u.core.addFlags_eq (k u.core) fl
  have hzero : (u.upd fun c => c.addFlags (k c) fl).core.crGet 0x00D = 0#64 := by
    rw [← hfpen, ← h.fpen]
    exact hget.trans (by rw [hcore]; rfl)
  have hresult : (u.upd fun c => c.addFlags (k c) fl).core = { u.core with cr := cr } := hflags
  refine ⟨_, State.fpTrap_disabled hzero _, ?_, ?_, ?_, ?_⟩
  · show u.mem = _
    simp only [hmem, h.st]
    exact State.writeAll_mem_congr h.mem _
  · rw [hresult, hcore]
    exact h.scalars
  · rw [hresult, hcore]
    exact h.addresses
  · rw [hresult, hcore]
    exact h.guards

theorem Issued.vecEnds (h : Issued s t) (hfpen : s.core.crGet 0x00D = 0#64) (a : Nat) (res : List (Nat × FRes)) :
    ∃ v, t.vecEnd a res = .next v ∧ LaneResults s v (lanePieces a (res.map fun p => (p.1, p.2.bits))) :=
  h.ends hfpen (t.putLanes_storeWrites a _) (fun c => c.cur.slot - 2) _ _

/-- R245: the two registers of a pair are written, the low one first. -/
theorem Issued.vecPairs (h : Issued s t) (hfpen : s.core.crGet 0x00D = 0#64) (hi lo : Nat) (res : List (Nat × Pair × Flags)) :
    ∃ v, t.vecPair hi lo res = .next v ∧ LaneResults s v
      (lanePieces lo (res.map fun p => (p.1, p.2.1.lo)) ++ lanePieces hi (res.map fun p => (p.1, p.2.1.hi))) := by
  have hw := (t.putLanes_storeWrites lo (res.map fun p => (p.1, p.2.1.lo))).trans
    (State.putLanes_storeWrites _ hi (res.map fun p => (p.1, p.2.1.hi)))
  have hmaps : ((res.map fun p => (p.1, (⟨p.2.1.hi, p.2.2⟩ : FRes))).map fun p => (p.1, p.2.bits)) = res.map fun p => (p.1, p.2.1.hi) := by
    rw [List.map_map]
    rfl
  rw [← hmaps] at hw ⊢
  exact h.ends hfpen hw (fun c => c.cur.slot - 2) _ _

end Sys2Proof.Machine
end

section
/-! SUPPORT. Registers read back: a pair of registers written by lanes, and one that is written whole (R240, R245). -/

namespace Sys2Proof.Machine

set_option Elab.async false

variable {s t : State}

/-! ### Lanes -/

theorem CoreState.vecLanes_eq (c : CoreState) (g : BitVec 4) (shape : BitVec 128) : c.vecLanes g shape false = c.lanesOn g shape := rfl

theorem CoreState.nodup_lanesOn (c : CoreState) (g : BitVec 4) (shape : BitVec 128) : (c.lanesOn g shape).Nodup :=
  List.nodup_range.filter _

theorem CoreState.lt_of_mem_lanesOn {c : CoreState} {g : BitVec 4} {shape : BitVec 128} {i : Nat} (h : i ∈ c.lanesOn g shape) : i < 32 :=
  List.mem_range.mp (List.mem_filter.mp h).1

/-- A lane's piece, and the pieces of other lanes after it. -/
theorem lanePieces_split {lanes : List Nat} (hn : lanes.Nodup) {i : Nat} (hi : i ∈ lanes) (a : Nat) (v : Nat → Nat) :
    ∃ pre post, lanePieces a (lanes.map fun j => (j, v j)) = pre ++ (a + 4 * i, leBytes 4 (v i)) :: post
      ∧ ∀ w ∈ post, ∃ j ∈ lanes, j ≠ i ∧ w = (a + 4 * j, leBytes 4 (v j)) := by
  obtain ⟨before, after, rfl⟩ := List.append_of_mem hi
  refine ⟨lanePieces a (before.map fun j => (j, v j)), lanePieces a (after.map fun j => (j, v j)), by simp [lanePieces], fun w hw => ?_⟩
  simp only [lanePieces, List.map_map, List.mem_map] at hw
  obtain ⟨j, hj, rfl⟩ := hw
  refine ⟨j, by simp [hj], ?_, rfl⟩
  rintro rfl
  have hdisjoint := (List.nodup_append.mp hn).2.1
  exact (List.nodup_cons.mp hdisjoint).1 hj

/-- A number that is written and that no later piece meets. -/
theorem LaneResults.num {ws pre post : List (Nat × List Byte)} {a v : Nat} (h : LaneResults s t ws)
    (hws : ws = pre ++ (a, leBytes 4 v) :: post) (hpost : ∀ w ∈ post, a + 4 ≤ w.1 ∨ w.1 + w.2.length ≤ a) :
    t.num (s.st a) 4 = v % 2 ^ 32 := by
  have hread : (s.writeAll (ws.map fun w => (s.st w.1, w.2))).bytes (s.st a + 0) 4 = ((leBytes 4 v).drop 0).take 4 := by
    rw [hws, List.map_append, List.map_cons]
    refine s.bytes_writeAll (fun w hw => ?_) (by simp)
    obtain ⟨x, hx, rfl⟩ := List.mem_map.mp hw
    have := hpost x hx
    simp only [Apart, State.st, Loc.store, length_leBytes]
    omega
  have hnum : t.num (s.st a) 4 = leNat (leBytes 4 v) := by
    rw [State.num_of_mem h.mem, State.num, ← Nat.add_zero (s.st a), hread, List.drop_zero, List.take_of_length_le (by simp)]
  rw [hnum, leNat_leBytes]
  rfl

/-- R245: each lane of a pair of registers that lie apart. -/
theorem LaneResults.pair {lanes : List Nat} {lo hi : Nat} {v w : Nat → Nat}
    (h : LaneResults s t (lanePieces lo (lanes.map fun j => (j, w j)) ++ lanePieces hi (lanes.map fun j => (j, v j))))
    (hn : lanes.Nodup) (hlt : ∀ i ∈ lanes, i < 32) (hapart : hi + 128 ≤ lo ∨ lo + 128 ≤ hi) {i : Nat} (hi' : i ∈ lanes) :
    t.num (s.st (hi + 4 * i)) 4 = v i % 2 ^ 32 ∧ t.num (s.st (lo + 4 * i)) 4 = w i % 2 ^ 32 := by
  have hi32 := hlt i hi'
  constructor
  · obtain ⟨pre, post, hsplit, hpost⟩ := lanePieces_split hn hi' hi v
    refine h.num (pre := lanePieces lo (lanes.map fun j => (j, w j)) ++ pre) (by rw [hsplit, List.append_assoc]) fun x hx => ?_
    obtain ⟨j, -, hj, rfl⟩ := hpost x hx
    simp only [length_leBytes]
    omega
  · obtain ⟨pre, post, hsplit, hpost⟩ := lanePieces_split hn hi' lo w
    refine h.num (pre := pre) (post := post ++ lanePieces hi (lanes.map fun j => (j, v j)))
      (by rw [hsplit, List.append_assoc, List.cons_append]) fun x hx => ?_
    rcases List.mem_append.mp hx with hx | hx
    · obtain ⟨j, -, hj, rfl⟩ := hpost x hx
      simp only [length_leBytes]
      omega
    · simp only [lanePieces, List.map_map, List.mem_map] at hx
      obtain ⟨j, hj, rfl⟩ := hx
      have := hlt j hj
      simp only [Function.comp_apply, length_leBytes]
      omega

/-- The lanes of one register. -/
theorem LaneResults.lanesOnly {lanes : List Nat} {d : Nat} {v : Nat → Nat} (h : LaneResults s t (lanePieces d (lanes.map fun j => (j, v j))))
    (hn : lanes.Nodup) : LanesOnly s t d lanes v := by
  refine ⟨fun i hi => ?_, fun l hl => ?_⟩
  · obtain ⟨pre, post, hsplit, hpost⟩ := lanePieces_split hn hi d v
    refine h.num hsplit fun x hx => ?_
    obtain ⟨j, -, hj, rfl⟩ := hpost x hx
    simp only [length_leBytes]
    omega
  · refine (State.byte_of_mem h.mem l).trans (s.byte_writeAll_outside fun w hw => ?_)
    simp only [lanePieces, List.map_map, List.mem_map] at hw
    obtain ⟨j, hj, rfl⟩ := hw
    simpa only [Function.comp_apply, length_leBytes] using hl j hj

/-! ### VPACK's register -/

/-- R240: 32 elements and 32 more, of n bytes, and zeros up to 128 bytes. -/
def packBytes (n : Nat) (f g : Nat → Nat) : List Byte :=
  (List.range 32).flatMap (fun i => leBytes n (f i)) ++ ((List.range 32).flatMap (fun i => leBytes n (g i)) ++ List.replicate (128 - 64 * n) 0#8)

variable {n : Nat} (f g : Nat → Nat)

theorem length_packBytes (hn : n ≤ 2) : (packBytes n f g).length = 128 := by
  have hf := length_flatMap_range 32 n fun i => length_leBytes n (f i)
  have hg := length_flatMap_range 32 n fun i => length_leBytes n (g i)
  simp only [packBytes, List.length_append, hf, hg, List.length_replicate]
  omega

theorem packBytes_low {i : Nat} (hi : i < 32) : ((packBytes n f g).drop (n * i)).take n = leBytes n (f i) := by
  have hf := length_flatMap_range 32 n fun i => length_leBytes n (f i)
  have hle : n * i + n ≤ 32 * n := by nlinarith
  rw [packBytes, List.drop_append_of_le_length (by omega), List.take_append_of_le_length (by rw [List.length_drop]; omega)]
  exact take_drop_flatMap_range (fun i => length_leBytes n (f i)) hi

theorem packBytes_high {i : Nat} (hi : i < 32) : ((packBytes n f g).drop (n * (32 + i))).take n = leBytes n (g i) := by
  have hf := length_flatMap_range 32 n fun i => length_leBytes n (f i)
  have hg := length_flatMap_range 32 n fun i => length_leBytes n (g i)
  have hle : n * i + n ≤ 32 * n := by nlinarith
  have hskip : n * (32 + i) = ((List.range 32).flatMap fun i => leBytes n (f i)).length + n * i := by rw [hf]; ring
  rw [packBytes, hskip, List.drop_length_add_append, List.drop_append_of_le_length (by omega),
    List.take_append_of_le_length (by rw [List.length_drop]; omega)]
  exact take_drop_flatMap_range (fun i => length_leBytes n (g i)) hi

theorem packBytes_rest {k : Nat} (hk : 64 * n ≤ k) (h128 : k < 128) : (packBytes n f g)[k]? = some 0#8 := by
  have hf := length_flatMap_range 32 n fun i => length_leBytes n (f i)
  have hg := length_flatMap_range 32 n fun i => length_leBytes n (g i)
  rw [packBytes, List.getElem?_append_right (by omega), List.getElem?_append_right (by omega), List.getElem?_replicate, if_pos (by omega)]

/-- R240: the elements of a register that VPACK has written, its zeros, and the rest of storage. -/
theorem LaneResults.packed {d : Nat} (h : LaneResults s t [(d, packBytes n f g)]) (hn : n ≤ 2) :
    (∀ i < 32, t.num (s.st d + n * i) n = f i % 2 ^ (8 * n) ∧ t.num (s.st d + n * (32 + i)) n = g i % 2 ^ (8 * n))
      ∧ (∀ k, 64 * n ≤ k → k < 128 → t.byte (s.st d + k) = 0#8) ∧ ∀ l, l < s.st d ∨ s.st d + 128 ≤ l → t.byte l = s.byte l := by
  have hlen := length_packBytes f g hn
  have hmem : t.mem = (s.write (s.st d) (packBytes n f g)).mem := h.mem
  have hpow : 2 ^ (8 * n) = 256 ^ n := pow_mul 2 8 n
  have hread {o v : Nat} (ho : o + n ≤ 128) (hv : ((packBytes n f g).drop o).take n = leBytes n v) : t.num (s.st d + o) n = v % 2 ^ (8 * n) := by
    rw [State.num_of_mem hmem, State.num, s.bytes_write_part _ _ (by rw [hlen]; exact ho), hv, leNat_leBytes, hpow]
  refine ⟨fun i hi => ⟨hread (by nlinarith) (packBytes_low f g hi), hread (by nlinarith) (packBytes_high f g hi)⟩, fun k hk h128 => ?_, fun l hl => ?_⟩
  · rw [State.byte_of_mem hmem, State.byte_write, if_pos (by omega), Nat.add_sub_cancel_left, List.getD_eq_getElem?_getD,
      packBytes_rest f g hk h128, Option.getD_some]
  · exact (State.byte_of_mem hmem l).trans (s.byte_write_outside _ _ (by rw [hlen]; exact hl))

end Sys2Proof.Machine
end

section
/-! SUPPORT. VPACK, the compensated pairs and the Cup as they run (R101, R103, R240, R245, R252, R253). -/

namespace Sys2Proof.Machine

set_option Elab.async false

variable {s : State}

/-! ### VPACK -/

theorem narrow_bytes {ty : Nat} (h : narrowTypes.contains ty = true) : tyBits ty / 8 ≤ 2 := by
  have hty : ∀ ty ∈ narrowTypes, tyBits ty / 8 ≤ 2 := by decide
  exact hty ty (by simpa using h)

/-- R240: an element of VPACK: a lane that takes part converted, else zero. -/
def packed (s : State) (shape : BitVec 128) (lanes : List Nat) (src j i : Nat) : FRes :=
  if i ∈ lanes then convert (shType shape) (shOtype shape) (shRound shape) (laneBits (drawnWord s shape true) i j) (shSat shape) (s.laneSync src i)
  else ⟨0, 0#7⟩

/-- R240: without a lane that takes part VPACK changes no register and no storage. -/
theorem execVpack_none {o : OpVA} (hlanes : s.core.lanesOn o.g (s.core.activeShape o.sh o.swap) = [])
    (hturn : shRound (s.core.activeShape o.sh o.swap) = 4 → ¬(s.core.cur.slot = 3 ∧ s.core.cur.cup0 = true)) :
    ∃ uses, exec (.vpack o) s = .next (s.cupNoted uses).chargeV := by
  refine ⟨shRound (s.core.activeShape o.sh o.swap) == 4, ?_⟩
  show execVpack o s = _
  unfold execVpack
  dsimp only
  rw [hlanes, if_pos List.isEmpty_nil]
  exact State.cupTurn_passes _ fun h => hturn (beq_iff_eq.mp h)

theorem flatMap_pack (n : Nat) (f g : Nat → FRes) (zs : List Byte) :
    (((List.range 32).map f ++ (List.range 32).map g).flatMap fun r => leBytes n r.bits) ++ zs
      = (List.range 32).flatMap (fun i => leBytes n (f i).bits) ++ ((List.range 32).flatMap (fun i => leBytes n (g i).bits) ++ zs) := by
  rw [List.flatMap_append, List.flatMap_map, List.flatMap_map, List.append_assoc]

theorem execVpack_packs {o : OpVA} {lanes : List Nat} (hlanes : s.core.lanesOn o.g (s.core.activeShape o.sh o.swap) = lanes) (hne : lanes ≠ [])
    (h : VecReady s o.g o.sh o.swap false true (fun sh => cvtTypes.contains (shType sh) && narrowTypes.contains (shOtype sh))
      [(s.core.vAddr o.a, false), (s.core.vAddr o.b, false)] [s.core.vAddr o.d]) :
    ∃ t, exec (.vpack o) s = .next t ∧ LaneResults s t [((s.core.vAddr o.d).getD 0, packBytes (tyBits (shOtype (s.core.activeShape o.sh o.swap)) / 8)
      (fun i => (packed s (s.core.activeShape o.sh o.swap) lanes ((s.core.vAddr o.a).getD 0) 0 i).bits)
      (fun i => (packed s (s.core.activeShape o.sh o.swap) lanes ((s.core.vAddr o.b).getD 0) 1 i).bits))] := by
  obtain ⟨t, ht, hopen⟩ := h.issues
  show ∃ u, execVpack o s = .next u ∧ _
  unfold execVpack
  dsimp only
  rw [hopen, CoreState.vecLanes_eq, hlanes, if_neg (by simpa using hne)]
  simp only [ht.laneSync, List.contains_eq_mem, decide_eq_true_eq]
  have hw := t.writeSync_storeWrites ((s.core.vAddr o.d).getD 0) (packBytes (tyBits (shOtype (s.core.activeShape o.sh o.swap)) / 8)
      (fun i => (packed s (s.core.activeShape o.sh o.swap) lanes ((s.core.vAddr o.a).getD 0) 0 i).bits)
      (fun i => (packed s (s.core.activeShape o.sh o.swap) lanes ((s.core.vAddr o.b).getD 0) 1 i).bits))
  rw [packBytes, ← flatMap_pack] at hw ⊢
  exact ht.ends h.quiet hw (fun c => c.cur.slot - 2) _ _

/-! ### Compensated pairs -/

theorem execVcadd_pairs {o : OpVA} {d p : Nat} (hd : s.core.vAddr o.d = some d) (hp : s.core.partnerAddr o.d = some p)
    (h : VecReady s o.g o.sh o.swap false false (typeIn [0]) [(s.core.vAddr o.a, false), (s.core.vAddr o.b, false)] [some d, some p]) :
    ∃ t, exec (.vcadd o) s = .next t ∧ LaneResults s t
      (lanePieces p ((s.core.lanesOn o.g (s.core.activeShape o.sh o.swap)).map fun i =>
          (i, (twoSum (s.laneSync ((s.core.vAddr o.a).getD 0) i) (s.laneSync ((s.core.vAddr o.b).getD 0) i)).2))
        ++ lanePieces d ((s.core.lanesOn o.g (s.core.activeShape o.sh o.swap)).map fun i =>
          (i, (twoSum (s.laneSync ((s.core.vAddr o.a).getD 0) i) (s.laneSync ((s.core.vAddr o.b).getD 0) i)).1.bits))) := by
  obtain ⟨t, ht, hopen⟩ := h.issues
  show ∃ u, execVcadd o s = .next u ∧ _
  unfold execVcadd
  dsimp only
  rw [hd, hp, hopen, CoreState.vecLanes_eq]
  simp only [ht.laneSync, Option.getD_some]
  have hpairs := ht.vecPairs h.quiet d p ((s.core.lanesOn o.g (s.core.activeShape o.sh o.swap)).map fun i =>
    let r := twoSum (s.laneSync ((s.core.vAddr o.a).getD 0) i) (s.laneSync ((s.core.vAddr o.b).getD 0) i)
    (i, ⟨r.1.bits, r.2⟩, r.1.flags.ofSum))
  simpa only [List.map_map, Function.comp_def] using hpairs

theorem execVcacc_pairs {o : OpVU} {d p : Nat} (hd : s.core.vAddr o.d = some d) (hp : s.core.partnerAddr o.d = some p)
    (h : VecReady s o.g o.sh o.swap false false (typeIn [0]) [(s.core.vAddr o.a, false), (some d, false), (some p, false)] [some d, some p]) :
    ∃ t, exec (.vcacc o) s = .next t ∧ LaneResults s t
      (lanePieces p ((s.core.lanesOn o.g (s.core.activeShape o.sh o.swap)).map fun i =>
          (i, (cacc ⟨s.laneSync d i, s.laneSync p i⟩ (s.laneSync ((s.core.vAddr o.a).getD 0) i)).1.lo))
        ++ lanePieces d ((s.core.lanesOn o.g (s.core.activeShape o.sh o.swap)).map fun i =>
          (i, (cacc ⟨s.laneSync d i, s.laneSync p i⟩ (s.laneSync ((s.core.vAddr o.a).getD 0) i)).1.hi))) := by
  obtain ⟨t, ht, hopen⟩ := h.issues
  show ∃ u, execVcacc o s = .next u ∧ _
  unfold execVcacc
  dsimp only
  rw [hd, hp, hopen, CoreState.vecLanes_eq]
  simp only [ht.laneSync, Option.getD_some]
  have hpairs := ht.vecPairs h.quiet d p ((s.core.lanesOn o.g (s.core.activeShape o.sh o.swap)).map fun i =>
    let r := cacc ⟨s.laneSync d i, s.laneSync p i⟩ (s.laneSync ((s.core.vAddr o.a).getD 0) i)
    (i, r.1, r.2))
  simpa only [List.map_map, Function.comp_def] using hpairs

/-! ### The Cup -/

/-- R252: CUPSEED in V0, on and awake. -/
theorem execCupseed_seeds {o : OpS1} (hon : s.core.on o.g = true) (hslot : s.core.cur.slot = 2)
    (hawake : (s.core.crGet 0x049).getLsbD 0 = false) :
    ∃ t, exec (.cupseed o) s = .next t ∧ t.core.gen = Cup.seed (s.core.sVal o.p) s.core.gang.k ∧ t.core.drawn = t.core.gen
      ∧ t.core.cupQ = [] ∧ t.core.crGet 0x031 = 0#64 ∧ t.core.s = s.core.s ∧ t.mem = s.mem := by
  have hturn : true = true → ¬(s.core.cur.slot = 3 ∧ s.core.cur.cup0 = true) := fun _ h => by omega
  have hwakes : (s.cupNoted true).wakeHold = none := State.wakeHold_awake (by
    show (s.core.crGet 0x049).getLsbD (s.core.cur.slot - 2) = false
    rw [hslot]
    exact hawake)
  have hon' : (s.cupNoted true).core.on o.g = true := hon
  obtain ⟨_, _, hcharge⟩ := (s.cupNoted true).chargeV_eq
  show ∃ t, execCupseed o s = .next t ∧ _
  unfold execCupseed
  rw [State.cupTurn_passes _ hturn]
  simp only [hon', hwakes, hcharge, Bool.not_true, Bool.false_eq_true, if_false]
  have hzero : (s.core.crPut 0x031 0#64).crGet 0x031 = 0#64 := (CoreState.crGet_crPut ..).trans (if_pos rfl)
  exact ⟨_, rfl, rfl, rfl, rfl, hzero, rfl, rfl⟩

/-- R253: what CUPSTAT shows in a lane. -/
def CoreState.cupLane (c : CoreState) (i : Nat) : Nat :=
  if i = 0 then c.drawn.a.toNat else if i = 1 then c.drawn.b.toNat else if i = 2 then c.drawn.c.toNat
  else if i = 3 then c.drawn.d.toNat else if i = 4 then (c.crGet 0x031).toNat % 2 ^ 32 else 0

theorem execCupstat_shows {o : OpCupstat} {d : Nat} (hg : s.core.guard o.g ≠ 0#32)
    (hawake : (s.core.crGet 0x049).getLsbD (s.core.cur.slot - 2) = false) (hd : s.core.vAddr o.d = some d)
    (hfree : s.storeWait none [] [(d, 128)] = false) :
    exec (.cupstat o) s = .next (s.chargeV.putLanes d
      (((List.range 32).filter fun i => (s.core.guard o.g).getLsbD i).map fun i => (i, s.core.cupLane i))) := by
  have hlane : (fun i => (i, match i with
      | 0 => s.core.drawn.a.toNat | 1 => s.core.drawn.b.toNat | 2 => s.core.drawn.c.toNat | 3 => s.core.drawn.d.toNat
      | 4 => (s.core.crGet 0x031).toNat % 2 ^ 32
      | _ => 0)) = fun i : Nat => (i, s.core.cupLane i) := by
    funext i
    unfold CoreState.cupLane
    split <;> simp_all
  show execCupstat o s = _
  unfold execCupstat
  simp only [hg, State.wakeHold_awake hawake, hd, hfree, Bool.false_eq_true, if_false]
  exact congrArg (fun f => Host.Outcome.next (s.chargeV.putLanes d (((List.range 32).filter fun i => (s.core.guard o.g).getLsbD i).map f))) hlane

/-- R253: no register and no control register changes but the one that is written. -/
theorem State.putLanes_charged (s : State) (d : Nat) (vs : List (Nat × Nat)) :
    LaneResults s (s.chargeV.putLanes d vs) (lanePieces d vs) ∧ (s.chargeV.putLanes d vs).core.cr = s.core.cr := by
  have hcharge := s.chargeV_issued
  obtain ⟨hmem, bundles, ops, hcore⟩ := s.chargeV.putLanes_storeWrites d vs
  obtain ⟨_, _, hcharged⟩ := s.chargeV_eq
  have hcore' : (s.chargeV.putLanes d vs).core = { s.core with bundles := bundles, ops := ops } := by
    rw [hcore, hcharged]
  simp only [hcharge.st] at hmem
  refine ⟨⟨hmem.trans (State.writeAll_mem_congr hcharge.mem _), ?_, ?_, ?_⟩, ?_⟩ <;> rw [hcore']

end Sys2Proof.Machine
end

section
/-! The statement on VPACK, the compensated pairs and the Cup. -/

open Sys2Proof Sys2Proof.Machine

/-- Settles O34: VPACK writes its register whole; a pair is written by lanes, the low register first; the Cup's instructions and its
generator change the Cup and what shows it. -/
theorem pairsPackAndCup : Obligations.PairsPackAndCup := by
  unfold Obligations.PairsPackAndCup
  refine ⟨?pack, ?add, ?acc, fun o s hon hslot hawake => execCupseed_seeds hon hslot hawake, ?stat, fun s => ⟨fun hroom => ?room, fun hfull => ?full⟩⟩
  case pack =>
    intro o s c shape lanes n one h
    by_cases hne : lanes = []
    · obtain ⟨uses, hexec⟩ := execVpack_none hne fun hr => (h.drawn rfl hr).2.1
      obtain ⟨_, _, hcharge⟩ := (s.cupNoted uses).chargeV_eq
      rw [hcharge] at hexec
      exact ⟨_, hexec, rfl, rfl, rfl, fun _ => ⟨rfl, rfl, rfl⟩, fun hsome => absurd hne hsome⟩
    · obtain ⟨t, hexec, hres⟩ := execVpack_packs rfl hne h
      have hn : n ≤ 2 := narrow_bytes (Bool.and_eq_true_iff.mp h.typed).2
      obtain ⟨helems, hzeros, hrest⟩ := LaneResults.packed _ _ hres hn
      exact ⟨t, hexec, hres.scalars, hres.addresses, hres.guards, fun hnone => absurd hnone hne, fun _ => ⟨helems, hzeros, hrest⟩⟩
  case add =>
    intro o s d p c lanes hd hp hapart h
    obtain ⟨t, hexec, hres⟩ := execVcadd_pairs hd hp h
    exact ⟨t, hexec, hres.scalars, hres.addresses, hres.guards, fun i hi =>
      hres.pair (CoreState.nodup_lanesOn ..) (fun _ => CoreState.lt_of_mem_lanesOn) hapart hi⟩
  case acc =>
    intro o s d p c lanes hd hp hapart h
    obtain ⟨t, hexec, hres⟩ := execVcacc_pairs hd hp h
    exact ⟨t, hexec, hres.scalars, hres.addresses, hres.guards, fun i hi =>
      hres.pair (CoreState.nodup_lanesOn ..) (fun _ => CoreState.lt_of_mem_lanesOn) hapart hi⟩
  case stat =>
    intro o s d hg hawake hd hfree
    obtain ⟨hres, hcr⟩ := s.putLanes_charged d (((List.range 32).filter fun i => (s.core.guard o.g).getLsbD i).map fun i => (i, s.core.cupLane i))
    obtain ⟨hlanes, hrest⟩ := hres.lanesOnly (List.nodup_range.filter _)
    refine ⟨_, execCupstat_shows hg hawake hd hfree, hres.scalars, hcr, fun i hi => (hlanes i hi).trans ?_, hrest⟩
    by_cases h4 : i = 4
    · subst h4
      simp [CoreState.cupLane]
    · simp only [CoreState.cupLane, h4, if_false]
  case room => exact ⟨_, if_neg (by omega), rfl, rfl, rfl⟩
  case full => exact if_pos hfull
end
